-- ==== Sys2Proof/Word.lean ====
section
/-! DEFINITION. The word types of the device and their plainest arithmetic: 64-bit register and
memory words, bytes, 256-bit queue entries, 512-bit vectors, and sparse tables keyed by a number.
All data is little-endian (R8) and bits are numbered from 0 (R9). -/

namespace Sys2Proof

/-- A 64-bit word: a scalar register, a control register (R10), a scratchpad word. -/
abbrev Word := BitVec 64

/-- One byte of memory. -/
abbrev Byte := BitVec 8

/-- A queue entry: one furrow flit of 256 bits (R27). -/
abbrev Entry := BitVec 256

/-- A vector register: 16 lanes of 32 bits, lane k in bits [32k+31:32k] (R21). -/
abbrev Vec := BitVec 512

/-- A sparse table: pairs of a key and a value, in one canonical form (keys strictly rising, no
value equal to what an unlisted key reads as). Machine/Table.lean gives its operations. -/
abbrev FMap (α : Type) := List (Nat × α)

/-- Bits [hi:lo] of a word, as a number (R9). -/
def bits {n : Nat} (w : BitVec n) (hi lo : Nat) : Nat := (w.toNat >>> lo) % 2 ^ (hi - lo + 1)

/-- Bit k of a word. -/
def bit {n : Nat} (w : BitVec n) (k : Nat) : Bool := w.getLsbD k

/-- The word with bits [hi:lo] replaced by the low bits of a number. -/
def setBits {n : Nat} (w : BitVec n) (hi lo v : Nat) : BitVec n :=
  let m := (2 ^ (hi - lo + 1) - 1) <<< lo
  (w &&& ~~~(BitVec.ofNat n m)) ||| BitVec.ofNat n ((v % 2 ^ (hi - lo + 1)) <<< lo)

/-- The word with bit k set or cleared. -/
def setBit {n : Nat} (w : BitVec n) (k : Nat) (b : Bool) : BitVec n := setBits w k k b.toNat

/-- Addition that saturates at a largest value. -/
def satAdd (top a b : Nat) : Nat := min top (a + b)

end Sys2Proof
end

