-- ==== Sys2Proof/Machine/Table.lean ====
section
/-! DEFINITION. The operations of sparse tables: one reading and one writing operation, shared by
registers, memories and every numbered collection of the state, and the canonical form they keep. -/

namespace Sys2Proof.Machine

/-- What key `k` holds: its listed value, or what an unlisted key reads as. -/
def fget {α : Type} (d : Nat → α) : FMap α → Nat → α
  | [], k => d k
  | (j, v) :: m, k => if j = k then v else fget d m k

/-- Insert a key that the table does not list, keeping the keys rising. -/
def finsert {α : Type} (k : Nat) (v : α) : FMap α → FMap α
  | [] => [(k, v)]
  | (j, w) :: m => if k < j then (k, v) :: (j, w) :: m else (j, w) :: finsert k v m

/-- Drop key `k` from the table. -/
def ferase {α : Type} (k : Nat) : FMap α → FMap α
  | [] => []
  | (j, w) :: m => if j = k then ferase k m else (j, w) :: ferase k m

/-- Write key `k`. Writing what an unlisted key reads as removes the entry. -/
def fset {α : Type} [DecidableEq α] (d : Nat → α) (m : FMap α) (k : Nat) (v : α) : FMap α :=
  if v = d k then ferase k m else finsert k v (ferase k m)

/-- Change what key `k` holds by a function. -/
def fupd {α : Type} [DecidableEq α] (d : Nat → α) (m : FMap α) (k : Nat) (f : α → α) : FMap α :=
  fset d m k (f (fget d m k))

/-- The canonical form: keys strictly rising, no value an unlisted key would read as. -/
def fwf {α : Type} [DecidableEq α] (d : Nat → α) : FMap α → Bool
  | [] => true
  | (j, v) :: m => decide (v ≠ d j) && m.all (fun e => decide (j < e.1)) && fwf d m

/-- An unlisted byte of memory reads as zero (the state after reset of every memory whose reset
contents the spec does not give; the assumption log names it). -/
def zeroByte (_ : Nat) : Byte := 0#8

/-- An unlisted word reads as zero. -/
def zeroWord (_ : Nat) : Word := 0#64

/-- Read one byte of a byte memory.
(DESIGN CHOICE: assumption 4) -/
def rdByte (m : FMap Byte) (a : Nat) : Byte := fget zeroByte m a

/-- Write one byte of a byte memory.
(DESIGN CHOICE: assumption 4) -/
def wrByte (m : FMap Byte) (a : Nat) (b : Byte) : FMap Byte := fset zeroByte m a b

/-- Read `n` bytes from address `a` upward, as a little-endian number (R8). -/
def rdLE (m : FMap Byte) (a : Nat) : Nat → Nat
  | 0 => 0
  | n + 1 => (rdByte m a).toNat + 256 * rdLE m (a + 1) n

/-- Write the `n` low bytes of a number from address `a` upward, little-endian (R8). -/
def wrLE (m : FMap Byte) (a v : Nat) : Nat → FMap Byte
  | 0 => m
  | n + 1 => wrLE (wrByte m a (BitVec.ofNat 8 v)) (a + 1) (v / 256) n

/-- The bytes of a list, as a little-endian number. -/
def bytesToNat : List Byte → Nat
  | [] => 0
  | b :: l => b.toNat + 256 * bytesToNat l

/-- The `n` low bytes of a number, least significant first. -/
def natToBytes (v : Nat) : Nat → List Byte
  | 0 => []
  | n + 1 => BitVec.ofNat 8 v :: natToBytes (v / 256) n

/-- Write a list of bytes from address `a` upward. -/
def wrBytes (m : FMap Byte) (a : Nat) : List Byte → FMap Byte
  | [] => m
  | b :: l => wrBytes (wrByte m a b) (a + 1) l

/-- Read `n` bytes from address `a` upward, as a list. -/
def rdBytes (m : FMap Byte) (a : Nat) : Nat → List Byte
  | 0 => []
  | n + 1 => rdByte m a :: rdBytes m (a + 1) n

/-- Replace element `k` of a list. -/
def lset {α : Type} (l : List α) (k : Nat) (v : α) : List α := l.set k v

end Sys2Proof.Machine
end

