-- ==== Sys2Proof/Machine/Float.lean ====
section
/-! DEFINITION. Number formats and their arithmetic: decoding (R91, R92), one-rounding encoding
(R49, R93), binary32 operations (R49), the correctly rounded powers of two and reciprocals (R50),
exact products and chunk sums (R95 to R98) and the promotion into a pair (R99). -/

namespace Sys2Proof.Machine

/-- A decoded number: NaN, an infinity, or the finite value (-1)^neg * m * 2^e. -/
inductive FVal where
  | nan
  | inf (neg : Bool)
  | fin (neg : Bool) (m : Nat) (e : Int)
  deriving DecidableEq, Repr

/-- What a format has beyond finite values, and what an overflow gives (R91, R93). -/
inductive FmtKind where
  /-- infinities and NaNs as IEEE 754, overflow to infinity (FP32, FP16, BF16) -/
  | ieee
  /-- infinities and NaNs, overflow saturates (E5M2) -/
  | satInf
  /-- no infinity, one NaN code S.1111.111, overflow saturates (E4M3) -/
  | satNan
  /-- neither infinity nor NaN, overflow saturates (E2M3, E3M2, E2M1) -/
  | satOnly
  deriving DecidableEq, Repr

/-- A floating format (R91). -/
structure Fmt where
  ebits : Nat
  fbits : Nat
  bias : Nat
  kind : FmtKind
  deriving DecidableEq, Repr

def fp32 : Fmt := ⟨8, 23, 127, .ieee⟩
def fp16 : Fmt := ⟨5, 10, 15, .ieee⟩
def bf16 : Fmt := ⟨8, 7, 127, .ieee⟩
def e4m3 : Fmt := ⟨4, 3, 7, .satNan⟩
def e5m2 : Fmt := ⟨5, 2, 15, .satInf⟩
def e2m3 : Fmt := ⟨2, 3, 1, .satOnly⟩
def e3m2 : Fmt := ⟨3, 2, 3, .satOnly⟩
def e2m1 : Fmt := ⟨2, 1, 1, .satOnly⟩

/-- Width of an element in bits (R87). -/
def Fmt.width (f : Fmt) : Nat := 1 + f.ebits + f.fbits

/-- Code of the largest finite magnitude (R91). -/
def fmtMaxCode (f : Fmt) : Nat :=
  match f.kind with
  | .ieee | .satInf => (2 ^ f.ebits - 1) * 2 ^ f.fbits - 1
  | .satNan => 2 ^ (f.ebits + f.fbits) - 2
  | .satOnly => 2 ^ (f.ebits + f.fbits) - 1

/-- Decode an element of a format, exactly (R91). -/
def fdecode (f : Fmt) (w : Nat) : FVal :=
  let frac := w % 2 ^ f.fbits
  let ex := (w / 2 ^ f.fbits) % 2 ^ f.ebits
  let neg := (w / 2 ^ (f.ebits + f.fbits)) % 2 = 1
  let ones := 2 ^ f.ebits - 1
  let value : FVal :=
    if ex = 0 then .fin neg frac (1 - (f.bias : Int) - f.fbits)
    else .fin neg (2 ^ f.fbits + frac) ((ex : Int) - f.bias - f.fbits)
  match f.kind with
  | .ieee | .satInf => if ex = ones then (if frac = 0 then .inf neg else .nan) else value
  | .satNan => if ex = ones ∧ frac = 2 ^ f.fbits - 1 then .nan else value
  | .satOnly => value

/-- Round m * 2^(-s) to an integer, to nearest with ties to even. -/
def rneShift (m s : Nat) : Nat :=
  let t := m >>> s
  let r := m % 2 ^ s
  if s = 0 then m
  else if 2 * r > 2 ^ s ∨ (2 * r = 2 ^ s ∧ t % 2 = 1) then t + 1 else t

/-- The magnitude code of m * 2^e rounded once to a format, to nearest with ties to even, with
subnormals kept and the exponent unbounded above (R49, R93). -/
def roundCode (f : Fmt) (m : Nat) (e : Int) : Nat :=
  if m = 0 then 0
  else
    let top : Int := (Nat.log2 m : Int) + e
    let emin : Int := 1 - (f.bias : Int)
    let q : Int := (if top < emin then emin else top) - f.fbits
    let t : Nat := if e ≥ q then m * 2 ^ (e - q).toNat else rneShift m (q - e).toNat
    (q + f.fbits + f.bias - 1).toNat * 2 ^ f.fbits + t

/-- The sign bit of a format, placed. -/
def signBit (f : Fmt) (neg : Bool) : Nat := if neg then 2 ^ (f.ebits + f.fbits) else 0

/-- A conversion's result: the code written, and which counter of CORE_MCONV it adds to (R93).
(DEDUCED: assumption 17) -/
structure Conv where
  code : Nat
  sat : Bool
  nanlost : Bool
  deriving DecidableEq, Repr

/-- Convert a value to a format under the table of R93, with one rounding. -/
def fencode (f : Fmt) (v : FVal) : Conv :=
  let maxc := fmtMaxCode f
  match v with
  | .nan =>
    match f.kind with
    | .ieee | .satInf => ⟨(2 ^ f.ebits - 1) * 2 ^ f.fbits + 2 ^ (f.fbits - 1), false, false⟩
    | .satNan => ⟨2 ^ (f.ebits + f.fbits) - 1, false, false⟩
    | .satOnly => ⟨0, false, true⟩
  | .inf neg =>
    match f.kind with
    | .ieee | .satInf => ⟨signBit f neg + (2 ^ f.ebits - 1) * 2 ^ f.fbits, false, false⟩
    | .satNan => ⟨2 ^ (f.ebits + f.fbits) - 1, false, true⟩
    | .satOnly => ⟨signBit f neg + maxc, false, true⟩
  | .fin neg m e =>
    let c := roundCode f m e
    if c ≤ maxc then ⟨signBit f neg + c, false, false⟩
    else match f.kind with
      | .ieee => ⟨signBit f neg + (2 ^ f.ebits - 1) * 2 ^ f.fbits, false, false⟩
      | _ => ⟨signBit f neg + maxc, true, false⟩

/-- Negate an exact value. -/
def fneg : FVal → FVal
  | .nan => .nan
  | .inf n => .inf (!n)
  | .fin n m e => .fin (!n) m e

/-- Exact sum of two finite values, as a signed integer times a power of two. -/
def exactAdd (n₁ : Bool) (m₁ : Nat) (e₁ : Int) (n₂ : Bool) (m₂ : Nat) (e₂ : Int) : Int × Int :=
  let e := if e₁ ≤ e₂ then e₁ else e₂
  let a : Int := m₁ * 2 ^ (e₁ - e).toNat
  let b : Int := m₂ * 2 ^ (e₂ - e).toNat
  ((if n₁ then -a else a) + (if n₂ then -b else b), e)

/-- Sum of two values before rounding. An exact zero sum is +0 but for two negative zeros. -/
def vAdd (x y : FVal) : FVal :=
  match x, y with
  | .nan, _ => .nan
  | _, .nan => .nan
  | .inf a, .inf b => if a = b then .inf a else .nan
  | .inf a, _ => .inf a
  | _, .inf b => .inf b
  | .fin n₁ m₁ e₁, .fin n₂ m₂ e₂ =>
    let r := exactAdd n₁ m₁ e₁ n₂ m₂ e₂
    if r.1 = 0 then .fin (decide (m₁ = 0 ∧ m₂ = 0) && n₁ && n₂) 0 0
    else .fin (decide (r.1 < 0)) r.1.natAbs r.2

/-- Product of two values before rounding. -/
def vMul (x y : FVal) : FVal :=
  match x, y with
  | .nan, _ => .nan
  | _, .nan => .nan
  | .inf a, .inf b => .inf (a != b)
  | .inf a, .fin b m _ => if m = 0 then .nan else .inf (a != b)
  | .fin a m _, .inf b => if m = 0 then .nan else .inf (a != b)
  | .fin n₁ m₁ e₁, .fin n₂ m₂ e₂ => .fin (n₁ != n₂) (m₁ * m₂) (e₁ + e₂)

/-- The binary32 pattern of a value, rounded once (R49). -/
def toF32 (v : FVal) : BitVec 32 := BitVec.ofNat 32 (fencode fp32 v).code

/-- The value of a binary32 pattern. -/
def ofF32 (w : BitVec 32) : FVal := fdecode fp32 w.toNat

/-- The one NaN result of binary32 arithmetic (R49).
(DESIGN CHOICE: assumption 21) -/
def f32NaN : BitVec 32 := 0x7FC00000#32

def fadd (a b : BitVec 32) : BitVec 32 := toF32 (vAdd (ofF32 a) (ofF32 b))
def fsub (a b : BitVec 32) : BitVec 32 := toF32 (vAdd (ofF32 a) (fneg (ofF32 b)))
def fmul (a b : BitVec 32) : BitVec 32 := toF32 (vMul (ofF32 a) (ofF32 b))

/-- d + a * b with one rounding (R48, vfma). -/
def ffma (d a b : BitVec 32) : BitVec 32 :=
  toF32 (vAdd (ofF32 d) (vMul (ofF32 a) (ofF32 b)))

def isNaN32 (w : BitVec 32) : Bool := ofF32 w = .nan
def isInf32 (w : BitVec 32) : Bool :=
  match ofF32 w with | .inf _ => true | _ => false
def isFin32 (w : BitVec 32) : Bool :=
  match ofF32 w with | .fin _ _ _ => true | _ => false

/-- A key that orders binary32 patterns other than NaN by value, with +0 above -0 (R49). -/
def orderKey (w : BitVec 32) : Int :=
  if w.getLsbD 31 then -((w.toNat % 2 ^ 31 : Nat) : Int) - 1 else (w.toNat : Int)

/-- The maximum of R49: NaN wins, +0 is above -0. -/
def fmax (a b : BitVec 32) : BitVec 32 :=
  if isNaN32 a || isNaN32 b then f32NaN else if orderKey a < orderKey b then b else a

/-- The minimum of R49. -/
def fmin (a b : BitVec 32) : BitVec 32 :=
  if isNaN32 a || isNaN32 b then f32NaN else if orderKey b < orderKey a then b else a

/-- A key that orders by value, with both zeros equal (vcmp, R49). -/
def valueKey (w : BitVec 32) : Int :=
  let m : Int := ((w.toNat % 2 ^ 31 : Nat) : Int)
  if w.getLsbD 31 then -m else m

/-- floor of ln 2 * 2^200.
(DESIGN CHOICE: assumption 21) -/
def ln2q200 : Nat := 1113844574712631719546256151097547306333272293549090750737802

/-- The sum of z^i / i! for i from the given index upward, n terms, in fixed point with 200
fraction bits; term is the current term. -/
def expTerms (z : Nat) : Nat → Nat → Nat → Nat
  | 0, _, _ => 0
  | n + 1, i, term => term + expTerms z n (i + 1) (((term * z) >>> 200) / (i + 1))

/-- 2 to the power of f / 2^200 for 0 < f < 2^200, in fixed point with 200 fraction bits, truncated
(error below 2^-190).
(DESIGN CHOICE: assumption 21) -/
def exp2frac (f : Nat) : Nat := expTerms ((f * ln2q200) >>> 200) 56 0 (2 ^ 200)

/-- The correctly rounded power of two of R50. A binary32 operand is an exact multiple of 2^-149,
so its split into integer and fraction is exact. A nonzero fraction gives an irrational power, whose
200-bit approximation with a sticky bit rounds as the exact value does.
(DESIGN CHOICE: assumption 21) -/
def fexp2 (w : BitVec 32) : BitVec 32 :=
  match ofF32 w with
  | .nan => f32NaN
  | .inf neg => if neg then 0#32 else 0x7F800000#32
  | .fin neg m e =>
    let x : Int := (m : Int) * 2 ^ (e + 200).toNat
    let x : Int := if neg then -x else x
    if x ≥ 128 * 2 ^ 200 then 0x7F800000#32
    else if x ≤ -150 * 2 ^ 200 then 0#32
    else
      let n : Int := x / 2 ^ 200
      let f : Nat := (x % 2 ^ 200).toNat
      if f = 0 then toF32 (.fin false 1 n)
      else toF32 (.fin false (2 * exp2frac f + 1) (n - 201))

/-- The correctly rounded reciprocal of R50: a quotient of 64 bits and more, with a sticky bit.
(DESIGN CHOICE: assumption 21) -/
def frcp (w : BitVec 32) : BitVec 32 :=
  match ofF32 w with
  | .nan => f32NaN
  | .inf neg => toF32 (.fin neg 0 0)
  | .fin neg m e =>
    if m = 0 then toF32 (.inf neg)
    else
      let s := Nat.log2 m + 64
      let q := 2 ^ s / m
      let sticky := if 2 ^ s % m = 0 then 0 else 1
      toF32 (.fin neg (2 * q + sticky) (-(s : Int) - 1 - e))

/-- Lane k of a vector (R21). -/
def lane (v : Vec) (k : Nat) : BitVec 32 := BitVec.ofNat 32 (v.toNat >>> (32 * k))

/-- A vector with lane k replaced. -/
def setLane (v : Vec) (k : Nat) (x : BitVec 32) : Vec := setBits v (32 * k + 31) (32 * k) x.toNat

/-- Pairwise combination of neighbours: one level of the fixed tree of R51. -/
def pairUp (op : BitVec 32 → BitVec 32 → BitVec 32) : List (BitVec 32) → List (BitVec 32)
  | a :: b :: l => op a b :: pairUp op l
  | l => l

/-- n levels of the fixed pairwise tree (R51, R110). -/
def treeLevels (op : BitVec 32 → BitVec 32 → BitVec 32) : Nat → List (BitVec 32) → List (BitVec 32)
  | 0, l => l
  | n + 1, l => treeLevels op n (pairUp op l)

/-- The root of a pairwise tree of n levels. -/
def treeReduce (op : BitVec 32 → BitVec 32 → BitVec 32) (n : Nat) (l : List (BitVec 32)) :
    BitVec 32 := (treeLevels op n l).headD 0#32

/-! ## Element formats of the matrix unit and of vcvt -/

/-- The element format of a format code of R70: none for INT8 and for reserved codes. -/
def codeFmt : Nat → Option Fmt
  | 0 => some fp32
  | 1 => some fp16
  | 2 => some bf16
  | 3 | 5 => some e4m3
  | 4 | 6 => some e5m2
  | 7 => some e2m3
  | 8 => some e3m2
  | 9 | 11 => some e2m1
  | _ => none

/-- The codes with a block scale (R91). -/
def codeIsMX (c : Nat) : Bool := decide (5 ≤ c ∧ c ≤ 9)

/-- MACs per cycle of a format code (R70); 0 for a reserved code. -/
def codeRate : Nat → Nat
  | 0 => 64
  | 1 | 2 => 256
  | 3 | 4 | 5 | 6 | 7 | 8 | 10 => 512
  | 9 | 11 => 1024
  | _ => 0

/-- Width in bits of an element of a format code (R87). -/
def codeWidth (c : Nat) : Nat :=
  match codeFmt c with
  | some f => f.width
  | none => 8

/-- The two's complement value of an INT8 element (R91). -/
def int8Val (w : Nat) : FVal :=
  if w % 256 < 128 then .fin false (w % 256) 0 else .fin true (256 - w % 256) 0

/-- Decode an element of a format code, sign of zero kept (R91, R94). -/
def codeDecode (c w : Nat) : FVal :=
  match codeFmt c with
  | some f => fdecode f w
  | none => int8Val w

/-- Round a value to an integer, ties to even, and clamp it (R93, INT8 and INT32). -/
def toIntClamp (v : FVal) (lo hi : Int) : Int × Bool :=
  match v with
  | .fin neg m e =>
    let a : Int := if e ≥ 0 then (m : Int) * 2 ^ e.toNat else (rneShift m (-e).toNat : Int)
    let x : Int := if neg then -a else a
    if x > hi then (hi, true) else if x < lo then (lo, true) else (x, false)
  | _ => (0, false)

/-- Convert a value to a format code under R93.
(DEDUCED: assumption 17) -/
def codeEncode (c : Nat) (v : FVal) : Conv :=
  match codeFmt c with
  | some f => fencode f v
  | none =>
    match v with
    | .nan => ⟨0, false, true⟩
    | .inf neg => ⟨if neg then 0x80 else 0x7F, false, true⟩
    | _ =>
      let r := toIntClamp v (-128) 127
      ⟨(r.1 % 256).toNat, r.2, false⟩

/-- Multiply a value by the power of two of an E8M0 scale byte, or divide by it (R91). -/
def scaleBy (v : FVal) (s : Int) : FVal :=
  match v with
  | .fin n m e => .fin n m (e + s)
  | v => v

/-! ## Chunks and promotion -/

/-- Decode an operand element for the matrix unit: the scale applied, negative zero as zero, a scale
of 0xFF as NaN (R92). The second part is the element's exponent of R96, a subnormal counting at its
format's minimum exponent. -/
def matDecode (c w scale : Nat) : FVal × Int :=
  if codeIsMX c && scale = 255 then (.nan, 0)
  else
    let s : Int := if codeIsMX c then (scale : Int) - 127 else 0
    match codeFmt c, codeDecode c w with
    | some f, .fin neg m e =>
      (.fin (neg && m != 0) m (e + s),
        (if m < 2 ^ f.fbits then 1 - (f.bias : Int) else e + f.fbits) + s)
    | some _, v => (v, 0)
    | none, .fin neg m e => (.fin (neg && m != 0) m e, 6)
    | none, v => (v, 0)

/-- One product of a chunk with its exponent (R96). -/
def matProduct (a b : FVal × Int) : FVal × Int := (vMul a.1 b.1, a.2 + b.2)

/-- The chunk's reference exponent: the largest exponent of its finite nonzero products (R96). -/
def chunkEmax : List (FVal × Int) → Option Int
  | [] => none
  | (.fin _ m _, x) :: l =>
    if m = 0 then chunkEmax l
    else match chunkEmax l with
      | none => some x
      | some y => some (if x < y then y else x)
  | _ :: l => chunkEmax l

/-- A product in units of 2^low, bits of magnitude below discarded (R96). -/
def chunkTerm (low : Int) (p : FVal × Int) : Int :=
  match p.1 with
  | .fin neg m e =>
    let a : Nat := if e ≥ low then m * 2 ^ (e - low).toNat else m >>> (low - e).toNat
    if neg then -(a : Int) else (a : Int)
  | _ => 0

/-- The result of one chunk: special values first, else the tree sum rounded once (R96, R98). -/
def chunkSum (ps : List (FVal × Int)) : BitVec 32 :=
  let hasNaN := ps.any (fun p => decide (p.1 = FVal.nan))
  let hasP := ps.any (fun p => decide (p.1 = FVal.inf false))
  let hasN := ps.any (fun p => decide (p.1 = FVal.inf true))
  if hasNaN || (hasP && hasN) then f32NaN
  else if hasP then 0x7F800000#32
  else if hasN then 0xFF800000#32
  else
    match chunkEmax ps with
    | none => 0#32
    | some emax =>
      let low := emax - 96
      let t := (ps.map (chunkTerm low)).foldl (· + ·) 0
      if t = 0 then 0#32 else toF32 (.fin (decide (t < 0)) t.natAbs low)

/-- An element of a tile: the pair (hi, lo) of binary32 patterns (R78). -/
structure Pair where
  hi : BitVec 32
  lo : BitVec 32
  deriving DecidableEq, Repr

/-- Promotion of a chunk result into a pair, as R99 writes it. -/
def promote (p : Pair) (c : BitVec 32) : Pair :=
  if !isFin32 p.hi || !isFin32 c then ⟨fadd p.hi c, 0#32⟩
  else
    let s := fadd p.hi c
    let t := fsub s p.hi
    let e := fadd (fsub p.hi (fsub s t)) (fsub c t)
    let l := fadd p.lo e
    let hi := fadd s l
    let lo := fsub l (fsub hi s)
    ⟨hi, if isInf32 hi then 0#32 else lo⟩

/-- The exact value hi + lo of a pair (R104). -/
def pairValue (p : Pair) : FVal := vAdd (ofF32 p.hi) (ofF32 p.lo)

end Sys2Proof.Machine
end

