-- ==== Sys2Proof/Machine/Types.lean ====
section
/-! DEFINITION. The parts of one core and of one plot router, and the packets between them, as plain
data. Control registers are kept by window offset in `regs`; a register is the one home of its fields
but for the counted views that Machine/Registers.lean computes. -/

namespace Sys2Proof.Machine

/-- What an instruction fetch finds (R26): the code is clean, a single-bit error is corrected and
counted, or the error is uncorrectable. The instruction memory's error is a circumstance from outside
the model, so the issue command carries it. -/
inductive Fetch where
  | clean
  | corrected
  | uncorrectable
  deriving DecidableEq, Repr

/-- A 64-bit word with its poison mark (R24). -/
structure PWord where
  val : Word
  poi : Bool
  deriving DecidableEq, Repr

/-- A queue entry: 256 bits and one poison bit for each 64-bit word (R27, R147). -/
structure QEntry where
  data : Entry
  poi : BitVec 4
  deriving DecidableEq, Repr

/-- A packet of the drove network: header words 0 to 3 of R191 to R193, the body words (header words
4 to 7 or payload flits), and where it stands. `inW` marks a packet held in a reorder window. -/
structure Packet where
  id : Nat
  w0 : Word
  w1 : Word
  w2 : Word
  w3 : Word
  body : List PWord
  /-- channel C0 to C3 -/
  chan : Nat
  /-- the physical router that holds it: 42 * row + column -/
  at_ : Nat
  /-- input port whose buffer holds it: N 0, E 1, S 2, W 3, L 4 (R186); 5 while the unit that made it waits for room in
  the L buffer (R187) -/
  port : Nat
  /-- the field cycle in which it came to that router -/
  since : Nat
  /-- route class of a C2 packet: headland (true) or dimension order (R198) -/
  headland : Bool
  /-- the granary attribute of the window that permitted the request (R249) -/
  gran : Nat
  /-- who made it: 0 a core (origArg of a request and its answer: the issue of it, R207), 1 a dispatch of function origArg mod 64 for request origArg div 64 (R336), 2 a notice of a controller
  (R385), 3 the result of a sheaf root, 4 a sheaf node of plot origArg, 5 any other edge unit -/
  orig : Nat
  origArg : Nat
  /-- 1 + the number of the request from another device that this packet performs or answers, else 0
  (R283) -/
  yk : Nat
  deriving DecidableEq, Repr

/-- A packet of a redundant pair that waits on the pair lane (R451): its core, whether the core is a
twin, and the field cycle in which it began to wait. -/
structure PairPkt where
  core : Nat
  twin : Bool
  pkt : Packet
  since : Nat
  deriving DecidableEq, Repr

/-- A running firing (R33): its task, the field cycle it began in, and how many entries it has taken
from each IN slot and put into each OUT slot. -/
structure Firing where
  task : Nat
  start : Nat
  takes : List Nat
  puts : List Nat
  /-- a choose in progress: its token, true for QB, and the pairs still to move (R55) -/
  chosen : Option (Bool × Nat)
  deriving DecidableEq, Repr

/-- A part of a transfer that its thread has formed and not yet injected (R65). -/
structure Part where
  /-- 0 tld, 1 tst, 2 tadd, 3 tatom -/
  kind : Nat
  tq : Nat
  addr : Word
  spad : Nat
  len : Nat
  /-- length of the whole transfer (R245) -/
  whole : Nat
  /-- element type of a tadd, FLAGS of a tatom -/
  op : Nat
  deriving DecidableEq, Repr

/-- One hardware thread of a core (R21). -/
structure Thread where
  s : FMap Word
  sp : BitVec 32
  v : FMap Vec
  vp : FMap Byte
  p : FMap (BitVec 16)
  pc : BitVec 12
  firing : Option Firing
  /-- ring that the last rotation select returned (R61, R42) -/
  rot : Nat
  /-- the stall cause that holds the next instruction, 0 when none (R77) -/
  cause : Nat
  /-- instructions issued since the last tick (R77, cause 0) -/
  issued : Nat
  /-- parts of the transfer being issued (R65) -/
  parts : List Part
  /-- its waiting send has been counted in DRV_ORDER.ORDER_STALLS (R209) -/
  counted : Bool
  deriving DecidableEq, Repr

/-- A request that holds a tag (R65, R66, R207). -/
structure Req where
  tag : Nat
  /-- 0 tld, 1 tst, 2 tadd, 3 tatom, 4 silo write, 5 silo read -/
  kind : Nat
  thread : Nat
  tq : Nat
  addr : Word
  spad : Nat
  len : Nat
  op : Nat
  data : List PWord
  gran : Nat
  gen : Nat
  /-- re-issues made (R207) -/
  tries : Nat
  /-- device time of the last issue -/
  time : Nat
  /-- queue of a silo request -/
  queue : Nat
  /-- words of load data that have arrived, by place: the scratchpad gets them when all are there (R66, R67, R256) -/
  got : List (Nat × PWord)
  /-- the status a request that was never injected will complete with (R246) -/
  status : Option Nat
  deriving DecidableEq, Repr

/-- A row-bus beat: up to 256 B of load data for one request of a core, or of a chunk of a seed
(R256, R364). `off` counts bytes from the start of the request. -/
structure Beat where
  core : Nat
  tag : Nat
  ctx : Nat
  gen : Nat
  addr : Nat
  seed : Bool
  off : Nat
  words : List PWord
  /-- which issue of the request it answers (R207) -/
  issue : Nat
  deriving DecidableEq, Repr

/-- A seed fetch that failed (R365): a beat without words. -/
def seedErr (c tag ctx gen addr : Nat) : Beat :=
  { core := c, tag := tag, ctx := ctx, gen := gen, addr := addr, seed := true, off := 0, words := [], issue := 0 }

/-- What a core timer times (R207): a tag, or a place in the list of sends, sheaf contributions or
ORDER_ENDs awaiting their answer. -/
inductive TimerRef where
  | req (tag : Nat)
  | send (i : Nat)
  | sheaf (i : Nat)
  | orderEnd (i : Nat)
  /-- a chunk fetch of a seeding core -/
  | seed (i : Nat)
  deriving DecidableEq, Repr

/-- A send that is not yet acknowledged (R59, R207). -/
structure SendRec where
  thread : Nat
  dev : Nat
  core : Nat
  ring : Nat
  oseq : Nat
  time : Nat
  deriving DecidableEq, Repr

/-- An entry of a core's sender order table (R209). -/
structure OrdEntry where
  dev : Nat
  core : Nat
  ring : Nat
  next : Nat
  unacked : Nat
  serial : Bool
  deriving DecidableEq, Repr

/-- An ORDER_END whose COMPLETION has not returned (R211). -/
structure EndRec where
  dev : Nat
  core : Nat
  ring : Nat
  time : Nat
  deriving DecidableEq, Repr

/-- A sheaf contribution of a core that is not yet done (R224, R207). -/
structure ShRec where
  dev : Nat
  sheaf : Nat
  round : Nat
  thread : Nat
  time : Nat
  deriving DecidableEq, Repr

/-- A landed message of a ring (R132, R136). -/
structure RMsg where
  off : Nat
  /-- words it takes, header included -/
  n : Nat
  len : Nat
  tag : Nat
  selected : Bool
  retired : Bool
  /-- the thread whose firing reserved it (R549) -/
  resv : Option Nat
  deriving DecidableEq, Repr

/-- A queue's buffer and spill state (R28, R172 to R181). -/
structure Queue where
  buf : List QEntry
  spill : Bool
  /-- the spill state was entered at seeding (R172) -/
  elastic : Bool
  siloStage : Bool
  /-- silo entries, oldest first: its place in the sub-area and whether its write is performed -/
  silo : List (Nat × Bool)
  /-- next free place of the silo sub-area -/
  siloTail : Nat
  /-- entries being read back from the silo (R175) -/
  siloReading : Nat
  deriving DecidableEq, Repr

/-- A flit in a link's stage register (R147, R149). -/
structure Flit where
  entry : QEntry
  dst : Nat
  deriving DecidableEq, Repr

/-- An outgoing furrow link of a core: N 0, E 1, S 2, W 3 (R146, R159). -/
structure Link where
  ptr : Nat
  moves : Nat
  flit : Option Flit
  /-- targets whose credit returns wait for CRET of this link (R160) -/
  cret : List Nat
  /-- credits used up, by target: the counter is the seeding value less this (R160) -/
  used : FMap Nat
  deriving DecidableEq, Repr

/-- A deadlock probe (R168). `queue` and `side` name where it goes: 0 the writer, 1 the reader. -/
structure Probe where
  core : Nat
  task : Nat
  seq : Nat
  hops : Nat
  queue : Nat
  side : Nat
  deriving DecidableEq, Repr

/-- A probe that has been forwarded by a task (R170). -/
structure ProbeId where
  core : Nat
  task : Nat
  seq : Nat
  deriving DecidableEq, Repr

/-- Probe state of one task: its sequence and the last four probes it forwarded (R168, R170). -/
structure TaskProbe where
  seq : Nat
  last : List ProbeId
  /-- the BLOCKED multiple for which the last probe was sent -/
  sentAt : Nat
  deriving DecidableEq, Repr

/-- A command of the matrix unit: an mma or a drain, with the registers and CORE_MCFG it captured. -/
structure MatCmd where
  drain : Bool
  tileB : Bool
  z : Bool
  thread : Nat
  task : Nat
  pc : Nat
  a : Word
  b : Word
  c : Word
  cfg : Word
  deriving DecidableEq, Repr

/-- An output tile (R78): its elements by 32 * row + column, the owner thread, the INT8 record, and,
when its contents are undefined (R102, R114), the free-value draw that stands for them. -/
structure Tile where
  el : FMap Pair
  owner : Option Nat
  int8 : Bool
  undef : Option Nat
  /-- a drain of the tile has issued and not completed (R83) -/
  draining : Bool
  deriving DecidableEq, Repr

/-- An mma on the multiply engine, with the pairs its chunks give (R81). -/
structure MmaRun where
  cmd : MatCmd
  result : FMap Pair
  start : Nat
  deriving DecidableEq, Repr

/-- A drain on the drain engine (R82). -/
structure DrainRun where
  cmd : MatCmd
  start : Nat
  deriving DecidableEq, Repr

/-- A message or bounce at a landing stage (R215, R218). -/
structure Land where
  pkt : Packet
  since : Nat
  /-- the ack carries SERIAL (R210) -/
  serial : Bool
  /-- the wait for free words has been counted (DRV_RING_n.WAITED) -/
  waited : Bool
  deriving DecidableEq, Repr

/-- One data reference of a seed still to be fetched (R354, R364). -/
structure DataRef where
  first : Nat
  n : Nat
  dst : Nat
  deriving DecidableEq, Repr

/-- A chunk fetch in progress at a core (R364): a chunk of the seed or of the data references, its index,
its team address, where a reference's payload goes, failed attempts, and the timer of R207. -/
structure SeedFetch where
  isRef : Bool
  /-- its quarter of the seed buffer: its LOADs use tags 8 * slot to 8 * slot + 7 -/
  slot : Nat
  chunk : Nat
  addr : Nat
  dst : Nat
  attempts : Nat
  time : Nat
  tries : Nat
  deriving DecidableEq, Repr

/-- A core that is being seeded or cleaned (R363 to R365, R382). Step 1 stopping, 2 fetching and parsing,
3 reported. -/
structure Seeding where
  clean : Bool
  step : Nat
  cycle : Nat
  ctx : Nat
  gen : Nat
  base : Nat
  chunks : Nat
  clearAt : Nat
  cleared : Bool
  /-- next chunk to request, next chunk to parse, chunks that have passed and wait for their turn -/
  next : Nat
  parse : Nat
  passed : List (Nat × List Byte)
  stream : List Byte
  ended : Bool
  fetches : List SeedFetch
  refs : List DataRef
  openRings : Nat
  deriving DecidableEq, Repr

/-- One core (R21) with its furrow switch, its message tables and its registers by window offset. -/
structure Core where
  imem : FMap (BitVec 32)
  threads : FMap Thread
  regs : FMap Word
  queues : FMap Queue
  /-- instruction issue and firing rotations: last issuing thread, last fired task (R42) -/
  lastIssue : Nat
  lastFired : Nat
  /-- issue is stopped on all threads by a fault or a stop (R75, R185) -/
  stopped : Bool
  reqs : List Req
  sends : List SendRec
  orders : List OrdEntry
  ends : List EndRec
  sheafs : List ShRec
  spd : FMap Byte
  spdPoi : FMap Bool
  spdFlip : FMap (BitVec 72)
  rings : FMap (List RMsg)
  land : List Land
  bounces : List Land
  /-- row-bus beats in the landing buffer of 1 KiB (R256) -/
  landBuf : List Beat
  links : FMap Link
  pass : FMap (List QEntry)
  /-- for each furrow target, 1 + the direction its flits last came from: where credits go (R160) -/
  fedBy : FMap Nat
  probes : List Probe
  taskProbes : FMap TaskProbe
  /-- rotation points of the mover and of the probe store (R174) -/
  moverLast : Nat
  mq : List MatCmd
  mma : Option MmaRun
  /-- an mma that has left the multiply engine and whose results are not yet complete (R81) -/
  mmaTail : Option MmaRun
  drain : Option DrainRun
  tileA : Tile
  tileB : Tile
  /-- scratchpad accesses waiting at a precedence of R121, by the cycle each began to wait -/
  waiting : List (Nat × Nat)
  promoted : List (Nat × Nat)
  /-- the field cycle from which the thread port serves a next access (R123) -/
  portFree : Nat
  /-- bases of the stall counters' elapsed time, by thread (R77) -/
  stallBase : FMap Nat
  /-- corrected instruction fetches, counted by the steward (R26) -/
  imemCE : Nat
  seeding : Option Seeding
  /-- the seed's RINGS record (R353, R382) -/
  seedRings : Nat
  /-- glean latch: valid mark and state block (R472, R473) -/
  latch : Option (List Word)
  /-- field cycle of the last scrub step (R143) -/
  scrubAt : Nat
  deriving DecidableEq, Repr

/-- What an unlisted thread is: registers zero and poison clear (R22), no firing, ring 15 last
returned (R42).
(DESIGN CHOICE: assumption 2) -/
def thread0 (_ : Nat) : Thread :=
  { s := [], sp := 0#32, v := [], vp := [], p := [], pc := 0#12, firing := none, rot := 15,
    cause := 0, issued := 0, parts := [], counted := false }

def queue0 (_ : Nat) : Queue :=
  { buf := [], spill := false, elastic := false, siloStage := false, silo := [], siloTail := 0,
    siloReading := 0 }

def link0 (_ : Nat) : Link :=
  { ptr := 0, moves := 0, flit := none, cret := [], used := [] }

def taskProbe0 (_ : Nat) : TaskProbe := { seq := 0, last := [], sentAt := 0 }

def tile0 : Tile := { el := [], owner := none, int8 := false, undef := none, draining := false }

/-- What an unlisted core is: every register at its reset value, memories zero, nothing running.
(DESIGN CHOICE: assumption 2) -/
def core0 (_ : Nat) : Core :=
  { imem := [], threads := [], regs := [], queues := [], lastIssue := 3, lastFired := 15,
    stopped := false, reqs := [], sends := [], orders := [], ends := [], sheafs := [], spd := [],
    spdPoi := [], spdFlip := [], rings := [], land := [], bounces := [], landBuf := [], links := [],
    pass := [], fedBy := [], probes := [], taskProbes := [], moverLast := 15, mq := [], mma := none,
    mmaTail := none, drain := none, tileA := tile0, tileB := tile0, waiting := [], promoted := [], portFree := 0, stallBase := [],
    imemCE := 0, seeding := none, seedRings := 0, latch := none, scrubAt := 0 }

/-- An entry of a router's receiver order table (R210). -/
structure RcvEntry where
  dev : Nat
  src : Nat
  core : Nat
  ring : Nat
  expect : Nat
  active : Nat
  /-- device time of the stream's last traffic (R211) -/
  last : Nat
  deriving DecidableEq, Repr

/-- A packet in a reorder window, with the device time its hold began (R214). -/
structure Held where
  pkt : Packet
  time : Nat
  deriving DecidableEq, Repr

/-- One contribution or partial result in a sheaf round (R221). -/
structure ShPart where
  /-- local mask bit 0 to 15, or 16 + child place, or 32 and above for remote contributors -/
  who : Nat
  count : Nat
  data : List PWord
  /-- word 2 of its packet: BYTES, element type and OP must agree (R226) -/
  shape : Word
  deriving DecidableEq, Repr

/-- A round in progress at a node (R224, R225). -/
structure ShRound where
  round : Nat
  parts : List ShPart
  /-- cores answered when the round is done: this plot's contributors -/
  mismatch : Bool
  /-- the field cycle in which a free-sheaf packet began to wait, while one waits (R222) -/
  since : Option Nat
  /-- the partial result has been sent to the parent -/
  sent : Bool
  /-- remote contributors to be answered: the header words of their packets (R297) -/
  remotes : List Packet
  /-- word 1 of the first contribution: its context and generation -/
  w1 : Word
  /-- the result message is on its way to its ring (R223) -/
  delivering : Bool
  deriving DecidableEq, Repr

/-- A sheaf node of a router: the oldest round not completed, whether the round after it is complete, and up to two
rounds (R224, R225). -/
structure ShNode where
  oldest : Nat
  ahead : Bool
  rounds : List ShRound
  deriving DecidableEq, Repr

/-- A logical plot: its router tables and its registers by window offset. -/
structure Plot where
  regs : FMap Word
  rcv : List RcvEntry
  window : List Held
  nodes : FMap ShNode
  /-- the sheaf identifiers and the seed entries that an image overlays on the plot (R356) -/
  overlay : FMap Word
  /-- this plot's cores and links have made progress since the mark was last read (R470) -/
  progress : Bool
  deriving DecidableEq, Repr

def shNode0 (_ : Nat) : ShNode := { oldest := 0, ahead := false, rounds := [] }

def plot0 (_ : Nat) : Plot :=
  { regs := [], rcv := [], window := [], nodes := [], overlay := [], progress := false }

/-- A version of the team table (R277, R278): the coordinates that team routing avoids, the links that are down, each
by the coordinate and port of one end, and the root of the escape tree. -/
structure TeamVer where
  valid : Bool
  members : List Nat
  down : List Nat
  links : List (Nat × Nat)
  root : Nat
  deriving DecidableEq, Repr

def teamVer0 : TeamVer := { valid := false, members := [], down := [], links := [], root := 0 }

/-- One routing-table version (R199): the physical plot of every logical plot, which of an edge
unit's two routers is live (0 the attachment, 1 the alternate, 2 none; edge ports 0 to 17, slices 18
to 23), the fenced and unpowered routers, the parent of each router on the headland tree, the routers
that are not marked "XY clear", and the team table that names the yoke port for each remote device. -/
structure RouteVer where
  valid : Bool
  place : FMap Nat
  edge : FMap Nat
  fenced : List Nat
  parent : FMap Nat
  xyBlocked : List Nat
  team : TeamVer
  deriving DecidableEq, Repr

def routeVer0 : RouteVer :=
  { valid := true, place := [], edge := [], fenced := [], parent := [], xyBlocked := [], team := teamVer0 }

/-- An output port of a router (R196): by channel, 1 + the input port that it served last, and the field cycle of the last
service. -/
structure Arb where
  last : FMap Nat
  served : FMap Nat
  deriving DecidableEq, Repr

def arb0 (_ : Nat) : Arb := { last := [], served := [] }

/-- A quiescent drain of a function's partition (R182). -/
structure Drain where
  active : Bool
  start : Nat
  /-- totals of SENT and RECV in the last pass -/
  prev : Option (Nat × Nat)
  /-- it ended with every core quiet -/
  done : Bool
  deriving DecidableEq, Repr

def drain0 (_ : Nat) : Drain := { active := false, start := 0, prev := none, done := false }

/-- A routing change in progress (R205): step 0 none, 1 switched and waiting for old-epoch traffic;
the epoch it switched to and the device time of the switch. -/
structure RouteChange where
  step : Nat
  epoch : Nat
  time : Nat
  deriving DecidableEq, Repr

/-- A digest of a region of a function (R453): its start swath, and its value once it is complete. -/
structure DigRun where
  swath : Nat
  fn : Nat
  region : Nat
  value : Option Word
  deriving DecidableEq, Repr

/-- What the hardware reports to the steward, newest first in the state's list. -/
inductive Note where
  /-- a core recorded or counted a fault (R75) -/
  | coreFault (core code : Nat)
  /-- an uncorrectable scratchpad word (R141) -/
  | spdUE (core word : Nat)
  /-- a furrow link error or overflow that fails the context (R148, R161) -/
  | furrowFail (core : Nat)
  /-- a router discarded a packet (R188) -/
  | hdrDrop (plot : Nat)
  /-- nothing left to spill (R173) -/
  | spillExhausted (core : Nat)
  /-- an uncorrectable HBM sector (R236) -/
  | hbmUE (stack sector : Nat)
  /-- any other report: a number the reporting rule names and its argument -/
  | other (rule arg : Nat)
  deriving DecidableEq, Repr

/-! ## What the steward keeps -/

/-- The time servo (R394, R395): consecutive measurements below 100 ns, the last measurement, whether
TIME_PPS_SEC has been written, the correction still to be slewed with its fraction in units of 10^-5 ns, and
the times of the last Sync. -/
structure Servo where
  good : Nat
  lastAt : Nat
  ppsSet : Bool
  left : Int
  acc : Nat
  t1 : Word
  t2 : Word
  /-- a two-step Sync that waits for its Follow_Up; the number of the next Delay_Req; the one under way, with its
  departure time (R344) -/
  syncSeq : Option Nat
  reqSeq : Nat
  dreq : Option (Nat × Word)
  /-- device time of the last accepted edge of REF1PPS (R529) -/
  ppsAt : Option Word
  deriving DecidableEq, Repr

/-- Temperatures of the quadrants by domain, and 1 + the device time since which a quadrant has read below
RETURN_C, and below THROTTLE_C - 5; the last throttle step of each field; the stacks whose command slots are
halved, one bit each (R404). -/
structure Therm where
  temps : FMap Nat
  coolAt : FMap Nat
  lowAt : FMap Nat
  stepAt : FMap Nat
  hbmHot : Nat
  deriving DecidableEq, Repr

/-- The low-speed pins and the input (R524 to R535). `vin` in millivolts; alert and thermtrip are true while
the pin is low; `event` and `request` are the two causes of ALERT_N (R526); `holdoff` is the time in ns for
which a timer still holds the regulators off (R531, R534); `goodAt` the power-on time since which VIN has been at
42 V or above (R535). -/
structure Pins where
  vin : Nat
  modEn : Bool
  resetN : Bool
  pwrgd : Bool
  thermtrip : Bool
  alert : Bool
  event : Bool
  request : Bool
  releasedAt : Nat
  holdoff : Nat
  goodAt : Nat
  /-- I3C dynamic address, 0 none (R537) -/
  i3c : Nat
  deriving DecidableEq, Repr

def pins0 : Pins :=
  { vin := 48000, modEn := true, resetN := true, pwrgd := true, thermtrip := false, alert := false, event := false,
    request := false, releasedAt := 0, holdoff := 0, goodAt := 0, i3c := 0 }

/-- A boot fetch (R488, R489): the boot service record, the attempt nonce, the next offset to request, the image
length once a response has told it, outstanding requests (offset, length, time of the last sending), the last
progress, the time at which the attempt failed. Step 1 waits for the record, 2 fetches, 3 has failed. -/
structure BootFetch where
  step : Nat
  service : List Byte
  nonce : Word
  next : Nat
  total : Option Nat
  out : List (Nat × Nat × Nat)
  progressAt : Nat
  deriving DecidableEq, Repr

/-- What a record of the LMS reservation log says (R494). -/
structure LmsRec where
  seq : Nat
  tree : Nat
  block : Nat
  deriving DecidableEq, Repr

/-- Where an SPDM request comes from (R501): the sideband, or a function with the source address and port. -/
inductive SpdmFrom where
  | sideband
  | host (fn ip port : Nat)
  deriving DecidableEq, Repr

/-- An SPDM response (R498 to R500). A signature is the ECDSA half's draw and the leaf of its HSS half. -/
inductive SpdmResp where
  | version
  | capabilities
  | algorithms
  | digests (chain : Nat)
  | certificate (chain : Nat)
  | challengeAuth (sig leaf : Nat)
  /-- measurement index and value -/
  | measurements (l : List (Nat × Nat)) (sig leaf : Nat)
  | hssHalf (leaf : Nat)
  | certHss (chain : Nat)
  /-- ERROR: 1 UnsupportedRequest, 2 Unspecified, 3 Busy -/
  | error (code : Nat)
  deriving DecidableEq, Repr

/-- What the module keeps for an SPDM requester: sequence number and response of its last datagram, the leaf of the
HSS half held. -/
structure SpdmPeer where
  src : SpdmFrom
  seq : Nat
  last : SpdmResp
  deriving DecidableEq, Repr

/-- The security engine, the fuses and the firmware region of boot flash (R484 to R508, R552). -/
structure Sec where
  /-- the firmware region; whether it holds an image that verifies, and its key slot, SVN and header digest -/
  flash : FMap Byte
  fwValid : Bool
  fwSlot : Nat
  fwSvn : Nat
  fwDigest : Nat
  /-- the key pairs that the running firmware lists for profile records and for debug tokens (R485) -/
  profKeys : List (List Byte)
  debugKeys : List (List Byte)
  fwFetched : Bool
  /-- header digest of the running image -/
  runDigest : Nat
  /-- fuses: root KEY_IDs by slot, revoked slots, SVN, lifecycle -/
  keyIds : FMap Nat
  revoked : Nat
  fuseSvn : Nat
  lifecycle : Nat
  /-- the image being installed: its base in HBM -/
  updBase : Nat
  boot : Option BootFetch
  /-- the records of the reservation log, newest first, a torn one as `none`; the number of the ring's next record;
  record writes that have failed in a row -/
  log : List (Option LmsRec)
  logNext : Nat
  lmsFails : Nat
  /-- the CDI and the Alias key exist -/
  alias_ : Bool
  /-- challenge nonce: its draw and the power-on time of its read -/
  nonce : Option (Nat × Nat)
  peers : List SpdmPeer
  /-- leaf of the HSS half held for the last signed response over the sideband, and over the host port (R500) -/
  halfSb : Option Nat
  halfHost : Option Nat
  /-- signed responses of the last second: function and power-on time -/
  signs : List (Nat × Nat)
  deriving DecidableEq, Repr

def sec0 : Sec :=
  { flash := [], fwValid := true, fwSlot := 0, fwSvn := 1, fwDigest := 0, profKeys := [], debugKeys := [], fwFetched := false, runDigest := 0,
    keyIds := [], revoked := 0, fuseSvn := 1, lifecycle := 1, updBase := 0, boot := none, log := [],
    logNext := 0, lmsFails := 0,
    alias_ := false, nonce := none, peers := [], halfSb := none, halfHost := none,
    signs := [] }

/-- Input power (R416, R417): the samples of the last 1 ms, newest first; when N was last lowered or raised;
1 + the time since which the mean has been below 95 %; consecutive samples above 1.15 times the ceiling;
whether the limiter halves the clocks, and the last sample above the ceiling. -/
structure Power where
  samples : List Nat
  movedAt : Nat
  lowAt : Nat
  overs : Nat
  halved : Bool
  overAt : Nat
  deriving DecidableEq, Repr

/-- Cooling declarations (R414): the time of the last, and a higher class declared once, with its time. -/
structure Cooling where
  last : Nat
  higher : Option (Nat × Nat)
  deriving DecidableEq, Repr

/-- The calibration of a seam lane group (R389, R390): first and last tap of its window, capture phase; 1 + the swath
in which its margin was found low, 0 when it is not; the cycle at which its hold began. -/
structure SeamCal where
  lo : Nat
  hi : Nat
  phase : Nat
  due : Nat
  heldAt : Nat
  deriving DecidableEq, Repr

def seamCal0 : SeamCal := { lo := 0, hi := 0, phase := 0, due := 0, heldAt := 0 }

/-- What the sweeps of a seam lane group find, one word for each attempt, bit t for tap t; `back`: the direction that
fails is the one to the north or west. -/
structure Sweep where
  group : Nat
  back : Bool
  taps : List Word
  deriving DecidableEq, Repr

/-- What happens at a seam lane group in service (R153): its phase monitor finds the edges of the window; the sweep of
its recalibration ends. -/
inductive SeamEv where
  | monitor (lo hi : Nat)
  | swept (x : Sweep)
  deriving DecidableEq, Repr

/-- A quadrant-off or return sequence (R405, R408): its domain, its next step (0: its return waits for the tests), the
swath of its decision. -/
structure QuadSeq where
  dom : Nat
  off : Bool
  step : Nat
  swath : Nat
  deriving DecidableEq, Repr

/-- A set of logical plots that move to new physical plots in one routing change (R437). Kind 0 rotation, 1
re-placement. Step 1 draining, 2 switching. -/
structure Move where
  kind : Nat
  step : Nat
  time : Nat
  /-- logical plot, new physical plot -/
  moves : List (Nat × Nat)
  ver : RouteVer
  /-- functions that pause, and plots whose state is not copied -/
  fns : List Nat
  bare : List Nat
  /-- cores whose switch ran when the pause began -/
  ran : List Nat
  deriving DecidableEq, Repr

/-- The start sequence (R461): kind 0 cold, 1 quick, 2 the quick start of a warm reset; its step; times. -/
structure Start where
  kind : Nat
  step : Nat
  began : Nat
  stepAt : Nat
  deriving DecidableEq, Repr

/-- A copy of the repair map in boot flash (R432): its sequence number, its entries (words 0 and 1, oldest
first), whether it is valid. -/
structure RepairCopy where
  seq : Nat
  entries : List (Word × Word)
  valid : Bool
  deriving DecidableEq, Repr

/-- A function record (R540). `keys` are the KEY_IDs of the image signer pairs; `pairs` the selector and value
words. -/
structure FnRecord where
  fn : Nat
  flags : Nat
  fallback : Nat
  siloBase : Nat
  siloPages : Nat
  keys : List (List Byte)
  pairs : List (Word × Word)
  deriving DecidableEq, Repr

/-- What the steward keeps beside its registers.
(DESIGN CHOICE: assumption 74) -/
structure Steward where
  servo : Servo
  therm : Therm
  power : Power
  cooling : Cooling
  quads : List QuadSeq
  /-- fused N limit of each field is 64 less this (R387) -/
  fused : FMap Nat
  /-- the copies of the repair map (R432) -/
  mapA : RepairCopy
  mapB : RepairCopy
  /-- a thermal or undervoltage trip is in force (R409, R535) -/
  trip : Bool
  /-- module SERIAL of the identity record (R413, R546) -/
  serial : Nat
  /-- the verified profile record, empty when there is none (R413) -/
  profile : List Byte
  /-- last accepted record of each function (R540) -/
  records : List FnRecord
  /-- failed physical plots (R430) and retired pages (R429) -/
  failed : List Nat
  retired : List Nat
  /-- failures declared and not yet re-placed: logical plots (R441, R445) -/
  toPlace : List Nat
  move : Option Move
  /-- the walker of each physical row: its column and whether it goes east; swath of the last step (R446) -/
  walkers : FMap (Nat × Bool)
  rotSwath : Nat
  rotTime : Nat
  sweep : Nat
  /-- sheaf adder mismatches: plot and time; lines found uncorrectable: core, line and power-on
  time (R441) -/
  adders : List (Nat × Nat)
  ueLines : List (Nat × Nat × Nat)
  /-- lockstep pair of the steward in use, pairs that failed (R456) -/
  pair : Nat
  pairsBad : Nat
  start : Option Start
  /-- power-on time in nanoseconds, and that of the last cold start (R460) -/
  upNs : Nat
  coldAt : Nat
  coldNext : Bool
  /-- the identity record reports "seam degraded" (R154) -/
  seamDegraded : Bool
  /-- power-on time of the last failed starts (R463) -/
  failAt : List Nat
  /-- 1 + the swath of the last change of the effective profile (R449) -/
  profSwath : Nat
  /-- the division of the host port's lanes in force (R309) -/
  hostMode : Nat
  /-- a planned warm reset is under way: 1 its requests are ended, 2 its partitions are frozen (R468) -/
  plan : Nat
  /-- the steward cores are halted over JTAG (R504) -/
  halted : Bool
  deriving DecidableEq, Repr

def steward0 : Steward :=
  { servo := { good := 0, lastAt := 0, ppsSet := false, left := 0, acc := 0, t1 := 0#64, t2 := 0#64, syncSeq := none, reqSeq := 0,
               dreq := none, ppsAt := none },
    therm := { temps := [], coolAt := [], lowAt := [], stepAt := [], hbmHot := 0 },
    power := { samples := [], movedAt := 0, lowAt := 0, overs := 0, halved := false, overAt := 0 },
    cooling := { last := 0, higher := none },
    quads := [], fused := [], mapA := { seq := 0, entries := [], valid := true },
    mapB := { seq := 0, entries := [], valid := true }, trip := false, serial := 0, profile := [], records := [],
    failed := [], retired := [],
    toPlace := [], move := none, walkers := [], rotSwath := 0, rotTime := 0, sweep := 0, adders := [],
    ueLines := [], pair := 0, pairsBad := 0, start := none, upNs := 0, coldAt := 0, seamDegraded := false, coldNext := false,
    failAt := [], profSwath := 0, hostMode := 0, plan := 0, halted := false }

end Sys2Proof.Machine
end

