-- ==== Sys2Proof/Machine/HostTypes.lean ====
section
/-! DEFINITION. The parts of the host port, of a function with its requests, images and context, and of a
recovery, as plain data. -/

namespace Sys2Proof.Machine

/-- Who makes a register access (R511). A core comes with the context and generation of its request. -/
inductive Who where
  | host (fn : Nat)
  | core (c ctx gen : Nat)
  | remote
  | steward
  | jtag
  deriving DecidableEq, Repr

/-! ## Frames (R310, R319, R328) -/

/-- The header of a KHT packet, as its five words give it (R319). -/
structure KhtHdr where
  ver : Nat
  op : Nat
  ece : Bool
  ar : Bool
  dtc : Nat
  psn : Nat
  ackpsn : Nat
  window : Nat
  sack : Word
  addr : Word
  length : Nat
  status : Nat
  deriving DecidableEq, Repr

/-- The operation of a RoCEv2 packet (R328): `first` and `last` mark its place in its message. -/
inductive RoceOp where
  | send (first last : Bool)
  | write (first last : Bool)
  | readReq
  | readResp
  | ack
  /-- NAK codes: 0 PSN sequence error, 1 invalid request, 2 remote access error, 3 remote operational
  error -/
  | nak (code : Nat)
  /-- RNR NAK with its timer in microseconds -/
  | rnr (timer : Nat)
  | cnp
  | unsupported
  deriving DecidableEq, Repr

/-- A RoCEv2 packet. `va`, `rkey` and `len` are those of its RETH, where it has one. -/
structure Roce where
  op : RoceOp
  qpn : Nat
  psn : Nat
  ackReq : Bool
  icrcOk : Bool
  va : Word
  rkey : Nat
  len : Nat
  data : List Word
  deriving DecidableEq, Repr

/-- What a frame carries. -/
inductive HBody where
  /-- the payload of a UDP datagram to a port: the five header words of KHT, then data -/
  | kht (udp : Nat) (ws : List Word)
  | roce (r : Roce)
  /-- a broadcast ARP request for an address -/
  | arp (ip : Nat)
  | ptp
  | other
  deriving DecidableEq, Repr

/-- A header from the five words of a KHT packet. -/
def readKhtHdr (ws : List Word) : KhtHdr :=
  let w := fun (i : Nat) => ws.getD i 0#64
  { ver := bits (w 0) 63 60, op := bits (w 0) 59 56, ece := bit (w 0) 55, ar := bit (w 0) 54, dtc := bits (w 0) 47 32,
    psn := bits (w 0) 23 0, ackpsn := bits (w 1) 63 40, window := bits (w 1) 15 0, sack := w 2, addr := w 3,
    length := bits (w 4) 63 32, status := bits (w 4) 7 0 }

/-- The header and the data of a KHT packet. -/
def readKht : HBody → Option (KhtHdr × List Word)
  | .kht _ ws => if ws.length < 5 then none else some (readKhtHdr ws, ws.drop 5)
  | _ => none

/-- The five words of a header; the reserved bits are zero. -/
def khtHdrWords (h : KhtHdr) : List Word :=
  let w0 := setBits (setBits (setBits (setBits 0#64 63 60 h.ver) 59 56 h.op) 47 32 h.dtc) 23 0 h.psn
  [setBits (setBits w0 55 55 (if h.ece then 1 else 0)) 54 54 (if h.ar then 1 else 0),
   setBits (setBits 0#64 63 40 h.ackpsn) 15 0 h.window, h.sack, h.addr, setBits (setBits 0#64 63 32 h.length) 7 0 h.status]

/-- What every frame that a function sends carries: its port and priority, its VLAN tag if it has one, and the DSCP and
ECN codepoint of an IP packet; ECT(0) is codepoint 2 (R311). -/
structure HostTag where
  port : Nat
  prio : Nat
  vlan : Option Nat
  dscp : Nat
  ecn : Nat
  deriving DecidableEq, Repr

/-- A packet that a function sends: on its KHT TC in words, on a queue pair, or an ARP answer. -/
inductive HostOut where
  | kht (fn tc : Nat) (ws : List Word)
  | roce (fn tc : Nat) (r : Roce)
  | arp (ip mac : Nat)
  deriving DecidableEq, Repr

/-- A host frame: port and 802.1p priority of its arrival, destination addresses, whether it is an IP
fragment or carries IP options, its length in the ingress buffer and that of its IP packet, its ECN marks.
`id` and `fn` are filled when it is accepted. -/
structure HFrame where
  id : Nat
  fn : Nat
  port : Nat
  prio : Nat
  dmac : Nat
  vlan : Option Nat
  ip : Option Nat
  odd : Bool
  len : Nat
  ipLen : Nat
  ect : Bool
  ce : Bool
  /-- device time at which it was accepted -/
  time : Nat
  body : HBody
  deriving DecidableEq, Repr

/-! ## Transport contexts (R318, R323 to R329) -/

/-- A KHT packet sent and not acknowledged: expiries of its timer, device time of its last sending,
whether a SACK has already caused a retransmission since. -/
structure TxPkt where
  psn : Nat
  op : Nat
  addr : Word
  status : Nat
  data : List Word
  tries : Nat
  time : Nat
  fast : Bool
  deriving DecidableEq, Repr

/-- A transport context: KHT connection or RoCEv2 queue pair. State 0 open, 1 quiet, 2 error. A number
that no entry of its function has is closed. -/
structure Tc where
  fn : Nat
  num : Nat
  hostTc : Nat
  startPsn : Nat
  state : Nat
  qp : Bool
  ring : Nat
  pmtu : Nat
  hostQpn : Nat
  engine : Nat
  /-- next PSN to deliver; packets that arrived out of order or wait for a READ slot -/
  rxNext : Nat
  held : List HFrame
  /-- packets delivered since the last ACK, and the device time of the first of them -/
  fresh : Nat
  freshAt : Nat
  ece : Bool
  /-- last PSN of each READ that is not yet answered in full and acknowledged -/
  reads : List Nat
  closing : Bool
  txNext : Nat
  unacked : List TxPkt
  txq : List TxPkt
  peerWin : Nat
  cwnd : Nat
  /-- the PSN whose acknowledgement ends the present round trip -/
  roundEnd : Nat
  quietAt : Nat
  /-- RoCEv2: words of the message being assembled, its first PSN, and where a WRITE goes on -/
  partWords : List Word
  partPsn : Nat
  partAddr : Word
  partRkey : Nat
  /-- bytes of an RDMA WRITE message still to come -/
  partLeft : Nat
  cnpAt : Option Nat
  deriving DecidableEq, Repr

/-! ## Requests of a function (R330 to R342) -/

/-- A landed and not yet consumed ring entry: its index, the TC of a KHT submission, the device time of
its landing. -/
structure Landed where
  idx : Nat
  tc : Option Nat
  time : Nat
  deriving DecidableEq, Repr

/-- A pending request. `disp`: 0 not dispatched, 1 in flight, 2 landed, 3 bounced and waiting to be sent
again. `order` numbers dispatches. -/
structure HReq where
  ser : Nat
  reqId : Nat
  op : Nat
  slot : Nat
  ring : Nat
  idx : Nat
  tc : Option Nat
  dup : Option Nat
  deadline : Nat
  entry : List PWord
  landTime : Nat
  accepted : Nat
  disp : Nat
  dispAt : Nat
  lastTry : Nat
  order : Nat
  /-- bits [20:16] of dispatch word 32 (R372) -/
  mtch : Nat
  deriving DecidableEq, Repr

/-! ## Images, switches and seeding (R345 to R370) -/

/-- An admitted image: what the steward keeps of its checks. -/
structure Img where
  base : Nat
  serial : Nat
  digest : Nat
  pages : Nat
  pw : Nat
  ph : Nat
  chunks : Nat
  siloPages : Nat
  sheaves : Nat
  seedOff : Nat
  refOff : Nat
  refChunks : Nat
  /-- overlay entries: relative plot and FIXED -/
  overlay : List (Nat × Bool)
  /-- sheaf nodes, four words each -/
  nodes : List (List Word)
  periodMin : Nat
  periodMax : Nat
  estNs : Nat
  notify : Bool
  keep : Bool
  deriving DecidableEq, Repr

/-- An admission in progress: the SEED's request, its list entry and its reference. -/
structure Adm where
  ser : Nat
  list : Nat
  only : Bool
  act : Nat
  base : Nat
  serial : Nat
  digest : Nat
  deriving DecidableEq, Repr

/-- A queued switch: list entry, ACT_SWATH, the command that waits for it, a carried request, and whether the
admission of its image is still under way (R370). -/
structure Switch where
  list : Nat
  act : Nat
  cmd : Option Nat
  carry : Option Nat
  admitting : Bool
  deriving DecidableEq, Repr

/-- A seeding or a clean under way at a controller (R366, R382). -/
structure SeedCtl where
  clean : Bool
  list : Nat
  cycle : Nat
  time : Nat
  reported : List Nat
  /-- requests that the boundary of a clean dropped -/
  dropped : Nat
  failed : Option (Nat × Nat)
  /-- the sheaf nodes and the overlay are written -/
  written : Bool
  cmd : Option Nat
  carry : Option Nat
  deriving DecidableEq, Repr

/-! ## Recovery (R470 to R478) -/

/-- A recovery of a function's context. Step 1 freezing, 2 gleaning, 3 ready for the steps of R378. -/
structure Recovery where
  cause : Nat
  step : Nat
  time : Nat
  /-- task of a core fault -/
  task : Option Nat
  /-- cores that sent FROZEN or have been reset; cores and plots that await RESET_DONE, with the time of
  their reset -/
  frozen : List Nat
  missed : List (Nat × Nat)
  plots : List (Nat × Nat)
  gleaned : List Nat
  trunc : Bool
  deriving DecidableEq, Repr

/-- A suspect replay (R477): its start, the dispatch messages still to land, how often the cause has
recurred. -/
structure Replay where
  time : Nat
  cause : Nat
  /-- held after three failures within 10 s -/
  three : Bool
  /-- task of a core fault that must recur -/
  task : Option Nat
  msgs : List (List PWord)
  seen : Nat
  deriving DecidableEq, Repr

/-- One function: everything the registers of its window do not hold. -/
structure Fun where
  /-- device time of the write that disabled it -/
  drainAt : Nat
  landed : FMap (List Landed)
  /-- slots: 0 free, 1 pending, 2 complete -/
  slots : FMap Nat
  reqs : List HReq
  order : Nat
  imgs : List (Nat × Img)
  adms : List Adm
  switches : List Switch
  seed : Option SeedCtl
  sheafBase : Nat
  sheafIds : List Nat
  /-- silo pool of the function record, and the base in use -/
  siloBase : Nat
  siloPages : Nat
  siloUsed : Nat
  requireSigned : Bool
  signers : List (List Byte)
  fallback : Nat
  grants : FMap Word
  /-- a TEARDOWN that waits for its quiescent drain -/
  teardown : Option Nat
  /-- member changes that came while the context was seeding (R385) -/
  memberNotes : List (Word × Word)
  recov : Option Recovery
  failTimes : List Nat
  /-- causes of the failures, with their times, newest first -/
  causes : List (Nat × Nat)
  replay : Option Replay
  /-- SERIAL that the verdict "image" refuses (R478) -/
  barred : Option Nat
  /-- device time of the last progress mark seen, of the suspension in force, and of the last partition reset
  of the ladder (R470, R479) -/
  progressAt : Nat
  suspendAt : Nat
  partResetAt : Option Nat
  /-- plots whose reset a function or partition reset still awaits -/
  resets : List Nat
  /-- a function reset (true) or a partition reset (false) is under way -/
  fnReset : Bool
  /-- the full FN_PART, list entry and quadrant of a function narrowed to its fallback (R407) -/
  narrowed : Option (Word × Nat × Nat)
  /-- why the context is suspended: quadrant domains off (R406) -/
  suspended : List Nat
  /-- accesses denied (R14) -/
  denied : Nat
  deriving DecidableEq, Repr

def fun0 (_ : Nat) : Fun :=
  { drainAt := 0, landed := [], slots := [], reqs := [], order := 0, imgs := [], adms := [],
    switches := [], seed := none, sheafBase := 0, sheafIds := [], siloBase := 0, siloPages := 0,
    siloUsed := 0, requireSigned := false, signers := [], fallback := 0xFF, grants := [],
    teardown := none, memberNotes := [], recov := none, failTimes := [], causes := [], replay := none,
    barred := none, progressAt := 0, suspendAt := 0, partResetAt := none, resets := [], fnReset := false, narrowed := none, suspended := [], denied := 0 }

end Sys2Proof.Machine
end

