-- ==== Sys2Proof/Machine/Fabric.lean ====
section
/-! DEFINITION. The parts of the granary, the memory controllers, the yoke ports and the muster, as
plain data. -/

namespace Sys2Proof.Machine

/-! ## Granary and memory -/

/-- A line of a slice: its 256 B address (team address bits [63:8], the device part 0xFFFF for a local
one), its way, its 32 words, and how many bits of each word are wrong (R252). A set's lines stand most recently used
first. -/
structure Line where
  addr : Nat
  way : Nat
  data : List PWord
  flips : FMap Nat
  deriving DecidableEq, Repr

/-- What a request does to one line: a load, a store, an add by element type or an atomic; `off` is the
word offset in the line. -/
inductive LineOp where
  | load (p : Packet) (off n : Nat) (alloc : Option Nat)
  | store (off : Nat) (ws : List PWord)
  | add (elt off : Nat) (ws : List PWord)
  | atomic (op off : Nat) (ws : List PWord)
  deriving DecidableEq, Repr

/-- A line fetch in progress with the operations that wait for it, in order (R249); `fresh` fetches take
no further waiters, and the data of a `stale` one is served but leaves the slice's lines alone (R254). `result` is the
status and data once they have returned. -/
structure Fill where
  id : Nat
  addr : Nat
  fresh : Bool
  stale : Bool
  ops : List LineOp
  result : Option (Nat × List PWord)
  /-- device time at which its first request was accepted -/
  time : Nat
  deriving DecidableEq, Repr

/-- One granary slice (R248 to R252), with the row-bus beats it has still to send (R256). -/
structure Slice where
  lines : List Line
  fills : List Fill
  beats : List Beat
  deriving DecidableEq, Repr

def slice0 (_ : Nat) : Slice := { lines := [], fills := [], beats := [] }

/-- A line access at a channel group of an HBM stack or at a CXL port (R235, R243, R551): a fetch for a
fill of slice `slice`, or an operation of a request. `resp`: its completion answers the request; `old` is the answer's
old value where the line held it (R249). -/
structure MemJob where
  addr : Nat
  slice : Nat
  fill : Option Nat
  op : LineOp
  pkt : Packet
  resp : Bool
  old : List PWord
  time : Nat
  deriving DecidableEq, Repr

/-- Words of a load for another device or for the host that have been gathered (R283). -/
structure Gather where
  pkt : Packet
  parts : List (Nat × List PWord)
  deriving DecidableEq, Repr

/-! ## Yoke transactions (R281) -/

/-- The muster messages (R290). -/
inductive MusterMsg where
  | linkEvent (orig seq reporter port : Nat) (up : Bool)
  | suspect (reporter target mepoch : Nat)
  | query (leader target mepoch : Nat)
  | alive (sender target mepoch : Nat)
  | lost (sender target mepoch : Nat)
  | commit (orig seq kind target mepoch act : Nat)
  /-- the swath that ended with its outbound digest, the start swath of the weight digest with it (R454) -/
  | shadowReport (swath : Nat) (out : Word) (start : Nat) (weight : Word)
  | admitAsk (shadow partner : Nat)
  | missing (asker mepoch : Nat)
  deriving DecidableEq, Repr

/-- A transaction: the yoke header and the drove packet that follows it, if any. -/
structure Txn where
  dst : Nat
  src : Nat
  tepoch : Nat
  vc : Nat
  ni : Bool
  copy : Bool
  mirror : Bool
  resp : Bool
  /-- a response that only says "busy" (R288) -/
  busy : Bool
  port : Nat
  hops : Nat
  tracker : Nat
  first : Nat
  tseq : Nat
  /-- released sequences with their HOLD -/
  rel : List (Nat × Bool)
  digest : Word
  pkt : Option Packet
  muster : Option MusterMsg
  deriving DecidableEq, Repr

/-- One valid slot of a data frame, with its eight words. -/
structure Slot where
  vc : Nat
  first : Bool
  last : Bool
  words : List PWord
  deriving DecidableEq, Repr

/-- What every frame header carries: the acknowledged FSEQ and the credits for VC 0 to 5 (R268). -/
structure FrameHdr where
  ack : Nat
  credit : List Nat
  deriving DecidableEq, Repr

/-- A data frame (R268). -/
structure YFrame where
  fseq : Nat
  hdr : FrameHdr
  slots : List Slot
  deriving DecidableEq, Repr

/-- A source tracker (R283, R287). -/
structure Tracker where
  num : Nat
  txn : Txn
  pkt : Packet
  /-- copies sent -/
  sent : Nat
  deadline : Nat
  /-- device time from which a "busy" answer lets it be sent again (R288) -/
  busyAt : Option Nat
  deriving DecidableEq, Repr

/-- A release waiting to be carried (R287). -/
structure Release where
  dst : Nat
  tseq : Nat
  hold : Bool
  time : Nat
  deriving DecidableEq, Repr

/-- One yoke port: link layer, buffers, trackers. STATE, FENCED and PEER stand in YOKE_PORT_STAT. -/
structure YPort where
  txSeq : Nat
  rxNext : Nat
  unacked : List YFrame
  /-- device time of the last RETRY sent and not yet answered -/
  retryAt : Option Nat
  /-- RETRY frames in a row for one FSEQ -/
  retrySeq : Nat
  retryRow : Nat
  /-- slots in use at the peer's receive buffers, by VC -/
  used : FMap Nat
  /-- slots freed here and not yet reported, by VC -/
  freed : FMap Nat
  /-- slots of a transaction whose last slot has not come yet, by VC -/
  parts : FMap (List (List PWord))
  rx : List Txn
  txq : List Txn
  lastGood : Nat
  /-- device time of the last heartbeat received, and sent -/
  hbIn : Option Nat
  hbOut : Nat
  downAt : Nat
  trackers : List Tracker
  releases : List Release
  deriving DecidableEq, Repr

def yport0 (_ : Nat) : YPort :=
  { txSeq := 0, rxNext := 0, unacked := [], retryAt := none, retrySeq := 0, retryRow := 0, used := [],
    freed := [], parts := [], rx := [], txq := [], lastGood := 0, hbIn := none, hbOut := 0, downAt := 0,
    trackers := [], releases := [] }

/-- An entry of the pair table (R286): NEXT, and the operations not yet retired, oldest first: sequence,
FIRST_TIME, whether its tracker has finished. -/
structure PairEntry where
  next : Nat
  live : List (Nat × Nat × Bool)
  deriving DecidableEq, Repr

def pair0 (_ : Nat) : PairEntry := { next := 0, live := [] }

/-- The stored outcome of a non-idempotent operation (R288). -/
structure Outcome where
  /-- the status of a COMPLETION, or the SERIAL bit of a MSG_ACK -/
  status : Nat
  old : Option PWord
  reason : Option Nat
  deriving DecidableEq, Repr

/-- An entry of the duplicate filter (R288). -/
structure Filter where
  src : Nat
  tseq : Nat
  /-- the context ID that its packet carries (R374) -/
  ctx : Nat
  first : Nat
  hold : Bool
  outcome : Option Outcome
  deriving DecidableEq, Repr

/-- A request from another device that is being performed here: its transaction header. -/
structure Inbound where
  id : Nat
  port : Nat
  txn : Txn
  deriving DecidableEq, Repr

/-! ## Muster (R290 to R295) -/

/-- A query of the leader: target, its time, the neighbours asked, those that answered LOST, and whether
one answered ALIVE. -/
structure Query where
  target : Nat
  time : Nat
  asked : List Nat
  lost : List Nat
  alive : Bool
  deriving DecidableEq, Repr

/-- A committed change (R293): who committed it and its flood sequence, kind 1 member-down or 2
member-up, the target, the new MEPOCH and ACT_SWATH. -/
structure Commit where
  orig : Nat
  seq : Nat
  kind : Nat
  target : Nat
  mepoch : Nat
  act : Nat
  deriving DecidableEq, Repr

/-- The muster logic of D29. `table` is by coordinate: 0 absent, 1 member, 2 down, 3 shadow. -/
structure Muster where
  table : FMap Nat
  /-- suspicions raised here: target and time of the last SUSPECT -/
  suspects : List (Nat × Nat)
  queries : List Query
  /-- COMMITs that came out of order -/
  held : List Commit
  log : List Commit
  /-- changes committed and not yet delivered (R295) -/
  undelivered : List Commit
  /-- floods already passed on: originator and sequence -/
  seen : List (Nat × Nat)
  seq : Nat
  /-- links known to be down, by the coordinate and port of the end that reported them -/
  linksDown : List (Nat × Nat)
  /-- a committed table waits for a free slot (R278) -/
  late : Bool
  /-- the shadow that this device partners (R302) -/
  shadow : Option Nat
  /-- coordinates that have shown time skew or a cabling mismatch (R308) -/
  barred : List Nat
  /-- present-fields mask of the last heartbeat, by sender, as 1 + mask (R411) -/
  masks : FMap Nat
  /-- digest of the outbound transactions of the present swath, and that of the swath that ended last, with
  its number (R303, R304) -/
  outDigest : Word
  lastDigest : Word
  lastSwath : Nat
  deriving DecidableEq, Repr

def muster0 : Muster :=
  { table := [], suspects := [], queries := [], held := [], log := [], undelivered := [], seen := [],
    seq := 0, linksDown := [], late := false, shadow := none, barred := [], masks := [], outDigest := 0#64,
    lastDigest := 0#64, lastSwath := 0 }

/-- What the block sends out. Newest first in the state's list. -/
inductive Emit where
  /-- a frame of yoke port p, in its 34 words (R268) -/
  | yoke (p : Nat) (ws : List PWord)
  /-- a frame of a function with its tag (R310, R311, R319, R328) -/
  | host (t : HostTag) (b : HostOut)
  /-- a PFC pause or resume (R312) -/
  | pfc (port prio : Nat) (pause : Bool)
  /-- a PTP Delay_Req with its sequence number (R344) -/
  | delayReq (port transport domain mac seq : Nat)
  /-- a sideband response or request of the module: COMMAND, sequence number, STATUS, payload (R538) -/
  | sideband (cmd seq status : Nat) (payload : List Byte)
  /-- an SPDM response to its requester (R498 to R501) -/
  | spdm (to_ : SpdmFrom) (r : SpdmResp)
  /-- a boot fetch request: byte offset, length, attempt nonce (R489) -/
  | bootFetch (offset length : Nat) (nonce : Word)
  /-- data on the JTAG scan port (R511) -/
  | jtag (value : Word)
  /-- the answer to a register access at a control-tier offset: its value and status (R12, R14) -/
  | access (a : Nat) (value : Word) (status : Nat)
  /-- any other message: the rule that sends it, where to, its words -/
  | other (rule dst : Nat) (words : List Word)
  deriving DecidableEq, Repr

end Sys2Proof.Machine
end

