-- ==== Sys2Proof/Machine/Events.lean ====
section
/-! DEFINITION. The operands of commands that name a unit, a link or a step of a longer sequence. -/

namespace Sys2Proof.Machine

/-- A shared block: granary slice, HBM channel group, transport engine, yoke port, CXL port. -/
inductive Block where
  | slice (f : Nat)
  | group (g : Nat)
  | engine (e : Nat)
  | yoke (p : Nat)
  | cxl (p : Nat)
  deriving DecidableEq, Repr

/-- A link that may send an idle check flit: outgoing link d of core c, or the drove link from a router to a
neighbour. -/
inductive IdleLink where
  | furrow (c d : Nat)
  | drove (x y : Nat)
  deriving DecidableEq, Repr

/-- A step of a firmware update: the write of SEC_FWUPD.GO, the end of the check of the new image, the end of
programming and reading back. -/
inductive FwStep where
  | go (who : Who) (base : Nat)
  | checked
  | programmed (flashOk : Bool)
  deriving DecidableEq, Repr

/-- What training finds at a CXL port (R240, R241): MODE, the links or halves up and under IDE, and the GiB mapped. -/
structure CxlLink where
  port : Nat
  mode : Nat
  up0 : Bool
  up1 : Bool
  ide0 : Bool
  ide1 : Bool
  cap0 : Nat
  cap1 : Nat
  deriving DecidableEq, Repr

/-- A failing bit, line or wire that a memory or link test finds (R426): the unit, coded as TEST_FAIL.UNIT, the
physical plot, or the field for a granary line, the core in the plot, the address and bit of an array, the direction
of a link with its wire as the bit. -/
structure Defect where
  unit : Nat
  x : Nat
  core : Nat
  addr : Nat
  bit : Nat
  dir : Nat
  deriving DecidableEq, Repr

/-- A step of a start (R461): its beginning; the firmware verified, with the key pairs that its
body lists for profile records and debug tokens; the records read; the stacks trained or one of them not; the fields powered, their seams calibrated
and their plots tested, with the failing bits and wires, the plots that fail with the unit found, and the sweeps of the
seams; the routing version loaded; HBM tested, with the rows repaired (word 0 of their entries, R433) and the pages retired; the CXL links trained; the yoke ports; ready. -/
inductive StartEv where
  | begin_
  | firmware (profKeys debugKeys : List (List Byte))
  | records
  | stacks (ok : Bool)
  | fields (defects : List Defect) (badPlots : List (Nat × Nat)) (sweeps : List Sweep)
  | routing (v : RouteVer)
  | memory (repairs : List Word) (pages : List Nat)
  | cxl (ports : List CxlLink)
  | yoke
  | ready
  deriving DecidableEq, Repr

/-- A privileged unit whose copies disagree (R456): the steward's active pair, with whether the test then fails it; the
security engine, with whether this is the second mismatch of an operation; the muster logic; a routing-table store, with
whether its version loads again; a sheaf adder, with plot, node, round, and the folded word. -/
inductive PrivUnit where
  | steward (failed : Bool)
  | security (second : Bool)
  | muster
  | route (loads : Bool)
  | adder (plot node round word : Nat)
  deriving DecidableEq, Repr

/-- A step of a planned warm reset (R468): the request, from the sideband with its sequence number or from STW_RESET;
the freeze; the reset, with whether the CXL memory keeps its contents. -/
inductive PlanEv where
  | ask (sb : Option Nat)
  | freeze
  | reset (cxlKept : Bool)
  deriving DecidableEq, Repr

/-- A JTAG access (R504, R511): a register read, a register write, or the halt and release of the steward cores. -/
inductive JtagOp where
  | read (a : Nat)
  | write (a : Nat) (v : Word)
  | halt (on : Bool)
  deriving DecidableEq, Repr

end Sys2Proof.Machine
end

