-- ==== Sys2Proof/Syntax.lean ====
section
/-! DEFINITION. The commands of the block, one constructor for each row of spec/opcode_table.json, in its order. The block
takes no encoded words: a command is what the row names, with the unit it names and the circumstances that come from
outside the model. Operands: `c` core, `t` thread, `f` what the instruction fetch finds (core instructions) or a field;
`id` number of a packet or a frame that the model holds; `p i` port and place in its receive buffer; `n r` function and
ring; `v` the value written; `seq` the sideband sequence number, `sb` the same where a register write can ask too; `miss` whether the TC table access misses. Each meaning in Machine/
says what the others are. -/

namespace Sys2Proof

open Sys2Proof.Machine

/-- The commands (spec/opcode_table.json): first the core instructions of R48, each issued by a thread of a core, then the
events of the module. -/
inductive Instr where
  /-- NOP (R48) -/
  | nop (c t : Nat) (f : Fetch)
  /-- BR (R48) -/
  | br (c t : Nat) (f : Fetch)
  /-- JR (R48) -/
  | jr (c t : Nat) (f : Fetch)
  /-- DBNZ (R48) -/
  | dbnz (c t : Nat) (f : Fetch)
  /-- END (R38) -/
  | end_ (c t : Nat) (f : Fetch)
  /-- TRAP (R48) -/
  | trap (c t : Nat) (f : Fetch)
  /-- ADD (R48) -/
  | add (c t : Nat) (f : Fetch)
  /-- SUB (R48) -/
  | sub (c t : Nat) (f : Fetch)
  /-- MUL (R48) -/
  | mul (c t : Nat) (f : Fetch)
  /-- MULHU (R48) -/
  | mulhu (c t : Nat) (f : Fetch)
  /-- AND (R48) -/
  | and (c t : Nat) (f : Fetch)
  /-- OR (R48) -/
  | or (c t : Nat) (f : Fetch)
  /-- XOR (R48) -/
  | xor (c t : Nat) (f : Fetch)
  /-- SHL (R48) -/
  | shl (c t : Nat) (f : Fetch)
  /-- SHR (R48) -/
  | shr (c t : Nat) (f : Fetch)
  /-- SAR (R48) -/
  | sar (c t : Nat) (f : Fetch)
  /-- MIN (R48) -/
  | min (c t : Nat) (f : Fetch)
  /-- MAX (R48) -/
  | max (c t : Nat) (f : Fetch)
  /-- ADDI (R48) -/
  | addi (c t : Nat) (f : Fetch)
  /-- ANDI (R48) -/
  | andi (c t : Nat) (f : Fetch)
  /-- ORI (R48) -/
  | ori (c t : Nat) (f : Fetch)
  /-- XORI (R48) -/
  | xori (c t : Nat) (f : Fetch)
  /-- SHLI (R48) -/
  | shli (c t : Nat) (f : Fetch)
  /-- SHRI (R48) -/
  | shri (c t : Nat) (f : Fetch)
  /-- SARI (R48) -/
  | sari (c t : Nat) (f : Fetch)
  /-- LI (R48) -/
  | li (c t : Nat) (f : Fetch)
  /-- LSI (R48) -/
  | lsi (c t : Nat) (f : Fetch)
  /-- LD (R48) -/
  | ld (c t : Nat) (f : Fetch)
  /-- ST (R48) -/
  | st (c t : Nat) (f : Fetch)
  /-- VADD (R48) -/
  | vadd (c t : Nat) (f : Fetch)
  /-- VSUB (R48) -/
  | vsub (c t : Nat) (f : Fetch)
  /-- VMUL (R48) -/
  | vmul (c t : Nat) (f : Fetch)
  /-- VFMA (R48) -/
  | vfma (c t : Nat) (f : Fetch)
  /-- VMAX (R49) -/
  | vmax (c t : Nat) (f : Fetch)
  /-- VMIN (R49) -/
  | vmin (c t : Nat) (f : Fetch)
  /-- VEXP2 (R50) -/
  | vexp2 (c t : Nat) (f : Fetch)
  /-- VRCP (R50) -/
  | vrcp (c t : Nat) (f : Fetch)
  /-- VCVT (R94) -/
  | vcvt (c t : Nat) (f : Fetch)
  /-- VBC (R48) -/
  | vbc (c t : Nat) (f : Fetch)
  /-- VMOVS (R48) -/
  | vmovs (c t : Nat) (f : Fetch)
  /-- VINS (R48) -/
  | vins (c t : Nat) (f : Fetch)
  /-- VREDADD (R51) -/
  | vredadd (c t : Nat) (f : Fetch)
  /-- VREDMAX (R49) -/
  | vredmax (c t : Nat) (f : Fetch)
  /-- VMOV (R48) -/
  | vmov (c t : Nat) (f : Fetch)
  /-- VLD (R119) -/
  | vld (c t : Nat) (f : Fetch)
  /-- VST (R119) -/
  | vst (c t : Nat) (f : Fetch)
  /-- CMP (R48) -/
  | cmp (c t : Nat) (f : Fetch)
  /-- VCMP (R48) -/
  | vcmp (c t : Nat) (f : Fetch)
  /-- PAND (R48) -/
  | pand (c t : Nat) (f : Fetch)
  /-- POR (R48) -/
  | por (c t : Nat) (f : Fetch)
  /-- PXOR (R48) -/
  | pxor (c t : Nat) (f : Fetch)
  /-- PNOT (R48) -/
  | pnot (c t : Nat) (f : Fetch)
  /-- PMOV (R48) -/
  | pmov (c t : Nat) (f : Fetch)
  /-- PGET (R48) -/
  | pget (c t : Nat) (f : Fetch)
  /-- TAKE (R52) -/
  | take (c t : Nat) (f : Fetch)
  /-- PUT (R53) -/
  | put (c t : Nat) (f : Fetch)
  /-- QCNT (R48) -/
  | qcnt (c t : Nat) (f : Fetch)
  /-- CHOOSE (R55) -/
  | choose (c t : Nat) (f : Fetch)
  /-- SEND (R57) -/
  | send (c t : Nat) (f : Fetch)
  /-- SELECT (R61) -/
  | select (c t : Nat) (f : Fetch)
  /-- RETIRE (R62) -/
  | retire (c t : Nat) (f : Fetch)
  /-- SHEAF (R219) -/
  | sheaf (c t : Nat) (f : Fetch)
  /-- ROPEN (R137) -/
  | ropen (c t : Nat) (f : Fetch)
  /-- RCLOSE (R137) -/
  | rclose (c t : Nat) (f : Fetch)
  /-- TLD (R63) -/
  | tld (c t : Nat) (f : Fetch)
  /-- TST (R63) -/
  | tst (c t : Nat) (f : Fetch)
  /-- TADD (R63) -/
  | tadd (c t : Nat) (f : Fetch)
  /-- TATOM (R64) -/
  | tatom (c t : Nat) (f : Fetch)
  /-- TWAIT (R48) -/
  | twait (c t : Nat) (f : Fetch)
  /-- TSTAT (R48) -/
  | tstat (c t : Nat) (f : Fetch)
  /-- FENCE (R68) -/
  | fence (c t : Nat) (f : Fetch)
  /-- MMA (R69) -/
  | mma (c t : Nat) (f : Fetch)
  /-- MDRAIN (R102) -/
  | mdrain (c t : Nat) (f : Fetch)
  /-- MWAIT (R48) -/
  | mwait (c t : Nat) (f : Fetch)
  /-- MCFG (R90) -/
  | mcfg (c t : Nat) (f : Fetch)
  /-- CSRR (R48) -/
  | csrr (c t : Nat) (f : Fetch)
  /-- CSRW (R48) -/
  | csrw (c t : Nat) (f : Fetch)
  /-- RDTIME (R398) -/
  | rdtime (c t : Nat) (f : Fetch)
  /-- SWATH (R48) -/
  | swath (c t : Nat) (f : Fetch)
  /-- TASK_FIRING (R33) -/
  | taskFiring (c : Nat)
  /-- TASK_ENABLE_CHECK (R31) -/
  | taskEnableCheck (c n : Nat) (v : Word)
  /-- FAULT_CLEAR (R75) -/
  | faultClear (c : Nat)
  /-- STALL_CLEAR (R77) -/
  | stallClear (c : Nat) (v : Word)
  /-- TRANSFER_REQUEST_INJECT (R65) -/
  | transferRequestInject (c t : Nat)
  /-- REQUEST_COMPLETE (R66) -/
  | requestComplete (c tag : Nat)
  /-- MMA_START (R80) -/
  | mmaStart (c : Nat)
  /-- MMA_COMPLETE (R81) -/
  | mmaComplete (c : Nat)
  /-- DRAIN_START (R80) -/
  | drainStart (c : Nat)
  /-- DRAIN_COMPLETE (R82) -/
  | drainComplete (c : Nat)
  /-- SCRATCHPAD_ACCESS_PROMOTE (R122) -/
  | scratchpadAccessPromote (c prec since : Nat)
  /-- SCRUB_STEP (R143) -/
  | scrubStep (c : Nat) (ups : List (Nat × BitVec 72))
  /-- REGION_CFG_WRITE (R128) -/
  | regionCfgWrite (c n : Nat) (v : Word)
  /-- MESSAGE_LANDING (R133) -/
  | messageLanding (c : Nat)
  /-- BOUNCE_LANDING (R218) -/
  | bounceLanding (c : Nat)
  /-- MOVER_STEP (R174) -/
  | moverStep (c : Nat)
  /-- LINK_MOVE (R159) -/
  | linkMove (c d : Nat)
  /-- FLIT_ARRIVAL (R149) -/
  | flitArrival (c d : Nat) (par : BitVec 4) (sb : Fetch)
  /-- CREDIT_RETURN (R160) -/
  | creditReturn (c d : Nat) (sb : Fetch)
  /-- SWITCH_RUN_START (R158) -/
  | switchRunStart (c : Nat)
  /-- SCHEDULE_WRITE (R158) -/
  | scheduleWrite (c e : Nat) (v : Word)
  /-- INTAKE_STOP (R182) -/
  | intakeStop (c : Nat)
  /-- DISCARD_DRAIN (R185) -/
  | discardDrain (c : Nat)
  /-- QUIESCENT_DRAIN (R182) -/
  | quiescentDrain (n : Nat)
  /-- QUIESCENT_DRAIN_TIMEOUT (R183) -/
  | quiescentDrainTimeout (n : Nat)
  /-- PROBE_SEND (R168) -/
  | probeSend (c task : Nat)
  /-- PROBE (R170) -/
  | probe (c : Nat) (pkt : Option Nat)
  /-- SEAM_RECALIBRATION (R153) -/
  | seamRecalibration (g : Nat) (e : SeamEv)
  /-- PACKET_HOP (R200) -/
  | packetHop (id : Nat) (hdr pay : List (Nat × Fetch))
  /-- ESCAPE_TIMEOUT (R201) -/
  | escapeTimeout (id : Nat)
  /-- LOAD (R258) -/
  | load (id : Nat)
  /-- STORE (R258) -/
  | store (id : Nat)
  /-- ADD_PACKET (R259) -/
  | addPacket (id : Nat)
  /-- SWAP (R264) -/
  | swap (id : Nat)
  /-- FETCH_ADD (R264) -/
  | fetchAdd (id : Nat)
  /-- CAS (R264) -/
  | cas (id : Nat)
  /-- MESSAGE (R210) -/
  | message (id : Nat)
  /-- LAND_WAIT_EXPIRE (R215) -/
  | landWaitExpire (c : Nat)
  /-- WINDOW_HOLD_TIMEOUT (R214) -/
  | windowHoldTimeout (plot id : Nat)
  /-- ORDER_ENTRY_EXPIRE (R211) -/
  | orderEntryExpire (plot i : Nat)
  /-- LOAD_DATA (R66) -/
  | loadData (id : Nat)
  /-- COMPLETION (R66) -/
  | completion (id : Nat)
  /-- MSG_ACK (R216) -/
  | msgAck (id : Nat)
  /-- BOUNCE (R218) -/
  | bounce (id : Nat)
  /-- ORDER_END (R211) -/
  | orderEnd (id : Nat)
  /-- TRACK_TIMEOUT (R207) -/
  | trackTimeout (c : Nat) (x : TimerRef)
  /-- SHEAF_PACKET (R221) -/
  | sheafPacket (id : Nat)
  /-- COMBINE_WAIT_EXPIRE (R222) -/
  | combineWaitExpire (plot node round : Nat)
  /-- SHEAF_DONE (R223) -/
  | sheafDone (id : Nat)
  /-- EPOCH_SWITCH (R205) -/
  | epochSwitch (id : Nat)
  /-- ROUTING_CHANGE_PLANNED (R205) -/
  | routingChangePlanned (v : RouteVer)
  /-- EPOCH_DRAIN_TIMEOUT (R205) -/
  | epochDrainTimeout
  /-- ROUTING_CHANGE_ABRUPT (R206) -/
  | routingChangeAbrupt (v : RouteVer)
  /-- GRANARY_ACCEPT (R551) -/
  | granaryAccept (id : Nat) (ups : List (Nat × Nat × Nat))
  /-- GRANARY_FILL (R249) -/
  | granaryFill (f id : Nat)
  /-- HBM_LINE_DONE (R235) -/
  | hbmLineDone (g i : Nat) (ups : List (Nat × Nat))
  /-- HBM_PATROL_SCRUB (R238) -/
  | hbmPatrolScrub (k : Nat) (ups : List (Nat × Nat))
  /-- ROW_BUS_BEAT (R256) -/
  | rowBusBeat (f i : Nat)
  /-- GRN_INV (R253) -/
  | grnInv (field : Nat) (v : Word)
  /-- GRN_INV_ALL (R253) -/
  | grnInvAll (field : Nat) (v : Word)
  /-- CXL_RESPONSE (R242) -/
  | cxlResponse (p i : Nat) (poi : List Nat)
  /-- CXL_TIMEOUT (R243) -/
  | cxlTimeout (p i : Nat)
  /-- CXL_LINK_DOWN (R243) -/
  | cxlLinkDown (p h : Nat)
  /-- DATA_FRAME (R269) -/
  | dataFrame (p fec : Nat) (ws : List PWord)
  /-- IDLE_FRAME (R268) -/
  | idleFrame (p : Nat) (ws : List PWord)
  /-- RETRY (R269) -/
  | retry (p : Nat) (ws : List PWord)
  /-- RETRY_REPEAT (R269) -/
  | retryRepeat (p : Nat)
  /-- HEARTBEAT (R291) -/
  | heartbeat (p : Nat) (ws : List PWord) (latency : Nat)
  /-- HEARTBEAT_SEND (R290) -/
  | heartbeatSend
  /-- TRAIN_ID (R272) -/
  | trainId (p : Nat) (ws : List PWord)
  /-- LINK_DOWN (R271) -/
  | linkDown (p : Nat) (lostLock : Bool)
  /-- LINK_RETRAIN (R271) -/
  | linkRetrain (p : Nat)
  /-- REMOTE_TRANSACTION (R283) -/
  | remoteTransaction (p i : Nat)
  /-- REMOTE_RESPONSE (R283) -/
  | remoteResponse (p i : Nat)
  /-- TRACKER_TIMEOUT (R287) -/
  | trackerTimeout (p num : Nat)
  /-- BUSY_RESEND (R288) -/
  | busyResend (p num : Nat)
  /-- RELEASE_SEND (R287) -/
  | releaseSend (p : Nat)
  /-- FILTER_ENTRY_EXPIRE (R288) -/
  | filterEntryExpire (src tseq : Nat)
  /-- TEAM_EPOCH_FREE (R278) -/
  | teamEpochFree
  /-- LINK_EVENT (R290) -/
  | linkEvent (p i : Nat)
  /-- HEARTBEAT_MISS (R291) -/
  | heartbeatMiss (target : Nat)
  /-- SUSPECT_REPEAT (R291) -/
  | suspectRepeat (target : Nat)
  /-- SUSPECT (R292) -/
  | suspect (p i : Nat)
  /-- QUERY (R292) -/
  | query (p i : Nat)
  /-- ALIVE (R292) -/
  | alive (p i : Nat)
  /-- LOST (R292) -/
  | lost (p i : Nat)
  /-- CONFIRM_TIMEOUT (R292) -/
  | confirmTimeout (target : Nat)
  /-- COMMIT (R293) -/
  | commit (p i : Nat)
  /-- SHADOW_REPORT (R304) -/
  | shadowReport (p i : Nat)
  /-- ADMIT_REQUEST (R305) -/
  | admitRequest (p i : Nat)
  /-- REMOTE_SHEAF_CONTRIBUTION (R297) -/
  | remoteSheafContribution (id : Nat)
  /-- FRAME_RECEIVE (R310) -/
  | frameReceive (fec : Nat) (f : HFrame)
  /-- PFC_PAUSE (R312) -/
  | pfcPause (port prio : Nat) (on : Bool)
  /-- CONNECT (R323) -/
  | connect (id : Nat) (miss : Bool)
  /-- CLOSE (R323) -/
  | close (id : Nat) (miss : Bool)
  /-- CLOSE_ACK (R320) -/
  | closeAck (id : Nat) (miss : Bool)
  /-- KHT_ACK (R325) -/
  | khtAck (id : Nat) (miss : Bool)
  /-- KHT_WRITE (R326) -/
  | khtWrite (id : Nat) (miss : Bool)
  /-- KHT_READ (R326) -/
  | khtRead (id : Nat) (miss : Bool)
  /-- SUBMIT (R330) -/
  | submit (id : Nat) (miss : Bool)
  /-- KHT_RESET (R323) -/
  | khtReset (id : Nat) (miss : Bool)
  /-- KHT_RETRANSMIT_TIMEOUT (R325) -/
  | khtRetransmitTimeout (n t psn : Nat)
  /-- KHT_ACK_TIMER (R324) -/
  | khtAckTimer (n t : Nat)
  /-- TC_QUIET_EXPIRE (R323) -/
  | tcQuietExpire (n t : Nat)
  /-- ROCE_SEND (R328) -/
  | roceSend (id : Nat) (miss : Bool)
  /-- RDMA_WRITE (R329) -/
  | rdmaWrite (id : Nat) (miss : Bool)
  /-- RDMA_READ_REQUEST (R329) -/
  | rdmaReadRequest (id : Nat) (miss : Bool)
  /-- ROCE_ACK (R328) -/
  | roceAck (id : Nat) (miss : Bool)
  /-- COMMAND_LAND (R330) -/
  | commandLand (n r i : Nat) (entry : List Word) (tc : Option Nat)
  /-- COMMAND_NOP (R335) -/
  | commandNop (n r : Nat)
  /-- COMMAND_ACK (R335) -/
  | commandAck (n r : Nat)
  /-- RUN (R336) -/
  | run (n r : Nat)
  /-- SEED (R359) -/
  | seed (n r : Nat)
  /-- SEED_ADMIT_ONLY (R359) -/
  | seedAdmitOnly (n r : Nat)
  /-- SEED_EVICT (R360) -/
  | seedEvict (n r : Nat)
  /-- TEARDOWN (R376) -/
  | teardown (n r : Nat)
  /-- COMMAND_RESERVED (R333) -/
  | commandReserved (n r : Nat)
  /-- DISPATCH_RETRY (R336) -/
  | dispatchRetry (n ser : Nat)
  /-- FN_COMPLETE (R339) -/
  | fnComplete (n : Nat) (who : Who) (v : Word)
  /-- FUNCTION_DISABLE (R342) -/
  | functionDisable (n : Nat)
  /-- DRAIN_LIMIT_EXPIRE (R342) -/
  | drainLimitExpire (n : Nat)
  /-- FUNCTION_ENABLE (R343) -/
  | functionEnable (n : Nat)
  /-- PTP_SYNC (R394) -/
  | ptpSync (port transport domain seq kind : Nat) (t1 : Word) (err : Int)
  /-- PPS_EDGE (R397) -/
  | ppsEdge
  /-- TIME_HOLDOVER (R395) -/
  | timeHoldover (ref10Absent : Bool)
  /-- TIME_COPY_CORRECT (R398) -/
  | timeCopyCorrect (f : Nat)
  /-- TIME_SET (R396) -/
  | timeSet (v : Word)
  /-- SWATH_BOUNDARY (R379) -/
  | swathBoundary
  /-- SWATH_APPLY (R380) -/
  | swathApply (v : Word)
  /-- SWATH_SYNC (R385) -/
  | swathSync (id : Nat)
  /-- CLEAN (R382) -/
  | clean (id : Nat)
  /-- MEMBER (R385) -/
  | member (id : Nat)
  /-- SWITCH_START (R368) -/
  | switchStart (n : Nat)
  /-- FN_SWITCH (R369) -/
  | fnSwitch (n : Nat) (who : Who) (v : Word)
  /-- SEED_START (R363) -/
  | seedStart (id : Nat)
  /-- SEED_STOP_TIMEOUT (R363) -/
  | seedStopTimeout (c : Nat)
  /-- CHUNK_CHECK (R364) -/
  | chunkCheck (c : Nat) (isRef : Bool) (chunk : Nat)
  /-- SEEDED (R366) -/
  | seeded (id : Nat)
  /-- START (R366) -/
  | start (id : Nat)
  /-- SEED_TIMEOUT (R366) -/
  | seedTimeout (n : Nat)
  /-- CONTEXT_FAIL (R378) -/
  | contextFail (n : Nat)
  /-- CONTEXT_ID_QUIET (R374) -/
  | contextIdQuiet (b : Nat)
  /-- FREQUENCY_CHANGE (R399) -/
  | frequencyChange (fs : List Nat) (n : Nat) (sweeps : List Sweep)
  /-- N_REQ_WRITE (R399) -/
  | nReqWrite (f : Nat) (v : Word)
  /-- THERMAL_SAMPLE (R404) -/
  | thermalSample (die hbm : List Nat)
  /-- THROTTLE_STEP (R404) -/
  | throttleStep (f : Nat) (sweeps : List Sweep)
  /-- QUADRANT_OFF (R405) -/
  | quadrantOff (d : Nat) (v : RouteVer)
  /-- QUADRANT_RETURN (R408) -/
  | quadrantReturn (d : Nat) (testOk : Bool) (v : RouteVer)
  /-- THERMAL_TRIP (R409) -/
  | thermalTrip (hbm : Bool)
  /-- FIELD_RAIL_SHORT (R411) -/
  | fieldRailShort (f : Nat) (v : RouteVer)
  /-- COOLING (R414) -/
  | cooling (seq cls : Nat)
  /-- COOLING_TIMEOUT (R414) -/
  | coolingTimeout
  /-- POWER_SAMPLE (R416) -/
  | powerSample (w : Nat) (sweeps : List Sweep)
  /-- DORMANT_ENTER (R418) -/
  | dormantEnter (sb : Option Nat)
  /-- WAKE (R420) -/
  | wake (sb : Option Nat) (us : Nat) (bad : List (Nat × Nat)) (defects : List Defect) (sweeps : List Sweep)
    (links : List CxlLink) (v : RouteVer)
  /-- ROTATION_STEP (R446) -/
  | rotationStep (bad : List (Nat × Nat)) (defects : List Defect) (v : RouteVer)
  /-- IDLE_CHECK_FLIT (R447) -/
  | idleCheckFlit (l : IdleLink) (sb : Fetch)
  /-- PLOT_FAILED (R441) -/
  | plotFailed (j : Nat) (tested : Option Nat)
  /-- RE_PLACEMENT (R442) -/
  | rePlacement (dead : Bool) (v : RouteVer)
  /-- PLOT_MOVE (R437) -/
  | plotMove
  /-- MOVE_DRAIN_TIMEOUT (R439) -/
  | moveDrainTimeout
  /-- PAIR_COMPARE (R451) -/
  | pairCompare (c : Nat) (bad : List (Nat × Nat))
  /-- PAIR_TIMEOUT (R452) -/
  | pairTimeout (c : Nat) (bad : List (Nat × Nat))
  /-- DIGEST_START (R453) -/
  | digestStart (n r : Nat)
  /-- DIGEST_COMPLETE (R453) -/
  | digestComplete (n r : Nat)
  /-- SWEEP (R455) -/
  | sweep
  /-- PRIVILEGED_MISMATCH (R456) -/
  | privilegedMismatch (u : PrivUnit)
  /-- WEAR_MEASURE (R458) -/
  | wearMeasure (q : Nat) (margin trend eol : BitVec 16) (v : RouteVer)
  /-- POWER_UP (R533) -/
  | powerUp (vin : Nat)
  /-- MOD_EN_LOW (R534) -/
  | modEnLow
  /-- RESET_N (R533) -/
  | resetN (high cxlKept : Bool)
  /-- START_SEQUENCE (R461) -/
  | startSequence (e : StartEv)
  /-- START_STEP_TIMEOUT (R462) -/
  | startStepTimeout
  /-- UNDERVOLTAGE_TRIP (R535) -/
  | undervoltageTrip (vin : Nat)
  /-- OVERVOLTAGE_OFF (R531) -/
  | overvoltageOff (vin : Nat)
  /-- ALERT_REASSERT (R526) -/
  | alertReassert
  /-- DEVICE_WARM_RESET (R466) -/
  | deviceWarmReset (hw cxlKept : Bool)
  /-- PLANNED_WARM_RESET (R468) -/
  | plannedWarmReset (e : PlanEv)
  /-- WARM_RESET_COLD_START (R468) -/
  | warmResetColdStart (sb : Option Nat)
  /-- COLD_START_REQUEST (R463) -/
  | coldStartRequest (seq : Nat)
  /-- POWER_CYCLE (R479) -/
  | powerCycle
  /-- LONG_FIRING (R470) -/
  | longFiring (c t : Nat)
  /-- NO_PROGRESS (R470) -/
  | noProgress (n : Nat)
  /-- OVERDUE_REQUEST (R470) -/
  | overdueRequest (n ser : Nat)
  /-- SHARED_BLOCK_HANG (R470) -/
  | sharedBlockHang (b : Block)
  /-- FREEZE (R472) -/
  | freeze (id : Nat)
  /-- FROZEN (R472) -/
  | frozen (id : Nat)
  /-- FREEZE_TIMEOUT (R472) -/
  | freezeTimeout (n c : Nat)
  /-- CORE_RESET (R466) -/
  | coreReset (id : Nat)
  /-- PLOT_RESET (R466) -/
  | plotReset (id : Nat)
  /-- RESET_DONE (R471) -/
  | resetDone (id : Option Nat) (plot : Bool) (unit : Nat)
  /-- GLEAN (R474) -/
  | glean (id : Nat)
  /-- GLEANED (R474) -/
  | gleaned (id : Nat)
  /-- GLEAN_RELEASE (R474) -/
  | gleanRelease (n : Nat)
  /-- SUSPECT_REPLAY (R477) -/
  | suspectReplay (n : Nat) (bad : List Nat)
  /-- SUSPECT_REPLAY_VERDICT (R478) -/
  | suspectReplayVerdict (n : Nat)
  /-- BOOT_FETCH (R488) -/
  | bootFetch
  /-- FETCH_DATA (R489) -/
  | fetchData (offset units : Nat) (nonce : Word) (data : List Byte)
  /-- FETCH_ERROR (R489) -/
  | fetchError (offset len : Nat) (nonce : Word)
  /-- FETCH_RESEND (R489) -/
  | fetchResend (offset : Nat)
  /-- FETCH_ATTEMPT_TIMEOUT (R488) -/
  | fetchAttemptTimeout
  /-- BOOT_SERVICE (R541) -/
  | bootService (r : List Byte)
  /-- FIRMWARE_UPDATE (R490) -/
  | firmwareUpdate (x : FwStep)
  /-- COMMIT_SVN (R491) -/
  | commitSvn (who : Who)
  /-- LMS_RESERVE (R495) -/
  | lmsReserve (back : List Byte)
  /-- GET_VERSION (R498) -/
  | getVersion (x : SpdmFrom) (seq : Nat)
  /-- GET_CAPABILITIES (R498) -/
  | getCapabilities (x : SpdmFrom) (seq : Nat)
  /-- NEGOTIATE_ALGORITHMS (R498) -/
  | negotiateAlgorithms (x : SpdmFrom) (seq : Nat)
  /-- GET_DIGESTS (R498) -/
  | getDigests (x : SpdmFrom) (seq : Nat)
  /-- GET_CERTIFICATE (R498) -/
  | getCertificate (x : SpdmFrom) (seq : Nat)
  /-- CHALLENGE (R500) -/
  | challenge (x : SpdmFrom) (seq : Nat)
  /-- GET_MEASUREMENTS (R499) -/
  | getMeasurements (x : SpdmFrom) (seq : Nat) (idx : List Nat)
  /-- HSS_HALF_REQUEST (R500) -/
  | hssHalfRequest (x : SpdmFrom) (seq : Nat)
  /-- CERT_HSS_REQUEST (R500) -/
  | certHssRequest (x : SpdmFrom) (seq : Nat)
  /-- DEBUG_CHALLENGE (R505) -/
  | debugChallenge (sb : Option Nat)
  /-- DEBUG_TOKEN (R505) -/
  | debugToken (sb : Option Nat) (b : List Byte)
  /-- DECOMMISSION (R507) -/
  | decommission (sb : Option Nat) (b : List Byte)
  /-- TEAM_RECORD (R539) -/
  | teamRecord (seq : Nat) (w : Word)
  /-- FUNCTION_RECORD (R540) -/
  | functionRecord (seq : Nat) (b : List Byte)
  /-- STATUS (R539) -/
  | status (seq : Nat)
  /-- LOG_READ (R539) -/
  | logRead (seq offset len : Nat)
  /-- RETIRED_PAGES (R539) -/
  | retiredPages (seq first : Nat)
  /-- I3C_ADDRESS_ASSIGN (R537) -/
  | i3cAddressAssign (addr : Nat)
  /-- RC_READ (R516) -/
  | rcRead (who : Who) (a size : Nat)
  /-- REGISTER_WRITE (R12) -/
  | registerWrite (who : Who) (a : Nat) (v : Word) (size : Nat)
  /-- CXL_LINK_RETRAIN (R243) -/
  | cxlLinkRetrain (p h : Nat)
  /-- HOST_LINK_CHANGE (R309) -/
  | hostLinkChange (port : Nat) (up : Bool)
  /-- MISSING_COMMIT_REQUEST (R293) -/
  | missingCommitRequest (p i : Nat)
  /-- VIN_LOSS (R531) -/
  | vinLoss (vin : Nat)
  /-- DEBUG_NONCE_EXPIRE (R505) -/
  | debugNonceExpire
  /-- NEXT_BOTTOM_TREE_READY (R497) -/
  | nextBottomTreeReady
  /-- PROFILE_RECORD_REPLACE (R413) -/
  | profileRecordReplace (b : List Byte)
  /-- JTAG_ACCESS (R511) -/
  | jtagAccess (op : JtagOp)
  /-- PTP_DELAY_RESP (R344) -/
  | ptpDelayResp (port transport domain seq : Nat) (t4 : Word) (err : Int)
  /-- IMAGE_ADMITTED (R359) -/
  | imageAdmitted (n : Nat)
  /-- TSEQ_RETIRE (R286) -/
  | tseqRetire (dst tseq : Nat)
  /-- SEED_CLEAR_COMPLETE (R363) -/
  | seedClearComplete (c : Nat)
  deriving DecidableEq, Repr

end Sys2Proof
end

