-- ==== Sys2Proof/Config.lean ====
section
/-! DEFINITION. The constants the spec leaves open. Each is opaque: nothing can evaluate it or prove a
value of it. A step that needs a fresh open value applies one to the state's draw counter. -/

namespace Sys2Proof.Config

/-- A free 64-bit value, by draw. -/
opaque freeWord : Nat → BitVec 64

/-- A free choice among outcomes, by draw: the user takes it modulo the number of outcomes. -/
opaque freePick : Nat → Nat

/-- A free string of bytes read as a number, by draw: certificates, signatures, nonces. -/
opaque freeBytes : Nat → Nat

/-- The contents of an output tile that the spec calls undefined (R102, R114), by draw and element. -/
opaque freeTile : Nat → Nat → BitVec 64

/-- SHA-384 of the boot ROM (R499), whose contents the spec does not give. -/
opaque romDigest : Nat

/-- A composite signature that the module makes over a signed message, by draw (R493). -/
opaque freeSig : Nat → List (BitVec 8) → Nat

end Sys2Proof.Config
end

