-- ==== Sys2Proof/Machine/RegMap.lean ====
section
/-! DEFINITION. Where registers lie (R509, R517) and what they read after reset. Offsets of the core
window and the plot window are relative to the window; all others are control-tier offsets. -/

namespace Sys2Proof.Machine

/-! ## Core window: CORE 0x0000, FUR 0x2000, SPD 0x4000, DRV 0x5000 -/

def oState : Nat := 0x0008
def oFault : Nat := 0x0010
def oSeat : Nat := 0x0018
def oTqLimit : Nat := 0x0020
def oMcfg : Nat := 0x0028
def oMconv : Nat := 0x0030
def oMunit : Nat := 0x0038
def oTqStat (k : Nat) : Nat := 0x0040 + 8 * k
def oTaskCfg (n : Nat) : Nat := 0x0100 + 0x20 * n
def oTaskIn (n : Nat) : Nat := 0x0108 + 0x20 * n
def oTaskOut (n : Nat) : Nat := 0x0110 + 0x20 * n
def oTaskStat (n : Nat) : Nat := 0x0118 + 0x20 * n
def oQ (n : Nat) : Nat := 0x0300 + 8 * n
def oQstat (n : Nat) : Nat := 0x0380 + 8 * n
def oAwBase (n : Nat) : Nat := 0x0400 + 0x10 * n
def oAwLimit (n : Nat) : Nat := 0x0408 + 0x10 * n
def oStall (t c : Nat) : Nat := 0x0800 + 0x80 * t + 8 * c
def oStallClr : Nat := 0x0A00
def oMslotSum (n : Nat) : Nat := 0x0C00 + 0x10 * n
def oMslotHist (n : Nat) : Nat := 0x0C08 + 0x10 * n
def oFurCtl : Nat := 0x2000
def oFurStat : Nat := 0x2008
def oFurSilo : Nat := 0x2010
def oFurProbe : Nat := 0x2018
def oFurFlits : Nat := 0x2020
def oFurPtr : Nat := 0x2028
def oFurQcfg (n : Nat) : Nat := 0x2100 + 8 * n
def oFurQspill (n : Nat) : Nat := 0x2180 + 8 * n
def oFurSched (e : Nat) : Nat := 0x2800 + 8 * e
def oRegion (n : Nat) : Nat := 0x4000 + 0x10 * n
def oRegionPtr (n : Nat) : Nat := 0x4008 + 0x10 * n
def oSpdEcc : Nat := 0x4100
def oSpdScrub : Nat := 0x4108
def oSpdStat : Nat := 0x4110
def oMsgCnt : Nat := 0x5000
def oMsgErr : Nat := 0x5008
def oOrder : Nat := 0x5010
def oDrvRing (n : Nat) : Nat := 0x5100 + 8 * n
def oTagCfg (k : Nat) : Nat := 0x5200 + 0x10 * k
def oTagCnt (k : Nat) : Nat := 0x5208 + 0x10 * k

/-- Reset values of the core window (CORE_TQ_LIMIT, FUR_CTL, SPD_SCRUB; every other register 0).
(DESIGN CHOICE: assumption 2) -/
def coreReset (o : Nat) : Word :=
  if o = oTqLimit then 0x0000208208208208#64
  else if o = oFurCtl then 0x1000008000000000#64
  else if o = oSpdScrub then 0x8000000000000100#64
  else 0#64

/-! ## Plot window -/

def oPlotCtl : Nat := 0x000
def oPlotEpoch : Nat := 0x008
def oRouteStat : Nat := 0x010
def oPlotOrder : Nat := 0x018
def oSheafStat : Nat := 0x020
def oSheafCfg (n : Nat) : Nat := 0x100 + 0x10 * n
def oSheafKids (n : Nat) : Nat := 0x108 + 0x10 * n

/-- Reset values of the plot window. PLOT_EPOCH names version 0 loaded once the start has loaded it.
(DESIGN CHOICE: assumption 2) -/
def plotReset (o : Nat) : Word := if o = oPlotCtl then 0x0100400800C80000#64 else 0#64

/-! ## Blocks -/

def aGrn (f : Nat) : Nat := 0x000200000000 + 0x1000000 * f + 0x100000
def aGrnStat (f : Nat) : Nat := aGrn f
def aGrnEcc (f : Nat) : Nat := aGrn f + 0x008
def aGrnInv (f : Nat) : Nat := aGrn f + 0x020
def aGrnInvAll (f : Nat) : Nat := aGrn f + 0x028
def aGrnPart (f n : Nat) : Nat := aGrn f + 0x100 + 8 * n
def aHbmStat (k : Nat) : Nat := 0x000300000000 + 0x10000 * k
def aHbmLastUe (k : Nat) : Nat := 0x000300000008 + 0x10000 * k
def aHbmScrub (k : Nat) : Nat := 0x000300000010 + 0x10000 * k
def aCxlStat (p : Nat) : Nat := 0x000400000000 + 0x10000 * p
def aCxlErr (p : Nat) : Nat := 0x000400000008 + 0x10000 * p
def aHostPortCfg : Nat := 0x000500000000
def aHostPortStat : Nat := 0x000500000008
def aHostPfc : Nat := 0x000500000010
def aHostKht : Nat := 0x000500000018
def aHostEngine (k : Nat) : Nat := 0x000500000040 + 8 * k
def aHostPtpCfg : Nat := 0x000500000080
def aHostPtpStat : Nat := 0x000500000088
/-- Register of function n at offset o of its window (R509). -/
def aFn (n o : Nat) : Nat := 0x000500100000 + 0x1000 * n + o
def fnCtl : Nat := 0x000
def fnStat : Nat := 0x008
def fnMac : Nat := 0x010
def fnIp4 : Nat := 0x018
def fnNet : Nat := 0x020
def fnPart : Nat := 0x028
def fnSlotBase : Nat := 0x030
def fnSlotCfg : Nat := 0x038
def fnReplay : Nat := 0x040
def fnComplete : Nat := 0x048
def fnCount : Nat := 0x050
def fnCmds : Nat := 0x058
def fnCtx : Nat := 0x060
def fnCtxStat : Nat := 0x068
def fnSeedStat : Nat := 0x070
def fnSwitch : Nat := 0x078
def fnPair : Nat := 0x080
def fnGleanCfg : Nat := 0x088
def fnGleanStat : Nat := 0x090
def fnRecov : Nat := 0x098
def fnCringBase (r : Nat) : Nat := 0x100 + 0x10 * r
def fnCringCtl (r : Nat) : Nat := 0x108 + 0x10 * r
def fnHwBase (w : Nat) : Nat := 0x200 + 0x10 * w
def fnHwLimit (w : Nat) : Nat := 0x208 + 0x10 * w
def fnImg (e : Nat) : Nat := 0x300 + 8 * e
def fnDigCfg (r : Nat) : Nat := 0x400 + 0x20 * r
def fnDigSize (r : Nat) : Nat := 0x408 + 0x20 * r
def fnDigValue (r : Nat) : Nat := 0x410 + 0x20 * r
def fnDigStat (r : Nat) : Nat := 0x418 + 0x20 * r
def aYokeStat (p : Nat) : Nat := 0x000600000000 + 0x1000 * p
def aYokeErr (p : Nat) : Nat := 0x000600000008 + 0x1000 * p
def aYokeTrack (p : Nat) : Nat := 0x000600000010 + 0x1000 * p
def aYokeCtl : Nat := 0x00060000C000
def aYokeDup : Nat := 0x00060000C008
def aYokeDupOcc : Nat := 0x00060000C010
def aYokeTepoch : Nat := 0x00060000C018
def aYokeTwBase (n : Nat) : Nat := 0x00060000C100 + 0x10 * n
def aYokeTwLimit (n : Nat) : Nat := 0x00060000C108 + 0x10 * n
def aMstShape : Nat := 0x000600100000
def aMstState : Nat := 0x000600100008
def aMstCount : Nat := 0x000600100010
def aMstEvent : Nat := 0x000600100018
def aMstTiming : Nat := 0x000600100020
def aMstShadow : Nat := 0x000600100028
def aMstShadowErr : Nat := 0x000600100030
def aMstColl : Nat := 0x000600100038
def aMstCollDenied : Nat := 0x000600100040
def aStwBoot : Nat := 0x000700000000
def aStwReset : Nat := 0x000700000008
def aStwStartCfg : Nat := 0x000700000010
def aStwHangCfg : Nat := 0x000700000018
def aStwLadder : Nat := 0x000700000020
def aStwCtxBusy (k : Nat) : Nat := 0x000700000100 + 8 * k
def aSecStat : Nat := 0x000700100000
def aSecLms : Nat := 0x000700100008
def aSecFwupd : Nat := 0x000700100010
def aSecVerify : Nat := 0x000700100018
def aTimeNow : Nat := 0x000700200000
def aTimeCfg : Nat := 0x000700200008
def aTimeSet : Nat := 0x000700200010
def aTimePpsSec : Nat := 0x000700200018
def aTimeStat : Nat := 0x000700200020
def aSwathCfg : Nat := 0x000700300000
def aSwathApply : Nat := 0x000700300008
def aSwathNow : Nat := 0x000700300010
def aSwathStart : Nat := 0x000700300018
def aPwrProfile : Nat := 0x000700400000
def aPwrDomain : Nat := 0x000700400008
def aPwrTherm : Nat := 0x000700400010
def aPwrStat : Nat := 0x000700400018
def aPwrDormant : Nat := 0x000700400020
def aClkField (f : Nat) : Nat := 0x000700500000 + 8 * f
def aClkSeam : Nat := 0x000700500040
def aClkSsc : Nat := 0x000700500048
def aTestCfg : Nat := 0x000800000000
def aTestRotStat : Nat := 0x000800000008
def aTestReserve : Nat := 0x000800000010
def aTestFail : Nat := 0x000800000018
def aTestPriv : Nat := 0x000800000020
def aTestWear (q : Nat) : Nat := 0x000800000100 + 8 * q

/-- The function whose register window holds a control-tier offset, and the offset in it. -/
def fnOf (a : Nat) : Option (Nat × Nat) :=
  if 0x000500100000 ≤ a ∧ a < 0x000500140000 then
    some ((a - 0x000500100000) / 0x1000, (a - 0x000500100000) % 0x1000)
  else none

/-- Reset values of every other block, as the register tables give them.
(DESIGN CHOICE: assumption 2) -/
def csrReset (a : Nat) : Word :=
  if a / 0x100000000 = 0x0002 then
    (if 0x100100 ≤ a % 0x1000000 ∧ a % 0x1000000 < 0x100300 then 0xFFFF#64 else 0#64)
  else if a / 0x100000000 = 0x0003 then
    (if a % 0x10000 = 0x10 ∧ a < aHbmScrub 12 then 0x8000000000000018#64 else 0#64)
  else if a = aHostPortCfg then 0x0000B9A400002400#64
  else if a = aHostPfc then 0x0000040003000100#64
  else if a = aHostKht then 0x00327000010007D0#64
  else if a = aYokeCtl then 0x00C8300002000000#64
  else if a = aMstTiming then 0x0064300004B00000#64
  else if a = aStwStartCfg then 0x5A#64
  else if a = aStwHangCfg then 0xC000003203E80200#64
  else if a = aTimeCfg then 0x0000006400640000#64
  else if a = aSwathCfg then 0x000003E8000003E8#64
  else if a = aPwrProfile then 0x0010000009600000#64
  else if a = aPwrDomain then 0x0000000020000000#64
  else if a = aPwrTherm then 0x00005F695A000000#64
  else if a = aClkSsc then 0x8000000000060140#64
  else if a = aTestCfg then 0x8000003018000000#64
  else match fnOf a with
    | some (_, o) =>
      if o = fnCtl then 0x0000000A00000000#64
      else if o = fnPair then 0x0000002000000000#64
      else if o = fnGleanCfg then 0x0080000000000000#64
      else 0#64
    | none => 0#64

/-- Where a control-tier offset leads (R509). -/
inductive Place where
  | core (i o : Nat)
  | plot (j o : Nat)
  | block (a : Nat)
  /-- beyond the map (R232) -/
  | none
  deriving DecidableEq, Repr

def placeOf (a : Nat) : Place :=
  let blk := a / 0x100000000
  let r := a % 0x100000000
  if blk = 0 then .core (r / 0x10000) (r % 0x10000)
  else if blk = 1 then .plot (r / 0x1000) (r % 0x1000)
  else if blk ≤ 8 then .block a
  else .none

end Sys2Proof.Machine
end

