-- ==== Sys2Proof/Machine/State.lean ====
section
/-! DEFINITION. The state of the module: every register, memory, queue and table the spec gives it, and the queue of
waiting commands; the state after reset; the reasons a command can stop. -/

namespace Sys2Proof.Machine

/-- The module. A register is the one home of its fields; a count that the spec defines over other state is computed
when it is read (Machine/CoreRegs.lean, Machine/RegStore.lean). -/
structure State where
  /-- commands that wait, first in, first out -/
  pending : List Instr
  /-- draws made from the free values of Config: the model's own field -/
  free : Nat
  /-- ordering code: 0 KPV6-H1, 1 KPV6-M1, 2 KPV6-G1 (R1) -/
  code : Nat
  /-- device time, the master counter in nanoseconds (R393) -/
  now : Word
  /-- quarter cycles counted in each field's clock (R386) -/
  qcyc : FMap Nat
  /-- cores by core index, plots by logical plot index (R3, R15) -/
  cores : FMap Core
  plots : FMap Plot
  /-- registers of blocks 0x0002 to 0x0008, by control-tier offset (R509) -/
  csr : FMap Word
  /-- packets in the drove network, oldest first, and the number the next one gets (R186) -/
  net : List Packet
  nextId : Nat
  /-- output ports of the routers, by 4 * router + direction (R196) -/
  arb : FMap Arb
  /-- physical plots of the logical plots, and the lost logical plots (R434, R435) -/
  place : FMap Nat
  lost : List Nat
  /-- reports to the steward, newest first -/
  notes : List Note
  /-- current swath (R379); the swath and the device time at which its period began to count (R380) -/
  swathNow : Nat
  swA : Nat
  swT : Nat
  /-- packets that wait on the pair lane, and the tags of compared requests (R451) -/
  pairQ : List PairPkt
  pairTags : List (Nat × Nat × Nat)
  /-- injection epoch of each edge unit, and the two routing versions (R204) -/
  edgeEpoch : FMap Nat
  ver0 : RouteVer
  ver1 : RouteVer
  chg : RouteChange
  /-- quiescent drains by function (R182) -/
  drains : FMap Drain
  /-- granary slices by field (R248) -/
  slices : FMap Slice
  /-- accesses waiting at the HBM channel groups and the CXL ports (R235, R243) -/
  hbmQ : FMap (List MemJob)
  cxlQ : FMap (List MemJob)
  /-- HBM bytes by tier offset, poisoned sectors by sector number, wrong code symbols of sectors, sectors awaiting
  repair (R233 to R237) -/
  hbm : FMap Byte
  hbmPoi : FMap Bool
  hbmErr : FMap Nat
  hbmRepair : List Nat
  /-- patrol scrub position of each stack, and the power-on time at which its pass began (R238) -/
  scrubPos : FMap Nat
  scrubT : FMap Nat
  /-- CXL bytes by tier offset and poisoned granules by granule number (R241, R242) -/
  cxl : FMap Byte
  cxlPoi : FMap Bool
  /-- loads for other devices and the host being gathered (R283) -/
  gathers : List Gather
  /-- yoke ports (R267 to R287); the two team tables and the device time of the last switch (R278) -/
  yports : FMap YPort
  team0 : TeamVer
  team1 : TeamVer
  teamTime : Nat
  /-- pair table by destination, duplicate filter, requests of other devices in progress (R286 to R288) -/
  pairTab : FMap PairEntry
  filter : List Filter
  inbound : List Inbound
  /-- the muster logic (R289 to R308) -/
  muster : Muster
  /-- what the module has sent, newest first -/
  outs : List Emit
  /-- host frames in the ingress buffer; transport contexts (R312, R318) -/
  ingress : List HFrame
  tcs : List Tc
  /-- priorities the peer has paused, and those this side has paused; packets held by a pause (R312) -/
  hostPaused : FMap Nat
  pauseSent : FMap Nat
  hostHeld : List Emit
  /-- functions (R314), the serial number of the next request, the functions' context IDs (R374) -/
  funs : FMap Fun
  nextSer : Nat
  ctxIds : FMap Nat
  /-- digests of the digest regions (R453) -/
  digs : List DigRun
  /-- plot resets of the last 24 hours: physical plot and device time (R479) -/
  plotResets : List (Nat × Nat)
  /-- device time at which each shared block last completed a request: slices from 0, CXL ports from 8, engines
  from 16, yoke ports from 32, channel groups from 64 (R470) -/
  blockDone : FMap Nat
  /-- seam lane groups: 0 in use, 1 failed, 2 fenced, 3 held, 4 failed and not used; their calibration (R153, R154,
  R389) -/
  seams : FMap Nat
  seamCal : FMap SeamCal
  /-- the field copies of device time (R398) -/
  copies : FMap Nat
  /-- the steward, the low-speed pins and the input, the security engine with fuses and boot flash -/
  stw : Steward
  pins : Pins
  sec : Sec
  deriving DecidableEq, Repr

/-- The module before its first start sequence: every register at its reset value, memories zero, D29 alone powered,
no command waiting.
(DESIGN CHOICE: assumption 1) -/
def State.reset : State :=
  { pending := [], free := 0, code := 0, now := 0#64, qcyc := [], cores := [], plots := [], csr := [], net := [],
    nextId := 0, arb := [], place := [], lost := [], notes := [], swathNow := 0, swA := 0, swT := 0, pairQ := [], pairTags := [],
    edgeEpoch := [], ver0 := { routeVer0 with valid := false }, ver1 := { routeVer0 with valid := false },
    chg := { step := 0, epoch := 0, time := 0 }, drains := [], slices := [], hbmQ := [], cxlQ := [], hbm := [],
    hbmPoi := [], hbmErr := [], hbmRepair := [], scrubPos := [], scrubT := [], cxl := [], cxlPoi := [], gathers := [], yports := [],
    team0 := teamVer0, team1 := teamVer0, teamTime := 0, pairTab := [], filter := [], inbound := [], muster := muster0,
    outs := [], ingress := [], tcs := [], hostPaused := [], pauseSent := [], hostHeld := [], funs := [], nextSer := 0,
    ctxIds := [], digs := [], plotResets := [], blockDone := [], seams := [], seamCal := [], copies := [], stw := steward0, pins := pins0,
    sec := sec0 }

/-- A step never faults: the spec gives every command of the table an effect, and a command whose conditions do not
hold changes nothing. No constructor, so nothing raises one. -/
inductive Fault where
  deriving DecidableEq, Repr

/-- Reasons a command has no meaning. -/
inductive Refusal where
  /-- the command of this mnemonic is not modelled; raised by Machine/Dispatch.lean for an arm without a meaning
  (safe: the step stops) -/
  | notModelled (mnemonic : String)
  deriving DecidableEq, Repr

end Sys2Proof.Machine
end

