-- ==== Sys2Proof/Machine/Ops.lean ====
section
/-! DEFINITION. The named operations over a core: its registers, its scratchpad with error protection
and poison, its queues and counts, its faults. Every meaning goes through them. -/

namespace Sys2Proof.Machine

/-! ## Grid, cores, plots -/

/-- Logical core rows of the ordering code: 160, or 120 on a KPV6-M1 (R2). -/
def coreRows (s : State) : Nat := if s.code = 1 then 120 else 160

/-- Logical cores of the ordering code (R1, R3).
(DESIGN CHOICE: assumption 1) -/
def numCores (s : State) : Nat := 160 * coreRows s

/-- Logical plots of the ordering code (R1).
(DESIGN CHOICE: assumption 1) -/
def numPlots (s : State) : Nat := 40 * (coreRows s / 4)

/-- The logical plot that holds a core (R15). -/
def plotOf (c : Nat) : Nat := (c / 160 / 4) * 40 + c % 160 / 4

/-- The core's place in its plot: (x mod 4) + 4 * (y mod 4) (R15, R219). -/
def localBit (c : Nat) : Nat := c % 160 % 4 + 4 * (c / 160 % 4)

/-- Core number of place b of plot j. -/
def coreAt (j b : Nat) : Nat := ((j / 40) * 4 + b / 4) * 160 + (j % 40) * 4 + b % 4

/-- Physical plot of a logical plot in the defect-free arrangement (R434): same row and column. -/
def place0 (j : Nat) : Nat := 42 * (j / 40) + j % 40

/-- Physical plot, as 42 * row + column, of a logical plot (R16, R434). -/
def physOf (s : State) (j : Nat) : Nat := fget place0 s.place j

/-- The logical plot that a placement puts on a physical plot: the inverse of `fget place0`. -/
def invPlace (m : FMap Nat) (x : Nat) : Option Nat :=
  match m.find? (fun e => decide (e.2 = x)) with
  | some e => some e.1
  | none =>
    let j := 40 * (x / 42) + x % 42
    if decide (x % 42 < 40) && !m.any (fun e => decide (e.1 = j)) then some j else none

/-- Field of a physical plot (R421). -/
def fieldOf (phys : Nat) : Nat := 2 * (phys / 42 / 14) + phys % 42 / 21

/-- Quadrant domain number 4f + q of a physical plot (R421). -/
def quadOf (phys : Nat) : Nat :=
  4 * fieldOf phys + 2 * (if phys / 42 % 14 ≥ 7 then 1 else 0)
    + (if phys % 42 % 21 ≥ 11 then 1 else 0)

/-- A core is present: on the ordering code's grid and not in a lost plot (R3, R435). -/
def coreOk (s : State) (c : Nat) : Bool := decide (c < numCores s) && !s.lost.contains (plotOf c)

/-- A plot is present (R3, R435). -/
def plotOk (s : State) (j : Nat) : Bool := decide (j < numPlots s) && !s.lost.contains j

def zeroNat (_ : Nat) : Nat := 0

/-- Field cycles counted so far in a field: four quarter cycles each. -/
def cycles (s : State) (f : Nat) : Nat := fget zeroNat s.qcyc f / 4

/-- Field cycles of a core's field.
(DESIGN CHOICE: assumption 12) -/
def coreCycles (s : State) (c : Nat) : Nat := cycles s (fieldOf (physOf s (plotOf c)))

def getCore (s : State) (c : Nat) : Core := fget core0 s.cores c

def setCore (s : State) (c : Nat) (k : Core) : State := { s with cores := fset core0 s.cores c k }

def updCore (s : State) (c : Nat) (f : Core → Core) : State := setCore s c (f (getCore s c))

def getPlot (s : State) (j : Nat) : Plot := fget plot0 s.plots j

def setPlot (s : State) (j : Nat) (p : Plot) : State := { s with plots := fset plot0 s.plots j p }

def updPlot (s : State) (j : Nat) (f : Plot → Plot) : State := setPlot s j (f (getPlot s j))

/-- Set a plot's progress mark (R470). -/
def progressMark (s : State) (j : Nat) : State := updPlot s j (fun p => { p with progress := true })

/-- A shared block completes a request (R470). -/
def blockServed (s : State) (b : Nat) : State := { s with blockDone := fset zeroNat s.blockDone b s.now.toNat }

/-- Report to the steward. -/
def note (s : State) (n : Note) : State := { s with notes := n :: s.notes }

/-! ## The repair map (R432, R433) -/

/-- The copy in use: the valid one with the higher SEQ; none when neither is valid.
(DESIGN CHOICE: assumption 60) -/
def curMap (s : State) : Option RepairCopy :=
  let a := s.stw.mapA
  let b := s.stw.mapB
  if a.valid && (!b.valid || decide (a.seq ≥ b.seq)) then some a
  else if b.valid then some b else none

def mapEntries (s : State) : List (Word × Word) := ((curMap s).map (·.entries)).getD []

/-- TYPE, row, column and DETAIL of an entry (R433). -/
def entType (e : Word × Word) : Nat := bits e.1 63 56
def entRow (e : Word × Word) : Nat := bits e.1 47 40
def entCol (e : Word × Word) : Nat := bits e.1 39 32
def entDetail (e : Word × Word) : Nat := bits e.1 27 0

/-! ## Registers -/

/-- A register of the core window as stored. -/
def creg (k : Core) (o : Nat) : Word := fget coreReset k.regs o

def setCreg (k : Core) (o : Nat) (v : Word) : Core :=
  { k with regs := fset coreReset k.regs o v }

/-- Bits [hi:lo] of a core register. -/
def cfld (k : Core) (o hi lo : Nat) : Nat := bits (creg k o) hi lo

def setCfld (k : Core) (o hi lo v : Nat) : Core := setCreg k o (setBits (creg k o) hi lo v)

/-- Add to a counting field that saturates. -/
def satCfld (k : Core) (o hi lo n : Nat) : Core :=
  setCfld k o hi lo (satAdd (2 ^ (hi - lo + 1) - 1) (cfld k o hi lo) n)

/-- Add to a counting field that wraps. -/
def wrapCfld (k : Core) (o hi lo n : Nat) : Core := setCfld k o hi lo (cfld k o hi lo + n)

def preg (p : Plot) (o : Nat) : Word := fget plotReset p.regs o
def setPreg (p : Plot) (o : Nat) (v : Word) : Plot := { p with regs := fset plotReset p.regs o v }
def pfld (p : Plot) (o hi lo : Nat) : Nat := bits (preg p o) hi lo
def setPfld (p : Plot) (o hi lo v : Nat) : Plot := setPreg p o (setBits (preg p o) hi lo v)
def satPfld (p : Plot) (o hi lo n : Nat) : Plot :=
  setPfld p o hi lo (satAdd (2 ^ (hi - lo + 1) - 1) (pfld p o hi lo) n)

/-- A register of a block, by control-tier offset, as stored. -/
def csrGet (s : State) (a : Nat) : Word := fget csrReset s.csr a
def csrSet (s : State) (a : Nat) (v : Word) : State := { s with csr := fset csrReset s.csr a v }
def csrFld (s : State) (a hi lo : Nat) : Nat := bits (csrGet s a) hi lo
def setCsrFld (s : State) (a hi lo v : Nat) : State := csrSet s a (setBits (csrGet s a) hi lo v)
def satCsrFld (s : State) (a hi lo n : Nat) : State :=
  setCsrFld s a hi lo (satAdd (2 ^ (hi - lo + 1) - 1) (csrFld s a hi lo) n)
def wrapCsrFld (s : State) (a hi lo n : Nat) : State := setCsrFld s a hi lo (csrFld s a hi lo + n)

/-! ## Probe state -/

def threshold (k : Core) : Nat := cfld k oFurCtl 47 32 * 64
def blockedCnt (k : Core) (n : Nat) : Nat := cfld k (oTaskStat n) 27 0
def getTP (k : Core) (n : Nat) : TaskProbe := fget taskProbe0 k.taskProbes n
def setTP (k : Core) (n : Nat) (p : TaskProbe) : Core :=
  { k with taskProbes := fset taskProbe0 k.taskProbes n p }

/-! ## Threads -/

def getThread (k : Core) (t : Nat) : Thread := fget thread0 k.threads t
def setThread (k : Core) (t : Nat) (th : Thread) : Core :=
  { k with threads := fset thread0 k.threads t th }
def updThread (k : Core) (t : Nat) (f : Thread → Thread) : Core := setThread k t (f (getThread k t))

def zeroVec (_ : Nat) : Vec := 0#512
def zero8 (_ : Nat) : Byte := 0#8
def zero16 (_ : Nat) : BitVec 16 := 0#16

/-- Read a scalar register with its poison: s0 reads as zero (R21). -/
def rdS (th : Thread) (r : Nat) : PWord :=
  if r = 0 then ⟨0#64, false⟩ else ⟨fget zeroWord th.s r, bit th.sp r⟩

/-- Write a scalar register with its poison: a write to s0 is discarded (R21). -/
def wrS (th : Thread) (r : Nat) (v : PWord) : Thread :=
  if r = 0 then th
  else { th with s := fset zeroWord th.s r v.val, sp := setBit th.sp r v.poi }

/-- Read a vector register. -/
def rdV (th : Thread) (r : Nat) : Vec := fget zeroVec th.v r

/-- The poison bits of a vector register, one for each 64-bit word (R24). -/
def rdVp (th : Thread) (r : Nat) : Byte := fget zero8 th.vp r

def wrV (th : Thread) (r : Nat) (v : Vec) (p : Byte) : Thread :=
  { th with v := fset zeroVec th.v r v, vp := fset zero8 th.vp r p }

/-- Read a predicate register: p0 reads as 0xFFFF (R21). -/
def rdP (th : Thread) (r : Nat) : BitVec 16 := if r = 0 then 0xFFFF#16 else fget zero16 th.p r

/-- Write a predicate register: a write to p0 is discarded (R21). -/
def wrP (th : Thread) (r : Nat) (v : BitVec 16) : Thread :=
  if r = 0 then th else { th with p := fset zero16 th.p r v }

/-- A lane of a vector register is poisoned: the poison bit of its 64-bit word (R24). -/
def lanePoi (p : Byte) (k : Nat) : Bool := bit p (k / 2)

/-! ## Scratchpad words with error protection (R140 to R142) -/

def noPoi (_ : Nat) : Bool := false
def noFlip (_ : Nat) : BitVec 72 := 0#72

/-- Number of ones. -/
def popcount {n : Nat} (w : BitVec n) : Nat :=
  (List.range n).foldl (fun a k => a + (w.getLsbD k).toNat) 0

/-- The stored data of scratchpad word w, before error handling. -/
def spdRaw (k : Core) (w : Nat) : Word := BitVec.ofNat 64 (rdLE k.spd (8 * w) 8)

/-- Store a word whole: valid check bits, or the poison marker with data zero (R140, R142). -/
def spdStore (k : Core) (w : Nat) (v : PWord) : Core :=
  { k with
    spd := wrLE k.spd (8 * w) (if v.poi then 0 else v.val.toNat) 8
    spdPoi := fset noPoi k.spdPoi w v.poi
    spdFlip := fset noFlip k.spdFlip w 0#72 }

/-- A corrected single-bit error: CE_COUNT (R141). -/
def spdCE (k : Core) : Core := satCfld k oSpdEcc 63 48 1

/-- An uncorrectable word: rewritten as the poison marker, UE_COUNT, LAST_UE (R141). -/
def spdUE (k : Core) (w : Nat) : Core :=
  setCfld (setCfld (satCfld (spdStore k w ⟨0#64, true⟩) oSpdEcc 47 32 1) oSpdEcc 31 31 1)
    oSpdEcc 14 0 w

/-- Core c finds word w uncorrectable: the steward learns of it and keeps its line with the power-on time
(R141, R441). -/
def spdBad (s : State) (c w : Nat) : State :=
  note { setCore s c (spdUE (getCore s c) w) with
    stw := { s.stw with ueLines := (c, w / 32, s.stw.upNs) :: s.stw.ueLines } } (.spdUE c w)

/-- Read scratchpad word w of core c with the outcomes of R141. One flipped bit is corrected and the
word rewritten; two, or any flip of the poison marker, are uncorrectable; what three or more flips of
a valid word give is open: a detected error, a wrong correction, or no error seen.
(DESIGN CHOICE: assumption 20) -/
def spdRead (s : State) (c w : Nat) : State × PWord :=
  let k := getCore s c
  let fl := fget noFlip k.spdFlip w
  let poi := fget noPoi k.spdPoi w
  let raw := spdRaw k w
  let n := popcount fl
  let bad : State × PWord := (spdBad s c w, ⟨0#64, true⟩)
  if n = 0 then (s, ⟨raw, poi⟩)
  else if poi && decide (n ≤ 2) then bad
  else if n = 1 then (setCore s c (spdCE (spdStore k w ⟨raw, false⟩)), ⟨raw, false⟩)
  else if n = 2 then bad
  else
    let s := { s with free := s.free + 1 }
    let seen := raw ^^^ BitVec.ofNat 64 fl.toNat
    match Config.freePick (s.free - 1) % 4 with
    | 0 => (spdBad s c w, ⟨0#64, true⟩)
    | 1 =>
      let wrong := seen ^^^ BitVec.ofNat 64 (2 ^ (Config.freePick s.free % 72))
      (setCore s c (spdCE (spdStore k w ⟨wrong, false⟩)), ⟨wrong, false⟩)
    | 2 => (s, if seen = 0#64 then ⟨0#64, true⟩ else ⟨seen, false⟩)
    | _ => (s, ⟨seen, false⟩)

/-- Write part of scratchpad word w: the bits of the mask. Poison in the data stores the marker; a
partial write reads first, and a word that yields poison stays the marker (R142). -/
def spdWrite (s : State) (c w : Nat) (mask : Word) (v : PWord) : State :=
  if v.poi then updCore s c (fun k => spdStore k w ⟨0#64, true⟩)
  else if mask = BitVec.allOnes 64 then updCore s c (fun k => spdStore k w v)
  else
    let r := spdRead s c w
    if r.2.poi then r.1
    else updCore r.1 c
      (fun k => spdStore k w ⟨(r.2.val &&& ~~~mask) ||| (v.val &&& mask), false⟩)

/-! ## Order of scratchpad accesses (R116, R117, R121 to R123) -/

/-- The bank of a word (R116). -/
def bankOf (w : Nat) : Nat := (w / 32 + w % 32) % 32

/-- Bank cycles of an access to words: the most distinct words in one bank, at least one (R117). -/
def bankCycles (ws : List Nat) : Nat :=
  let ds := ws.eraseDups
  (List.range 32).foldl (fun a b => max a (ds.filter (fun w => decide (bankOf w = b))).length) 1

/-- An access of a precedence waits at core c: an mma that has not started; arrivals in the landing buffer, at the
landing stage or at the core's router; queue entries of a spilled queue; parts of a transfer; a thread held under
BANK; the scrubber (R121). -/
def accessWaits (s : State) (c prec : Nat) : Bool :=
  let k := getCore s c
  match prec with
  | 2 => (match k.mq with | m :: _ => !m.drain | [] => false)
  | 3 => !k.landBuf.isEmpty || !k.land.isEmpty || !k.bounces.isEmpty
      || s.net.any (fun p => decide (bits p.w0 47 46 = 0) && decide (bits p.w0 45 31 = c) && decide (p.at_ = physOf s (plotOf c)))
  | 4 => k.queues.any (fun e => e.2.spill)
  | 5 => k.threads.any (fun e => !e.2.parts.isEmpty)
  | 6 => k.threads.any (fun e => decide (e.2.cause = 4))
  | 7 => decide (cfld k oSpdScrub 63 63 = 1)
  | _ => false

/-- The scratchpad of core c is being cleared: nothing else uses it (R363 step 4). -/
def clearing (s : State) (c : Nat) : Bool :=
  match (getCore s c).seeding with
  | some v => !v.clean && decide (v.step = 2) && !v.cleared
  | none => false

/-- An access of a precedence may be served: none during a clear, drain writes always; any other unless a promoted
access of another source still waits (R122). -/
def padTurn (s : State) (c prec : Nat) : Bool :=
  !clearing s c && (decide (prec = 1) || (match (getCore s c).promoted.find? (fun p => accessWaits s c p.2) with
    | none => true
    | some p => decide (p.2 = prec)))

/-- An access of a precedence has been served: it waits no more. -/
def served (k : Core) (prec : Nat) : Core :=
  if k.promoted.any (fun p => decide (p.2 = prec)) then
    { k with promoted := k.promoted.eraseP (fun p => decide (p.2 = prec)) }
  else { k with waiting := k.waiting.eraseP (fun p => decide (p.2 = prec)) }

/-- Core c serves an access of a precedence. -/
def padServe (s : State) (c prec : Nat) : State :=
  if (getCore s c).promoted.isEmpty && (getCore s c).waiting.isEmpty then s
  else updCore s c (fun k => served k prec)

/-- The thread port can take an access: it serves none, and no promoted access goes first (R122, R123). -/
def portReady (s : State) (c : Nat) : Bool :=
  padTurn s c 6 && decide ((getCore s c).portFree ≤ coreCycles s c)

/-- The thread port serves an access of n bank cycles (R123, R124). -/
def portServe (s : State) (c n : Nat) : State :=
  let s := padServe s c 6
  if n ≤ 1 then s else updCore s c (fun k => { k with portFree := coreCycles s c + (n - 1) })

/-- Read `n` consecutive words upward from word address w, modulo 32,768 (R118). -/
def spdReadWords (s : State) (c w : Nat) : Nat → State × List PWord
  | 0 => (s, [])
  | n + 1 =>
    let r := spdRead s c (w % 32768)
    let q := spdReadWords r.1 c (w + 1) n
    (q.1, r.2 :: q.2)

/-- Write whole words upward from word address w, modulo 32,768. -/
def spdWriteWords (s : State) (c w : Nat) : List PWord → State
  | [] => s
  | v :: l => spdWriteWords (spdWrite s c (w % 32768) (BitVec.allOnes 64) v) c (w + 1) l

/-- Read `n` bytes (at most 8, inside one word) at byte address a, modulo 262,144 (R118): the value
and the word's poison. -/
def spdReadIn (s : State) (c a n : Nat) : State × PWord :=
  let a := a % 262144
  let r := spdRead s c (a / 8)
  (r.1, ⟨BitVec.ofNat 64 ((r.2.val.toNat >>> (8 * (a % 8))) % 2 ^ (8 * n)), r.2.poi⟩)

/-- Write `n` bytes (at most 8, inside one word) at byte address a, modulo 262,144. -/
def spdWriteIn (s : State) (c a n : Nat) (v : PWord) : State :=
  let a := a % 262144
  let sh := 8 * (a % 8)
  spdWrite s c (a / 8) (BitVec.ofNat 64 ((2 ^ (8 * n) - 1) <<< sh))
    ⟨BitVec.ofNat 64 ((v.val.toNat % 2 ^ (8 * n)) <<< sh), v.poi⟩

/-! ## Entries -/

/-- The four words of a queue entry (R27). -/
def entryWords (e : QEntry) : List PWord :=
  (List.range 4).map (fun k => ⟨BitVec.ofNat 64 (e.data.toNat >>> (64 * k)), bit e.poi k⟩)

/-- A queue entry of four words. -/
def wordsEntry (l : List PWord) : QEntry :=
  { data := BitVec.ofNat 256 (l.foldr (fun w a => w.val.toNat + 2 ^ 64 * a) 0)
    poi := BitVec.ofNat 4 (l.foldr (fun w a => w.poi.toNat + 2 * a) 0) }

/-! ## Faults (R75, R76) -/

/-- The recording rule of R75: a first record, or one more in MORE. -/
def recordFault (k : Core) (code task thread pc info : Nat) : Core :=
  if cfld k oFault 63 63 = 1 then satCfld k oFault 29 15 1
  else setCreg k oFault
    (setBits (setBits (setBits (setBits (setBits (setBits 0#64 63 63 1) 55 48 code) 47 44 task)
      43 42 thread) 41 30 pc) 14 0 info)

/-- The matrix unit at a fault or an abandoned stop (R114): queued commands discarded, commands in
progress abandoned, both tiles released with contents undefined (draws d and d + 1).
(DESIGN CHOICE: assumption 23) -/
def matrixAbandon (k : Core) (d : Nat) : Core :=
  { k with
    mq := []
    mma := none
    mmaTail := none
    drain := none
    tileA := { el := [], owner := none, int8 := k.tileA.int8, undef := some d, draining := false }
    tileB := { el := [], owner := none, int8 := k.tileB.int8, undef := some (d + 1),
               draining := false } }

/-- Bytes of an output row, by OUT_FMT (R104). -/
def outRowBytes (f : Nat) : Nat :=
  match f with
  | 0 => 256 | 1 => 128 | 2 => 64 | 3 => 64 | 4 => 32 | 5 => 32 | 6 => 32 | 7 => 32
  | 8 => 24 | 9 => 24 | 10 => 16 | _ => 128

def outIsMX (f : Nat) : Bool := decide (6 ≤ f ∧ f ≤ 10)

/-- Element j of output row r is this tile element (R106). -/
def drainEl (tr : Bool) (r j : Nat) : Nat := if tr then 32 * j + r else 32 * r + j

/-- Tile element e is written: its row bit and its column bit are 1 (R108). -/
def drainOn (mask : Word) (e : Nat) : Bool := bit mask (e / 32) && bit mask (32 + e % 32)

/-- The elements of output row r that a drain writes. -/
def drainCols (m : MatCmd) (r : Nat) : List Nat :=
  (List.range 32).filter (fun j => drainOn m.c (drainEl (bit m.b 12) r j))

/-- The bits of output row r that a drain writes, as a number (R106, R108). -/
def drainMask (m : MatCmd) (r : Nat) : Nat :=
  let wd := outRowBytes (bits m.b 3 0) / 4
  (drainCols m r).foldl (fun a j => a + (2 ^ wd - 1) <<< (wd * j)) 0

/-- Word address of output row r (R106). -/
def drainWord (m : MatCmd) (r : Nat) : Nat := (bits m.a 17 0 + r * (bits m.a 29 18 * 8)) / 8

/-- Write free values over the masked bits of `n` words: what an abandoned drain left there is undefined (R114). -/
def freeRow (s : State) (c w mask : Nat) : Nat → State
  | 0 => s
  | n + 1 =>
    let m := BitVec.ofNat 64 mask
    let s := if m = 0#64 then s
      else spdWrite { s with free := s.free + 1 } c (w % 32768) m ⟨Config.freeWord s.free, false⟩
    freeRow s c (w + 1) (mask / 2 ^ 64) n

/-- Free values over what a drain in progress may have written in part: the written elements of its rows, the scales
of the rows that have one, the row statistics of the rows whose bit is set (R107, R108, R110, R114). -/
def freeDrain (m : MatCmd) (c : Nat) (s : State) (r : Nat) : State :=
  let s := freeRow s c (drainWord m r) (drainMask m r) (outRowBytes (bits m.b 3 0) / 8)
  let x := bits m.a 62 48 * 8 + r
  let s := if outIsMX (bits m.b 3 0) && !(drainCols m r).isEmpty then
      spdWriteIn { s with free := s.free + 1 } c x 1 ⟨Config.freeWord s.free, false⟩ else s
  if bit m.b 14 && bit m.c r then
    spdWrite { s with free := s.free + 1 } c ((bits m.a 47 30 / 8 + r) % 32768) (BitVec.allOnes 64)
      ⟨Config.freeWord s.free, false⟩
  else s

/-- Abandon the matrix unit's work on a core (R114). -/
def abandonMatrix (s : State) (c : Nat) : State :=
  let k := getCore s c
  let s := { s with free := s.free + 2 }
  let s := match k.drain with
    | none => s
    | some d => (List.range 32).foldl (freeDrain d.cmd c) s
  updCore s c (fun k => matrixAbandon k (s.free - 2))

/-- A thread fault (R75): record it, mark the task faulted, stop firing and issue on all threads,
abandon the matrix unit's work (R114), report to the steward. -/
def threadFault (s : State) (c t task pc code info : Nat) : State :=
  let s := updCore s c (fun k =>
    { setCfld (recordFault k code task t pc info) (oTaskStat task) 31 30 3 with stopped := true })
  note (abandonMatrix s c) (.coreFault c code)

def ILLEGAL : Nat := 0x01
def RATE : Nat := 0x02
def BADQUEUE : Nat := 0x03
def BADTASK : Nat := 0x04
def POISON : Nat := 0x05
def BADXFER : Nat := 0x06
def BADMAT : Nat := 0x07
def TILEOWNER : Nat := 0x08
def BADRING : Nat := 0x09
def BADCSR : Nat := 0x0A
def SOFTTRAP : Nat := 0x0B
def IMEMERR : Nat := 0x0C

/-! ## Regions and rings (R126 to R137) -/

/-- Size in words of region n. -/
def regSize (k : Core) (n : Nat) : Nat := cfld k (oRegion n) 46 32 + 1
def regBase (k : Core) (n : Nat) : Nat := cfld k (oRegion n) 14 0
def regUse (k : Core) (n : Nat) : Nat := cfld k (oRegion n) 62 61
def regEn (k : Core) (n : Nat) : Bool := decide (cfld k (oRegion n) 63 63 = 1)

/-- Ring n exists: the region is enabled with USE 0 or 1 (R126). -/
def ringExists (k : Core) (n : Nat) : Bool := regEn k n && decide (regUse k n ≤ 1)

/-- Ring n is open (R137). -/
def ringOpen (k : Core) (n : Nat) : Bool := ringExists k n && decide (cfld k (oRegionPtr n) 63 63 = 1)

/-- Advance an offset and its wrap bit by n words (R130). -/
def advance (size p : Nat) (w : Bool) (n : Nat) : Nat × Bool :=
  if p + n ≥ size then (p + n - size, !w) else (p + n, w)

/-- Words between HEAD and TAIL (R130). -/
def occupied (k : Core) (n : Nat) : Nat :=
  let head := cfld k (oRegionPtr n) 14 0
  let tail := cfld k (oRegionPtr n) 46 32
  if cfld k (oRegionPtr n) 47 47 = cfld k (oRegionPtr n) 15 15 then tail - head
  else regSize k n - head + tail

def freeWords (k : Core) (n : Nat) : Nat := regSize k n - occupied k n

/-- Advance TAIL of region n (R130). -/
def advTail (k : Core) (n words : Nat) : Core :=
  let r := advance (regSize k n) (cfld k (oRegionPtr n) 46 32)
    (decide (cfld k (oRegionPtr n) 47 47 = 1)) words
  setCfld (setCfld k (oRegionPtr n) 46 32 r.1) (oRegionPtr n) 47 47 r.2.toNat

/-- Advance HEAD of region n. -/
def advHead (k : Core) (n words : Nat) : Core :=
  let r := advance (regSize k n) (cfld k (oRegionPtr n) 14 0)
    (decide (cfld k (oRegionPtr n) 15 15 = 1)) words
  setCfld (setCfld k (oRegionPtr n) 14 0 r.1) (oRegionPtr n) 15 15 r.2.toNat

/-- Advance SEL of region n. -/
def advSel (k : Core) (n words : Nat) : Core :=
  let r := advance (regSize k n) (cfld k (oRegionPtr n) 30 16)
    (decide (cfld k (oRegionPtr n) 31 31 = 1)) words
  setCfld (setCfld k (oRegionPtr n) 30 16 r.1) (oRegionPtr n) 31 31 r.2.toNat

/-- Set SEL equal to HEAD, as an extension's SEL is. -/
def selIsHead (k : Core) (n : Nat) : Core :=
  setCfld (setCfld k (oRegionPtr n) 30 16 (cfld k (oRegionPtr n) 14 0)) (oRegionPtr n) 31 31
    (cfld k (oRegionPtr n) 15 15)

def noRing (_ : Nat) : List RMsg := []

/-- The messages of ring n, oldest first, retired ones that are still held included. -/
def ringMsgs (k : Core) (n : Nat) : List RMsg := fget noRing k.rings n
def setRing (k : Core) (n : Nat) (l : List RMsg) : Core := { k with rings := fset noRing k.rings n l }

/-! ## Queues (R27 to R30, R172 to R181) -/

def getQueue (k : Core) (q : Nat) : Queue := fget queue0 k.queues q
def setQueue (k : Core) (q : Nat) (v : Queue) : Core := { k with queues := fset queue0 k.queues q v }

def qKind (k : Core) (q : Nat) : Nat := cfld k (oQ q) 63 61
def qExt (k : Core) (q : Nat) : Nat := cfld k (oQ q) 59 56

/-- The queue has an extension: EXT_EN and an enabled region of USE 2 (R139). -/
def hasExt (k : Core) (q : Nat) : Bool :=
  decide (cfld k (oQ q) 60 60 = 1) && regEn k (qExt k q) && decide (regUse k (qExt k q) = 2)

/-- Entries held in the extension (R138). -/
def extCount (k : Core) (q : Nat) : Nat := if hasExt k q then occupied k (qExt k q) / 4 else 0

/-- Entries an extension can hold. -/
def extCap (k : Core) (q : Nat) : Nat := if hasExt k q then regSize k (qExt k q) / 4 else 0

/-- Entries a silo sub-area holds: PAGES * 8 (R181). -/
def siloCap (k : Core) : Nat := cfld k oFurSilo 57 46 * 8

/-- Entries that hold a place in the silo sub-area: those there and those being read back, whose places are not free
until the read is done (FUR_QSPILL_n.SILO_COUNT). -/
def siloHeld (v : Queue) : Nat := v.silo.length + v.siloReading

/-- Free entries of the extension: those a silo read has reserved count as occupied (R175), and in
silo stage the free entries of the silo sub-area are added (R176). -/
def extFree (k : Core) (q : Nat) : Nat :=
  let v := getQueue k q
  (extCap k q - extCount k q - v.siloReading)
    + (if v.siloStage then siloCap k - siloHeld v else 0)

/-- The IN or OUT slot i of task n: in use, count, queue. -/
def slot (k : Core) (o i : Nat) : Bool × Nat × Nat :=
  (decide (cfld k o (16 * i + 15) (16 * i + 15) = 1), cfld k o (16 * i + 12) (16 * i + 8),
    cfld k o (16 * i + 3) (16 * i))

/-- The slots in use of a slot register, with their places. -/
def slots (k : Core) (o : Nat) : List (Nat × Nat × Nat) :=
  (List.range 4).filterMap (fun i =>
    let v := slot k o i
    if v.1 then some (i, v.2) else none)

/-- Entry i of a list of counts. -/
def nth (l : List Nat) (i : Nat) : Nat := l.getD i 0

/-- Room that a running firing has reserved in queue q and not yet put (R29). -/
def reservedRoom (k : Core) (q : Nat) : Nat :=
  (List.range 4).foldl (fun a t =>
    match (getThread k t).firing with
    | none => a
    | some f =>
      a + (slots k (oTaskOut f.task)).foldl
        (fun b v => if v.2.2 = q then b + (v.2.1 - nth f.puts v.1) else b) 0) 0

/-- A message may be reserved or selected by a new firing: landed, open, unselected, unreserved. -/
def msgAvail (m : RMsg) : Bool := !m.selected && m.resv.isNone

/-- available(q) of R29; 0 for a queue of any other kind than 1, 3 and 4, for which R29 defines none.
(DESIGN CHOICE: assumption 76) -/
def available (k : Core) (q : Nat) : Nat :=
  let v := getQueue k q
  if qKind k q = 4 then
    (List.range 16).foldl (fun a r =>
      if bit (creg k (oQ q)) (32 + r) && ringOpen k r then
        a + ((ringMsgs k r).filter msgAvail).length
      else a) 0
  else if qKind k q = 1 ∨ qKind k q = 3 then
    v.buf.length + extCount k q + v.silo.length + v.siloReading
  else 0

/-- room(q) of R29. -/
def room (k : Core) (q : Nat) : Nat :=
  let v := getQueue k q
  16 + (if v.spill then extFree k q else 0) - v.buf.length - reservedRoom k q

/-- Write an entry at the TAIL of queue q's extension (R138). -/
def extPush (s : State) (c q : Nat) (e : QEntry) : State :=
  let k := getCore s c
  let n := qExt k q
  let w := regBase k n + cfld k (oRegionPtr n) 46 32
  updCore (spdWriteWords s c w (entryWords e)) c (fun k => advTail k n 4)

/-- Read and remove the entry at the HEAD of queue q's extension (R138). -/
def extPop (s : State) (c q : Nat) : State × QEntry :=
  let k := getCore s c
  let n := qExt k q
  let w := regBase k n + cfld k (oRegionPtr n) 14 0
  let r := spdReadWords s c w 4
  (updCore r.1 c (fun k => selIsHead (advHead k n 4) n), wordsEntry r.2)

/-- The oldest entry of a queue of kind 1, 2 or 3 can be read now: the extension or the buffer holds
it; an entry still in the silo must return first (R174, R177). -/
def oldestReady (k : Core) (q : Nat) : Bool :=
  let v := getQueue k q
  decide (extCount k q > 0)
    || (decide (v.silo.length + v.siloReading = 0) && decide (v.buf.length > 0))

/-- Return one credit for a slot freed in a furrow target's buffer (R160, R175): it waits for CRET of
the outgoing link toward the neighbour whose link fed the target.
(DEDUCED: assumption 28) -/
def addCredit (k : Core) (target : Nat) : Core :=
  match fget zeroNat k.fedBy target with
  | 0 => k
  | d + 1 =>
    let l := fget link0 k.links d
    { k with links := fset link0 k.links d { l with cret := l.cret ++ [target] } }

/-- A queue that a probe spilled leaves spill state when its extension and silo are empty, no silo
request is outstanding and buffer plus reserved room make at most 16 (R180). -/
def unspill (k : Core) (q : Nat) : Core :=
  let v := getQueue k q
  if v.spill && !v.elastic && decide (extCount k q = 0) && v.silo.isEmpty
      && decide (v.siloReading = 0) && decide (v.buf.length + reservedRoom k q ≤ 16) then
    setQueue k q { v with spill := false, siloStage := false }
  else k

/-- Remove the head of queue q's buffer, returning the credit of a furrow input (R160). -/
def bufPop (k : Core) (q : Nat) : Core × QEntry :=
  let v := getQueue k q
  match v.buf with
  | [] => (k, ⟨0#256, 0#4⟩)
  | e :: l =>
    let k := setQueue k q { v with buf := l }
    (if qKind k q = 1 then addCredit k q else k, e)

/-- Append an entry to queue q's buffer. -/
def bufPush (k : Core) (q : Nat) (e : QEntry) : Core :=
  let v := getQueue k q
  setQueue k q { v with buf := v.buf ++ [e] }

/-- Read and remove the oldest entry of queue q: the extension HEAD when the extension is not empty,
else the buffer head (R30, R174). -/
def qRead (s : State) (c q : Nat) : State × QEntry :=
  let k := getCore s c
  if extCount k q > 0 then
    let r := extPop s c q
    (updCore r.1 c (fun k => unspill k q), r.2)
  else
    let r := bufPop k q
    (setCore s c (unspill r.1 q), r.2)

end Sys2Proof.Machine
end

