-- ==== Sys2Proof/Machine/Operands.lean ====
section
/-! DEFINITION. Instruction fields (R45), which of them an instruction may use (R47, R548), and the
issue of one instruction by a thread: fetch (R26), guard (R46, R47), effect, fault (R75), stall. -/

namespace Sys2Proof.Machine

abbrev Out := Host.Outcome State Fault Refusal

/-! ## Fields of the six formats (R45) -/

def fOp (w : BitVec 32) : Nat := bits w 31 24
def fD (w : BitVec 32) : Nat := bits w 23 19
def fA (w : BitVec 32) : Nat := bits w 18 14
def fB (w : BitVec 32) : Nat := bits w 13 9
def fSub (w : BitVec 32) : Nat := bits w 8 4
/-- IMM10 as an unsigned field. -/
def fImm10 (w : BitVec 32) : Nat := bits w 13 4
/-- IMM10, sign-extended to 64 bits. -/
def fImm10s (w : BitVec 32) : Word := (BitVec.ofNat 10 (fImm10 w)).signExtend 64
def fImm15 (w : BitVec 32) : Nat := bits w 18 4
/-- IMM15, sign-extended to 64 bits. -/
def fImm15s (w : BitVec 32) : Word := (BitVec.ofNat 15 (fImm15 w)).signExtend 64
def fQn (w : BitVec 32) : Nat := bits w 18 15
def fMode (w : BitVec 32) : Nat := bits w 14 12
def fQo (w : BitVec 32) : Nat := bits w 23 20
def fQc (w : BitVec 32) : Nat := bits w 19 16
def fQa (w : BitVec 32) : Nat := bits w 15 12
def fQb (w : BitVec 32) : Nat := bits w 11 8
def xA (w : BitVec 32) : Nat := bits w 23 19
def xB (w : BitVec 32) : Nat := bits w 18 14
def xC (w : BitVec 32) : Nat := bits w 13 9
def xTq (w : BitVec 32) : Nat := bits w 8 6
def xFlags (w : BitVec 32) : Nat := bits w 5 4

/-- The opcodes of R48; every other OP is reserved.
(DESIGN CHOICE: assumption 7) -/
def opListed (op : Nat) : Bool :=
  decide (op ≤ 0x05) || decide (0x10 ≤ op ∧ op ≤ 0x1B) || decide (0x20 ≤ op ∧ op ≤ 0x28)
    || decide (0x30 ≤ op ∧ op ≤ 0x31) || decide (0x40 ≤ op ∧ op ≤ 0x4E)
    || decide (0x50 ≤ op ∧ op ≤ 0x51) || decide (0x60 ≤ op ∧ op ≤ 0x67)
    || decide (0x70 ≤ op ∧ op ≤ 0x72) || decide (op = 0x80) || decide (0x90 ≤ op ∧ op ≤ 0x95)
    || decide (0xA0 ≤ op ∧ op ≤ 0xA5) || decide (op = 0xB0) || decide (0xC0 ≤ op ∧ op ≤ 0xC3)
    || decide (0xD0 ≤ op ∧ op ≤ 0xD3)

/-! ## Reserved fields (R548): each shape says which bits of [23:4] must be zero. -/

def resNone (_ : BitVec 32) : Bool := true
/-- RR without operands: nop, end. -/
def resRR0 (w : BitVec 32) : Bool := decide (bits w 23 4 = 0)
/-- RR with A only: jr, retire, ropen, rclose, mcfg. -/
def resRRA (w : BitVec 32) : Bool := decide (fD w = 0) && decide (bits w 13 4 = 0)
/-- RR with D and A: vexp2, vrcp, vmov, vbc, vredadd, vredmax. -/
def resRRDA (w : BitVec 32) : Bool := decide (bits w 13 4 = 0)
/-- RR with D, A and B: SUB is reserved. -/
def resRRDAB (w : BitVec 32) : Bool := decide (fSub w = 0)
/-- J without D: br, trap. -/
def resJ0 (w : BitVec 32) : Bool := decide (fD w = 0)
/-- Shifts by IMM10[5:0]: IMM10[9:6] are not used (R48, R548).
(DEDUCED: assumption 16) -/
def resShiftI (w : BitVec 32) : Bool := decide (bits w 13 10 = 0)
/-- vmovs and vins: IMM10[9:4] (R548). -/
def resLane (w : BitVec 32) : Bool := decide (bits w 13 8 = 0)
/-- A predicate number uses three of its five bits. -/
def pOk (n : Nat) : Bool := decide (n < 8)

/-! ## Issue -/

/-- What the effect of an instruction gives. -/
inductive Done where
  /-- done: the program counter advances by one -/
  | next (s : State)
  /-- done: the program counter takes a value -/
  | jump (s : State) (pc : BitVec 12)
  /-- the thread faults with a code and INFO (R75, R76) -/
  | fault (s : State) (code info : Nat)
  /-- the instruction is held under a stall cause of R77 -/
  | stall (s : State) (cause : Nat)
  /-- the firing has ended (R38) -/
  | ended (s : State)

/-- The guard's lane bits: p[GP], inverted if GN is 1 (R46). -/
def guardBits (th : Thread) (w : BitVec 32) : BitVec 16 :=
  let p := rdP th (bits w 2 0)
  if bit w 3 then ~~~p else p

/-- How an instruction is guarded (R46, R47). -/
inductive Guard where
  /-- bit 0 of the guard decides -/
  | bit0
  /-- each lane is guarded on its own -/
  | lanes
  /-- the guard is ignored: end, choose, trap -/
  | always
  deriving DecidableEq, Repr

/-- Mark that thread t issued: it is the thread that issued last (R41), cause ISSUE of R77. -/
def markIssued (k : Core) (t : Nat) : Core :=
  { updThread k t (fun th => { th with cause := 0, issued := th.issued + 1 }) with lastIssue := t }

/-- Thread u is ready: it runs a firing and no stall cause holds its next instruction (R43). -/
def threadReady (k : Core) (u : Nat) : Bool :=
  (getThread k u).firing.isSome && decide ((getThread k u).cause = 0)

/-- Thread t is the one that issues, if its instruction is ready: from the thread after the one that issued last, in
rotation, no thread before t is ready (R41). -/
def issueTurn (k : Core) (t : Nat) : Bool :=
  decide (((List.range 4).map (fun j => (k.lastIssue + 1 + j) % 4)).find? (fun u => decide (u = t) || threadReady k u)
    = some t)

/-- Carry an instruction's result into the state. -/
def finish (c t task pc : Nat) : Done → State
  | .next s => updCore s c (fun k =>
      markIssued (updThread k t (fun th => { th with pc := th.pc + 1#12 })) t)
  | .jump s p => updCore s c (fun k => markIssued (updThread k t (fun th => { th with pc := p })) t)
  | .fault s code info => threadFault (updCore s c (fun k => markIssued k t)) c t task pc code info
  | .stall s cause => updCore s c (fun k => updThread k t (fun th => { th with cause := cause }))
  | .ended s => updCore s c (fun k => markIssued k t)

/-- Thread t of core c issues the instruction at its program counter, when it is one with opcode `op`.
A thread that runs no firing, whose issue is stopped, or before which another ready thread stands in the rotation of
R41, issues nothing; a word that is another instruction's is left alone. A word with a reserved OP, or with a reserved field or value set, faults
whatever the guard.
(DESIGN CHOICE: assumption 7) -/
def issue (op : Nat) (g : Guard) (legal : BitVec 32 → Bool)
    (effect : BitVec 32 → Thread → State → Nat → Nat → Done) (c t : Nat) (f : Fetch) (s : State) :
    State :=
  let k := getCore s c
  let th := getThread k t
  match th.firing with
  | none => s
  | some fi =>
    if k.stopped || decide (4 ≤ t) || !issueTurn k t then s
    else
      let w := fget (fun _ => 0#32) k.imem th.pc.toNat
      let pc := th.pc.toNat
      match f with
      | .uncorrectable => finish c t fi.task pc (.fault s IMEMERR 0)
      | _ =>
        if opListed (fOp w) && decide (fOp w ≠ op) then s
        else
          let s := if f = .corrected then updCore s c (fun k => { k with imemCE := k.imemCE + 1 })
            else s
          if !opListed (fOp w) || !legal w then finish c t fi.task pc (.fault s ILLEGAL 0)
          else if decide (g = .bit0) && !(guardBits th w).getLsbD 0 then
            finish c t fi.task pc (.next s)
          else finish c t fi.task pc (effect w th s c t)

/-- Update the issuing thread. -/
def thUpd (s : State) (c t : Nat) (f : Thread → Thread) : State :=
  updCore s c (fun k => updThread k t f)

/-- Write scalar register r of the issuing thread, and go on. -/
def doneS (s : State) (c t r : Nat) (v : PWord) : Done := .next (thUpd s c t (fun th => wrS th r v))

/-- The thread faults with "poison consumed" (R25). -/
def poisoned (s : State) : Done := .fault s POISON 0

/-- Bits of a 16-bit lane mask that select 64-bit word j of a vector: lanes 2j and 2j + 1. -/
def laneOn (m : BitVec 16) (k : Nat) : Bool := m.getLsbD k

/-- Some enabled lane of a vector register is poisoned. -/
def anyPoi (m : BitVec 16) (p : Byte) : Bool :=
  (List.range 16).any (fun k => laneOn m k && lanePoi p k)

/-- Write the enabled lanes of vector register r. The poison of a 64-bit word is the poison of the
lanes written into it; a lane that is kept keeps its word's poison (R24).
(DEDUCED: assumption 18) -/
def putLanes (th : Thread) (r : Nat) (m : BitVec 16) (val : Nat → BitVec 32) (poi : Nat → Bool) :
    Thread :=
  let v := rdV th r
  let p := rdVp th r
  let v' := (List.range 16).foldl (fun a k => if laneOn m k then setLane a k (val k) else a) v
  let p' := (List.range 8).foldl (fun a j =>
    let lo := if laneOn m (2 * j) then poi (2 * j) else bit p j
    let hi := if laneOn m (2 * j + 1) then poi (2 * j + 1) else bit p j
    setBit a j (lo || hi)) p
  wrV th r v' p'

end Sys2Proof.Machine
end

