-- ==== Sys2Proof/Machine/Flags.lean ====
section
/-! DEFINITION. Comparisons and predicates: what cmp and vcmp decide (R48, R49) and how predicate
registers are written. The core has no condition flags; predicate registers take their place. -/

namespace Sys2Proof.Machine

/-- cmp by SUB: 0 eq, 1 ne, 2 lt, 3 ge, 4 ltu, 5 geu (R48). -/
def cmpS (sub : Nat) (a b : Word) : Bool :=
  match sub with
  | 0 => a == b
  | 1 => a != b
  | 2 => a.slt b
  | 3 => !a.slt b
  | 4 => a.ult b
  | _ => !a.ult b

/-- vcmp by SUB on one lane: 0 eq, 1 ne, 2 lt, 3 le, 4 gt, 5 ge, 6 unordered. Values are compared, so
+0 equals -0 (R49); with a NaN operand only ne and unordered hold. -/
def cmpV (sub : Nat) (a b : BitVec 32) : Bool :=
  let un := isNaN32 a || isNaN32 b
  let x := valueKey a
  let y := valueKey b
  match sub with
  | 0 => !un && decide (x = y)
  | 1 => un || decide (x ≠ y)
  | 2 => !un && decide (x < y)
  | 3 => !un && decide (x ≤ y)
  | 4 => !un && decide (x > y)
  | 5 => !un && decide (x ≥ y)
  | _ => un

/-- All 16 bits of a predicate set or clear (cmp, R48). -/
def allBits (b : Bool) : BitVec 16 := if b then 0xFFFF#16 else 0#16

/-- A predicate with the enabled bits replaced (vcmp, R46). -/
def mergeBits (old m : BitVec 16) (hit : Nat → Bool) : BitVec 16 :=
  (List.range 16).foldl (fun a k => if laneOn m k then setBit a k (hit k) else a) old

end Sys2Proof.Machine
end

