-- ==== Sys2Proof/Machine/Queue.lean ====
section
/-! DEFINITION. Queue instructions: take, put, qcnt, choose (R52 to R56), with the reads and writes of
a spilled queue (R174, R177). -/

namespace Sys2Proof.Machine

/-- Place and count of the slot of a slot register that names queue q: the first of them, where a task names one queue
twice, which no rule forbids or settles.
(DESIGN CHOICE: assumption 76) -/
def slotOf (k : Core) (o q : Nat) : Option (Nat × Nat) :=
  ((slots k o).find? (fun v => decide (v.2.2 = q))).map (fun v => (v.1, v.2.1))

/-- Add n to entry i of a list of four counts. -/
def bump (l : List Nat) (i n : Nat) : List Nat :=
  (List.range 4).map (fun j => nth l j + if j = i then n else 0)

/-- Count n entries taken from IN slot i by thread t's firing. -/
def countTake (s : State) (c t i n : Nat) : State :=
  thUpd s c t (fun th => { th with
    firing := th.firing.map (fun f => { f with takes := bump f.takes i n }) })

/-- Count n entries put into OUT slot i by thread t's firing. -/
def countPut (s : State) (c t i n : Nat) : State :=
  thUpd s c t (fun th => { th with
    firing := th.firing.map (fun f => { f with puts := bump f.puts i n }) })

/-- MODE values 0 to 4, reserved bits zero, D zero for take.x (R45, R52, R548). -/
def takeLegal (w : BitVec 32) : Bool :=
  decide (fMode w ≤ 4) && decide (bits w 11 4 = 0) && (decide (fMode w ≠ 4) || decide (fD w = 0))

def putLegal (w : BitVec 32) : Bool := decide (fMode w ≤ 3) && decide (bits w 11 4 = 0)
def qcntLegal (w : BitVec 32) : Bool := decide (fMode w = 0) && decide (bits w 11 4 = 0)

/-- Write an entry into half h of vector register r: lanes 0-7 or 8-15. -/
def putHalf (th : Thread) (r h : Nat) (e : QEntry) : Thread :=
  wrV th r (setBits (rdV th r) (256 * h + 255) (256 * h) e.data.toNat)
    (setBits (rdVp th r) (4 * h + 3) (4 * h) e.poi.toNat)

/-- Half h of vector register r as an entry. -/
def getHalf (th : Thread) (r h : Nat) : QEntry :=
  { data := BitVec.ofNat 256 ((rdV th r).toNat >>> (256 * h))
    poi := BitVec.ofNat 4 ((rdVp th r).toNat >>> (4 * h)) }

/-- Deliver a taken entry by MODE (R52). -/
def deliver (s : State) (c t mode d : Nat) (addr : Word) (e : QEntry) : State :=
  match mode with
  | 0 => thUpd s c t (fun th => putHalf th d 0 e)
  | 1 => thUpd s c t (fun th => putHalf th d 1 e)
  | 2 => thUpd s c t (fun th => wrS th d ⟨BitVec.ofNat 64 e.data.toNat, bit e.poi 0⟩)
  | 3 => spdWriteWords (portServe s c 1) c (addr.toNat % 262144 / 32 * 4) (entryWords e)
  | _ => s

/-- take: the next entry of QN (R30, R37, R52, R54); waits under OPERAND while the oldest entry is
still in the silo (R177), and under BANK for the thread port (R123).
(DEDUCED: assumption 14) -/
def takeEffect (w : BitVec 32) (th : Thread) (s : State) (c t : Nat) : Done :=
  let k := getCore s c
  let q := fQn w
  match th.firing with
  | none => .next s
  | some fi =>
    match slotOf k (oTaskIn fi.task) q with
    | none => .fault s BADQUEUE 0
    | some (i, n) =>
      if qKind k q = 4 then .fault s BADQUEUE 0
      else if nth fi.takes i ≥ n then .fault s RATE 0
      else
        let a := rdS th (fD w)
        if decide (fMode w = 3) && !portReady s c then .stall s 4
        else if decide (fMode w = 3) && a.poi then poisoned s
        else if !oldestReady k q then .stall s 3
        else
          let r := qRead s c q
          .next (countTake (deliver r.1 c t (fMode w) (fD w) a.val r.2) c t i 1)

/-- take (R52). -/
def execTake (c t : Nat) (f : Fetch) (s : State) : Out :=
  .next (issue 0x70 .bit0 takeLegal takeEffect c t f s)

/-- The entry that put appends, by MODE (R53), and the state after the source is read. -/
def putSource (s : State) (c mode : Nat) (th : Thread) (d : Nat) : State × QEntry :=
  match mode with
  | 0 => (s, getHalf th d 0)
  | 1 => (s, getHalf th d 1)
  | 2 => (s, { data := (rdS th d).val.zeroExtend 256, poi := BitVec.ofNat 4 (rdS th d).poi.toNat })
  | _ =>
    let r := spdReadWords (portServe s c 1) c ((rdS th d).val.toNat % 262144 / 32 * 4) 4
    (r.1, wordsEntry r.2)

/-- put: appends one entry to QN (R37, R53, R54); waits under BANK while the buffer is full and the
mover must make room (R177). -/
def putEffect (w : BitVec 32) (th : Thread) (s : State) (c t : Nat) : Done :=
  let k := getCore s c
  let q := fQn w
  match th.firing with
  | none => .next s
  | some fi =>
    match slotOf k (oTaskOut fi.task) q with
    | none => .fault s BADQUEUE 0
    | some (i, n) =>
      if nth fi.puts i ≥ n then .fault s RATE 0
      else if decide (fMode w = 3) && !portReady s c then .stall s 4
      else if decide (fMode w = 3) && (rdS th (fD w)).poi then poisoned s
      else if (getQueue k q).buf.length ≥ 16 then .stall s 4
      else
        let r := putSource s c (fMode w) th (fD w)
        .next (countPut (updCore r.1 c (fun k => bufPush k q r.2)) c t i 1)

/-- put (R53). -/
def execPut (c t : Nat) (f : Fetch) (s : State) : Out :=
  .next (issue 0x71 .bit0 putLegal putEffect c t f s)

/-- qcnt: s[D] gets available(QN) at issue. -/
def qcntEffect (w : BitVec 32) (_ : Thread) (s : State) (c t : Nat) : Done :=
  doneS s c t (fD w) ⟨BitVec.ofNat 64 (available (getCore s c) (fQn w)), false⟩

/-- qcnt (R48). -/
def execQcnt (c t : Nat) (f : Fetch) (s : State) : Out :=
  .next (issue 0x72 .bit0 qcntLegal qcntEffect c t f s)

/-- Bits [7:4] are reserved (R45). -/
def chooseLegal (w : BitVec 32) : Bool := decide (bits w 7 4 = 0)

/-- The instruction names the queues of IN slots 0, 1, 2 and OUT slot 0 of a choose task (R55).
(DEDUCED: assumption 19) -/
def chooseNamed (k : Core) (task : Nat) (w : BitVec 32) : Bool :=
  decide (cfld k (oTaskCfg task) 62 61 = 1)
    && decide (slot k (oTaskIn task) 0 = (true, (slot k (oTaskIn task) 0).2.1, fQc w))
    && decide (slot k (oTaskIn task) 1 = (true, (slot k (oTaskIn task) 1).2.1, fQa w))
    && decide (slot k (oTaskIn task) 2 = (true, (slot k (oTaskIn task) 2).2.1, fQb w))
    && decide (slot k (oTaskOut task) 0 = (true, (slot k (oTaskOut task) 0).2.1, fQo w))

/-- Remember or forget a choose in progress. -/
def setChosen (s : State) (c t : Nat) (v : Option (Bool × Nat)) : State :=
  thUpd s c t (fun th => { th with firing := th.firing.map (fun f => { f with chosen := v }) })

/-- The firing of thread t has taken or put all that its slots for the two data queues and QO reserve: one more is a
rate violation (R37). -/
def chooseSpent (s : State) (c t n : Nat) : Bool :=
  match (getThread (getCore s c) t).firing with
  | none => false
  | some fi => decide (n ≤ nth fi.takes 1) || decide (n ≤ nth fi.takes 2) || decide (n ≤ nth fi.puts 0)

/-- Move up to `n` entries of the chosen queue to QO and discard as many of the other, one pair at a
time, stopping where an entry is not ready, QO's buffer is full (R55, R177), or a count of the `m` reserved is spent
(R37). Answers the state and how many pairs are left. -/
def chooseMoves (s : State) (c t qKeep qDrop qo m : Nat) : Nat → State × Nat
  | 0 => (s, 0)
  | n + 1 =>
    let k := getCore s c
    if chooseSpent s c t m || !oldestReady k qKeep || !oldestReady k qDrop
        || decide ((getQueue k qo).buf.length ≥ 16) then
      (s, n + 1)
    else
      let r := qRead s c qKeep
      let d := qRead r.1 c qDrop
      let s := updCore d.1 c (fun k => bufPush k qo r.2)
      chooseMoves (countPut (countTake (countTake s c t 1 1) c t 2 1) c t 0 1) c t qKeep qDrop qo m n

/-- Run or go on with the moves of a choose; n counts the pairs still to move, of m in all. -/
def chooseGo (w : BitVec 32) (s : State) (c t m n : Nat) (tok : Bool) : Done :=
  let r := chooseMoves s c t (if tok then fQb w else fQa w) (if tok then fQa w else fQb w) (fQo w) m n
  if r.2 = 0 then .next (setChosen r.1 c t none)
  else if chooseSpent r.1 c t m then .fault r.1 RATE 0
  else .stall (setChosen r.1 c t (some (tok, r.2)))
    (if (getQueue (getCore r.1 c) (fQo w)).buf.length ≥ 16 then 4 else 3)

/-- choose (R55, R56): takes the token, then moves and discards n entries, n the COUNT of IN slot 1. A
poisoned bit 0 of the token faults; poisoned entries that are discarded or moved do not. A move beyond a reserved count
is a rate violation (R37). -/
def chooseEffect (w : BitVec 32) (th : Thread) (s : State) (c t : Nat) : Done :=
  let k := getCore s c
  match th.firing with
  | none => .next s
  | some fi =>
    if !chooseNamed k fi.task w then .fault s BADQUEUE 0
    else
      let n := (slot k (oTaskIn fi.task) 1).2.1
      match fi.chosen with
      | some (tok, left) => chooseGo w s c t n left tok
      | none =>
        if nth fi.takes 0 ≠ 0 then .fault s RATE 0
        else if !oldestReady k (fQc w) then .stall s 3
        else
          let r := qRead s c (fQc w)
          let s := countTake r.1 c t 0 1
          if bit r.2.poi 0 then poisoned s
          else chooseGo w s c t n n (bit r.2.data 0)

/-- choose (R55, R47: its guard is ignored). -/
def execChoose (c t : Nat) (f : Fetch) (s : State) : Out :=
  .next (issue 0x80 .always chooseLegal chooseEffect c t f s)

end Sys2Proof.Machine
end

