-- ==== Sys2Proof/Machine/Team.lean ====
section
/-! DEFINITION. The team's shape, coordinates, wiring and routing (R267, R273 to R278). -/

namespace Sys2Proof.Machine

/-- Coordinate parts of team-address bits [63:48] (R230). -/
def cX (c : Nat) : Nat := c / 2048
def cY (c : Nat) : Nat := c / 64 % 32
def cZ (c : Nat) : Nat := c % 64
def mkCoord (x y z : Nat) : Nat := x * 2048 + y * 64 + z

def teamValid (s : State) : Bool := decide (csrFld s aMstShape 31 31 = 1)
def ownCoord (s : State) : Nat := csrFld s aMstShape 47 32

/-- DX, DY, DZ of the shape, from a word laid out as MST_SHAPE. -/
def shapeOf (w : Word) : Nat × Nat × Nat := (bits w 63 59 + 1, bits w 58 54 + 1, bits w 53 48 + 1)
def teamShape (s : State) : Nat × Nat × Nat := shapeOf (csrGet s aMstShape)

def inShape (sh : Nat × Nat × Nat) (c : Nat) : Bool :=
  decide (cX c < sh.1) && decide (cY c < sh.2.1) && decide (cZ c < sh.2.2)

/-- Linear index of a coordinate (R273). -/
def linIdx (sh : Nat × Nat × Nat) (c : Nat) : Nat := cX c + sh.1 * (cY c + sh.2.1 * cZ c)

/-- Every coordinate of the shape. -/
def allCoords (sh : Nat × Nat × Nat) : List Nat :=
  (List.range sh.2.2).flatMap (fun z => (List.range sh.2.1).flatMap (fun y =>
    (List.range sh.1).map (fun x => mkCoord x y z)))

/-- Yoke ports present on the ordering code (R1).
(DESIGN CHOICE: assumption 1) -/
def portPresent (code p : Nat) : Bool :=
  if code = 1 then [0, 1, 2, 3, 4, 6, 8, 10].contains p
  else if code = 2 then [0, 2, 4, 6].contains p
  else decide (p < 12)

/-- The dimension that port p serves and whether in its + direction: X+ 0-1, X- 2-3, and so on. -/
def portDim (p : Nat) : Nat := p / 4
def portPlus (p : Nat) : Bool := decide (p / 2 % 2 = 0)

def dimSize (sh : Nat × Nat × Nat) (d : Nat) : Nat :=
  match d with | 0 => sh.1 | 1 => sh.2.1 | _ => sh.2.2

def dimOf (c d : Nat) : Nat := match d with | 0 => cX c | 1 => cY c | _ => cZ c

def setDim (c d v : Nat) : Nat :=
  match d with
  | 0 => mkCoord v (cY c) (cZ c)
  | 1 => mkCoord (cX c) v (cZ c)
  | _ => mkCoord (cX c) (cY c) v

/-- The device at the other end of port p of device c; a dimension of size 1 uses no ports (R275). -/
def wired (sh : Nat × Nat × Nat) (c p : Nat) : Option Nat :=
  let d := portDim p
  let n := dimSize sh d
  if n ≤ 1 then none
  else some (setDim c d (if portPlus p then (dimOf c d + 1) % n else (dimOf c d + n - 1) % n))

/-- The port at the other end of a link: X+k meets X-k (R275). -/
def peerPort (p : Nat) : Nat := if portPlus p then p + 2 else p - 2

/-- A shape and own coordinate that R273 and R275 allow on an ordering code. -/
def shapeOk (code : Nat) (w : Word) : Bool :=
  let sh := shapeOf w
  let dirOk := fun (d : Nat) => decide (dimSize sh d ≤ 1)
    || ((List.range 12).any (fun p => portPresent code p && decide (portDim p = d) && portPlus p)
      && (List.range 12).any (fun p => portPresent code p && decide (portDim p = d) && !portPlus p))
  decide (sh.1 * sh.2.1 * sh.2.2 ≤ 10240) && inShape sh (bits w 47 32)
    && dirOk 0 && dirOk 1 && dirOk 2

/-! ## Routing -/

def getPort (s : State) (p : Nat) : YPort := fget yport0 s.yports p
def setPort (s : State) (p : Nat) (v : YPort) : State := { s with yports := fset yport0 s.yports p v }
def updPort (s : State) (p : Nat) (f : YPort → YPort) : State := setPort s p (f (getPort s p))

/-- A port of this device is up (YOKE_PORT_STAT.STATE 2). -/
def portUp (s : State) (p : Nat) : Bool := decide (csrFld s (aYokeStat p) 63 62 = 2)

/-- The team table version an epoch names (R278). -/
def teamVer (s : State) (e : Nat) : TeamVer := if e = 0 then s.team0 else s.team1

/-- The team injection epoch (YOKE_TEPOCH.INJ_TEPOCH). -/
def injTepoch (s : State) : Nat := csrFld s aYokeTepoch 63 63

/-- The link at port p of device c is not known to be down. -/
def linkLive (sh : Nat × Nat × Nat) (v : TeamVer) (c p : Nat) : Bool :=
  !v.links.contains (c, p)
    && (match wired sh c p with | some n => !v.links.contains (n, peerPort p) | none => false)

/-- The next dimension-order step from c toward d: dimension and whether + (R276). -/
def dimStep (sh : Nat × Nat × Nat) (c d : Nat) : Option (Nat × Bool) :=
  ((List.range 3).find? (fun k => decide (dimOf c k ≠ dimOf d k))).map (fun k =>
    let n := dimSize sh k
    let up := (dimOf d k + n - dimOf c k) % n
    (k, decide (up ≤ n - up)))

/-- The two ports of a direction. -/
def dirPorts (k : Nat) (plus : Bool) : List Nat :=
  if plus then [4 * k, 4 * k + 1] else [4 * k + 2, 4 * k + 3]

/-- The dimension-order path crosses no down member and no down link (R277). -/
def pathClear (sh : Nat × Nat × Nat) (v : TeamVer) : Nat → Nat → Nat → Bool
  | 0, _, _ => false
  | f + 1, c, d =>
    match dimStep sh c d with
    | none => true
    | some (k, plus) =>
      match (dirPorts k plus).find? (linkLive sh v c) with
      | none => false
      | some p => match wired sh c p with
        | none => false
        | some n => (decide (n = d) || !v.down.contains n) && pathClear sh v f n d

/-- Breadth-first spanning tree of the live links from the front of a queue: the parent of each device
reached, ports tried in increasing number (R277). -/
def bfsTree (sh : Nat × Nat × Nat) (v : TeamVer) : Nat → List Nat → List (Nat × Nat) → List (Nat × Nat)
  | 0, _, t => t
  | _, [], t => t
  | f + 1, c :: q, t =>
    let r := (List.range 12).foldl (fun (a : List Nat × List (Nat × Nat)) p =>
      match wired sh c p with
      | none => a
      | some n =>
        if linkLive sh v c p && v.members.contains n && !a.2.any (fun e => decide (e.1 = n)) then
          (a.1 ++ [n], a.2 ++ [(n, c)])
        else a) (q, t)
    bfsTree sh v f r.1 r.2

/-- The escape tree of a version, rooted at the leader that the version was made under (R277, R278). -/
def escapeTree (s : State) (v : TeamVer) : List (Nat × Nat) :=
  bfsTree (teamShape s) v 10241 [v.root] [(v.root, v.root)]

/-- From x to the root of a tree of parents. -/
def treeUp (t : List (Nat × Nat)) : Nat → Nat → List Nat
  | 0, x => [x]
  | f + 1, x =>
    match t.find? (fun e => decide (e.1 = x)) with
    | none => [x]
    | some e => if e.2 = x then [x] else x :: treeUp t f e.2

/-- The next device on the V5 route from x to d. -/
def treeNext (t : List (Nat × Nat)) (x d : Nat) : Option Nat :=
  let a := treeUp t 10241 d
  match a.findIdx? (fun y => decide (y = x)) with
  | some (i + 1) => a[i]?
  | some 0 => none
  | none => (treeUp t 1 x)[1]?

/-- Receive slots of a VC (R270). -/
def vcCap (vc : Nat) : Nat := match vc with | 4 => 8 | 5 => 64 | _ => 128

/-- Free credit slots of a port for a VC. -/
def vcFree (v : YPort) (vc : Nat) : Nat := vcCap vc - fget zeroNat v.used vc

/-- Of the ports of a direction that are up, the one with more free credit slots, the lower when equal
(R276).
(DESIGN CHOICE: assumption 37) -/
def pickPort (s : State) (vc : Nat) (ps : List Nat) : Option Nat :=
  match ps.filter (portUp s) with
  | [] => none
  | [p] => some p
  | p :: q :: _ => some (if vcFree (getPort s q) vc > vcFree (getPort s p) vc then q else p)

/-- The step from c in a dimension crosses the dateline (R276). -/
def crosses (sh : Nat × Nat × Nat) (c k : Nat) (plus : Bool) : Bool :=
  if plus then decide (dimOf c k + 1 = dimSize sh k) else decide (dimOf c k = 0)

/-- Where a transaction for device d goes from this device: port and VC (R276, R277). `vc` is the VC it
is on, or the class's lower VC at its source; `fresh` marks entry into a new dimension. -/
def teamRoute (s : State) (v : TeamVer) (d vc : Nat) (resp fresh : Bool) : Option (Nat × Nat) :=
  let sh := teamShape s
  let me := ownCoord s
  let base := if resp then 2 else 0
  if vc < 4 && pathClear sh v 101 me d then
    match dimStep sh me d with
    | none => none
    | some (k, plus) =>
      let cur := if fresh then base else vc
      let vc' := if crosses sh me k plus then base + 1 else cur
      (pickPort s vc' (dirPorts k plus)).map (fun p => (p, vc'))
  else
    match treeNext (escapeTree s v) me d with
    | none => none
    | some n => (pickPort s 5 ((List.range 12).filter (fun p => decide (wired sh me p = some n)))).map
        (fun p => (p, 5))

/-- What a request for a device of the team fabric completes with when it cannot be sent under a team table (R274): none
when the device is a member that the table does not mark down.
(DESIGN CHOICE: assumption 35) -/
def remoteStatusIn (s : State) (v : TeamVer) (d : Nat) : Option Nat :=
  if !teamValid s then some 5
  else if !inShape (teamShape s) d then some 2
  else
    if !v.members.contains d || v.down.contains d || decide (csrFld s aMstState 31 28 = 5) then some 5
    else none

/-- The same under the table in force. -/
def remoteStatus (s : State) (d : Nat) : Option Nat := remoteStatusIn s (teamVer s (injTepoch s)) d

/-- The yoke port that team routing selects under a team table for a new request or response to device d.
(DESIGN CHOICE: assumption 37) -/
def teamPortIn (s : State) (v : TeamVer) (d : Nat) (resp : Bool) : Option Nat :=
  if (remoteStatusIn s v d).isSome then none
  else (teamRoute s v d (if resp then 2 else 0) resp true).map (·.1)

end Sys2Proof.Machine
end

