-- ==== Sys2Proof/Machine/Net.lean ====
section
/-! DEFINITION. The drove network's packets: header fields (R191 to R194), where edge units attach
(R547), buffers (R186), routing versions (R199, R204), and injection. -/

namespace Sys2Proof.Machine

/-! ## Header fields -/

def pDstDev (p : Packet) : Nat := bits p.w0 63 48
def pDstKind (p : Packet) : Nat := bits p.w0 47 46
def pDstId (p : Packet) : Nat := bits p.w0 45 31
def pDstRing (p : Packet) : Nat := bits p.w0 30 27
def pEpoch (p : Packet) : Nat := bits p.w0 26 26
def pEsc (p : Packet) : Bool := bit p.w0 25
def pNflits (p : Packet) : Nat := bits p.w0 24 21
def pType (p : Packet) : Nat := bits p.w0 20 16
def pTag (p : Packet) : Nat := bits p.w0 15 0
def pSrcDev (p : Packet) : Nat := bits p.w1 63 48
def pSrcCore (p : Packet) : Nat := bits p.w1 46 32
def pCtx (p : Packet) : Nat := bits p.w1 31 24
def pGen (p : Packet) : Nat := bits p.w1 23 16
/-- Core tag and transfer queue of a request or its answer (R193). -/
def pReqTag (p : Packet) : Nat := bits p.w3 12 7
def pReqTq (p : Packet) : Nat := bits p.w3 15 13
def pReqType (p : Packet) : Nat := bits p.w3 19 16
def pReqWords (p : Packet) : Nat := bits p.w3 5 0 + 1
def pStatus (p : Packet) : Nat := bits p.w3 31 24
def pTseq (p : Packet) : Nat := bits p.w3 63 48
/-- Order fields of a message, its ack, its bounce and ORDER_END (R193). -/
def pOseq (p : Packet) : Nat := bits p.w3 47 40
def pOstart (p : Packet) : Bool := bit p.w3 39
def pLen (p : Packet) : Nat := bits p.w3 38 32
def pThread (p : Packet) : Nat := bits p.w3 31 30
def pSerial (p : Packet) : Bool := bit p.w3 29
def pReason (p : Packet) : Nat := bits p.w3 28 22
/-- Sheaf fields of word 2 (R193). -/
def pShId (p : Packet) : Nat := bits p.w2 63 54
def pShRound (p : Packet) : Nat := bits p.w2 53 46
def pShOp (p : Packet) : Nat := bits p.w2 45 45
def pShElt (p : Packet) : Nat := bits p.w2 44 43
def pShBytes (p : Packet) : Nat := bits p.w2 42 33
def pShCount (p : Packet) : Nat := bits p.w2 29 15

def tLOAD : Nat := 1
def tSTORE : Nat := 2
def tADD : Nat := 3
def tSWAP : Nat := 4
def tFADD : Nat := 5
def tCAS : Nat := 6
def tMESSAGE : Nat := 7
def tSHEAF : Nat := 8
def tLOADDATA : Nat := 9
def tCOMPLETION : Nat := 10
def tMSGACK : Nat := 11
def tBOUNCE : Nat := 12
def tPROBE : Nat := 13
def tSYNC : Nat := 14
def tORDEREND : Nat := 15
def tSHEAFDONE : Nat := 16
def tEPOCHSWITCH : Nat := 17

/-- The channel of a type (R194): a sheaf packet of no bytes is a barrier and travels on C2. -/
def typeChan (typ : Nat) (w2 : Word) : Nat :=
  if typ = tSHEAF then (if bits w2 42 33 = 0 then 2 else 0)
  else if typ ≤ 7 then 0
  else if typ ≤ 12 then 1
  else 2

/-- Packet types that are requests: answered with a COMPLETION where they cannot be delivered. -/
def isRequest (typ : Nat) : Bool := decide (1 ≤ typ ∧ typ ≤ 6)

/-- Word 0 of a header (R191). -/
def mkW0 (dev kind id ring epoch nfl typ tag : Nat) : Word :=
  setBits (setBits (setBits (setBits (setBits (setBits (setBits (setBits 0#64 63 48 dev) 47 46 kind)
    45 31 id) 30 27 ring) 26 26 epoch) 24 21 nfl) 20 16 typ) 15 0 tag

/-- Word 1 of a header (R192). -/
def mkW1 (dev core ctx gen : Nat) : Word :=
  setBits (setBits (setBits (setBits 0#64 63 48 dev) 46 32 core) 31 24 ctx) 23 16 gen

/-- The device's own name in an address: its coordinate while a team record is in force, else 0xFFFF
(R231).
(DESIGN CHOICE: assumption 27) -/
def ownDev (s : State) : Nat :=
  if csrFld s aMstShape 31 31 = 1 then csrFld s aMstShape 47 32 else 0xFFFF

/-- Address bits [63:48] that name this device (R231). -/
def isLocalDev (s : State) (d : Nat) : Bool :=
  decide (d = 0xFFFF) || (decide (csrFld s aMstShape 31 31 = 1) && decide (d = csrFld s aMstShape 47 32))

/-! ## Where things are -/

/-- Attachment router of edge unit e, and its alternate: edge ports 0 to 17, then slices 18 to 23, as
42 * row + column (R547). -/
def attach (e : Nat) : Nat × Nat :=
  let at_ := fun (c r : Nat) => 42 * r + c
  match e with
  | 0 => (at_ 10 0, at_ 11 0) | 1 => (at_ 39 0, at_ 38 0) | 2 => (at_ 37 0, at_ 36 0)
  | 3 => (at_ 2 0, at_ 3 0) | 4 => (at_ 4 0, at_ 5 0) | 5 => (at_ 27 0, at_ 26 0)
  | 6 => (at_ 27 31, at_ 26 31) | 7 => (at_ 14 0, at_ 15 0) | 8 => (at_ 14 31, at_ 15 31)
  | 9 => (at_ 39 31, at_ 38 31) | 10 => (at_ 37 31, at_ 36 31) | 11 => (at_ 2 31, at_ 3 31)
  | 12 => (at_ 4 31, at_ 5 31) | 13 => (at_ 6 0, at_ 7 0) | 14 => (at_ 35 0, at_ 34 0)
  | 15 => (at_ 6 31, at_ 7 31) | 16 => (at_ 35 31, at_ 34 31) | 17 => (at_ 20 20, at_ 21 20)
  | 18 => (at_ 0 6, at_ 1 6) | 19 => (at_ 41 6, at_ 40 6) | 20 => (at_ 0 20, at_ 1 20)
  | 21 => (at_ 41 20, at_ 40 20) | 22 => (at_ 0 29, at_ 1 29) | _ => (at_ 41 29, at_ 40 29)

/-- A router powered from D29: an attachment router or an alternate (R402, R547). -/
def isAttach (phys : Nat) : Bool :=
  (List.range 24).any (fun e => decide ((attach e).1 = phys) || decide ((attach e).2 = phys))

/-- A router that serves an edge unit in every state of its plot: an attachment router, or an alternate while it is the
live one of the two (R189, R547). -/
def serves (v : RouteVer) (phys : Nat) : Bool :=
  (List.range 24).any (fun e => decide ((attach e).1 = phys)
    || (decide ((attach e).2 = phys) && decide (fget zeroNat v.edge e = 1)))

def noParent (_ : Nat) : Nat := 0

/-- Parent on the headland tree in a version with no holes: along the row to column 20, then along
that column to the root at (20, 20).
(DESIGN CHOICE: assumption 27) -/
def parent0 (x : Nat) : Nat :=
  let c := x % 42
  let r := x / 42
  if c < 20 then x + 1
  else if c > 20 then x - 1
  else if r < 20 then x + 42
  else if r > 20 then x - 42
  else x

/-- The routing version an epoch bit names (R204). -/
def verOf (s : State) (e : Nat) : RouteVer := if e = 0 then s.ver0 else s.ver1

/-- Store a routing version in slot e. -/
def setVer (s : State) (e : Nat) (v : RouteVer) : State :=
  if e = 0 then { s with ver0 := v } else { s with ver1 := v }

/-- The epoch in force: that of the last change (R205). -/
def curEpoch (s : State) : Nat := s.chg.epoch

/-- Live router of edge unit e in a version: none when both have failed (R547). -/
def edgeRouter (v : RouteVer) (e : Nat) : Option Nat :=
  match fget zeroNat v.edge e with
  | 0 => some (attach e).1
  | 1 => some (attach e).2
  | _ => none

/-- Destination router of a packet in its version (R191, R199): a packet for another device goes to
the yoke port that team routing selects under the team table of that version.
(DESIGN CHOICE: assumption 27) -/
def destRouter (s : State) (p : Packet) : Option Nat :=
  let v := verOf s (pEpoch p)
  if !isLocalDev s (pDstDev p) then
    match teamPortIn s v.team (pDstDev p) (decide (9 ≤ pType p ∧ pType p ≤ 12 ∨ pType p = tSHEAFDONE)) with
    | none => none
    | some n => edgeRouter v (n + 1)
  else match pDstKind p with
  | 0 => some (fget place0 v.place (plotOf (pDstId p)))
  | 1 => edgeRouter v (18 + pDstId p)
  | 2 => edgeRouter v (pDstId p)
  | _ => some (fget place0 v.place (pDstId p))

/-- A router has its links up: it is not fenced or unpowered, or it serves an edge unit (R189, R547).
(DESIGN CHOICE: assumption 27) -/
def routerUp (v : RouteVer) (x : Nat) : Bool := !v.fenced.contains x || serves v x

/-- Injection epoch of a plot (R204, PLOT_EPOCH.INJ_EPOCH). -/
def injEpoch (s : State) (j : Nat) : Nat := pfld (getPlot s j) oPlotEpoch 63 63

/-! ## Buffers -/

/-- The input port at which a packet from x arrives at its neighbour y. -/
def portFrom (x y : Nat) : Nat :=
  if y + 42 = x then 2 else if y = x + 1 then 3 else if y = x + 42 then 0 else 1

/-- Flits a packet holds. -/
def flitsOf (p : Packet) : Nat := 1 + pNflits p

/-- The packet is in one input buffer of a router; C2 has one slot for each route class (R186). -/
def inBuf (at_ port chan : Nat) (headland : Bool) (p : Packet) : Bool :=
  decide (p.at_ = at_) && decide (p.port = port) && decide (p.chan = chan)
    && (decide (chan ≠ 2) || decide (p.headland = headland))

/-- Flits held in one input buffer of a router (R186). -/
def bufUsed (s : State) (at_ port chan : Nat) (headland : Bool) : Nat :=
  (s.net.filter (inBuf at_ port chan headland)).foldl (fun a p => a + flitsOf p) 0

/-- Capacity of an input buffer, by channel (R186). -/
def bufCap (chan : Nat) : Nat :=
  match chan with
  | 2 => 1
  | 3 => 9
  | _ => 18

/-- The buffer has room for a whole packet (R187). -/
def bufRoom (s : State) (at_ port chan : Nat) (headland : Bool) (flits : Nat) : Bool :=
  decide (bufUsed s at_ port chan headland + flits ≤ bufCap chan)

/-- Free flits of a buffer. -/
def bufFree (s : State) (at_ port chan : Nat) : Nat := bufCap chan - bufUsed s at_ port chan false

/-- Route class of a C2 packet at injection: headland when the destination is not marked XY clear
(R198). -/
def c2Headland (s : State) (p : Packet) : Bool :=
  match destRouter s p with
  | some d => (verOf s (pEpoch p)).xyBlocked.contains d
  | none => true

/-- The L buffer of router x takes a packet of a channel and class: it has room for all of it, and no earlier packet
waits for the same buffer (R187). -/
def lRoom (s : State) (x chan : Nat) (headland : Bool) (flits : Nat) : Bool :=
  bufRoom s x 4 chan headland flits && !s.net.any (inBuf x 5 chan headland)

/-- Put a packet into the L buffer of physical router x, with a fresh id; without room it waits at the unit that made it
until PACKET_HOP lets it in (R187, R229). -/
def putPacket (s : State) (x : Nat) (p : Packet) : State :=
  let h := decide (p.chan = 2) && c2Headland s p
  let port := if lRoom s x p.chan h (flitsOf p) then 4 else 5
  { s with
    net := s.net ++ [{ p with id := s.nextId, at_ := x, port := port, since := cycles s (fieldOf x),
                              headland := h }]
    nextId := s.nextId + 1 }

/-- A packet from its header words and body; the place is filled at injection. -/
def mkPacket (w0 w1 w2 w3 : Word) (body : List PWord) (gran : Nat) : Packet :=
  { id := 0, w0 := w0, w1 := w1, w2 := w2, w3 := w3, body := body,
    chan := typeChan (bits w0 20 16) w2, at_ := 0, port := 4, since := 0, headland := false,
    gran := gran, orig := 0, origArg := 0, yk := 0 }

/-- Payload flits for a body of n words carried outside the header: 0 when it fits in words 4 to 7. -/
def nflitsFor (n : Nat) : Nat := if n ≤ 4 then 0 else (n + 7) / 8

/-- Inject at an edge unit: its live router, under the unit's injection epoch (R204).
(DESIGN CHOICE: assumption 27) -/
def injectEdge (s : State) (e : Nat) (p : Packet) : State :=
  let ep := fget zeroNat s.edgeEpoch e
  let p := { p with w0 := setBits p.w0 26 26 ep }
  match edgeRouter (verOf s ep) e with
  | some x => putPacket s x p
  | none => s

/-- The packet with an id. -/
def findPkt (s : State) (id : Nat) : Option Packet := s.net.find? (fun p => decide (p.id = id))

/-- The network without the packet with an id. -/
def dropPkt (s : State) (id : Nat) : State :=
  { s with net := s.net.filter (fun p => decide (p.id ≠ id)) }

/-- The packet stands in a buffer of its destination router. -/
def arrived (s : State) (p : Packet) : Bool := decide (destRouter s p = some p.at_) && decide (p.port < 5)

/-- Context and generation of a core (CORE_STATE). -/
def coreCtx (k : Core) : Nat := cfld k oState 63 56
def coreGen (k : Core) : Nat := cfld k oState 55 48
def coreRunning (k : Core) : Bool := decide (cfld k oState 47 47 = 1)

/-- Word 1 of a packet made by a core. -/
def coreW1 (s : State) (c : Nat) : Word :=
  let k := getCore s c
  mkW1 (ownDev s) c (coreCtx k) (coreGen k)

/-! ## Functions and partitions -/

/-- The plot lies in the partition of function n (FN_PART). -/
def inPart (s : State) (n j : Nat) : Bool :=
  let a := aFn n fnPart
  decide (csrFld s a 63 63 = 1) && decide (csrFld s a 23 18 ≤ j % 40 ∧ j % 40 ≤ csrFld s a 11 6)
    && decide (csrFld s a 17 12 ≤ j / 40 ∧ j / 40 ≤ csrFld s a 5 0)

/-- The function whose partition holds a plot. -/
def fnOfPlot (s : State) (j : Nat) : Option Nat := (List.range 64).find? (fun n => inPart s n j)

/-- The function whose partition holds a core. -/
def fnOfCore (s : State) (c : Nat) : Option Nat := fnOfPlot s (plotOf c)

/-- The cores of function n's partition, in increasing index. -/
def partPlots (s : State) (n : Nat) : List Nat :=
  (List.range 1600).filter (fun j => inPart s n j)

def partCores (s : State) (n : Nat) : List Nat :=
  (partPlots s n).flatMap (fun j => (List.range 16).map (coreAt j))

/-- A fill of a slice has its answer: status and data (R249). -/
def fillAnswer (s : State) (id status : Nat) (ws : List PWord) : State :=
  let put := fun (v : Slice) =>
    { v with fills := v.fills.map (fun x => if x.id = id then { x with result := some (status, ws) } else x) }
  { s with slices := (List.range 6).foldl (fun m f => fupd slice0 m f put) s.slices }

/-! ## Injection by cores -/

/-- The plot's overlay pins traffic to destination plot d to the headland channel (R356). -/
def overlayFixed (s : State) (j d : Nat) : Bool :=
  decide (fget zeroWord (getPlot s j).overlay d ≠ 0#64)

/-- The destination of a packet has no live router in its version, or no route (R203). -/
def destLost (s : State) (p : Packet) : Bool :=
  match destRouter s p with
  | some d => !routerUp (verOf s (pEpoch p)) d
  | none => true

/-- Word 3 of a message and of what answers it (R193). -/
def mkMsgW3 (oseq : Nat) (ostart : Bool) (len thread : Nat) (serial : Bool) (reason : Nat) : Word :=
  setBits (setBits (setBits (setBits (setBits (setBits 0#64 47 40 oseq) 39 39 ostart.toNat) 38 32 len)
    31 30 thread) 29 29 serial.toNat) 28 22 reason

/-- The s[A] of the original send, rebuilt from the message's header (R132, R218). -/
def origSA (p : Packet) : Word :=
  setBits (setBits (setBits 0#64 63 48 (pDstDev p)) 30 16 (pDstId p)) 15 12 (pDstRing p)

/-- The BOUNCE packet of a message (R193, R218). -/
def bouncePacket (s : State) (p : Packet) (reason : Nat) : Packet :=
  { mkPacket (mkW0 (pSrcDev p) 0 (pSrcCore p) (pDstRing p) 0 (pNflits p) tBOUNCE (pTag p))
      (mkW1 (ownDev s) 0x7FFF (pCtx p) (pGen p)) (origSA p)
      (mkMsgW3 (pOseq p) (pOstart p) (pLen p) (pThread p) false reason) p.body 0 with yk := p.yk }

/-- A COMPLETION with a status for a request packet (R193). -/
def statusPacket (s : State) (p : Packet) (status : Nat) : Packet :=
  { mkPacket (mkW0 (pSrcDev p) 0 (pSrcCore p) 0 0 0 tCOMPLETION 0)
      (mkW1 (ownDev s) 0x7FFF (pCtx p) (pGen p)) p.w2
      (setBits (setBits 0#64 31 24 status) 15 7 (bits p.w3 15 7)) [] 0 with
    yk := p.yk, orig := if p.orig = 9 then 9 else 0, origArg := if p.orig = 0 then p.origArg else 0 }

/-- A LOAD_DATA packet that answers a request (R193). -/
def dataPacket (s : State) (p : Packet) (body : List PWord) : Packet :=
  { mkPacket (mkW0 (pSrcDev p) 0 (pSrcCore p) 0 0 ((body.length + 7) / 8) tLOADDATA 0)
      (mkW1 (ownDev s) 0x7FFF (pCtx p) (pGen p)) p.w2 (setBits 0#64 15 7 (bits p.w3 15 7)) body 0 with
    yk := p.yk, origArg := if p.orig = 0 then p.origArg else 0 }

/-- A packet of a core that has no route: a request completes "unreachable", a message bounces for it, a
sheaf contribution and an ORDER_END are treated as done; any other packet is discarded (R203, R206,
R287). -/
def noRoute (s : State) (p : Packet) : Option Packet :=
  if p.orig = 8 then none
  else if isRequest (pType p) then some (statusPacket s p 5)
  else if pType p = tMESSAGE ∧ p.orig = 0 then some (bouncePacket s p 8)
  else if pType p = tSHEAF ∧ p.orig = 0 then
    some (mkPacket (mkW0 0xFFFF 0 (pSrcCore p) 0 0 0 tSHEAFDONE 0) (mkW1 (pDstDev p) 0x7FFF (pCtx p)
      (pGen p)) p.w2 0#64 [] 0)
  else if pType p = tORDEREND then
    some { mkPacket (mkW0 0xFFFF 0 (pSrcCore p) 0 0 0 tCOMPLETION 0)
        (mkW1 (pDstDev p) 0x7FFF (pCtx p) (pGen p)) 0#64 0#64 [] 0 with
      orig := 6, origArg := p.origArg }
  else none

/-- A packet as plot j injects it: under its injection epoch (R204), a C0 or C1 packet for a core of a plot that the
plot's overlay fixes on C3 (R356). -/
def startPacket (s : State) (j : Nat) (p : Packet) : Packet :=
  let w0 := setBits p.w0 26 26 (injEpoch s j)
  if decide (p.chan ≤ 1) && decide (pDstKind p = 0) && isLocalDev s (pDstDev p)
      && overlayFixed s j (plotOf (pDstId p)) then { p with w0 := setBits w0 25 25 1, chan := 3 }
  else { p with w0 := w0 }

/-- Inject at a logical plot, under its injection epoch (R204). A C0 or C1 packet for a core of a plot
that the plot's overlay fixes starts on C3 (R356). A packet without a route is answered at once.
(DESIGN CHOICE: assumption 27) -/
def injectAt (s : State) (j : Nat) (p : Packet) : State :=
  let q := startPacket s j p
  if destLost s q then
    match noRoute s { p with w0 := setBits p.w0 26 26 (injEpoch s j) } with
    | some r => putPacket s (physOf s j) { r with w0 := setBits r.w0 26 26 (injEpoch s j) }
    | none => s
  else putPacket s (physOf s j) q

/-- The L buffer of plot j's router has room for a packet that the plot would inject now. -/
def injectRoom (s : State) (j : Nat) (p : Packet) : Bool :=
  let q := startPacket s j p
  lRoom s (physOf s j) q.chan (decide (q.chan = 2) && c2Headland s q) (flitsOf q)

/-- The half of a redundant partition that a core is in, with its partner: (twin, partner), when the
core's function runs in redundant mode (R450). -/
def pairRole (s : State) (c : Nat) : Option (Bool × Nat) :=
  match fnOfCore s c with
  | none => none
  | some n =>
    if csrFld s (aFn n fnPair) 63 63 = 1 then
      let px0 := csrFld s (aFn n fnPart) 23 18
      let w := (csrFld s (aFn n fnPart) 11 6 - px0 + 1) / 2
      if c % 160 / 4 < px0 + w then some (false, c + 4 * w) else some (true, c - 4 * w)
    else none

/-- A packet stays within the half of the core that makes it (R451). -/
def staysInHalf (s : State) (c : Nat) (p : Packet) : Bool :=
  isLocalDev s (pDstDev p) && decide (pDstKind p = 0 ∨ pDstKind p = 3)
    && (let d := if pDstKind p = 0 then pDstId p else coreAt (pDstId p) 0
        decide (fnOfCore s d = fnOfCore s c)
          && decide ((pairRole s d).map (·.1) = (pairRole s c).map (·.1)))

/-- A core injects a packet at its plot's router. In redundant mode a packet that would leave the half
waits on the pair lane for its twin (R451). -/
def injectCore (s : State) (c : Nat) (p : Packet) : State :=
  match pairRole s c with
  | none => injectAt s (plotOf c) p
  | some (twin, _) =>
    if staysInHalf s c p then injectAt s (plotOf c) p
    else { s with pairQ := s.pairQ ++ [{ core := c, twin := twin, pkt := p, since := coreCycles s c }] }

/-! ## Headers that a router accepts (R188, R195) -/

/-- The logical plot that a physical router carries now. -/
def plotAt (s : State) (phys : Nat) : Option Nat :=
  match invPlace s.place phys with
  | some j => if j < numPlots s then some j else none
  | none => none

/-- A header that a router accepts: TYPE and NFLITS defined, reserved bits zero, on its own channel or
on C3.
(DESIGN CHOICE: assumption 20) -/
def headerOk (p : Packet) : Bool :=
  decide (1 ≤ pType p ∧ pType p ≤ 17) && decide (pNflits p ≤ 8)
    && decide (bits p.w1 47 47 = 0) && decide (bits p.w1 15 0 = 0)
    && (decide (p.chan = typeChan (pType p) p.w2) || (decide (p.chan = 3) && pEsc p))

/-- Discard a packet at router x: counted in HDR_DROP of the plot there, the steward informed. -/
def hdrDrop (s : State) (x : Nat) (id : Nat) : State :=
  let s := dropPkt s id
  match plotAt s x with
  | some j => note (updPlot s j (fun p => satPfld p oRouteStat 31 16 1)) (.hdrDrop j)
  | none => note s (.other 188 x)

end Sys2Proof.Machine
end

