-- ==== Sys2Proof/Machine/Sheaf.lean ====
section
/-! DEFINITION. Sheaf reduction: the sheaf instruction, the nodes of the routers, combining, delivery
and the done notices (R219 to R226, R228). -/

namespace Sys2Proof.Machine

/-! ## Arithmetic of the adders (R221) -/

/-- Low and high 32 bits of a word combined lane by lane. -/
def perHalf (fn : BitVec 32 → BitVec 32 → BitVec 32) (a b : Word) : Word :=
  (fn (BitVec.ofNat 32 (a.toNat >>> 32)) (BitVec.ofNat 32 (b.toNat >>> 32))) ++
    (fn (BitVec.ofNat 32 a.toNat) (BitVec.ofNat 32 b.toNat))

def maxS32 (a b : BitVec 32) : BitVec 32 := if a.slt b then b else a
def maxS64 (a b : Word) : Word := if a.slt b then b else a

/-- One word folded into another, by element type (0 FP32, 1 BF16 widened to FP32, 2 INT32, 3 INT64)
and OP (0 add, 1 maximum). -/
def foldWord (elt op : Nat) (a b : Word) : Word :=
  if elt ≤ 1 then perHalf (if op = 0 then fadd else fmax) a b
  else if elt = 2 then perHalf (if op = 0 then (· + ·) else maxS32) a b
  else if op = 0 then a + b
  else maxS64 a b

/-- Poison of either word poisons the result word (R226). -/
def foldPW (elt op : Nat) (a b : PWord) : PWord := ⟨foldWord elt op a.val b.val, a.poi || b.poi⟩

/-- Fold the data of two contributions, word by word. -/
def foldData (elt op : Nat) : List PWord → List PWord → List PWord
  | a :: l, b :: m => foldPW elt op a b :: foldData elt op l m
  | l, [] => l
  | [], m => m

/-- BF16 elements of a word, widened exactly to FP32: two words (R220). -/
def widenBF (p : PWord) : List PWord :=
  let el := fun (k : Nat) => (p.val.toNat >>> (16 * k)) % 65536 * 65536
  [⟨BitVec.ofNat 64 (el 0 + 2 ^ 32 * el 1), p.poi⟩, ⟨BitVec.ofNat 64 (el 2 + 2 ^ 32 * el 3), p.poi⟩]

/-- The BF16 of a binary32 pattern, rounded once (R220). -/
def toBF (w : Nat) : Nat := (fencode bf16 (ofF32 (BitVec.ofNat 32 w))).code

/-- Two words of FP32 rounded to one word of BF16. -/
def narrowBF : List PWord → List PWord
  | a :: b :: l =>
    ⟨BitVec.ofNat 64 (toBF a.val.toNat + 2 ^ 16 * toBF (a.val.toNat >>> 32)
        + 2 ^ 32 * toBF b.val.toNat + 2 ^ 48 * toBF (b.val.toNat >>> 32)), a.poi || b.poi⟩
      :: narrowBF l
  | l => l

/-! ## Nodes (R220) -/

/-- The node of plot j that holds SHEAF_ID id. -/
def nodeOf (s : State) (j id : Nat) : Option Nat :=
  (List.range 32).find? (fun n =>
    decide (pfld (getPlot s j) (oSheafCfg n) 63 63 = 1)
      && decide (pfld (getPlot s j) (oSheafCfg n) 57 48 = id))

def nodeFree (s : State) (j n : Nat) : Bool := decide (pfld (getPlot s j) (oSheafCfg n) 62 62 = 1)
def nodeRoot (s : State) (j n : Nat) : Bool := decide (pfld (getPlot s j) (oSheafCfg n) 61 61 = 1)
def nodeChildren (s : State) (j n : Nat) : Nat := pfld (getPlot s j) (oSheafCfg n) 60 58
def nodeMask (s : State) (j n : Nat) : Nat := pfld (getPlot s j) (oSheafCfg n) 47 32
def nodeRing (s : State) (j n : Nat) : Nat := pfld (getPlot s j) (oSheafCfg n) 31 28
def nodeTarget (s : State) (j n : Nat) : Nat := pfld (getPlot s j) (oSheafCfg n) 25 11
def nodeTotal (s : State) (j n : Nat) : Nat := pfld (getPlot s j) (oSheafKids n) 58 44

/-- Plot of child k: K0 in [10:0], K1 in [21:11], and so on. -/
def nodeKid (s : State) (j n k : Nat) : Nat :=
  pfld (getPlot s j) (oSheafKids n) (11 * k + 10) (11 * k)

/-- The plot of the root above plot j, following TARGET upward. -/
def rootPlot (s : State) (id : Nat) : Nat → Nat → Option Nat
  | 0, _ => none
  | fuel + 1, j =>
    match nodeOf s j id with
    | none => none
    | some n => if nodeRoot s j n then some j else rootPlot s id fuel (nodeTarget s j n)

def getNode (s : State) (j n : Nat) : ShNode := fget shNode0 (getPlot s j).nodes n
def setNode (s : State) (j n : Nat) (v : ShNode) : State :=
  updPlot s j (fun p => { p with nodes := fset shNode0 p.nodes n v })

/-- The round record of a node, if it holds one. -/
def findRound (v : ShNode) (r : Nat) : Option ShRound := v.rounds.find? (fun x => decide (x.round = r))

/-- Replace or add a round record. -/
def putRound (v : ShNode) (x : ShRound) : ShNode :=
  { v with rounds := v.rounds.filter (fun y => decide (y.round ≠ x.round)) ++ [x] }

def dropRound (v : ShNode) (r : Nat) : ShNode :=
  { v with rounds := v.rounds.filter (fun y => decide (y.round ≠ r)) }

/-- A round number is accepted: the oldest not completed, or the next one while that is not complete (R225). -/
def roundOk (v : ShNode) (r : Nat) : Bool :=
  decide (r = v.oldest) || (decide (r = (v.oldest + 1) % 256) && !v.ahead)

/-- Round r is complete at a node: the oldest round not completed is then the first after it that is not complete
(R225). -/
def roundDone (v : ShNode) (r : Nat) : ShNode :=
  if r = v.oldest then { v with oldest := (v.oldest + (if v.ahead then 2 else 1)) % 256, ahead := false }
  else if r = (v.oldest + 1) % 256 then { v with ahead := true }
  else v

/-- Count a mismatch at a plot (R225, R226). -/
def countMismatch (s : State) (j : Nat) : State :=
  updPlot s j (fun p => satPfld p oSheafStat 31 16 1)

/-! ## The sheaf instruction (R219, R224) -/

def sheafLegal (w : BitVec 32) : Bool := decide (xTq w = 0) && decide (xFlags w = 0)

/-- s[A] and s[C] are well formed and BYTES is in range (R219). -/
def sheafOk (a c : Word) : Bool :=
  decide (bits a 47 42 = 0) && decide (bits a 31 8 = 0)
    && decide (bits c 63 21 = 0) && decide (bits c 19 18 = 0) && decide (bits c 15 10 = 0)
    && decide (bits c 9 0 % 8 = 0) && decide (bits c 9 0 ≤ 512)
    && (decide (bits c 17 16 ≠ 1) || (decide (bits c 9 0 ≤ 256) && decide (bits c 20 20 = 0)))

/-- Word 2 of a SHEAF packet (R193). -/
def mkShW2 (id round op elt bytes count : Nat) : Word :=
  setBits (setBits (setBits (setBits (setBits (setBits 0#64 63 54 id) 53 46 round) 45 45 op) 44 43 elt)
    42 33 bytes) 29 15 count

/-- Outstanding contributions of a core to one sheaf of one device (R224). -/
def shOutstanding (k : Core) (dev id : Nat) : Nat :=
  (k.sheafs.filter (fun r => decide (r.dev = dev) && decide (r.sheaf = id))).length

/-- The packet of a contribution: to the node of the core's own plot for an ordered sheaf, to the
root's plot for a free one (R222), to the other device for a remote one. -/
def sheafPacket (s : State) (c : Nat) (a cc : Word) (body : List PWord) : Packet :=
  let id := bits a 41 32
  let dev := bits a 63 48
  let elt := bits cc 17 16
  let j := plotOf c
  let dst : Nat :=
    if !isLocalDev s dev then 0
    else match nodeOf s j id with
      | some n => if nodeFree s j n then (rootPlot s id 1601 j).getD j else j
      | none => j
  let wide := if elt = 1 then body.flatMap widenBF else body
  mkPacket (mkW0 dev 3 dst 0 0 (nflitsFor wide.length) tSHEAF 0) (coreW1 s c)
    (mkShW2 id (bits a 7 0) (bits cc 20 20) elt (bits cc 9 0) 1) 0#64 wide 0

/-- sheaf: contributes the data at scratchpad s[B]. Poisoned data words are moved; poisoned operands
fault (R25). A third contribution to one sheaf waits under "send wait" (R224). -/
def sheafEffect (w : BitVec 32) (th : Thread) (s : State) (c t : Nat) : Done :=
  let a := rdS th (xA w)
  let b := rdS th (xB w)
  let cc := rdS th (xC w)
  if !padTurn s c 5 then .stall s 4
  else if a.poi || b.poi || cc.poi then poisoned s
  else
    let id := bits a.val 41 32
    let dev := bits a.val 63 48
    let loc := isLocalDev s dev
    let member := match nodeOf s (plotOf c) id with
      | some n => (nodeMask s (plotOf c) n).testBit (localBit c)
      | none => false
    if !sheafOk a.val cc.val || decide (b.val.toNat % 8 ≠ 0) || (loc && !member) then
      .fault s BADXFER 0
    else if shOutstanding (getCore s c) (if loc then 0xFFFF else dev) id ≥ 2
        || !injectRoom s (plotOf c) (sheafPacket s c a.val cc.val (List.replicate (bits cc.val 9 0 / 8) ⟨0#64, false⟩)) then
      .stall s 10
    else
      let r := spdReadWords (padServe s c 5) c (b.val.toNat % 262144 / 8) (bits cc.val 9 0 / 8)
      let s := updCore r.1 c (fun k => { k with
        sheafs := k.sheafs ++ [{ dev := if loc then 0xFFFF else dev, sheaf := id,
                                 round := bits a.val 7 0, thread := t, time := s.now.toNat }] })
      .next (injectCore s c (sheafPacket s c a.val cc.val r.2))

/-- sheaf (R219). -/
def execSheaf (c t : Nat) (f : Fetch) (s : State) : Out :=
  .next (issue 0x93 .bit0 sheafLegal sheafEffect c t f s)

/-! ## Done notices (R223, R225) -/

/-- A SHEAF_DONE to a core of this device, or to a contributor of another device as its response. -/
def doneToCore (s : State) (j id round dev core : Nat) (w1 : Word) (yk : Nat) : State :=
  injectAt s j { mkPacket (mkW0 dev 0 core 0 0 0 tSHEAFDONE 0)
      (mkW1 (ownDev s) 0x7FFF (bits w1 31 24) (bits w1 23 16)) (mkShW2 id round 0 0 0 0) 0#64 [] 0 with
    yk := yk }

/-- A SHEAF_DONE to a child's plot router. -/
def doneToPlot (s : State) (j id round child : Nat) (w1 : Word) : State :=
  injectAt s j (mkPacket (mkW0 0xFFFF 3 child 0 0 0 tSHEAFDONE 0)
    (mkW1 (ownDev s) 0x7FFF (bits w1 31 24) (bits w1 23 16)) (mkShW2 id round 0 0 0 0) 0#64 [] 0)

/-- A node passes the done notice to its children and its local contributors (R223). -/
def passDone (s : State) (j n id round : Nat) (w1 : Word) : State :=
  let s := (List.range (nodeChildren s j n)).foldl
    (fun s k => doneToPlot s j id round (nodeKid s j n k) w1) s
  (List.range 16).foldl
    (fun s b => if (nodeMask s j n).testBit b then doneToCore s j id round 0xFFFF (coreAt j b) w1 0
      else s) s

/-- The root ends a round: its record goes, the next round counts, and the done notices leave, those
of remote contributors as responses (R223, R297). -/
def rootFinish (s : State) (j n round : Nat) : State :=
  let v := getNode s j n
  match findRound v round with
  | none => s
  | some x =>
    let id := pfld (getPlot s j) (oSheafCfg n) 57 48
    let s := setNode s j n (dropRound v round)
    let s := passDone s j n id round x.w1
    x.remotes.foldl (fun s p => doneToCore s j id round (pSrcDev p) (pSrcCore p) p.w1 p.yk) s

/-! ## Folding (R221, R226) -/

/-- Insert a part by increasing place. -/
def insertPart (x : ShPart) : List ShPart → List ShPart
  | [] => [x]
  | y :: l => if x.who < y.who then x :: y :: l else y :: insertPart x l

/-- The folded data of a round's parts, in order of place: local contributions by bit, children K0 to
K3, then remote contributions. A round whose contributions differ in shape is poisoned throughout. -/
def foldParts (elt op : Nat) (mismatch : Bool) (l : List ShPart) : List PWord :=
  let d := match l with
    | [] => []
    | x :: r => r.foldl (fun a y => foldData elt op a y.data) x.data
  if mismatch then d.map (fun w => { w with poi := true }) else d

def partsCount (l : List ShPart) : Nat := l.foldl (fun a x => a + x.count) 0

/-- The shape fields of word 2: OP, element type, BYTES. -/
def shShape (w2 : Word) : Word := setBits (setBits (setBits 0#64 45 45 (bits w2 45 45)) 44 43
  (bits w2 44 43)) 42 33 (bits w2 42 33)

/-- Every local contribution and every child is held (R221), and at the root every expected remote
contribution (R297). -/
def orderedComplete (s : State) (j n : Nat) (x : ShRound) : Bool :=
  let has := fun (w : Nat) => x.parts.any (fun p => decide (p.who = w))
  (List.range 16).all (fun b => !(nodeMask s j n).testBit b || has b)
    && (List.range (nodeChildren s j n)).all (fun k => has (16 + k))
    && (!nodeRoot s j n || decide (partsCount x.parts ≥ nodeTotal s j n))

/-- The round's data is complete at this node. -/
def roundComplete (s : State) (j n : Nat) (x : ShRound) : Bool :=
  if nodeFree s j n then nodeRoot s j n && decide (partsCount x.parts ≥ nodeTotal s j n)
  else orderedComplete s j n x

/-- The result message of a round: LEN and words in the contributed format (R223). -/
def resultWords (w2 : Word) (d : List PWord) : List PWord :=
  if bits w2 44 43 = 1 then narrowBF d else d

/-- A message made by a sheaf root at plot j for ring r of core c. -/
def rootMessage (s : State) (j n c ring tag : Nat) (w1 : Word) (body : List PWord) (round : Nat) :
    Packet :=
  { mkPacket (mkW0 0xFFFF 0 c ring 0 (nflitsFor body.length) tMESSAGE tag)
      (mkW1 (ownDev s) 0x7FFF (bits w1 31 24) (bits w1 23 16)) 0#64
      (setBits 0#64 38 32 body.length) body 0 with
    orig := 3, origArg := (j * 32 + n) * 256 + round }

/-- The result of a round is not delivered: it is counted, and the round ends (R223). -/
def undelivered (s : State) (j n round : Nat) : State :=
  rootFinish (updPlot s j (fun p => satPfld p oSheafStat 47 32 1)) j n round

/-- The shape of a round's result: that of its first part in order of place; where parts differ, BYTES is the largest,
so that the poisoned words of every part are carried on (R226).
(DESIGN CHOICE: assumption 26) -/
def roundShape (x : ShRound) : Word :=
  match x.parts with
  | p :: l => setBits p.shape 42 33 (l.foldl (fun a q => max a (bits q.shape 42 33)) (bits p.shape 42 33))
  | [] => 0#64

/-- What a node does with a round that is complete: the root delivers its result, or ends the round at
once when it carries no bytes; another node sends its partial result to its parent (R221, R223). A result that has no
route to its core would bounce, and is discarded. -/
def completeRound (s : State) (j n : Nat) (x : ShRound) : State :=
  let v := getNode s j n
  let id := pfld (getPlot s j) (oSheafCfg n) 57 48
  let shape := roundShape x
  let d := foldParts (bits shape 44 43) (bits shape 45 45) (x.mismatch || decide (x.remotes.length > 64)) x.parts
  if nodeRoot s j n then
    let s := updPlot s j (fun p => setPfld p oSheafStat 63 48 (pfld p oSheafStat 63 48 + 1))
    let s := setNode s j n (roundDone (putRound v { x with delivering := true }) x.round)
    let m := rootMessage s j n (nodeTarget s j n) (nodeRing s j n) id x.w1 (resultWords shape d) x.round
    if bits shape 42 33 = 0 then rootFinish s j n x.round
    else if destLost s (startPacket s j m) then undelivered s j n x.round
    else injectAt s j m
  else
    let s := setNode s j n (roundDone (dropRound v x.round) x.round)
    injectAt s j { mkPacket (mkW0 0xFFFF 3 (nodeTarget s j n) 0 0 (nflitsFor d.length) tSHEAF 0)
        (mkW1 (ownDev s) 0x7FFF (bits x.w1 31 24) (bits x.w1 23 16))
        (mkShW2 id x.round (bits shape 45 45) (bits shape 44 43) (bits shape 42 33)
          (partsCount x.parts)) 0#64 d 0 with orig := 4, origArg := j }

/-- A round record with no part yet. -/
def emptyRound (round : Nat) (w1 : Word) : ShRound :=
  { round := round, parts := [], mismatch := false, since := none, sent := false, remotes := [],
    w1 := w1, delivering := false }

/-- Fold a part into a round of a node; a shape that differs poisons the result and counts once. -/
def addPart (s : State) (j n : Nat) (x : ShRound) (p : ShPart) : State × ShRound :=
  let differs := match x.parts with | q :: _ => decide (q.shape ≠ p.shape) | [] => false
  let s := if differs && !x.mismatch then countMismatch s j else s
  let x' : ShRound :=
    if nodeFree s j n && !nodeRoot s j n then
      -- a combining slot holds one sum (R222)
      match x.parts with
      | q :: _ =>
        let d := foldData (bits p.shape 44 43) (bits p.shape 45 45) q.data p.data
        { x with
          parts := [{ q with count := q.count + p.count, data := d }]
          mismatch := x.mismatch || differs }
      | [] => { x with parts := [p] }
    else { x with parts := insertPart p x.parts, mismatch := x.mismatch || differs }
  (s, x')

/-- The place of a packet's contribution at a node: the local bit of its core, or the child whose plot
sent it. In a free sheaf every arrival has a place of its own. -/
def partWho (s : State) (j n : Nat) (p : Packet) (x : ShRound) : Nat :=
  if nodeFree s j n then 64 + x.parts.length
  else if p.orig = 4 then
    16 + ((List.range (nodeChildren s j n)).find? (fun k => decide (nodeKid s j n k = p.origArg))).getD 0
  else localBit (pSrcCore p)

/-- A contribution for a round that a node does not accept is discarded and counted, and the
contributing core is answered at once (R225). -/
def rejectRound (s : State) (j : Nat) (p : Packet) : State :=
  let s := countMismatch s j
  if p.orig = 4 then s else doneToCore s j (pShId p) (pShRound p) (pSrcDev p) (pSrcCore p) p.w1 p.yk

/-- A SHEAF packet of this device's cores at a node (R221, R222, R225). In a free sheaf a node that is
not the root keeps the packet to combine it; the packet then waits COMBINE_WAIT cycles. -/
def sheafArrive (s : State) (j n : Nat) (p : Packet) : State :=
  let s := dropPkt s p.id
  let v := getNode s j n
  let free := nodeFree s j n
  if !roundOk v (pShRound p) then rejectRound s j p
  else
    let x := (findRound v (pShRound p)).getD (emptyRound (pShRound p) p.w1)
    let part : ShPart := { who := partWho s j n p x, count := pShCount p, data := p.body,
                           shape := shShape p.w2 }
    let r := addPart s j n x part
    let x := if free && !nodeRoot s j n && r.2.since.isNone then
        { r.2 with since := some (cycles s (fieldOf (physOf s j))) }
      else r.2
    let s := setNode r.1 j n (putRound (getNode r.1 j n) x)
    if roundComplete s j n x then completeRound s j n x else s

/-- The packet is a partial result that the node of plot j has just sent on: it stands in the L buffer there. -/
def sentOn (_ : State) (j : Nat) (p : Packet) : Bool :=
  decide (p.orig = 4) && decide (p.origArg = j) && decide (4 ≤ p.port)

/-- SHEAF_PACKET: a contribution or partial result stands at a router that holds a node of its sheaf:
its destination, or for a free sheaf any node on its way (R221, R222). -/
def sheafPacketStep (id : Nat) (s : State) : State :=
  match findPkt s id with
  | none => s
  | some p =>
    if pType p ≠ tSHEAF ∨ !isLocalDev s (pDstDev p) ∨ (pSrcDev p ≠ ownDev s ∧ p.orig ≠ 4) then s
    else match plotAt s p.at_ with
      | none => s
      | some j =>
        match nodeOf s j (pShId p) with
        | none => s
        | some n => if (nodeFree s j n && decide (p.port < 5) && !sentOn s j p) || arrived s p then sheafArrive s j n p else s

/-- COMBINE_WAIT_EXPIRE: what a free-sheaf node holds for a round has waited COMBINE_WAIT cycles; the
router forwards it toward the root (R222). -/
def combineExpire (j n round : Nat) (s : State) : State :=
  let v := getNode s j n
  match findRound v round with
  | none => s
  | some x =>
    match x.since, x.parts with
    | some t, p :: _ =>
      if cycles s (fieldOf (physOf s j)) < t + pfld (getPlot s j) oPlotCtl 39 32 then s
      else
        let id := pfld (getPlot s j) (oSheafCfg n) 57 48
        let s := setNode s j n (dropRound v round)
        let d := if x.mismatch then p.data.map (fun w => { w with poi := true }) else p.data
        injectAt s j { mkPacket (mkW0 0xFFFF 3 ((rootPlot s id 1601 j).getD j) 0 0 (nflitsFor d.length)
              tSHEAF 0)
            (mkW1 (ownDev s) 0x7FFF (bits x.w1 31 24) (bits x.w1 23 16))
            (mkShW2 id round (bits p.shape 45 45) (bits p.shape 44 43) (bits p.shape 42 33) p.count)
            0#64 d 0 with orig := 4, origArg := j }
    | _, _ => s

/-- COMBINE_WAIT_EXPIRE (R222). -/
def execCombineWaitExpire (plot node round : Nat) (s : State) : Out :=
  .next (combineExpire plot node round s)

/-- A core's contribution is done: its record is released (R224, R68). -/
def coreSheafDone (s : State) (c dev id round : Nat) : State :=
  updCore s c (fun k => { k with
    sheafs := k.sheafs.eraseP (fun r => decide (r.dev = dev) && decide (r.sheaf = id)
      && decide (r.round = round)) })

/-- A response whose context and generation are not the core's current pair is dropped and counted
(R377). -/
def staleResp (s : State) (c : Nat) : State :=
  match fnOfCore s c with
  | some n => satCsrFld s (aFn n fnCtxStat) 15 0 1
  | none => s

def pairCurrent (s : State) (c : Nat) (p : Packet) : Bool :=
  decide (pCtx p = coreCtx (getCore s c)) && decide (pGen p = coreGen (getCore s c))

/-- SHEAF_DONE: a node passes it on to its children and contributors; at a core it completes the
contribution (R223). A free node advances its oldest round with it. -/
def sheafDoneStep (id : Nat) (s : State) : State :=
  match findPkt s id with
  | none => s
  | some p =>
    if pType p ≠ tSHEAFDONE ∨ !arrived s p then s
    else
      let s := dropPkt s id
      if pDstKind p = 0 then
        let c := pDstId p
        let dev := if isLocalDev s (pSrcDev p) then 0xFFFF else pSrcDev p
        if pairCurrent s c p then coreSheafDone s c dev (pShId p) (pShRound p) else staleResp s c
      else
        let j := pDstId p
        match nodeOf s j (pShId p) with
        | none => s
        | some n =>
          let v := getNode s j n
          let s := if nodeFree s j n then setNode s j n (roundDone v (pShRound p)) else s
          passDone s j n (pShId p) (pShRound p) p.w1

/-- The rounds in progress at the nodes of a drained partition's plots are discarded and counted in ABANDONED, and so are
their packets on the way; the nodes themselves stay for what runs there next (R228).
(DEDUCED: assumption 26) -/
def abandonRounds (s : State) (js : List Nat) : State :=
  let s := js.foldl (fun s j =>
    (List.range 32).foldl (fun s i =>
      let v := getNode s j i
      if v.rounds.isEmpty then s
      else updPlot (setNode s j i { v with rounds := [] }) j (fun p => satPfld p oSheafStat 15 0 v.rounds.length)) s) s
  { s with net := s.net.filter (fun p => !(decide (pType p = tSHEAF) && decide (pDstKind p = 3) && js.contains (pDstId p))) }

/-- Clear the nodes of a plot: rounds in progress are discarded and counted in ABANDONED (R228). -/
def clearNodes (s : State) (j : Nat) (keep : Nat → Bool) : State :=
  (List.range 32).foldl (fun s n =>
    if pfld (getPlot s j) (oSheafCfg n) 63 63 = 1 && !keep (pfld (getPlot s j) (oSheafCfg n) 57 48) then
      let lost := (getNode s j n).rounds.length
      updPlot (setNode s j n (shNode0 0)) j (fun p =>
        setPreg (setPreg (satPfld p oSheafStat 15 0 lost) (oSheafCfg n) 0#64) (oSheafKids n) 0#64)
    else s) s

end Sys2Proof.Machine
end

