-- ==== Sys2Proof/Machine/Message.lean ====
section
/-! DEFINITION. Messages: send, select, retire, ropen, rclose (R57 to R62, R126 to R137), order of
delivery (R208 to R214), landing, acknowledgement and bounces (R133 to R135, R215 to R218). -/

namespace Sys2Proof.Machine

/-! ## Selecting and retiring (R61, R62, R136, R137) -/

/-- Words of the leading selected messages of a ring, which SEL has passed (R136). -/
def selWords : List RMsg → Nat
  | [] => 0
  | m :: l => if m.selected then m.n + selWords l else 0

/-- Set SEL past the leading selected messages (R136). -/
def fixSel (k : Core) (n : Nat) : Core :=
  advSel (selIsHead k n) n (selWords (ringMsgs k n))

/-- A message of ring n is a candidate for thread t's firing: not selected, and reserved for that
firing, or, in an open ring, not reserved (R61, R137). -/
def candidate (k : Core) (n t : Nat) (m : RMsg) : Bool :=
  !m.selected && (decide (m.resv = some t) || (m.resv.isNone && ringOpen k n))

/-- Index of the oldest candidate of ring n. -/
def ringCand (k : Core) (n t : Nat) : Option Nat :=
  if ringExists k n then (ringMsgs k n).findIdx? (candidate k n t) else none

/-- Search order of select: from ring 0, or in rotation after the ring last returned (R61). -/
def selOrder (rotate : Bool) (last : Nat) : List Nat :=
  (List.range 16).map (fun i => if rotate then (last + 1 + i) % 16 else i)

/-- The IN slot of the running task whose kind 4 queue counts ring n: place and count. Where two of its queues name the
ring, which no rule settles, the first slot counts.
(DEDUCED: assumption 19; DESIGN CHOICE: assumption 76) -/
def ringSlot (k : Core) (task n : Nat) : Option (Nat × Nat) :=
  ((slots k (oTaskIn task)).find? (fun v =>
    decide (qKind k v.2.2 = 4) && bit (creg k (oQ v.2.2)) (32 + n))).map (fun v => (v.1, v.2.1))

/-- The descriptor select returns (R61). -/
def selDesc (k : Core) (n : Nat) (m : RMsg) : Word :=
  let body := (m.off + (m.n - m.len)) % regSize k n
  setBits (setBits (setBits (setBits (setBits 0#64 63 63 1) 57 48 m.len) 47 32 m.tag) 27 24 n) 17 0
    ((regBase k n + body) * 8)

/-- Mark message i of ring n selected. -/
def markSel (k : Core) (n i : Nat) : Core :=
  let l := ringMsgs k n
  match l[i]? with
  | none => k
  | some m => fixSel (setRing k n (l.set i { m with selected := true, resv := none })) n

def selectLegal (w : BitVec 32) : Bool := decide (fB w = 0) && decide (fSub w ≤ 1)

/-- select: marks a candidate message selected and returns its descriptor, or zero when there is none. A
select beyond the declared count of the ring's queue faults (R37).
(DEDUCED: assumption 19) -/
def selectEffect (w : BitVec 32) (th : Thread) (s : State) (c t : Nat) : Done :=
  let a := rdS th (fA w)
  let k := getCore s c
  let rotate := decide (fSub w = 1)
  if a.poi then poisoned s
  else
    let found := (selOrder rotate th.rot).find? (fun n => bit a.val n && (ringCand k n t).isSome)
    match found with
    | none => doneS s c t (fD w) ⟨0#64, false⟩
    | some n =>
      match ringCand k n t, th.firing with
      | some i, some fi =>
        match (ringMsgs k n)[i]? with
        | none => .next s
        | some m =>
          let sl := ringSlot k fi.task n
          let tooMany := match sl with | some (j, cnt) => decide (nth fi.takes j ≥ cnt) | none => false
          if tooMany then .fault s RATE 0
          else
            let s := match sl with | some (j, _) => countTake s c t j 1 | none => s
            let s := updCore s c (fun k => markSel k n i)
            let s := if rotate then thUpd s c t (fun th => { th with rot := n }) else s
            doneS s c t (fD w) ⟨selDesc k n m, false⟩
      | _, _ => .next s

/-- select (R61). -/
def execSelect (c t : Nat) (f : Fetch) (s : State) : Out :=
  .next (issue 0x91 .bit0 selectLegal selectEffect c t f s)

/-- Drop the leading retired messages of a ring, advancing HEAD past each (R136). -/
def dropRetired (k : Core) (n : Nat) : List RMsg → Core
  | [] => setRing k n []
  | m :: l => if m.retired then dropRetired (advHead k n m.n) n l else setRing k n (m :: l)

/-- retire: retires the oldest selected message of ring s[A][3:0] that is not retired (R62, R136). -/
def retireEffect (w : BitVec 32) (th : Thread) (s : State) (c _ : Nat) : Done :=
  let a := rdS th (fA w)
  let n := bits a.val 3 0
  let k := getCore s c
  if a.poi then poisoned s
  else if !ringExists k n then .fault s BADRING 0
  else
    let l := ringMsgs k n
    match l.findIdx? (fun m => m.selected && !m.retired) with
    | none => .fault s BADRING 0
    | some i =>
      let l' := match l[i]? with | some m => l.set i { m with retired := true } | none => l
      .next (updCore s c (fun k => fixSel (dropRetired k n l') n))

/-- retire (R62). -/
def execRetire (c t : Nat) (f : Fetch) (s : State) : Out :=
  .next (issue 0x92 .bit0 resRRA retireEffect c t f s)

/-- ropen: a closed ring's pointers and wrap bits become zero, its messages are discarded, OPEN is set;
an open ring is unchanged (R137). -/
def ropenEffect (w : BitVec 32) (th : Thread) (s : State) (c _ : Nat) : Done :=
  let a := rdS th (fA w)
  let n := bits a.val 3 0
  let k := getCore s c
  if a.poi then poisoned s
  else if !ringExists k n then .fault s BADRING 0
  else if ringOpen k n then .next s
  else .next (setCore s c (setRing (setCreg k (oRegionPtr n) (setBits 0#64 63 63 1)) n []))

/-- ropen (R137). -/
def execRopen (c t : Nat) (f : Fetch) (s : State) : Out :=
  .next (issue 0x94 .bit0 resRRA ropenEffect c t f s)

/-- rclose clears OPEN (R137). -/
def rcloseEffect (w : BitVec 32) (th : Thread) (s : State) (c _ : Nat) : Done :=
  let a := rdS th (fA w)
  let n := bits a.val 3 0
  let k := getCore s c
  if a.poi then poisoned s
  else if !ringExists k n then .fault s BADRING 0
  else .next (setCore s c (setCfld k (oRegionPtr n) 63 63 0))

/-- rclose (R137). -/
def execRclose (c t : Nat) (f : Fetch) (s : State) : Out :=
  .next (issue 0x95 .bit0 resRRA rcloseEffect c t f s)

/-! ## send (R57 to R60, R208, R209, R211, R213) -/

def sendLegal (w : BitVec 32) : Bool := decide (xTq w = 0) && decide (xFlags w = 0)

/-- The operands of send are well formed (R57, R60): reserved bits zero, LEN 1 to 64, a core index of
the device's logical cores. For another device the count is that of this ordering code: no rule says how the core would
know the count of a device of another code.
(DESIGN CHOICE: assumption 76) -/
def sendOk (s : State) (a c : Word) : Bool :=
  decide (bits a 47 31 = 0) && decide (bits a 11 0 = 0) && decide (bits c 47 7 = 0)
    && decide (1 ≤ bits c 6 0 ∧ bits c 6 0 ≤ 64)
    && (if isLocalDev s (bits a 63 48) then coreOk s (bits a 30 16)
        else decide (bits a 30 16 < numCores s))

/-- The device part of a destination, one form for this device. -/
def normDev (s : State) (d : Nat) : Nat := if isLocalDev s d then 0xFFFF else d

/-- The sender order entry of a destination. -/
def findOrder (k : Core) (dev core ring : Nat) : Option OrdEntry :=
  k.orders.find? (fun e => decide (e.dev = dev) && decide (e.core = core) && decide (e.ring = ring))

/-- Replace the order entry of a destination, or drop it. -/
def putOrder (k : Core) (dev core ring : Nat) (e : Option OrdEntry) : Core :=
  let l := k.orders.filter (fun e => !(decide (e.dev = dev) && decide (e.core = core)
    && decide (e.ring = ring)))
  { k with orders := match e with | some e => l ++ [e] | none => l }

/-- Sender order entries in use: those with sends that are not acknowledged (R209). The entry of a serial stream without
any keeps its mark, and its place is free for another destination (R213).
(DEDUCED: assumption 26) -/
def ordersInUse (k : Core) : List OrdEntry := k.orders.filter (fun e => decide (e.unacked ≠ 0))

/-- Make place for a new order entry: in a full table the oldest entry that is not in use goes. -/
def roomForOrder (k : Core) : Core :=
  if k.orders.length < 16 then k else { k with orders := k.orders.eraseP (fun e => decide (e.unacked = 0)) }

/-- Count a message in the tag counters of one direction: 0 sends, 1 landings (DRV_TAG_k). -/
def countTags (k : Core) (dir tag : Nat) : Core :=
  (List.range 4).foldl (fun k i =>
    let g := creg k (oTagCfg i)
    if bit g 63 && decide (bits g 62 62 = dir)
        && decide (tag &&& bits g 47 32 = bits g 15 0 &&& bits g 47 32) then
      setCreg k (oTagCnt i) (creg k (oTagCnt i) + 1#64)
    else k) k

/-- send: one MESSAGE packet. It waits under "send wait" when the thread has 16 unacknowledged sends,
when a serial stream has one, when the destination's ORDER_END is not completed, when no order entry
is free, and while the router's buffer lacks room.
(DEDUCED: assumption 14) -/
def sendEffect (w : BitVec 32) (th : Thread) (s : State) (c t : Nat) : Done :=
  let a := rdS th (xA w)
  let b := rdS th (xB w)
  let cc := rdS th (xC w)
  if !portReady s c then .stall s 4
  else if a.poi || b.poi || cc.poi then poisoned s
  else if !sendOk s a.val cc.val then .fault s BADRING 0
  else
    let k := getCore s c
    let dev := normDev s (bits a.val 63 48)
    let core := bits a.val 30 16
    let ring := bits a.val 15 12
    let len := bits cc.val 6 0
    let tag := bits cc.val 63 48
    let e := findOrder k dev core ring
    let busy := match e with | some e => e.serial && decide (e.unacked ≠ 0) | none => false
    let ending := e.isNone && k.ends.any (fun x => decide (x.dev = dev) && decide (x.core = core)
      && decide (x.ring = ring))
    if (k.sends.filter (fun r => decide (r.thread = t))).length ≥ 16 || busy || ending then .stall s 10
    else if e.isNone && decide ((ordersInUse k).length ≥ 16) then
      .stall (if th.counted then s
        else updCore s c (fun k => updThread (satCfld k oOrder 63 48 1) t (fun th => { th with counted := true }))) 10
    else
      let e' : OrdEntry := e.getD { dev := dev, core := core, ring := ring, next := 0, unacked := 0,
                                    serial := false }
      let start := e.isNone || e'.serial
      let pkt := fun (s : State) (ws : List PWord) => mkPacket
        (mkW0 (bits a.val 63 48) 0 core ring 0 (nflitsFor len) tMESSAGE tag) (coreW1 s c) 0#64
        (mkMsgW3 e'.next start len t false 0) ws 0
      if !injectRoom s (plotOf c) (pkt s []) then .stall s 10
      else
      let r := spdReadWords (portServe s c ((len + 7) / 8)) c (b.val.toNat % 262144 / 8) len
      let s := updCore r.1 c (fun k =>
        let k := updThread k t (fun th => { th with counted := false })
        let k := putOrder (if e.isNone then roomForOrder k else k) dev core ring
          (some { e' with next := (e'.next + 1) % 256, unacked := e'.unacked + 1 })
        let k := wrapCfld k oMsgCnt 63 32 1
        let k := countTags k 0 tag
        { k with sends := k.sends ++ [{ thread := t, dev := dev, core := core, ring := ring,
                                        oseq := e'.next, time := s.now.toNat }] })
      .next (injectCore s c (pkt s r.2))

/-- send (R57). -/
def execSend (c t : Nat) (f : Fetch) (s : State) : Out :=
  .next (issue 0x90 .bit0 sendLegal sendEffect c t f s)

/-! ## Acknowledgement at the sender (R59, R209, R211, R213, R216) -/

/-- A send is acknowledged: its record goes and UNACKED decrements; an entry whose UNACKED returns to
zero is freed and an ORDER_END leaves for its destination. A serial entry sends none and keeps its mark (R213).
(DEDUCED: assumption 26) -/
def ackSend (s : State) (c thread dev core ring oseq : Nat) (serial : Bool) : State :=
  let k := getCore s c
  let k := { k with sends := k.sends.eraseP (fun r => decide (r.thread = thread) && decide (r.dev = dev)
    && decide (r.core = core) && decide (r.ring = ring) && decide (r.oseq = oseq)) }
  match findOrder k dev core ring with
  | none => setCore s c k
  | some e =>
    let ser := e.serial || serial
    if e.unacked ≤ 1 then
      if ser then setCore s c (putOrder k dev core ring (some { e with unacked := 0, serial := true }))
      else
        let k := putOrder k dev core ring none
        let k := { k with ends := k.ends ++ [{ dev := dev, core := core, ring := ring,
                                               time := s.now.toNat }] }
        let s := setCore s c k
        injectCore s c { mkPacket (mkW0 dev 0 core 0 0 0 tORDEREND 0) (coreW1 s c) 0#64
            (mkMsgW3 oseq false 0 thread false 0) [] 0 with orig := 5, origArg := core * 16 + ring }
    else setCore s c (putOrder k dev core ring
      (some { e with unacked := e.unacked - 1, serial := ser }))

/-- MSG_ACK at the sending core: a stale one is discarded and counted (R216, R377).
(DEDUCED: assumption 26) -/
def msgAckStep (id : Nat) (s : State) : State :=
  match findPkt s id with
  | none => s
  | some p =>
    if pType p ≠ tMSGACK ∨ !isLocalDev s (pDstDev p) ∨ !arrived s p then s
    else
      let s := dropPkt s id
      let c := pDstId p
      if pGen p ≠ coreGen (getCore s c) ∨ pCtx p ≠ coreCtx (getCore s c) then
        let s := if pGen p ≠ coreGen (getCore s c) then updCore s c (fun k => satCfld k oMsgErr 15 0 1)
          else s
        staleResp s c
      else
        let s := ackSend s c (pThread p) (normDev s (pSrcDev p)) (p.origArg / 16) (p.origArg % 16)
          (pOseq p) (pSerial p)
        match pairRole s c with
        | some (false, tw) => ackSend s tw (pThread p) (normDev s (pSrcDev p)) (p.origArg / 16)
            (p.origArg % 16) (pOseq p) (pSerial p)
        | _ => s

/-! ## Bounces (R217, R218) -/

def rCLOSED : Nat := 1
def rNORING : Nat := 2
def rBOUNCERING : Nat := 3
def rTOOLONG : Nat := 4
def rRINGFULL : Nat := 5
def rOTHERCTX : Nat := 6
def rDENIED : Nat := 7
def rUNREACH : Nat := 8

/-- A dispatch of function n has landed (2) or bounced (3): the request it carries learns it (R336). -/
def dispatched (s : State) (n ser d : Nat) : State :=
  let mark := fun (v : Fun) => { v with reqs := v.reqs.map (fun r => if r.ser = ser then { r with disp := d } else r) }
  { s with funs := fupd fun0 s.funs n mark }

/-- A message that no core sent is not bounced: a dispatch is tried again by the host port, a notice is
discarded, a sheaf result is discarded and counted (R223, R336, R385). -/
def dropUnsent (s : State) (p : Packet) : State :=
  match p.orig with
  | 1 => dispatched s (p.origArg % 64) (p.origArg / 64) 3
  | 3 =>
    let j := p.origArg / 8192
    undelivered s j (p.origArg / 256 % 32) (p.origArg % 256)
  | _ => s

/-- Bounce a message that reached core c's landing stage: counted at the destination (R218). -/
def bounceMsg (s : State) (c : Nat) (p : Packet) (reason : Nat) : State :=
  if p.orig ≠ 0 then dropUnsent s p
  else
    let s := updCore s c (fun k =>
      satCfld (satCfld k oMsgErr 47 32 1) (oDrvRing (pDstRing p)) 31 16 1)
    injectAt s (plotOf c) (bouncePacket s p reason)

/-! ## Streams (R210 to R214) -/

/-- The receiver order entry of a packet's stream.
(DEDUCED: assumption 26) -/
def streamOf (l : List RcvEntry) (p : Packet) : Option RcvEntry :=
  l.find? (fun e => decide (e.dev = pSrcDev p) && decide (e.src = pSrcCore p)
    && decide (e.core = pDstId p) && decide (e.ring = pDstRing p))

/-- Replace or drop the entry of a packet's stream. -/
def putStream (pl : Plot) (p : Packet) (e : Option RcvEntry) : Plot :=
  let l := pl.rcv.filter (fun e => !(decide (e.dev = pSrcDev p) && decide (e.src = pSrcCore p)
    && decide (e.core = pDstId p) && decide (e.ring = pDstRing p)))
  { pl with rcv := match e with | some e => l ++ [e] | none => l }

/-- Pass a packet to its core's landing stage. -/
def passToLanding (s : State) (p : Packet) (serial : Bool) : State :=
  updCore s (pDstId p) (fun k => { k with
    land := k.land ++ [{ pkt := p, since := coreCycles s (pDstId p), serial := serial,
                         waited := false }] })

/-- A message for a primary core from outside its half is delivered to the twin as well (R451). -/
def mirror (s : State) (p : Packet) : State :=
  match pairRole s (pDstId p) with
  | some (false, tw) =>
    if decide (p.orig = 0) && decide ((pairRole s (pSrcCore p)).map (·.1) = some false)
        && isLocalDev s (pSrcDev p) && decide (fnOfCore s (pSrcCore p) = fnOfCore s tw) then s
    else passToLanding s { p with w0 := setBits p.w0 45 31 tw, orig := 7 } false
  | _ => s

/-- The held packet of a stream with a given OSEQ. -/
def heldNext (pl : Plot) (p : Packet) (oseq : Nat) : Option Held :=
  pl.window.find? (fun h => decide (pSrcDev h.pkt = pSrcDev p) && decide (pSrcCore h.pkt = pSrcCore p)
    && decide (pDstId h.pkt = pDstId p) && decide (pDstRing h.pkt = pDstRing p)
    && decide (pOseq h.pkt = oseq))

/-- A packet of a stream has landed or was bounced: EXPECT moves past it and the held successor, if
any, passes to landing (R210). -/
def streamDone (s : State) (p : Packet) : State :=
  let j := plotOf (pDstId p)
  let pl := getPlot s j
  match streamOf pl.rcv p with
  | none => s
  | some e =>
    let next := (pOseq p + 1) % 256
    let pl := putStream pl p (some { e with expect := next })
    match heldNext pl p next with
    | none => setPlot s j pl
    | some h =>
      passToLanding (setPlot s j { pl with
        window := pl.window.filter (fun x => decide (x.pkt.id ≠ h.pkt.id)) }) h.pkt false

/-- A MESSAGE with OSTART, or one handled as if it carried it: allocate or count in the entry, pass to
landing; without a free entry the stream runs serial (R210, R213). -/
def streamStart (s : State) (p : Packet) (expect : Nat) : State :=
  let j := plotOf (pDstId p)
  let pl := getPlot s j
  let now := s.now.toNat
  match streamOf pl.rcv p with
  | some e =>
    passToLanding (setPlot s j (putStream pl p
      (some { e with active := e.active + 1, expect := expect, last := now }))) p false
  | none =>
    if pl.rcv.length < 64 then
      passToLanding (setPlot s j (putStream pl p
        (some { dev := pSrcDev p, src := pSrcCore p, core := pDstId p, ring := pDstRing p,
                expect := expect, active := 1, last := now }))) p false
    else passToLanding s p true

/-- A packet that must be held: into the window, or, when the window holds 16, round a detour on C3 to
the parent router and back: it takes the up link's input buffer there (R202, R212). -/
def holdPacket (s : State) (p : Packet) : State :=
  let j := plotOf (pDstId p)
  let pl := getPlot s j
  if pl.window.length < 16 then
    let s := dropPkt s p.id
    setPlot s j { pl with window := pl.window ++ [{ pkt := p, time := s.now.toNat }] }
  else
    let up := fget parent0 (verOf s (pEpoch p)).parent p.at_
    if up ≠ p.at_ ∧ bufRoom s up (portFrom p.at_ up) 3 false (flitsOf p) then
      let s := updPlot s j (fun pl => satPfld pl oRouteStat 47 32 1)
      { s with net := s.net.map (fun q => if q.id = p.id then
          { q with w0 := setBits q.w0 25 25 1, chan := 3, at_ := up, port := portFrom p.at_ up,
                   since := cycles s (fieldOf up) } else q) }
    else s

/-- MESSAGE at its destination router (R210): messages that no core sent carry no order and pass. -/
def messageStep (id : Nat) (s : State) : State :=
  match findPkt s id with
  | none => s
  | some p =>
    if pType p ≠ tMESSAGE ∨ !isLocalDev s (pDstDev p) ∨ !arrived s p then s
    else if p.orig ≠ 0 then mirror (passToLanding (dropPkt s id) p false) p
    else if pOstart p then mirror (streamStart (dropPkt s id) p (pOseq p)) p
    else
      let pl := getPlot s (plotOf (pDstId p))
      match streamOf pl.rcv p with
      | some e =>
        let s := setPlot s (plotOf (pDstId p)) (putStream pl p (some { e with last := s.now.toNat }))
        if pOseq p = e.expect then mirror (passToLanding (dropPkt s id) p false) p
        else holdPacket s p
      | none => holdPacket s p

/-- Timer limit of PLOT_CTL.TRACK_TO in nanoseconds of device time (R207).
(DESIGN CHOICE: assumption 12) -/
def trackTo (s : State) (j : Nat) : Nat := pfld (getPlot s j) oPlotCtl 31 16 * 1000

/-- WINDOW_HOLD_TIMEOUT: a packet held for TRACK_TO is released to landing, and EXPECT goes past it (R214). -/
def windowTimeout (j id : Nat) (s : State) : State :=
  let pl := getPlot s j
  match pl.window.find? (fun h => decide (h.pkt.id = id)) with
  | none => s
  | some h =>
    if s.now.toNat < h.time + trackTo s j then s
    else
      let pl := { pl with window := pl.window.filter (fun x => decide (x.pkt.id ≠ id)) }
      match streamOf pl.rcv h.pkt with
      | some e =>
        let skipped := (pOseq h.pkt + 256 - e.expect) % 256
        let pl := satPfld (putStream pl h.pkt (some { e with expect := (pOseq h.pkt + 1) % 256 }))
          oPlotOrder 15 0 skipped
        passToLanding (setPlot s j pl) h.pkt false
      | none => streamStart (setPlot s j (satPfld pl oPlotOrder 15 0 1)) h.pkt ((pOseq h.pkt + 1) % 256)

/-- WINDOW_HOLD_TIMEOUT (R214). -/
def execWindowHoldTimeout (plot id : Nat) (s : State) : Out := .next (windowTimeout plot id s)

/-- ORDER_ENTRY_EXPIRE: an entry with no traffic for twice TRACK_TO and no held packet is freed (R211).
The command names the entry by its place in the table. -/
def orderExpire (j i : Nat) (s : State) : State :=
  let pl := getPlot s j
  match pl.rcv[i]? with
  | none => s
  | some e =>
    let held := pl.window.any (fun h => decide (pSrcDev h.pkt = e.dev)
      && decide (pSrcCore h.pkt = e.src) && decide (pDstId h.pkt = e.core)
      && decide (pDstRing h.pkt = e.ring))
    if held || decide (s.now.toNat < e.last + 2 * trackTo s j) then s
    else setPlot s j { pl with rcv := pl.rcv.eraseIdx i }

/-- ORDER_ENTRY_EXPIRE (R211). -/
def execOrderEntryExpire (plot i : Nat) (s : State) : Out := .next (orderExpire plot i s)

/-- ORDER_END at the receiving router: ACTIVE decrements, the entry is freed at zero, and the sender is
answered with a COMPLETION; without an entry nothing else changes (R211).
(DEDUCED: assumption 26) -/
def orderEndStep (id : Nat) (s : State) : State :=
  match findPkt s id with
  | none => s
  | some p =>
    if pType p ≠ tORDEREND ∨ !isLocalDev s (pDstDev p) ∨ !arrived s p then s
    else
      let s := dropPkt s id
      let j := plotOf (pDstId p)
      let q := { p with w0 := setBits p.w0 30 27 (p.origArg % 16) }
      let s := updPlot s j (fun pl =>
        match streamOf pl.rcv q with
        | none => pl
        | some e =>
          putStream pl q (if e.active ≤ 1 then none
            else some { e with active := e.active - 1, last := s.now.toNat }))
      injectAt s j { mkPacket (mkW0 (pSrcDev p) 0 (pSrcCore p) 0 0 0 tCOMPLETION 0)
          (mkW1 (ownDev s) 0x7FFF (pCtx p) (pGen p)) 0#64 0#64 [] 0 with
        orig := 6, origArg := p.origArg, yk := p.yk }

/-! ## Landing (R133, R134, R215, R216) -/

/-- The header word of a landed or bounced message (R132). -/
def headerWord (dev core tag : Nat) (bounced : Bool) (reason len : Nat) : Word :=
  setBits (setBits (setBits (setBits (setBits (setBits 0#64 63 48 dev) 46 32 core) 31 16 tag) 15 15
    bounced.toNat) 14 8 reason) 6 0 len

/-- The anchor core of function n's partition: the north-west core of its rectangle (R316). -/
def anchorOf (s : State) (n : Nat) : Nat :=
  coreAt (csrFld s (aFn n fnPart) 17 12 * 40 + csrFld s (aFn n fnPart) 23 18) 0

/-- Checks 1 and 2 of R215, or what replaces them: for a dispatch, the anchor and the current context
and generation (R336); for a message from another device, the team windows it has passed (R284). -/
def check12 (s : State) (c : Nat) (p : Packet) : Option Nat :=
  let k := getCore s c
  let current := decide (pCtx p = coreCtx k) && decide (pGen p = coreGen k)
  match p.orig with
  | 1 => if decide (anchorOf s (p.origArg % 64) = c) && current then none else some rOTHERCTX
  | 2 => if decide (fnOfCore s c ≠ some p.origArg) then some rDENIED
         else if current then none else some rOTHERCTX
  | 3 => if decide (fnOfCore s c ≠ fnOfPlot s (p.origArg / 8192)) then some rDENIED
         else if current then none else some rOTHERCTX
  | 7 => none
  | _ =>
    if !isLocalDev s (pSrcDev p) then none
    else if decide ((fnOfCore s c).isNone) || decide (fnOfCore s c ≠ fnOfCore s (pSrcCore p)) then
      some rDENIED
    else if current then none else some rOTHERCTX

/-- The first check of R215 that fails, as its bounce reason. -/
def landChecks (s : State) (c : Nat) (p : Packet) : Option Nat :=
  let k := getCore s c
  let r := pDstRing p
  match check12 s c p with
  | some x => some x
  | none =>
    if !ringExists k r then some rNORING
    else if regUse k r = 1 then some rBOUNCERING
    else if pLen p + 1 > regSize k r then some rTOOLONG
    else if !ringOpen k r then some rCLOSED
    else none

/-- Write a message's words from TAIL and advance TAIL (R133). -/
def landWords (s : State) (c r : Nat) (ws : List PWord) (len tag : Nat) : State :=
  let k := getCore s c
  let tail := cfld k (oRegionPtr r) 46 32
  let sz := regSize k r
  let s := (List.range ws.length).foldl (fun s i =>
    match ws[i]? with
    | some w => spdWrite s c ((regBase k r + (tail + i) % sz) % 32768) (BitVec.allOnes 64) w
    | none => s) s
  updCore s c (fun k =>
    let k := advTail k r ws.length
    setRing k r (ringMsgs k r ++ [{ off := tail, n := ws.length, len := len, tag := tag,
                                    selected := false, retired := false, resv := none }]))

/-- The acknowledgement of a landed message (R216). -/
def ackPacket (s : State) (c : Nat) (p : Packet) (serial : Bool) : Packet :=
  { mkPacket (mkW0 (pSrcDev p) 0 (pSrcCore p) 0 0 0 tMSGACK 0) (mkW1 (ownDev s) 0x7FFF (pCtx p) (pGen p))
      0#64 (mkMsgW3 (pOseq p) false 0 (pThread p) serial 0) [] 0 with
    orig := 5, origArg := c * 16 + pDstRing p, yk := p.yk }

/-- What follows a landing: the ack of a core's message, the next step of a dispatch or of a sheaf. -/
def afterLanding (s : State) (c : Nat) (l : Land) : State :=
  let p := l.pkt
  match p.orig with
  | 0 =>
    let s := if l.serial then updPlot s (plotOf c) (fun pl => satPfld pl oPlotOrder 63 48 1) else s
    streamDone (injectAt s (plotOf c) (ackPacket s c p l.serial)) p
  | 1 => dispatched s (p.origArg % 64) (p.origArg / 64) 2
  | 3 => rootFinish s (p.origArg / 8192) (p.origArg / 256 % 32) (p.origArg % 256)
  | _ => s

/-- Land the message at the head of core c's landing stage. -/
def landNow (s : State) (c : Nat) (l : Land) : State :=
  let p := l.pkt
  let r := pDstRing p
  let s := landWords s c r (⟨headerWord (pSrcDev p) (pSrcCore p) (pTag p) false 0 (pLen p), false⟩
    :: p.body) (pLen p) (pTag p)
  let s := updCore s c (fun k =>
    let k := wrapCfld k oMsgCnt 31 0 1
    let k := wrapCfld k (oDrvRing r) 63 32 1
    let k := if l.waited then satCfld k (oDrvRing r) 15 0 1 else k
    countTags k 1 (pTag p))
  let s := progressMark s (plotOf c)
  afterLanding s c l

/-- Drop the head of core c's landing stage. -/
def popLand (s : State) (c : Nat) : State := updCore s c (fun k => { k with land := k.land.tail })

/-- MESSAGE_LANDING: the message at the head of core c's landing stage is checked (R215) and bounced,
lands when free words suffice, or waits (R133).
(DEDUCED: assumption 19) -/
def landingStep (c : Nat) (s : State) : State :=
  let k := getCore s c
  match k.land with
  | [] => s
  | l :: rest =>
    match landChecks s c l.pkt with
    | some reason =>
      let s := bounceMsg (popLand s c) c l.pkt reason
      if l.pkt.orig = 0 then streamDone s l.pkt else s
    | none =>
      if freeWords k (pDstRing l.pkt) ≥ pLen l.pkt + 1 then landNow (popLand s c) c l
      else if l.waited then s
      else setCore s c { k with land := { l with waited := true, since := coreCycles s c } :: rest }

/-- LAND_WAIT_EXPIRE: the message has waited LAND_WAIT * 64 cycles since it first found too few free words: "ring full"; one that
fails a check is bounced for that reason (R215). -/
def landExpire (c : Nat) (s : State) : State :=
  let k := getCore s c
  match k.land with
  | [] => s
  | l :: _ =>
    if !l.waited ∨ coreCycles s c < l.since + pfld (getPlot s (plotOf c)) oPlotCtl 63 48 * 64 then s
    else
      match landChecks s c l.pkt with
      | some reason =>
        let s := bounceMsg (popLand s c) c l.pkt reason
        if l.pkt.orig = 0 then streamDone s l.pkt else s
      | none =>
        if freeWords k (pDstRing l.pkt) ≥ pLen l.pkt + 1 then landNow (popLand s c) c l
        else
          let s := bounceMsg (popLand s c) c l.pkt rRINGFULL
          if l.pkt.orig = 0 then streamDone s l.pkt else s

/-! ## Bounces at the sender (R135, R218) -/

/-- BOUNCE at the sending core: a stale one is discarded and counted; else it waits at the bounce
landing stage (R218, R377). -/
def bounceStep (id : Nat) (s : State) : State :=
  match findPkt s id with
  | none => s
  | some p =>
    if pType p ≠ tBOUNCE ∨ !isLocalDev s (pDstDev p) ∨ !arrived s p then s
    else
      let s := dropPkt s id
      let c := pDstId p
      let k := getCore s c
      if pGen p ≠ coreGen k ∨ pCtx p ≠ coreCtx k then
        let s := if pGen p ≠ coreGen k then updCore s c (fun k => satCfld k oMsgErr 15 0 1) else s
        staleResp s c
      else updCore s c (fun k =>
        { satCfld k oMsgErr 63 48 1 with
          bounces := k.bounces ++ [{ pkt := p, since := coreCycles s c, serial := false,
                                     waited := false }] })

/-- The bounce ring of a core (R127). -/
def bounceRing (k : Core) : Option Nat :=
  (List.range 16).find? (fun n => regEn k n && decide (regUse k n = 1))

/-- A bounce acknowledges its send (R59, R218). -/
def ackBounce (s : State) (c : Nat) (p : Packet) : State :=
  ackSend s c (pThread p) (normDev s (bits p.w2 63 48)) (bits p.w2 30 16) (bits p.w2 15 12) (pOseq p)
    false

/-- BOUNCE_LANDING: the bounce at the head lands in the bounce ring whatever OPEN, waits for free
words, or is discarded when it can never land (R133, R135, R218). -/
def bounceLandingStep (c : Nat) (s : State) : State :=
  let k := getCore s c
  match k.bounces with
  | [] => s
  | l :: rest =>
    let p := l.pkt
    let pop := fun (s : State) => updCore s c (fun k => { k with bounces := rest })
    let drop := ackBounce (pop (updCore s c (fun k => satCfld k oSpdStat 15 0 1))) c p
    match bounceRing k with
    | none => drop
    | some r =>
      if pLen p + 2 > regSize k r then drop
      else if freeWords k r < pLen p + 2 then s
      else
        let hdr := headerWord (ownDev s) c (pTag p) true (pReason p) (pLen p)
        let s := landWords (pop s) c r (⟨hdr, false⟩ :: ⟨p.w2, false⟩ :: p.body) (pLen p) (pTag p)
        ackBounce s c p

/-- BOUNCE_LANDING (R218). -/
def execBounceLanding (c : Nat) (s : State) : Out := .next (bounceLandingStep c s)

end Sys2Proof.Machine
end

