-- ==== Sys2Proof/Machine/Transfer.lean ====
section
/-! DEFINITION. Transfers of a core: tld, tst, tadd, tatom, twait, tstat, fence (R63 to R68), the
address map (R230 to R234, R248), windows (R246), injection (R65), completion (R66, R67) and the timers
of R207. -/

namespace Sys2Proof.Machine

/-! ## The team address (R230 to R234) -/

def adDev (a : Word) : Nat := bits a 63 48
def adTier (a : Word) : Nat := bits a 47 46
def adOff (a : Word) : Nat := bits a 45 0

/-- HBM stacks per group (R233).
(DESIGN CHOICE: assumption 1) -/
def hbmN (s : State) : Nat := if s.code = 1 then 4 else 6

/-- Half of the HBM tier, G of R233. -/
def hbmG (s : State) : Nat := hbmN s * 0xC00000000

/-- Stack register number of an HBM offset: 0 to 5 are W0 to W5, 6 to 11 are E0 to E5 (R233). -/
def hbmStack (s : State) (a : Nat) : Nat :=
  if a < hbmG s then a / 4096 % hbmN s else 6 + (a - hbmG s) / 4096 % hbmN s

/-- Home slice of a stack (R234): W0 and W1 in F0, E0 and E1 in F1, and so on. -/
def stackSlice (k : Nat) : Nat := if k < 6 then 2 * (k / 2) else 2 * ((k - 6) / 2) + 1

/-- Home slice of a CXL port (R241). -/
def portSlice (p : Nat) : Nat := match p with | 0 => 0 | 1 => 1 | 2 => 4 | _ => 5

/-- A CXL tier offset is mapped, by the capacities of CXL_PORT_STAT (R241). -/
def cxlMapped (s : State) (o : Nat) : Bool :=
  let p := o / 2 ^ 40
  let r := o % 2 ^ 40
  let st := csrGet s (aCxlStat p)
  let g := 0x40000000
  decide (p < 4) && (if bits st 61 60 = 1 then
      decide (r < bits st 9 0 * g)
        && decide (r < 448 * g) || (decide (448 * g ≤ r) && decide (r < 448 * g + bits st 19 10 * g))
    else if bits st 61 60 = 0 then decide (r < bits st 9 0 * g) else false)

/-- Where a request leads (R191, R232, R244, R248). -/
inductive Target where
  | core (i : Nat)
  | plot (j : Nat)
  | slice (f : Nat)
  | edge (e : Nat)
  /-- another device's tier 00 or 11 -/
  | remote
  | unmapped
  deriving DecidableEq, Repr

/-- The edge unit or slice that holds a block of the control tier. -/
def blockTarget (a : Nat) : Target :=
  let r := a % 0x100000000
  match a / 0x100000000 with
  | 2 => .slice (min 5 (r / 0x1000000))
  | 3 => .slice (stackSlice (min 11 (r / 0x10000)))
  | 4 => .edge (13 + min 3 (r / 0x10000))
  | 5 => .edge 0
  | 6 => .edge (1 + min 11 (r % 0x100000 / 0x1000))
  | _ => .edge 17

/-- The target of an address of this device (R232). -/
def localTarget (s : State) (a : Word) : Target :=
  let o := adOff a
  match adTier a with
  | 0 =>
    let i := o / 262144 % 32768
    if o / 2 ^ 33 = 0 && coreOk s i then .core i else .unmapped
  | 1 => if o < 2 * hbmG s then .slice (stackSlice (hbmStack s o)) else .unmapped
  | 2 => if cxlMapped s o then .slice (portSlice (o / 2 ^ 40)) else .unmapped
  | _ => match placeOf o with
    | .core i _ => if coreOk s i then .core i else .unmapped
    | .plot j _ => if plotOk s j then .plot j else .unmapped
    | .block b => blockTarget b
    | .none => .unmapped

/-- Home slice of a remote HBM or CXL address (R248). -/
def remoteSlice (a : Word) : Nat := (bits a 45 8 + adDev a) % 6

/-- The target of any team address. -/
def targetOf (s : State) (a : Word) : Target :=
  if isLocalDev s (adDev a) then localTarget s a
  else if remoteStatus s (adDev a) = some 2 then .unmapped
  else if adTier a = 1 ∨ adTier a = 2 then .slice (remoteSlice a)
  else .remote

/-- Word 0 of a request packet for an address. -/
def reqW0 (s : State) (a : Word) (nfl typ : Nat) : Word :=
  match targetOf s a with
  | .core i => mkW0 0xFFFF 0 i 0 0 nfl typ 0
  | .plot j => mkW0 0xFFFF 3 j 0 0 nfl typ 0
  | .slice f => mkW0 0xFFFF 1 f 0 0 nfl typ 0
  | .edge e => mkW0 0xFFFF 2 e 0 0 nfl typ 0
  | .remote => mkW0 (adDev a) (if adTier a = 0 then 0 else 2)
      (if adTier a = 0 then adOff a / 262144 % 32768 else 0) 0 0 nfl typ 0
  | .unmapped => mkW0 0xFFFF 2 17 0 0 nfl typ 0

/-! ## Address windows (R246) -/

/-- Rights: 0 RD, 1 WR, 2 AT; by request kind 0 tld, 1 tst, 2 tadd, 3 tatom, 4 silo write, 5 silo
read. -/
def needRight (kind : Nat) : Nat := match kind with | 0 => 57 | 1 => 56 | 4 => 56 | 5 => 57 | _ => 55

/-- Window n permits a request. -/
def windowOk (s : State) (k : Core) (n : Nat) (a : Word) (len kind : Nat) : Bool :=
  let b := creg k (oAwBase n)
  let l := creg k (oAwLimit n)
  bit b 63 && decide (bits b 62 61 = adTier a) && (bit b 60 == !isLocalDev s (adDev a))
    && decide (bits b 45 12 * 4096 ≤ adOff a) && decide (adOff a + len ≤ (bits l 45 12 + 1) * 4096)
    && bit b (needRight kind) && (bit b 54 == decide (kind = 4 ∨ kind = 5))

/-- The GRAN attribute of the lowest-numbered window that permits a request. -/
def windowFor (s : State) (k : Core) (a : Word) (len kind : Nat) : Option Nat :=
  ((List.range 16).find? (fun n => windowOk s k n a len kind)).map
    (fun n => cfld k (oAwBase n) 59 58)

/-! ## Tags and queues -/

/-- Requests in flight on a transfer queue (CORE_TQ_STAT.OUTSTANDING); silo traffic counts on none. -/
def outstanding (k : Core) (tq : Nat) : Nat :=
  (k.reqs.filter (fun r => decide (r.tq = tq) && decide (r.kind < 4))).length

/-- The limit of a transfer queue (CORE_TQ_LIMIT). -/
def tqLimit (k : Core) (tq : Nat) : Nat := cfld k oTqLimit (6 * tq + 5) (6 * tq)

/-- The lowest free tag of 64 (R65).
(DESIGN CHOICE: assumption 24) -/
def freeTag (k : Core) : Option Nat :=
  (List.range 64).find? (fun g => !k.reqs.any (fun r => decide (r.tag = g)))

def reqOf (k : Core) (tag : Nat) : Option Req := k.reqs.find? (fun r => decide (r.tag = tag))

/-! ## Instructions -/

def xferLegal (w : BitVec 32) : Bool := decide (xFlags w = 0)

/-- Parts of a transfer, split at the 512 B boundaries of the memory address (R65).
(DESIGN CHOICE: assumption 24) -/
def splitParts (kind tq op whole : Nat) : Nat → Word → Nat → Nat → List Part
  | 0, _, _, _ => []
  | f + 1, a, sp, len =>
    if len = 0 then []
    else
      let n := min len (512 - a.toNat % 512)
      { kind := kind, tq := tq, addr := a, spad := sp, len := n, whole := whole, op := op }
        :: splitParts kind tq op whole f (a + BitVec.ofNat 64 n) (sp + n) (len - n)

/-- What a transfer waits for once it is formed: a tag or a place in its queue, else its turn at the port (R65).
(DESIGN CHOICE: assumption 24) -/
def formCause (k : Core) (ps : List Part) : Nat :=
  match ps with
  | [] => 6
  | p :: _ => if (freeTag k).isNone || decide (tqLimit k p.tq ≤ outstanding k p.tq) then 5 else 6

/-- Form the parts of a transfer; the thread waits until TRANSFER_REQUEST_INJECT has injected them.
(DESIGN CHOICE: assumption 24) -/
def formParts (s : State) (c t : Nat) (th : Thread) (ps : List Part) : Done :=
  if th.parts.isEmpty then .stall (thUpd s c t (fun th => { th with parts := ps })) (formCause (getCore s c) ps)
  else .stall s (if th.cause = 5 then 5 else 6)

/-- tld and tst (R63): both addresses 8-byte aligned, 8 to 4,096 bytes in multiples of 8 that do not
cross a 4 KiB boundary, other bits of s[C] zero. -/
def blockEffect (kind : Nat) (w : BitVec 32) (th : Thread) (s : State) (c t : Nat) : Done :=
  let a := rdS th (xA w)
  let b := rdS th (xB w)
  let cc := rdS th (xC w)
  let len := bits cc.val 12 0
  if a.poi || b.poi || cc.poi then poisoned s
  else if decide (a.val.toNat % 8 = 0) && decide (b.val.toNat % 8 = 0) && decide (bits cc.val 63 13 = 0)
      && decide (8 ≤ len ∧ len ≤ 4096) && decide (len % 8 = 0)
      && decide (a.val.toNat % 4096 + len ≤ 4096) then
    formParts s c t th (splitParts kind (xTq w) 0 len 9 a.val (b.val.toNat % 262144) len)
  else .fault s BADXFER 0

/-- tld (R63). -/
def execTld (c t : Nat) (f : Fetch) (s : State) : Out :=
  .next (issue 0xA0 .bit0 xferLegal (blockEffect 0) c t f s)

/-- tst (R63). -/
def execTst (c t : Nat) (f : Fetch) (s : State) : Out :=
  .next (issue 0xA1 .bit0 xferLegal (blockEffect 1) c t f s)

/-- tadd (R63): 8 to 512 bytes inside one 512 B block; the element type in s[C][19:16]. A length that is no multiple of 8
is refused: R63 adds 8-byte words and gives no step for part of one.
(DESIGN CHOICE: assumption 76) -/
def taddEffect (w : BitVec 32) (th : Thread) (s : State) (c t : Nat) : Done :=
  let a := rdS th (xA w)
  let b := rdS th (xB w)
  let cc := rdS th (xC w)
  let len := bits cc.val 12 0
  if a.poi || b.poi || cc.poi then poisoned s
  else if decide (a.val.toNat % 8 = 0) && decide (b.val.toNat % 8 = 0) && decide (bits cc.val 63 20 = 0)
      && decide (bits cc.val 15 13 = 0) && decide (bits cc.val 19 16 ≤ 3)
      && decide (8 ≤ len ∧ len ≤ 512) && decide (len % 8 = 0)
      && decide (a.val.toNat % 512 + len ≤ 512) then
    formParts s c t th (splitParts 2 (xTq w) (bits cc.val 19 16) len 2 a.val (b.val.toNat % 262144) len)
  else .fault s BADXFER 0

/-- tadd (R63). -/
def execTadd (c t : Nat) (f : Fetch) (s : State) : Out :=
  .next (issue 0xA2 .bit0 xferLegal taddEffect c t f s)

/-- The C field of tatom must be zero and FLAGS 0b11 is reserved (R64). -/
def tatomLegal (w : BitVec 32) : Bool := decide (xC w = 0) && decide (xFlags w ≠ 3)

/-- tatom (R64): one 8-byte word. -/
def tatomEffect (w : BitVec 32) (th : Thread) (s : State) (c t : Nat) : Done :=
  let a := rdS th (xA w)
  let b := rdS th (xB w)
  if a.poi || b.poi then poisoned s
  else if a.val.toNat % 8 = 0 ∧ b.val.toNat % 8 = 0 then
    formParts s c t th [{ kind := 3, tq := xTq w, addr := a.val, spad := b.val.toNat % 262144, len := 8, whole := 8,
                          op := xFlags w }]
  else .fault s BADXFER 0

/-- tatom (R64). -/
def execTatom (c t : Nat) (f : Fetch) (s : State) : Out :=
  .next (issue 0xA3 .bit0 tatomLegal tatomEffect c t f s)

def twaitLegal (w : BitVec 32) : Bool := decide (bits w 23 14 = 0) && decide (bits w 13 13 = 0)

/-- twait: waits until queue IMM10[2:0] has at most IMM10[8:3] requests outstanding (R48). -/
def twaitEffect (w : BitVec 32) (_ : Thread) (s : State) (c _ : Nat) : Done :=
  if outstanding (getCore s c) (bits w 6 4) ≤ bits w 12 7 then .next s else .stall s 7

/-- twait (R48). -/
def execTwait (c t : Nat) (f : Fetch) (s : State) : Out :=
  .next (issue 0xA4 .bit0 twaitLegal twaitEffect c t f s)

def tstatLegal (w : BitVec 32) : Bool := decide (fA w = 0) && decide (bits w 13 7 = 0)

/-- CORE_TQ_STAT with its OUTSTANDING field counted.
(DESIGN CHOICE: assumption 11) -/
def tqStatView (k : Core) (tq : Nat) : Word := setBits (creg k (oTqStat tq)) 5 0 (outstanding k tq)

/-- tstat: s[D] gets CORE_TQ_STAT of queue IMM10[2:0], whose error fields then clear (R48). -/
def tstatEffect (w : BitVec 32) (_ : Thread) (s : State) (c t : Nat) : Done :=
  let q := bits w 6 4
  let v := tqStatView (getCore s c) q
  doneS (updCore s c (fun k => setCreg k (oTqStat q) 0#64)) c t (fD w) ⟨v, false⟩

/-- tstat (R48). -/
def execTstat (c t : Nat) (f : Fetch) (s : State) : Out :=
  .next (issue 0xA5 .bit0 tstatLegal tstatEffect c t f s)

def fenceLegal (w : BitVec 32) : Bool := decide (bits w 23 14 = 0) && decide (bits w 13 9 = 0)

/-- Some earlier operation of the selected kinds of thread t is not complete (R68). -/
def fencePending (k : Core) (t imm : Nat) : Bool :=
  let mine := fun (kind : Nat) => k.reqs.any (fun r => decide (r.thread = t) && decide (r.kind = kind))
  (imm.testBit 0 && mine 0) || (imm.testBit 1 && mine 1)
    || (imm.testBit 2 && k.sends.any (fun r => decide (r.thread = t)))
    || (imm.testBit 3 && (mine 2 || mine 3))
    || (imm.testBit 4 && k.sheafs.any (fun r => decide (r.thread = t)))

/-- fence (R68). -/
def fenceEffect (w : BitVec 32) (_ : Thread) (s : State) (c t : Nat) : Done :=
  if fencePending (getCore s c) t (bits w 8 4) then .stall s 8 else .next s

/-- fence (R68). -/
def execFence (c t : Nat) (f : Fetch) (s : State) : Out :=
  .next (issue 0xB0 .bit0 fenceLegal fenceEffect c t f s)

/-! ## Injection (R65, R203, R245) -/

/-- Packet type of a request kind; an atomic's by its FLAGS. -/
def kindType (kind op : Nat) : Nat :=
  match kind with
  | 0 => tLOAD | 1 => tSTORE | 2 => tADD | 3 => 4 + op | 4 => tSTORE | _ => tLOAD

/-- Words of scratchpad data that a part sends. -/
def sendWords (kind op len : Nat) : Nat :=
  match kind with
  | 0 => 0 | 1 => len / 8 | 2 => len / 8 | _ => if op = 2 then 2 else 1

/-- Payload flits: atomics carry their operands in the header (R193). -/
def reqFlits (kind n : Nat) : Nat := if kind = 3 then 0 else (n + 7) / 8

/-- Word 3 of a request (R193). -/
def reqW3 (op tq tag words : Nat) : Word :=
  setBits (setBits (setBits (setBits 0#64 19 16 op) 15 13 tq) 12 7 tag) 5 0 (words - 1)

/-- The packet of a request. It names which issue of the request it is, so that a late answer to an earlier one is known
for what it is (R207).
(DESIGN CHOICE: assumption 25) -/
def reqPacket (s : State) (c : Nat) (r : Req) : Packet :=
  { mkPacket (reqW0 s r.addr (reqFlits r.kind r.data.length) (kindType r.kind r.op)) (coreW1 s c) r.addr
      (reqW3 (if r.kind = 2 then r.op else 0) r.tq r.tag (r.len / 8)) r.data r.gran with origArg := r.tries }

def stDENIED : Nat := 1
def stUNMAPPED : Nat := 2
def stBADACCESS : Nat := 3
def stGONE : Nat := 4
def stUNREACH : Nat := 5

/-- Send a request's packet; the router at which it is injected answers it when its address is unmapped
(R203) or, in `injectAt`, when it has no route. -/
def sendReq (s : State) (c : Nat) (r : Req) : State :=
  let p := reqPacket s c r
  if targetOf s r.addr = .unmapped then injectAt s (plotOf c) (statusPacket s p stUNMAPPED)
  else injectCore s c p

/-- A tier 11 request of a transfer that is not a plain 8-byte access, or a store of a poisoned word there, is "bad
access" (R245). -/
def tier11Bad (p : Part) (d : List PWord) : Bool :=
  decide (adTier p.addr = 3) && (decide (p.kind ≥ 2) || decide (p.whole ≠ 8) || d.any (fun w => w.poi))

/-- A control-tier request of the thread is in flight (R245). -/
def tier11Busy (k : Core) (t : Nat) : Bool :=
  k.reqs.any (fun r => decide (r.thread = t) && decide (adTier r.addr = 3) && decide (r.kind < 4))

/-- Drop the head part of thread t; the last one ends the transfer's issue.
(DESIGN CHOICE: assumption 24) -/
def popPart (k : Core) (t : Nat) : Core :=
  let th := getThread k t
  if th.parts.length ≤ 1 then
    markIssued (updThread k t (fun th => { th with parts := [], pc := th.pc + 1#12 })) t
  else updThread k t (fun th => { th with parts := th.parts.tail })

/-- The request that a part of thread t makes under a tag, with the data that it carries. -/
def partReq (s : State) (c t tag : Nat) (p : Part) (data : List PWord) : Req :=
  let k := getCore s c
  let win := windowFor s k p.addr p.len p.kind
  { tag := tag, kind := p.kind, thread := t, tq := p.tq, addr := p.addr, spad := p.spad, len := p.len,
    op := p.op, data := data, gran := win.getD 0, gen := coreGen k, tries := 0, time := s.now.toNat,
    queue := 0, got := []
    status := if win.isNone then some stDENIED else if tier11Bad p data then some stBADACCESS else none }

/-- The router's L buffer has room for the packet of a part (R65). -/
def partRoom (s : State) (c t tag : Nat) (p : Part) : Bool :=
  injectRoom s (plotOf c)
    (reqPacket s c (partReq s c t tag p (List.replicate (sendWords p.kind p.op p.len) ⟨0#64, false⟩)))

/-- Inject the head part of thread t with a tag. -/
def injectPart (s : State) (c t tag : Nat) (p : Part) : State :=
  let rd := spdReadWords s c (p.spad / 8) (sendWords p.kind p.op p.len)
  let s := rd.1
  let k := getCore s c
  let r := partReq s c t tag p rd.2
  let status := r.status
  let s := setCore s c (popPart { k with reqs := k.reqs ++ [r] } t)
  if status.isSome then s else sendReq s c r

/-- TRANSFER_REQUEST_INJECT: thread t's next request takes a tag and is injected, or the thread waits
under "tag wait" or "port wait" (R65, R245).
(DESIGN CHOICE: assumption 24) -/
def requestInject (c t : Nat) (s : State) : State :=
  let k := getCore s c
  let th := getThread k t
  match th.parts with
  | [] => s
  | p :: _ =>
    let wait := fun (cause : Nat) =>
      updCore s c (fun k => updThread k t (fun th => { th with cause := cause }))
    if k.stopped || th.firing.isNone then s
    else match freeTag k with
      | none => wait 5
      | some tag =>
        if outstanding k p.tq ≥ tqLimit k p.tq then wait 5
        else if decide (adTier p.addr = 3) && tier11Busy k t then wait 6
        else if !partRoom s c t tag p then wait 6
        else if decide (0 < sendWords p.kind p.op p.len) && !padTurn s c 5 then s
        else injectPart (if 0 < sendWords p.kind p.op p.len then padServe s c 5 else s) c t tag p

/-- TRANSFER_REQUEST_INJECT (R65, R246). -/
def execTransferRequestInject (c t : Nat) (s : State) : Out := .next (requestInject c t s)

/-! ## Completion (R66, R67) -/

/-- Record an error completion in CORE_TQ_STAT (R67). -/
def countErr (k : Core) (tq status : Nat) : Core :=
  let k := satCfld k (oTqStat tq) 31 16 1
  if cfld k (oTqStat tq) 39 32 = 0 then setCfld k (oTqStat tq) 39 32 status else k

/-- Free a tag. -/
def dropReq (k : Core) (tag : Nat) : Core :=
  { k with reqs := k.reqs.filter (fun r => decide (r.tag ≠ tag)) }

/-- A silo write performed: its entry becomes eligible for refill (R178). -/
def siloWritten (v : Queue) (place : Nat) : Queue :=
  { v with silo := v.silo.map (fun e => if e.1 = place then (e.1, true) else e) }

/-- Push entries of four words at the extension's TAIL (R174). -/
def pushEntries (s : State) (c q : Nat) : List PWord → State
  | a :: b :: d :: e :: l => pushEntries (extPush s c q (wordsEntry [a, b, d, e])) c q l
  | _ => s

/-- A silo request completes: a write marks its entry, a read delivers entries to the extension; an
error fails the context with "spill exhausted" (R174, R178, R181). The data of a request whose queue a drain has emptied
is dropped (R185). -/
def siloDone (s : State) (c : Nat) (r : Req) (status : Nat) (data : List PWord) : State :=
  if r.queue ≥ 16 then s
  else if status ≠ 0 then
    let s := updCore s c (fun k =>
      setQueue (setCfld k oFurStat 62 62 1) r.queue { getQueue k r.queue with siloReading := 0 })
    note s (.spillExhausted c)
  else if r.kind = 4 then
    updCore s c (fun k => setQueue k r.queue (siloWritten (getQueue k r.queue) r.spad))
  else
    let n := r.len / 32
    let s := updCore s c (fun k => setQueue k r.queue
      { getQueue k r.queue with siloReading := (getQueue k r.queue).siloReading - n })
    updCore (pushEntries s c r.queue data) c (fun k => unspill k r.queue)

/-- A request completes with a status and its data, and frees its tag (R66, R67). -/
def completeReq (s : State) (c tag status : Nat) (data : List PWord) : State :=
  match reqOf (getCore s c) tag with
  | none => s
  | some r =>
    let s := updCore s c (fun k => dropReq k tag)
    if r.kind ≥ 4 then siloDone s c r status data
    else if status ≠ 0 then updCore s c (fun k => countErr k r.tq status)
    else if r.kind = 0 ∨ r.kind = 3 then
      spdWriteWords s c (r.spad / 8) data
    else s

/-- Complete at a core and, in redundant mode, at its twin under the twin's own tag (R451). -/
def completeBoth (s : State) (c tag status : Nat) (data : List PWord) : State :=
  let s1 := completeReq s c tag status data
  match s.pairTags.find? (fun x => decide (x.1 = c) && decide (x.2.1 = tag)) with
  | none => s1
  | some x =>
    let s2 := { s1 with pairTags := s1.pairTags.filter (fun y => decide (y ≠ x)) }
    match pairRole s c with
    | some (false, tw) => completeReq s2 tw x.2.2 status data
    | _ => s2

/-- A response packet at core c: stale pairs, tags that no longer name its request and late answers to an earlier issue
of it are dropped (R207, R377). -/
def responseStep (id typ : Nat) (s : State) : State :=
  match findPkt s id with
  | none => s
  | some p =>
    if pType p ≠ typ ∨ pDstKind p ≠ 0 ∨ !isLocalDev s (pDstDev p) ∨ !arrived s p then s
    else
      let s := dropPkt s id
      let c := pDstId p
      if !pairCurrent s c p then staleResp s c
      else if p.orig = 9 then
        -- a seed fetch that failed lands as a beat without words (R365)
        updCore s c (fun k => { k with
          landBuf := k.landBuf ++ [seedErr c (pReqTag p) (pCtx p) (pGen p) p.w2.toNat] })
      else if p.orig = 6 then
        updCore s c (fun k => { k with
          ends := k.ends.eraseP (fun e => decide (e.dev = normDev s (pSrcDev p))
            && decide (e.core = p.origArg / 16) && decide (e.ring = p.origArg % 16)) })
      else
        match reqOf (getCore s c) (pReqTag p) with
        | some r =>
          if r.addr = p.w2 ∧ r.status = none ∧ r.tries = p.origArg then completeBoth s c (pReqTag p) (pStatus p) p.body else s
        | none => s

/-- The words that have arrived once beat b has: a word that was there stays (R207). -/
def addBeat (got : List (Nat × PWord)) (b : Beat) : List (Nat × PWord) :=
  got ++ ((List.range b.words.length).map (fun i => (b.off / 8 + i, b.words.getD i ⟨0#64, false⟩))).filter
    (fun e => !got.any (fun g => decide (g.1 = e.1)))

/-- Word i of what has arrived. -/
def gotWord (got : List (Nat × PWord)) (i : Nat) : Option PWord :=
  (got.find? (fun e => decide (e.1 = i))).map (·.2)

/-- All words of a load are there. -/
def gotAll (got : List (Nat × PWord)) (n : Nat) : Bool := (List.range n).all (fun i => (gotWord got i).isSome)

/-- Take the first beat of a request out of the landing buffer; when every word of the load is there it completes, so
that a load which ends with an error has written nothing (R66, R67, R256). -/
def drainBeat (s : State) (c tag : Nat) : State :=
  let k := getCore s c
  match k.landBuf.find? (fun b => decide (b.tag = tag) && !b.seed), reqOf k tag with
  | some b, some r =>
    let s := setCore s c { k with landBuf := k.landBuf.eraseP (fun x => decide (x.tag = tag) && !x.seed) }
    let got := addBeat r.got b
    if gotAll got (r.len / 8) then
      completeReq (padServe { s with pairTags := s.pairTags.filter (fun x => decide (x.1 ≠ c) || decide (x.2.1 ≠ tag)) } c 3)
        c tag 0 ((List.range (r.len / 8)).map (fun i => (gotWord got i).getD ⟨0#64, false⟩))
    else updCore s c (fun k => { k with
      reqs := k.reqs.map (fun q => if q.tag = tag then { q with got := got } else q) })
  | _, _ => s

/-- REQUEST_COMPLETE: a request that was answered at its core completes with that status (R246); the
landed load data of a request is written to the scratchpad, and the last word completes it (R66). -/
def requestComplete (c tag : Nat) (s : State) : State :=
  match reqOf (getCore s c) tag with
  | none => s
  | some r =>
    match r.status with
    | some st => completeReq s c tag st []
    | none => if padTurn s c 3 then drainBeat s c tag else s

/-- REQUEST_COMPLETE (R66, R67). -/
def execRequestComplete (c tag : Nat) (s : State) : Out := .next (requestComplete c tag s)

/-! ## Timers (R207, R285) -/

/-- The limit of a core's timer, in nanoseconds of device time.
(DESIGN CHOICE: assumption 25) -/
def timerLimit (s : State) (c dev : Nat) : Nat :=
  if isLocalDev s dev then trackTo s (plotOf c)
  else (csrFld s aYokeCtl 47 44 + 1) * csrFld s aYokeCtl 63 48 * 1000 + trackTo s (plotOf c)

def timedOut (s : State) (c dev time : Nat) : Bool := decide (s.now.toNat ≥ time + timerLimit s c dev)

/-- A request's timer expires: a plain load or store is re-issued at most twice, then completes
"unreachable"; every other request completes "unreachable" at once. A re-issue waits for buffer room. -/
def reqTimeout (s : State) (c : Nat) (r : Req) : State :=
  if !timedOut s c (adDev r.addr) r.time || r.status.isSome then s
  else if r.kind ≤ 1 && decide (r.tries < 2) then
    let r' := { r with tries := r.tries + 1, time := s.now.toNat, got := [] }
    if injectRoom s (plotOf c) (reqPacket s c r') then
      let s := updCore s c (fun k => { k with
        reqs := k.reqs.map (fun q => if q.tag = r.tag then r' else q) })
      sendReq s c r'
    else s
  else completeBoth s c r.tag stUNREACH []

/-- TRACK_TIMEOUT (R207). -/
def trackTimeout (c : Nat) (x : TimerRef) (s : State) : State :=
  let k := getCore s c
  match x with
  | .req tag => match reqOf k tag with | some r => reqTimeout s c r | none => s
  | .send i =>
    match k.sends[i]? with
    | some r =>
      if timedOut s c r.dev r.time then
        ackSend (updCore s c (fun k => satCfld k oMsgErr 31 16 1)) c r.thread r.dev r.core r.ring r.oseq
          false
      else s
    | none => s
  | .sheaf i =>
    match k.sheafs[i]? with
    | some r =>
      if timedOut s c r.dev r.time then setCore s c { k with sheafs := k.sheafs.eraseIdx i } else s
    | none => s
  | .orderEnd i =>
    match k.ends[i]? with
    | some r =>
      if timedOut s c r.dev r.time then setCore s c { k with ends := k.ends.eraseIdx i } else s
    | none => s
  | .seed _ => s

end Sys2Proof.Machine
end

