-- ==== Sys2Proof/Machine/Frames.lean ====
section
/-! DEFINITION. The words of yoke frames and of the transactions in their slots (R268, R281, R287, R290), written and
read. -/

namespace Sys2Proof.Machine

/-- A word from its fields: high bit, low bit, value. -/
def packFields (l : List (Nat × Nat × Nat)) : Word := l.foldl (fun w f => setBits w f.1 f.2.1 f.2.2) 0#64

def clean (w : Word) : PWord := ⟨w, false⟩

/-- Word i of a slot or a frame. -/
def wordAt (l : List PWord) (i : Nat) : Word := (l.getD i (clean 0#64)).val

/-- A list of words cut or filled with zeros to n. -/
def padTo (n : Nat) (l : List PWord) : List PWord := l.take n ++ List.replicate (n - l.length) (clean 0#64)

/-! ## The drove packet in its slots (R191, R281) -/

/-- Payload flits of eight words. -/
def payloadFlits : Nat → List PWord → List (List PWord)
  | 0, _ => []
  | n + 1, l => padTo 8 l :: payloadFlits n (l.drop 8)

/-- The slots of a packet: its header flit and its payload flits. An ORDER_END names its ring in DST_RING.
(DESIGN CHOICE: assumption 26) -/
def packetSlots (p : Packet) : List (List PWord) :=
  let w0 := if pType p = tORDEREND then setBits p.w0 30 27 (p.origArg % 16) else p.w0
  let h := [clean w0, clean p.w1, clean p.w2, clean p.w3]
  if pNflits p = 0 then [h ++ padTo 4 p.body] else (h ++ padTo 4 []) :: payloadFlits (pNflits p) p.body

/-- Words of the body of a packet, by its type and length fields (R193, R220). -/
def bodyWords (p : Packet) : Nat :=
  let t := pType p
  if t = tSTORE ∨ t = tADD then pReqWords p
  else if t = tSWAP ∨ t = tFADD ∨ t = tCOMPLETION then 1
  else if t = tCAS then 2
  else if t = tMESSAGE ∨ t = tBOUNCE then pLen p
  else if t = tSHEAF then pShBytes p / 8 * (if pShElt p = 1 then 2 else 1)
  else if t = tLOADDATA then 8 * pNflits p
  else 0

/-- The packet in its slots. -/
def readPacket (l : List (List PWord)) : Option Packet :=
  match l with
  | [] => none
  | h :: rest =>
    let w0 := wordAt h 0
    let p : Packet := mkPacket w0 (wordAt h 1) (wordAt h 2) (wordAt h 3) [] 0
    let p := if pType p = tORDEREND then
        { p with w0 := setBits w0 30 27 0, origArg := pDstId p * 16 + pDstRing p } else p
    some { p with body := ((if rest.isEmpty then h.drop 4 else rest.flatten)).take (bodyWords p) }

/-! ## The yoke header (R281, R287, R290) -/

/-- Words 4 to 7 of a muster message. The manual gives what a message holds and not where.
(DESIGN CHOICE: assumption 36) -/
def musterWords (m : MusterMsg) : List Word :=
  match m with
  | .linkEvent orig seq reporter port up =>
    [packFields [(63, 56, 1), (55, 40, orig), (39, 24, reporter), (23, 16, port), (0, 0, if up then 1 else 0)],
      BitVec.ofNat 64 seq, 0#64, 0#64]
  | .suspect reporter target ep => [packFields [(63, 56, 2), (55, 40, reporter), (39, 24, target)], BitVec.ofNat 64 ep, 0#64, 0#64]
  | .query l target ep => [packFields [(63, 56, 3), (55, 40, l), (39, 24, target)], BitVec.ofNat 64 ep, 0#64, 0#64]
  | .alive d target ep => [packFields [(63, 56, 4), (55, 40, d), (39, 24, target)], BitVec.ofNat 64 ep, 0#64, 0#64]
  | .lost d target ep => [packFields [(63, 56, 5), (55, 40, d), (39, 24, target)], BitVec.ofNat 64 ep, 0#64, 0#64]
  | .commit orig seq kind target ep act =>
    [packFields [(63, 56, 6), (55, 40, orig), (39, 24, target), (7, 0, kind)], packFields [(63, 32, ep), (31, 0, seq)],
      BitVec.ofNat 64 act, 0#64]
  | .shadowReport swath out start weight => [packFields [(63, 56, 7), (47, 0, swath)], out, BitVec.ofNat 64 start, weight]
  | .admitAsk d partner => [packFields [(63, 56, 8), (55, 40, d), (39, 24, partner)], 0#64, 0#64, 0#64]
  | .missing asker ep => [packFields [(63, 56, 9), (55, 40, asker)], BitVec.ofNat 64 ep, 0#64, 0#64]

/-- The muster message in words 4 to 7.
(DESIGN CHOICE: assumption 36) -/
def readMuster (a b c d : Word) : Option MusterMsg :=
  let x := bits a 55 40
  let y := bits a 39 24
  match bits a 63 56 with
  | 1 => some (.linkEvent x b.toNat y (bits a 23 16) (bit a 0))
  | 2 => some (.suspect x y b.toNat)
  | 3 => some (.query x y b.toNat)
  | 4 => some (.alive x y b.toNat)
  | 5 => some (.lost x y b.toNat)
  | 6 => some (.commit x (bits b 31 0) (bits a 7 0) y (bits b 63 32) c.toNat)
  | 7 => some (.shadowReport (bits a 47 0) b c.toNat d)
  | 8 => some (.admitAsk x y)
  | 9 => some (.missing x b.toNat)
  | _ => none

/-- Release i + 1 of a list as a half-word; the half-words left over repeat the first release (R287).
(DESIGN CHOICE: assumption 36) -/
def relHalf (l : List (Nat × Bool)) (i : Nat) : Nat :=
  match l with
  | [] => 0
  | x :: r =>
    let y := r.getD i x
    y.1 % 65536 + (if y.2 then 65536 else 0)

/-- Words 4 to 7 of a header that carries releases. -/
def relWords (l : List (Nat × Bool)) : List Word :=
  (List.range 4).map (fun k => packFields [(31, 0, relHalf l (2 * k)), (63, 32, relHalf l (2 * k + 1))])

/-- The eight words of a yoke header (R281). -/
def yokeHeader (t : Txn) : List PWord :=
  let n := match t.pkt with | none => 0 | some p => flitsOf p
  let b := fun (x : Bool) => if x then 1 else 0
  let r := t.rel.headD (0, false)
  let w0 := packFields [(63, 48, t.dst), (47, 32, t.src), (31, 31, t.tepoch), (30, 28, t.vc), (27, 27, b t.ni),
    (26, 26, b t.copy), (25, 25, b t.mirror), (24, 24, b t.resp), (23, 20, t.port), (19, 13, t.hops), (12, 0, t.tracker)]
  let w2 := packFields [(63, 48, t.tseq), (47, 32, r.1), (31, 31, b !t.rel.isEmpty), (30, 30, b r.2), (29, 26, n)]
  let tail := match t.muster, t.pkt with
    | some m, _ => musterWords m
    | none, none => relWords t.rel
    | none, some _ => [0#64, 0#64, 0#64, 0#64]
  [w0, BitVec.ofNat 64 t.first, w2, t.digest].map clean ++ tail.map clean

/-- The slots of a transaction. -/
def txnWords (t : Txn) : List (List PWord) :=
  yokeHeader t :: (match t.pkt with | none => [] | some p => packetSlots p)

/-- The releases that a header carries. -/
def readReleases (h : List PWord) (alone : Bool) : List (Nat × Bool) :=
  let w := wordAt h 2
  if !bit w 31 then []
  else
    let half := fun (k : Nat) => let x := bits (wordAt h (4 + k / 2)) (32 * (k % 2) + 31) (32 * (k % 2))
      (x % 65536, decide (x / 65536 % 2 = 1))
    ((bits w 47 32, bit w 30) :: (if alone then (List.range 8).map half else [])).eraseDups

/-- The transaction in its slots; none when NSLOTS is not the number that follows. A header alone with RESP that carries
nothing is a "busy" answer.
(DESIGN CHOICE: assumption 36) -/
def readTxn (l : List (List PWord)) : Option Txn :=
  match l with
  | [] => none
  | h :: rest =>
    let w0 := wordAt h 0
    let w2 := wordAt h 2
    let pkt := readPacket rest
    let alone := rest.isEmpty
    let vc := bits w0 30 28
    let fits := match pkt with | none => true | some p => decide (rest.length = flitsOf p)
    if bits w2 29 26 ≠ rest.length ∨ fits = false then none
    else some
      { dst := bits w0 63 48, src := bits w0 47 32, tepoch := bits w0 31 31, vc := vc, ni := bit w0 27, copy := bit w0 26
        mirror := bit w0 25, resp := bit w0 24, busy := alone && bit w0 24 && decide (vc ≠ 4), port := bits w0 23 20
        hops := bits w0 19 13, tracker := bits w0 12 0, first := (wordAt h 1).toNat, tseq := bits w2 63 48
        rel := readReleases h (alone && decide (vc ≠ 4)), digest := wordAt h 3, pkt := pkt
        muster := if alone && decide (vc = 4) then readMuster (wordAt h 4) (wordAt h 5) (wordAt h 6) (wordAt h 7)
          else none }

/-- The slots of a transaction as a frame carries them. -/
def slotList (t : Txn) : List Slot :=
  let l := txnWords t
  l.zipIdx.map (fun x => { vc := t.vc, first := decide (x.2 = 0), last := decide (x.2 + 1 = l.length), words := x.1 })

/-! ## Frames (R268) -/

/-- One bit of the CRC-32 of IEEE 802.3, least significant bit first. -/
def crc32Bit (c : BitVec 32) : BitVec 32 := if c.getLsbD 0 then (c >>> 1) ^^^ 0xEDB88320#32 else c >>> 1

def crc32Byte (c : BitVec 32) (b : Byte) : BitVec 32 :=
  (List.range 8).foldl (fun c _ => crc32Bit c) (c ^^^ b.zeroExtend 32)

/-- The CRC-32 of bytes.
(DEDUCED: assumption 36) -/
def crc32 (l : List Byte) : BitVec 32 := ~~~ (l.foldl crc32Byte 0xFFFFFFFF#32)

/-- The bytes of a list of words, in address order. -/
def wordBytes (l : List PWord) : List Byte := l.flatMap (fun w => natToBytes w.val.toNat 8)

/-- The CRC of a frame: its header, its slots and bits [31:0] of its trailer. -/
def frameCrc (ws : List PWord) : BitVec 32 :=
  crc32 (wordBytes (ws.take 33) ++ natToBytes (wordAt ws 33).toNat 4)

/-- A frame of a header, the words of its slots and the lower half of its trailer. -/
def mkFrame (hdr : Word) (slots : List PWord) (low : Nat) : List PWord :=
  let ws := clean hdr :: padTo 32 slots
  ws ++ [clean (packFields [(63, 32, (frameCrc (ws ++ [clean (BitVec.ofNat 64 low)])).toNat), (31, 0, low)])]

/-- A frame's header word. -/
def frameHdr (ftype fseq : Nat) (h : FrameHdr) : Word :=
  packFields ([(63, 62, ftype), (61, 50, fseq), (49, 38, h.ack)]
    ++ (List.range 6).map (fun k => (14 + 4 * k + 3, 14 + 4 * k, h.credit.getD k 0)))

/-- The six SLOTS bits of a slot: valid, VC, first, last. -/
def slotBits (x : Slot) : Nat := 32 + 4 * (x.vc % 8) + (if x.first then 2 else 0) + (if x.last then 1 else 0)

/-- The words of a data frame. -/
def dataWords (f : YFrame) : List PWord :=
  mkFrame (frameHdr 1 f.fseq f.hdr) (f.slots.flatMap (fun x => padTo 8 x.words))
    (f.slots.zipIdx.foldl (fun a x => a + 2 ^ (8 + 6 * x.2) * slotBits x.1) 0)

/-- The words of an idle frame. -/
def idleWords (h : FrameHdr) : List PWord := mkFrame (frameHdr 0 0 h) [] 0

/-- The words of a link control frame: its CODE with the argument in word 0, and the words after. -/
def controlWords (h : FrameHdr) (code arg : Nat) (l : List Word) : List PWord :=
  mkFrame (frameHdr 2 0 h) (clean (packFields [(63, 56, code), (55, 0, arg)]) :: l.map clean) 0

/-- What a frame says: it fails its CRC or its FTYPE is reserved; data; idle; the link control frames; a reserved CODE. -/
inductive RxFrame where
  | bad
  | data (f : YFrame)
  | idle (h : FrameHdr)
  | retry (h : FrameHdr) (fseq : Nat)
  | heartbeat (h : FrameHdr) (coord role mepoch : Nat) (time : Word) (swath fields : Nat)
  | trainId (h : FrameHdr) (coord port : Nat) (shape : Word)
  | reserved
  deriving DecidableEq, Repr

/-- Slot k of a data frame, when it is valid. -/
def readSlot (ws : List PWord) (k : Nat) : Option Slot :=
  let b := bits (wordAt ws 33) (8 + 6 * k + 5) (8 + 6 * k)
  if b / 32 = 0 then none
  else some { vc := b / 4 % 8, first := decide (b / 2 % 2 = 1), last := decide (b % 2 = 1)
              words := (ws.drop (1 + 8 * k)).take 8 }

/-- Read the 34 words of a frame. -/
def readFrame (ws : List PWord) : RxFrame :=
  let w := wordAt ws 0
  let h : FrameHdr :=
    { ack := bits w 49 38, credit := (List.range 6).map (fun k => bits w (14 + 4 * k + 3) (14 + 4 * k)) }
  let a := wordAt ws 1
  if ws.length ≠ 34 ∨ (frameCrc ws).toNat ≠ bits (wordAt ws 33) 63 32 then .bad
  else match bits w 63 62 with
    | 0 => .idle h
    | 1 => .data { fseq := bits w 61 50, hdr := h, slots := (List.range 4).filterMap (readSlot ws) }
    | 2 => match bits a 63 56 with
      | 1 => .retry h (bits a 11 0)
      | 2 => .heartbeat h (bits (wordAt ws 2) 15 0) (bits (wordAt ws 2) 19 16) (wordAt ws 3).toNat (wordAt ws 4)
          (wordAt ws 5).toNat (bits (wordAt ws 6) 5 0)
      | 3 => .trainId h (bits (wordAt ws 2) 15 0) (bits (wordAt ws 2) 19 16) (wordAt ws 3)
      | _ => .reserved
    | _ => .bad

end Sys2Proof.Machine
end

