-- ==== Sys2Proof/Machine/Yoke.lean ====
section
/-! DEFINITION. The yoke ports (R266 to R272), the transactions between devices and the exactly-once
machinery (R279 to R288, R299). -/

namespace Sys2Proof.Machine

/-! ## Digests (R299, R303) -/

/-- One bit of the CRC-64 of ECMA-182: no reflection, no final inversion. -/
def crc64Bit (crc : Word) (b : Bool) : Word :=
  if (crc.getLsbD 63) != b then (crc <<< 1) ^^^ 0x42F0E1EBA9EA3693#64 else crc <<< 1

/-- One byte, most significant bit first. -/
def crc64Byte (crc : Word) (b : Byte) : Word :=
  (List.range 8).foldl (fun c i => crc64Bit c (b.getLsbD (7 - i))) crc

def crc64 (crc : Word) (l : List Byte) : Word := l.foldl crc64Byte crc

/-- The BF16 words from which FP32 words were widened exactly (R220). -/
def unwidenBF : List PWord → List PWord
  | a :: b :: l =>
    ⟨packFields [(15, 0, bits a.val 31 16), (31, 16, bits a.val 63 48), (47, 32, bits b.val 31 16),
      (63, 48, bits b.val 63 48)], a.poi || b.poi⟩ :: unwidenBF l
  | l => l

/-- The digest of a contribution: its bytes as contributed, the source coordinate, SHEAF_ID, ROUND. -/
def sheafDigest (p : Packet) : Word :=
  let d := if pShElt p = 1 then unwidenBF p.body else p.body
  crc64 0#64 ((wordBytes d).take (pShBytes p) ++ natToBytes (pSrcDev p) 2 ++ natToBytes (pShId p) 2
    ++ natToBytes (pShRound p) 1)

/-- What one outbound transaction adds to the outbound digest: type, address without its coordinate or core and ring,
payload.
(DESIGN CHOICE: assumption 41) -/
def outBytes (p : Packet) : List Byte :=
  natToBytes (pType p) 1
    ++ (if isRequest (pType p) then natToBytes (setBits p.w2 63 48 0).toNat 8
        else natToBytes (pDstId p) 2 ++ natToBytes (pDstRing p) 1)
    ++ wordBytes p.body

/-! ## Roles (R290, R302) -/

def mRole (s : State) : Nat := csrFld s aMstState 31 28
def mEpoch (s : State) : Nat := csrFld s aMstState 63 32
def leader (s : State) : Nat := csrFld s aMstState 15 0
def isShadow (s : State) : Bool := decide (mRole s = 1)

/-- Shadowing is in progress on this device, as partner or as shadow. -/
def shadowing (s : State) : Bool :=
  decide (csrFld s aMstShadow 63 63 = 1) && (isShadow s || s.muster.shadow.isSome)

/-- The device is dormant or on its way (R419).
(DESIGN CHOICE: assumption 35) -/
def dormantNow (s : State) : Bool := decide (csrFld s aPwrDormant 61 59 ≠ 0)

/-- Fold an outbound transaction into the swath's digest (R303). -/
def foldOut (s : State) (p : Packet) : State :=
  if shadowing s then
    { s with muster := { s.muster with outDigest := crc64 s.muster.outDigest (outBytes p) } }
  else s

/-! ## Frames (R268 to R270) -/

def emit (s : State) (e : Emit) : State := { s with outs := e :: s.outs }

/-- Slots of a transaction: the yoke header and the flits of its packet (R281). -/
def txnSlots (t : Txn) : Nat := match t.pkt with | none => 1 | some p => 1 + flitsOf p

def chunk4 : List Slot → List (List Slot)
  | a :: b :: c :: d :: l => [a, b, c, d] :: chunk4 l
  | [] => []
  | l => [l]

/-- The header of the next frame of a port: what it acknowledges, and up to 15 freed slots for each VC,
which are then reported. -/
def takeHdr (s : State) (p : Nat) : State × FrameHdr :=
  let v := getPort s p
  let cr := (List.range 6).map (fun vc => min 15 (fget zeroNat v.freed vc))
  let left := (List.range 6).foldl (fun m vc =>
    fset zeroNat m vc (fget zeroNat m vc - min 15 (fget zeroNat v.freed vc))) v.freed
  (setPort s p { v with freed := left }, { ack := (v.rxNext + 4095) % 4096, credit := cr })

/-- Send one data frame of up to four slots. -/
def sendFrame (s : State) (p : Nat) (l : List Slot) : State :=
  let r := takeHdr s p
  let v := getPort r.1 p
  let f : YFrame := { fseq := v.txSeq, hdr := r.2, slots := l }
  emit (setPort r.1 p { v with txSeq := (v.txSeq + 1) % 4096, unacked := v.unacked ++ [f] }) (.yoke p (dataWords f))

/-- Slots of the transactions queued at a port for a VC. -/
def queuedSlots (v : YPort) (vc : Nat) : Nat :=
  (v.txq.filter (fun t => decide (t.vc = vc))).foldl (fun a t => a + txnSlots t) 0

/-- The downstream buffer of the VC has room for n slots beyond those queued (R270). -/
def txRoom (s : State) (p vc n : Nat) : Bool :=
  let v := getPort s p
  decide (fget zeroNat v.used vc + queuedSlots v vc + n ≤ vcCap vc)

/-- What one pass over a port's queue sends: credits used, slots it may still send, VCs that wait, the
transactions sent and those kept. -/
structure PumpAcc where
  used : FMap Nat
  budget : Nat
  blocked : List Nat
  sent : List Txn
  kept : List Txn

def pumpStep (a : PumpAcc) (t : Txn) : PumpAcc :=
  let n := txnSlots t
  if !a.blocked.contains t.vc && decide (fget zeroNat a.used t.vc + n ≤ vcCap t.vc)
      && decide (n ≤ a.budget) then
    { a with used := fupd zeroNat a.used t.vc (· + n), budget := a.budget - n, sent := a.sent ++ [t] }
  else { a with blocked := t.vc :: a.blocked, kept := a.kept ++ [t] }

/-- Send what the port's credits and its 512 unacknowledged frames allow, in order within each VC
(R269, R270). -/
def pump (s : State) (p : Nat) : State :=
  let v := getPort s p
  if !portUp s p then s
  else
    let a := v.txq.foldl pumpStep
      { used := v.used, budget := 4 * (512 - v.unacked.length), blocked := [], sent := [], kept := [] }
    (chunk4 (a.sent.flatMap slotList)).foldl (fun s l => sendFrame s p l)
      (setPort s p { v with used := a.used, txq := a.kept })

/-- A frame that carries only what the port has to report. -/
def idleOut (s : State) (p : Nat) : State :=
  let r := takeHdr s p
  emit r.1 (.yoke p (idleWords r.2))

/-- Take in a good frame's header: frames acknowledged, credits returned; then send what can go.
(DESIGN CHOICE: assumption 36) -/
def acceptHdr (s : State) (p : Nat) (h : FrameHdr) : State :=
  let s := updPort s p (fun v => { v with
    unacked := v.unacked.filter (fun f => decide ((h.ack + 4096 - f.fseq) % 4096 ≥ 512))
    used := (List.range 6).foldl (fun m vc =>
      fset zeroNat m vc (fget zeroNat m vc - (h.credit.getD vc 0) % 16)) v.used
    lastGood := s.now.toNat })
  pump s p

/-- Ask again for the frame the receiver expects. -/
def sendRetry (s : State) (p : Nat) : State :=
  let r := takeHdr s p
  emit (updPort r.1 p (fun v => { v with retryAt := some s.now.toNat }))
    (.yoke p (controlWords r.2 1 (getPort r.1 p).rxNext []))

/-- A data frame that cannot be accepted: the first one is answered with RETRY (R269).
(DESIGN CHOICE: assumption 36) -/
def rejectFrame (s : State) (p : Nat) : State :=
  if (getPort s p).retryAt.isSome then s else sendRetry s p

def noSlots (_ : Nat) : List (List PWord) := []

/-- Take in one slot: a transaction whose last slot it is stands in the receive buffer; slots that make none are freed.
(DESIGN CHOICE: assumption 36) -/
def takeSlot (v : YPort) (x : Slot) : YPort :=
  let l := (if x.first then [] else fget noSlots v.parts x.vc) ++ [x.words]
  if !x.last then { v with parts := fset noSlots v.parts x.vc l }
  else
    let v := { v with parts := fset noSlots v.parts x.vc [] }
    match readTxn l with
    | some t => { v with rx := v.rx ++ [{ t with vc := x.vc }] }
    | none => { v with freed := fupd zeroNat v.freed x.vc (· + l.length) }

/-- A data frame whose CRC is good (R269). -/
def goodFrame (s : State) (p : Nat) (f : YFrame) : State :=
  if f.fseq ≠ (getPort s p).rxNext then
    rejectFrame (updPort s p (fun v => { v with lastGood := s.now.toNat })) p
  else
    acceptHdr (updPort s p (fun v => f.slots.foldl takeSlot { v with
      rxNext := (v.rxNext + 1) % 4096
      retryAt := none })) p f.hdr

/-- DATA_FRAME on port p: 34 words, with the codewords in them that the FEC could not correct. A frame that fails its CRC
or has the reserved FTYPE stands here whatever it was (R268, R269). -/
def dataFrame (p fec : Nat) (ws : List PWord) (s : State) : State :=
  if !portUp s p then s
  else
    let s := satCsrFld s (aYokeErr p) 31 16 fec
    match readFrame ws with
    | .bad => rejectFrame (satCsrFld s (aYokeErr p) 63 48 1) p
    | .data f => goodFrame s p f
    | _ => s

/-- DATA_FRAME (R269). -/
def execDataFrame (p fec : Nat) (ws : List PWord) (s : State) : Out := .next (dataFrame p fec ws s)

/-- IDLE_FRAME: ACK and CREDIT; a link control frame with a reserved CODE is ignored but for its arrival (R268, R271). -/
def idleFrame (p : Nat) (ws : List PWord) (s : State) : State :=
  if !portUp s p then s
  else match readFrame ws with
    | .idle h => acceptHdr s p h
    | .reserved => updPort s p (fun v => { v with lastGood := s.now.toNat })
    | _ => s

/-- IDLE_FRAME (R268). -/
def execIdleFrame (p : Nat) (ws : List PWord) (s : State) : Out := .next (idleFrame p ws s)

/-- RETRY: the data frames from the expected FSEQ go again, in order (R269). -/
def retryIn (p : Nat) (h : FrameHdr) (fseq : Nat) (s : State) : State :=
  if !portUp s p then s
  else
    let s := acceptHdr (satCsrFld s (aYokeErr p) 47 32 1) p h
    let s := updPort s p (fun v => { v with
      retryRow := if v.retrySeq = fseq then v.retryRow + 1 else 1, retrySeq := fseq })
    ((getPort s p).unacked.filter (fun f => decide ((f.fseq + 4096 - fseq) % 4096 < 512))).foldl
      (fun s f => emit s (.yoke p (dataWords f))) s

/-- RETRY (R269). -/
def execRetry (p : Nat) (ws : List PWord) (s : State) : Out :=
  .next (match readFrame ws with
    | .retry h fseq => retryIn p h fseq s
    | _ => s)

/-- RETRY_REPEAT: 1 µs after the last RETRY, while the expected frame is missing (R269). -/
def execRetryRepeat (p : Nat) (s : State) : Out :=
  .next (match (getPort s p).retryAt with
    | some t => if portUp s p && decide (s.now.toNat ≥ t + 1000) then sendRetry s p else s
    | none => s)

/-! ## Sending transactions (R276 to R279, R286, R287) -/

/-- Retire an operation toward a device (R286). -/
def retire (s : State) (dst tseq : Nat) : State :=
  let put := fun (e : PairEntry) => { e with live := e.live.filter (fun x => decide (x.1 ≠ tseq)) }
  { s with pairTab := fupd pair0 s.pairTab (linIdx (teamShape s) dst) put }

/-- LOW of the pair table: the oldest sequence not yet retired, NEXT when every one is. -/
def pairLow (e : PairEntry) : Nat := match e.live with | [] => e.next | x :: _ => x.1

/-- Take up to `n` queued releases for a device from port p; those without HOLD retire their operation. -/
def takeReleases (s : State) (p dst n : Nat) : State × List (Nat × Bool) :=
  let v := getPort s p
  let mine := (v.releases.filter (fun r => decide (r.dst = dst))).take n
  let s := setPort s p { v with releases := v.releases.filter (fun r => !mine.contains r) }
  (mine.foldl (fun s r => if r.hold then s else retire s dst r.tseq) s,
    mine.map (fun r => (r.tseq, r.hold)))

/-- Queue a transaction at port p, with a release for its destination when one waits (R287), and send. -/
def sendTxn (s : State) (p : Nat) (t : Txn) : State :=
  let r := if t.muster.isSome || !t.rel.isEmpty then (s, t.rel) else takeReleases s p t.dst 1
  pump (updPort r.1 p (fun v => { v with txq := v.txq ++ [{ t with rel := r.2 }] })) p

/-- A transaction of this device with nothing in it; the link that it goes over first is its first hop (R280, R281). -/
def txn0 (s : State) (dst vc : Nat) : Txn :=
  { dst := dst, src := ownCoord s, tepoch := injTepoch s, vc := vc, ni := false, copy := false,
    mirror := false, resp := false, busy := false, port := 0, hops := 1, tracker := 0,
    first := s.now.toNat, tseq := 0, rel := [], digest := 0#64, pkt := none, muster := none }

/-- The team table version of a transaction, and its epoch: an epoch not loaded here is restamped with
the current one (R278). -/
def txnVer (s : State) (t : Txn) : TeamVer × Nat :=
  let v := teamVer s t.tepoch
  if v.valid then (v, t.tepoch) else (teamVer s (injTepoch s), injTepoch s)

/-- A non-idempotent operation (R282). -/
def isNI (p : Packet) : Bool :=
  decide (3 ≤ pType p ∧ pType p ≤ 8) || decide (pType p = tORDEREND)
    || (decide (pType p ≤ 2) && decide (adTier p.w2 = 3))

/-- The last timeout of a tracker's operation: 800 µs after FIRST_TIME by default. -/
def trackUs (s : State) : Nat := csrFld s aYokeCtl 63 48

/-- A packet is aged out: more than 2 ms past its FIRST_TIME, or 63 hops (R280). -/
def aged (s : State) (t : Txn) : Bool :=
  decide (s.now.toNat > t.first + 2000000) || decide (t.hops ≥ 63)

/-- The lowest tracker number that is free.
(DESIGN CHOICE: assumption 36) -/
def freeTracker (v : YPort) : Nat :=
  ((List.range (v.trackers.length + 1)).find? (fun n => !v.trackers.any (fun t => decide (t.num = n)))).getD 0

/-- Send a tracker's transaction under the current team table: the first time from the port that took it when the route
goes that way, a resend from the port that routing picks (R276, R283, R287). A shadow sends nothing (R303). -/
def launch (s : State) (own : Option Nat) (t : Txn) : State :=
  if isShadow s then s
  else
    let t := { t with tepoch := injTepoch s }
    match teamRoute s (teamVer s (injTepoch s)) t.dst 0 false true with
    | none => s
    | some (q, vc) =>
      let p := own.getD q
      let q := if portUp s p && decide (portDim p = portDim q) && (portPlus p == portPlus q) then p else q
      sendTxn s q { t with vc := vc }

/-- What a request that cannot reach its device is answered with, at once, on the die (R274, R287). -/
def failHere (s : State) (p : Nat) (pkt : Packet) (status : Nat) : State :=
  let q := if isRequest (pType pkt) then some (statusPacket s pkt status) else noRoute s pkt
  match q with
  | some q => injectEdge s (p + 1) { q with w0 := setBits q.w0 63 48 0xFFFF }
  | none => s

/-- An operation of this device ends without reaching its destination (R287). -/
def failOp (s : State) (p : Nat) (pkt : Packet) (status : Nat) : State :=
  if pkt.orig = 8 then fillAnswer s pkt.origArg status [] else failHere s p pkt status

/-- A request packet at the edge router of port p leaves the device: it takes a tracker and, when it is
non-idempotent, a TSEQ; without either, or without room, it waits (R283, R286). -/
def egress (s : State) (p : Nat) (pkt : Packet) : State :=
  match remoteStatus s (pDstDev pkt) with
  | some st => failOp (dropPkt s pkt.id) p pkt st
  | none =>
    let dst := pDstDev pkt
    let ni := isNI pkt
    let key := linIdx (teamShape s) dst
    let e := fget pair0 s.pairTab key
    let v := getPort s p
    let full := ni && decide ((e.next + 65536 - pairLow e) % 65536 ≥ 32768)
    if v.trackers.length ≥ 8192 || full || !txRoom s p 0 (1 + flitsOf pkt) then s
    else
      let s := foldOut (dropPkt s pkt.id) pkt
      let tseq := if ni then e.next else 0
      let e' : PairEntry := { next := (e.next + 1) % 65536, live := e.live ++ [(tseq, s.now.toNat, false)] }
      let s := if ni then { s with pairTab := fset pair0 s.pairTab key e' } else s
      let num := freeTracker v
      let t : Txn := { txn0 s dst 0 with
        ni := ni
        port := p
        tracker := num
        tseq := tseq
        digest := if pType pkt = tSHEAF then sheafDigest pkt else 0#64
        pkt := some { pkt with w3 := setBits pkt.w3 63 48 tseq } }
      let s := updPort s p (fun v => { v with
        trackers := v.trackers ++ [{ num := num, txn := t, pkt := pkt, sent := 1,
                                     deadline := s.now.toNat + trackUs s * 1000, busyAt := none }] })
      launch s (some p) t

/-! ## Responses leaving (R283, R288, R306) -/

/-- The outcome that a response stands for. -/
def outcomeOf (q : Packet) : Outcome :=
  if pType q = tBOUNCE then { status := 0, old := none, reason := some (pReason q) }
  else if pType q = tMSGACK then { status := (pSerial q).toNat, old := none, reason := none }
  else if pType q = tLOADDATA ∨ pType q = tCOMPLETION then
    { status := pStatus q, old := q.body.head?, reason := none }
  else { status := 0, old := none, reason := none }

/-- Send the response packet q of an inbound request: the outcome of a non-idempotent one is stored, and
a mirrored one's response is discarded (R288, R306). The response of a request that was accepted counts in the outbound
digest (R303).
(DESIGN CHOICE: assumption 41) -/
def answer (s : State) (x : Inbound) (q : Packet) (accepted : Bool) : State :=
  let s := { s with inbound := s.inbound.filter (fun y => decide (y.id ≠ x.id)) }
  let s := if accepted then foldOut s q else s
  if x.txn.mirror then s
  else
    let put := fun (e : Filter) =>
      if e.src = x.txn.src ∧ e.tseq = x.txn.tseq then { e with outcome := some (outcomeOf q) } else e
    let s := if x.txn.ni then { s with filter := s.filter.map put } else s
    if isShadow s then s
    else match teamRoute s (teamVer s (injTepoch s)) x.txn.src 2 true true with
      | none => s
      | some (p, vc) =>
        sendTxn s p { txn0 s x.txn.src vc with
          ni := x.txn.ni
          resp := true
          port := x.txn.port
          tracker := x.txn.tracker
          first := x.txn.first
          tseq := x.txn.tseq
          pkt := some { q with w3 := setBits q.w3 63 48 x.txn.tseq } }

/-- A response packet at an edge router of a yoke port leaves, when its transaction has room. -/
def respEgress (s : State) (p : Nat) (q : Packet) : State :=
  match s.inbound.find? (fun x => decide (x.id + 1 = q.yk)) with
  | none => dropPkt s q.id
  | some x => if txRoom s p 2 (1 + flitsOf q) then answer (dropPkt s q.id) x q true else s

/-- The yoke port whose live router holds a packet for another device. -/
def egressPort (s : State) (p : Packet) : Option Nat :=
  if isLocalDev s (pDstDev p) then none
  else (List.range 12).find? (fun n =>
    decide (edgeRouter (verOf s (pEpoch p)) (n + 1) = some p.at_)
      && decide (destRouter s p = some p.at_))

/-- A packet for another device leaves through the port whose router it has reached. -/
def leaveDevice (s : State) (pkt : Packet) : State :=
  match egressPort s pkt with
  | none => s
  | some p =>
    if 9 ≤ pType pkt ∧ pType pkt ≤ 12 ∨ pType pkt = tSHEAFDONE then respEgress s p pkt
    else egress s p pkt

/-! ## Arrivals (R278 to R284, R288) -/

/-- Transaction i in the receive buffers of port p. -/
def rxAt (s : State) (p i : Nat) : Option Txn := (getPort s p).rx[i]?

/-- Take transaction i from port p's receive buffer: its slots become free. -/
def rxTake (s : State) (p i : Nat) (t : Txn) : State :=
  updPort s p (fun v => { v with rx := v.rx.eraseIdx i,
                                 freed := fupd zeroNat v.freed t.vc (· + txnSlots t) })

/-- Port and VC of a transaction in transit, that came in at port p (R276, R277). -/
def transitRoute (s : State) (p : Nat) (t : Txn) : Option (Nat × Nat × Nat) :=
  let v := txnVer s t
  let fresh := match dimStep (teamShape s) (ownCoord s) t.dst with
    | some (k, _) => decide (k ≠ portDim p)
    | none => false
  (teamRoute s v.1 t.dst t.vc t.resp fresh).map (fun r => (r.1, r.2, v.2))

/-- Forward a transaction for another device, when the next buffer has room. -/
def transit (s : State) (p i : Nat) (t : Txn) : State :=
  match transitRoute s p t with
  | none => s
  | some (q, vc, ep) =>
    if !txRoom s q vc (txnSlots t) then s
    else
      let s := rxTake s p i t
      pump (updPort s q (fun v => { v with
        txq := v.txq ++ [{ t with vc := vc, tepoch := ep, hops := t.hops + 1 }] })) q

/-- Releases that arrived: without HOLD the filter entry is freed, with HOLD it stays (R288). -/
def applyReleases (s : State) (src : Nat) (l : List (Nat × Bool)) : State :=
  l.foldl (fun s r =>
    let mine := fun (e : Filter) => decide (e.src = src) && decide (e.tseq = r.1)
    let keep := fun (e : Filter) => if mine e then { e with hold := true } else e
    if r.2 then { s with filter := s.filter.map keep }
    else { s with filter := s.filter.filter (fun e => !mine e) }) s

/-- Team window n covers a range of a tier with a right: 0 RD, 1 WR, 2 AT, 3 MSG, 4 SHF (R284). -/
def teamWindow (s : State) (n tier lo len right : Nat) : Bool :=
  let b := csrGet s (aYokeTwBase n)
  decide (bits b 63 63 = 1) && decide (bits b 62 61 = tier) && bit b (60 - right)
    && decide (bits b 45 12 * 4096 ≤ lo)
    && decide (lo + len ≤ (csrFld s (aYokeTwLimit n) 45 12 + 1) * 4096)

def teamAllowed (s : State) (tier lo len right : Nat) : Bool :=
  (List.range 16).any (fun n => teamWindow s n tier lo len right)

/-- An offset of the control tier lies in a restricted block (R284). -/
def restricted (o : Nat) : Bool := decide (o / 0x100000000 = 7) || decide (o / 0x100000000 = 8)

/-- The plot and node of the root of a sheaf identifier: the lowest plot that holds one.
(DEDUCED: assumption 40) -/
def sheafRoot (s : State) (id : Nat) : Option (Nat × Nat) :=
  (List.range (numPlots s)).findSome? (fun j =>
    match nodeOf s j id with
    | some n => if nodeRoot s j n then some (j, n) else none
    | none => none)

/-- The team windows permit a remote packet (R284). ORDER_END carries no right of its own. -/
def windowsPass (s : State) (p : Packet) : Bool :=
  let t := pType p
  if isRequest t then
    !(decide (adTier p.w2 = 3) && restricted (adOff p.w2))
      && teamAllowed s (adTier p.w2) (adOff p.w2) (8 * pReqWords p)
        (if t = tLOAD then 0 else if t = tSTORE then 1 else 2)
  else if t = tMESSAGE then teamAllowed s 0 (pDstId p * 262144) 262144 3
  else if t = tSHEAF then
    match sheafRoot s (pShId p) with
    | some (j, n) => teamAllowed s 0 (nodeTarget s j n * 262144) 262144 4
    | none => false
  else decide (t = tORDEREND)

/-- The packet that a remote transaction injects here, under DST_DEV 0xFFFF (R283). A mirrored one names
this device's partner in its address (R303). -/
def localPacket (s : State) (t : Txn) (p : Packet) (id : Nat) : Packet :=
  let a := setBits p.w2 63 48 0xFFFF
  let w0 := if isRequest (pType p) then reqW0 s a (pNflits p) (pType p)
    else if pType p = tSHEAF then
      mkW0 0xFFFF 3 (((sheafRoot s (pShId p)).map (·.1)).getD 0) 0 0 (pNflits p) tSHEAF 0
    else setBits p.w0 63 48 0xFFFF
  { p with
    w0 := w0
    w2 := if isRequest (pType p) then (if t.mirror then a else p.w2) else p.w2
    gran := 1
    orig := if pType p = tORDEREND then 5 else 0
    origArg := if pType p = tORDEREND then p.origArg else pDstId p * 16 + pDstRing p
    chan := typeChan (pType p) p.w2
    yk := id + 1 }

/-- A SHEAF_DONE for a contribution's round. -/
def doneFor (s : State) (p : Packet) : Packet :=
  mkPacket (mkW0 (pSrcDev p) 0 (pSrcCore p) 0 0 0 tSHEAFDONE 0)
    (mkW1 (ownDev s) 0x7FFF (pCtx p) (pGen p)) (mkShW2 (pShId p) (pShRound p) 0 0 0 0) 0#64 [] 0

/-- The COMPLETION that answers an ORDER_END. -/
def orderEndDone (s : State) (p : Packet) : Packet :=
  mkPacket (mkW0 (pSrcDev p) 0 (pSrcCore p) 0 0 0 tCOMPLETION 0)
    (mkW1 (ownDev s) 0x7FFF (pCtx p) (pGen p)) 0#64 0#64 [] 0

/-- The refusal of a remote packet: a status, a bounce, or a counted discard with a done notice (R284). -/
def refusal (s : State) (p : Packet) (status reason : Nat) : State × Packet :=
  if pType p = tMESSAGE then (s, bouncePacket s p reason)
  else if pType p = tSHEAF then
    (setCsrFld (satCsrFld s aMstCollDenied 63 48 1) aMstCollDenied 15 0 (pSrcDev p), doneFor s p)
  else if pType p = tORDEREND then (s, orderEndDone s p)
  else (s, statusPacket s p status)

/-- The stored outcome of a done operation, as a response (R288). -/
def replayOutcome (s : State) (p : Packet) (o : Outcome) : Packet :=
  match o.reason with
  | some r => bouncePacket s p r
  | none =>
    if pType p = tMESSAGE then
      { mkPacket (mkW0 (pSrcDev p) 0 (pSrcCore p) 0 0 0 tMSGACK 0)
          (mkW1 (ownDev s) 0x7FFF (pCtx p) (pGen p)) 0#64
          (mkMsgW3 (pOseq p) false 0 (pThread p) (decide (o.status = 1)) 0) [] 0 with
        orig := 5, origArg := pDstId p * 16 + pDstRing p }
    else if pType p = tSHEAF then doneFor s p
    else if pType p = tORDEREND then orderEndDone s p
    else if pType p = tLOAD ∧ o.status = 0 then dataPacket s p (o.old.toList)
    else { statusPacket s p o.status with body := o.old.toList }

/-- An answer that says "busy": nothing was performed (R288).
(DESIGN CHOICE: assumption 41) -/
def sendBusy (s : State) (t : Txn) : State :=
  match teamRoute s (teamVer s (injTepoch s)) t.src 2 true true with
  | none => s
  | some (p, vc) => sendTxn s p { txn0 s t.src vc with
      ni := t.ni, resp := true, busy := true, port := t.port, tracker := t.tracker, first := t.first,
      tseq := t.tseq }

/-- What the duplicate filter says of a non-idempotent transaction: 0 new, 1 performing, 2 done with its
outcome, 3 no free entry (R288).
(DESIGN CHOICE: assumption 41) -/
def filterView (s : State) (t : Txn) : Nat × Option Outcome :=
  match s.filter.find? (fun e => decide (e.src = t.src) && decide (e.tseq = t.tseq)) with
  | some e => (if e.outcome.isSome then 2 else 1, e.outcome)
  | none => (if s.filter.length ≥ 65536 then 3 else 0, none)

/-- The partner's ingress copies an accepted transaction to its shadow (R303). -/
def mirrorTxn (s : State) (t : Txn) : State :=
  match s.muster.shadow with
  | none => s
  | some d =>
    if csrFld s aMstShadow 63 63 = 0 ∨ t.pkt = none then s
    else match teamRoute s (teamVer s (injTepoch s)) d (if t.resp then 2 else 0) t.resp true with
      | none => s
      | some (q, vc) => sendTxn s q { t with dst := d, mirror := true, vc := vc, hops := 1, rel := [] }

/-- Open the record of a transaction that is performed here, with its filter entry (R288). -/
def openInbound (s : State) (p : Nat) (t : Txn) : State :=
  let x : Inbound := { id := s.nextId, port := p, txn := t }
  let e : Filter := { src := t.src, tseq := t.tseq, ctx := (t.pkt.map pCtx).getD 0, first := t.first, hold := false, outcome := none }
  { s with
    nextId := s.nextId + 1
    inbound := s.inbound ++ [x]
    filter := if t.ni && !t.mirror then s.filter ++ [e] else s.filter }

/-- The edge router of port p discards the packet of transaction `id` (R195). -/
def dropInbound (s : State) (p id : Nat) : State :=
  let s := { s with inbound := s.inbound.filter (fun y => decide (y.id ≠ id)) }
  match edgeRouter (verOf s (fget zeroNat s.edgeEpoch (p + 1))) (p + 1) with
  | some r => hdrDrop s r id
  | none => s

/-- Inject the packet of a permitted transaction, or answer it where its address is unmapped. -/
def injectInbound (s : State) (p : Nat) (x : Inbound) (pkt : Packet) : State :=
  let q := localPacket s x.txn pkt x.id
  if !headerOk q then dropInbound s p x.id
  else if isRequest (pType pkt) && decide (localTarget s pkt.w2 = .unmapped) then
    answer s x (statusPacket s pkt stUNMAPPED) true
  else injectEdge s (p + 1) q

/-- Perform a remote packet: it is injected at the port's own edge router, or answered there when its
address is unmapped. The windows permit it before the shadow gets its copy (R303). A header that no router accepts is
discarded at that router (R195).
(DESIGN CHOICE: assumption 35) -/
def performInbound (s : State) (p : Nat) (t : Txn) (pkt : Packet) : State :=
  let x : Inbound := { id := s.nextId, port := p, txn := t }
  let s := openInbound s p t
  if !t.mirror && !windowsPass s pkt then
    let r := refusal s pkt stDENIED rDENIED
    answer r.1 x r.2 false
  else injectInbound (mirrorTxn s t) p x pkt

/-- The edge router of port p has room for a packet. -/
def edgeRoom (s : State) (p : Nat) (pkt : Packet) : Bool :=
  match edgeRouter (verOf s (fget zeroNat s.edgeEpoch (p + 1))) (p + 1) with
  | some x => lRoom s x pkt.chan (decide (pkt.chan = 2)) (flitsOf pkt)
  | none => false

/-- A request transaction that has reached its destination: a dormant device answers "unreachable"
(R419), the filter, then the windows and the injection (R283). -/
def arriveRequest (s : State) (p i : Nat) (t : Txn) (pkt : Packet) : State :=
  let fv := if t.ni && !t.mirror then filterView s t else (0, none)
  let take := fun (s : State) => applyReleases (rxTake s p i t) t.src t.rel
  if dormantNow s then
    let s := applyReleases (rxTake s p i t) t.src t.rel
    let r := refusal s pkt stUNREACH rUNREACH
    answer r.1 { id := s.nextId, port := p, txn := { t with ni := false } } r.2 false
  else match fv with
    | (1, _) => satCsrFld (take s) aYokeDup 47 32 1
    | (2, some o) =>
      let s := satCsrFld (take s) aYokeDup 63 48 1
      answer s { id := s.nextId, port := p, txn := { t with ni := false } } (replayOutcome s pkt o) false
    | (3, _) => sendBusy (satCsrFld (take s) aYokeDup 31 16 1) t
    | _ => if edgeRoom s p { pkt with chan := typeChan (pType pkt) pkt.w2 } then
        performInbound (take s) p t pkt
      else s

/-- REMOTE_TRANSACTION: transaction i of port p is aged out, forwarded in transit, or performed here;
a header-only one delivers its releases (R280 to R288). -/
def remoteTransaction (p i : Nat) (s : State) : State :=
  match rxAt s p i with
  | none => s
  | some t =>
    if t.muster.isSome then s
    else if aged s t then satCsrFld (rxTake s p i t) aYokeDup 15 0 1
    else if t.dst ≠ ownCoord s then transit s p i t
    else if t.resp then s
    else match t.pkt with
      | none => applyReleases (rxTake s p i t) t.src t.rel
      | some pkt => arriveRequest s p i t pkt

/-- REMOTE_TRANSACTION (R283). -/
def execRemoteTransaction (p i : Nat) (s : State) : Out := .next (remoteTransaction p i s)

/-! ## Responses arriving (R283, R287) -/

/-- Field of the base die of port p (R267): its slice's granary channels carry load data. -/
def portField (p : Nat) : Nat :=
  match p with
  | 0 => 1 | 1 => 1 | 2 => 0 | 3 => 0 | 4 => 1 | 5 => 5 | 6 => 0 | 7 => 4 | 8 => 5 | 9 => 5 | 10 => 4 | _ => 4

/-- Beats of up to 256 B for a load's data (R256). -/
def mkBeats (core tag ctx gen addr issue : Nat) : Nat → Nat → List PWord → List Beat
  | 0, _, _ => []
  | f + 1, off, ws =>
    if ws.isEmpty then []
    else { core := core, tag := tag, ctx := ctx, gen := gen, addr := addr, seed := false, off := off,
           words := ws.take 32, issue := issue } :: mkBeats core tag ctx gen addr issue f (off + 256) (ws.drop 32)

/-- The second copy of a beat of load data, for the twin of a redundant pair (R451). -/
def twinBeat (s : State) (b : Beat) : List Beat :=
  match s.pairTags.find? (fun x => decide (x.1 = b.core) && decide (x.2.1 = b.tag)), pairRole s b.core with
  | some x, some (false, tw) => if b.seed then [] else [{ b with core := tw, tag := x.2.2 }]
  | _, _ => []

/-- Queue beats on slice f's row buses. -/
def addBeats (s : State) (f : Nat) (l : List Beat) : State :=
  let l := l.flatMap (fun b => b :: twinBeat s b)
  { s with slices := fupd slice0 s.slices f (fun v => { v with beats := v.beats ++ l }) }

/-- Deliver the response q of an operation whose packet was pkt, at port p. -/
def deliverResponse (s : State) (p : Nat) (pkt q : Packet) : State :=
  if pkt.orig = 8 then fillAnswer s pkt.origArg (pStatus q) q.body
  else if pType q = tLOADDATA ∧ pType pkt = tLOAD then
    addBeats s (portField p) (mkBeats (pSrcCore pkt) (pReqTag pkt) (pCtx pkt) (pGen pkt) pkt.w2.toNat pkt.origArg 64 0
      (q.body.take (pReqWords pkt)))
  else
    injectEdge s (p + 1) { q with
      body := if pType q = tCOMPLETION ∧ pType pkt < tSWAP then [] else q.body
      w0 := setBits (setBits q.w0 63 48 0xFFFF) 45 31 (pSrcCore pkt)
      orig := if pType q = tMSGACK then 5 else if pType pkt = tORDEREND then 6 else 0
      origArg := if pType pkt = tORDEREND ∨ isRequest (pType pkt) then pkt.origArg else pDstId pkt * 16 + pDstRing pkt
      chan := typeChan (pType q) q.w2
      yk := 0 }

/-- A tracker ends: its operation's pair entry is marked, a release is queued for a non-idempotent one
when its final response came (R286, R287). -/
def endTracker (s : State) (p : Nat) (x : Tracker) (release : Bool) : State :=
  let s := updPort (blockServed s (32 + p)) p (fun v =>
    { v with trackers := v.trackers.filter (fun y => decide (y.num ≠ x.num)) })
  if !x.txn.ni then s
  else
    let done := fun (e : PairEntry) =>
      { e with live := e.live.map (fun y => if y.1 = x.txn.tseq then (y.1, y.2.1, true) else y) }
    let s := { s with pairTab := fupd pair0 s.pairTab (linIdx (teamShape s) x.txn.dst) done }
    if release then updPort s p (fun v => { v with
      releases := v.releases ++ [{ dst := x.txn.dst, tseq := x.txn.tseq, hold := decide (x.sent > 1),
                                   time := s.now.toNat }] })
    else s

/-- The tracker that a response names. -/
def matchTracker (s : State) (t : Txn) : Option Tracker :=
  (getPort s t.port).trackers.find? (fun x =>
    decide (x.num = t.tracker) && decide (x.txn.first = t.first) && decide (x.txn.tseq = t.tseq))

/-- For a shadow, the tracker of the operation whose mirrored response this is, with its port: the one
of the same core and tag, or the same stream and sequence. -/
def mirrorTracker (s : State) (q : Packet) : Option (Nat × Tracker) :=
  (List.range 12).findSome? (fun p =>
    ((getPort s p).trackers.find? (fun x =>
      decide (pSrcCore x.pkt = pDstId q)
        && (if isRequest (pType x.pkt) then decide (bits x.pkt.w3 15 7 = bits q.w3 15 7)
            else decide (pOseq x.pkt = pOseq q) && decide (pThread x.pkt = pThread q)))).map (fun x => (p, x)))

/-- REMOTE_RESPONSE: the response at place i of port p finds its tracker; one that matches none is
counted (R283, R287, R288). -/
def remoteResponse (p i : Nat) (s : State) : State :=
  match rxAt s p i with
  | none => s
  | some t =>
    if t.muster.isSome || !t.resp || decide (t.dst ≠ ownCoord s) then s
    else if aged s t then satCsrFld (rxTake s p i t) aYokeDup 15 0 1
    else
      let s := applyReleases (rxTake s p i t) t.src t.rel
      if t.mirror then
        match t.pkt with
        | none => s
        | some q => match mirrorTracker s q with
          | some (n, x) => endTracker (deliverResponse s n x.pkt q) n x false
          | none => s
      else
        match matchTracker s t with
        | none => satCsrFld s (aYokeTrack t.port) 15 0 1
        | some x =>
          if t.busy then updPort s t.port (fun v => { v with
            trackers := v.trackers.map (fun y =>
              if y.num = x.num then { y with busyAt := some (s.now.toNat + 10000) } else y) })
          else match t.pkt with
            | none => s
            | some q =>
              let s := mirrorTxn s t
              endTracker (deliverResponse s t.port x.pkt q) t.port x true

/-- REMOTE_RESPONSE (R283). -/
def execRemoteResponse (p i : Nat) (s : State) : Out := .next (remoteResponse p i s)

/-! ## Timers of the trackers (R280, R286 to R288) -/

def trackerOf (s : State) (p num : Nat) : Option Tracker :=
  (getPort s p).trackers.find? (fun x => decide (x.num = num))

def putTracker (s : State) (p : Nat) (x : Tracker) : State :=
  updPort s p (fun v => { v with trackers := v.trackers.map (fun y => if y.num = x.num then x else y) })

/-- TRACKER_TIMEOUT: resend with COPY under the current table, or, after RETRIES resends or toward a
device marked down, the operation completes "unreachable" (R287). -/
def trackerTimeout (p num : Nat) (s : State) : State :=
  match trackerOf s p num with
  | none => s
  | some x =>
    if s.now.toNat < x.deadline then s
    else
      let s := satCsrFld s (aYokeTrack p) 63 48 1
      if (remoteStatus s x.txn.dst).isSome || decide (x.sent > csrFld s aYokeCtl 47 44) then
        failOp (endTracker (satCsrFld s (aYokeTrack p) 31 16 1) p x false) p x.pkt stUNREACH
      else
        let t := { x.txn with copy := true }
        let s := putTracker (satCsrFld s (aYokeTrack p) 47 32 1) p
          { x with sent := x.sent + 1, deadline := s.now.toNat + trackUs s * 1000, busyAt := none }
        launch s none t

/-- TRACKER_TIMEOUT (R287). -/
def execTrackerTimeout (p num : Nat) (s : State) : Out := .next (trackerTimeout p num s)

/-- BUSY_RESEND: 10 µs after a "busy" answer the tracker sends again, without COPY (R288). -/
def busyResend (p num : Nat) (s : State) : State :=
  match trackerOf s p num with
  | none => s
  | some x =>
    match x.busyAt with
    | some t => if s.now.toNat ≥ t then launch (putTracker s p { x with busyAt := none }) none x.txn else s
    | none => s

/-- BUSY_RESEND (R288). -/
def execBusyResend (p num : Nat) (s : State) : Out := .next (busyResend p num s)

/-- RELEASE_SEND: releases that nothing has carried for 20 µs go in a header-only transaction, up to
nine (R287). -/
def releaseSend (p : Nat) (s : State) : State :=
  match (getPort s p).releases.find? (fun r => decide (s.now.toNat ≥ r.time + 20000)) with
  | none => s
  | some r =>
    match teamRoute s (teamVer s (injTepoch s)) r.dst 0 false true with
    | none => s
    | some (q, vc) =>
      let x := takeReleases s p r.dst 9
      sendTxn x.1 q { txn0 x.1 r.dst vc with port := p, rel := x.2 }

/-- RELEASE_SEND (R287). -/
def execReleaseSend (p : Nat) (s : State) : Out := .next (releaseSend p s)

/-- FILTER_ENTRY_EXPIRE: an entry goes once device time passes FIRST_TIME + 2.1 ms (R288). -/
def filterExpire (src tseq : Nat) (s : State) : State :=
  { s with filter := s.filter.filter (fun e =>
      !(decide (e.src = src) && decide (e.tseq = tseq) && decide (s.now.toNat > e.first + 2100000))) }

/-- FILTER_ENTRY_EXPIRE (R288). -/
def execFilterEntryExpire (src tseq : Nat) (s : State) : Out := .next (filterExpire src tseq s)

/-- TSEQ_RETIRE: an operation whose tracker has finished is retired once device time passes its
FIRST_TIME + 2 ms (R286). -/
def tseqRetire (dst tseq : Nat) (s : State) : State :=
  let e := fget pair0 s.pairTab (linIdx (teamShape s) dst)
  if e.live.any (fun x => decide (x.1 = tseq) && x.2.2 && decide (s.now.toNat > x.2.1 + 2000000)) then
    retire s dst tseq
  else s

/-- TSEQ_RETIRE (R286). -/
def execTseqRetire (dst tseq : Nat) (s : State) : Out := .next (tseqRetire dst tseq s)

end Sys2Proof.Machine
end

