-- ==== Sys2Proof/Machine/Muster.lean ====
section
/-! DEFINITION. Link training and failure (R271, R272, R279), the muster (R289 to R295), team
collectives at the root (R297 to R301) and shadowing (R302 to R308). -/

namespace Sys2Proof.Machine

/-! ## The membership table -/

/-- Table entry of a coordinate: 0 absent, 1 member, 2 down, 3 shadow. -/
def memberState (s : State) (d : Nat) : Nat := fget zeroNat s.muster.table d

def setMember (s : State) (d v : Nat) : State :=
  { s with muster := { s.muster with table := fset zeroNat s.muster.table d v } }

/-- The members, in increasing linear index. -/
def teamMembers (s : State) : List Nat :=
  (allCoords (teamShape s)).filter (fun c => decide (memberState s c = 1))

/-- The leader is the member of lowest linear index, the deputy the next (R290). -/
def deputy (s : State) : Option Nat := (teamMembers s)[1]?

/-- ROLE, LEADER and the counts follow the table; "isolated" and a shadow's role stay. -/
def updateRole (s : State) : State :=
  let l := teamMembers s
  let me := ownCoord s
  let role := if mRole s = 5 ∨ mRole s = 1 then mRole s
    else if l.head? = some me then 3
    else if l[1]? = some me then 4
    else 2
  let down := ((allCoords (teamShape s)).filter (fun c => decide (memberState s c = 2))).length
  let s := setCsrFld (setCsrFld s aMstState 31 28 role) aMstState 15 0 (l.head?.getD 0)
  setCsrFld (setCsrFld s aMstCount 45 32 l.length) aMstCount 13 0 down

/-! ## Team table (R277 to R279) -/

/-- The version that the present membership and link state give: a coordinate without a member carries
no transit.
(DESIGN CHOICE: assumption 37) -/
def teamTable (s : State) : TeamVer :=
  { valid := true, members := teamMembers s
    down := (allCoords (teamShape s)).filter (fun c => decide (memberState s c ≠ 1))
    links := s.muster.linksDown
    root := csrFld s aMstState 15 0 }

def setTeamVer (s : State) (e : Nat) (v : TeamVer) : State :=
  if e = 0 then { s with team0 := v } else { s with team1 := v }

/-- Where a transaction queued at a failed port goes: the other port of its direction, else V5 under the
current table (R279). -/
def otherWay (s : State) (p : Nat) (t : Txn) : Option (Nat × Nat) :=
  let twin := if p % 2 = 0 then p + 1 else p - 1
  if portUp s twin && decide (wired (teamShape s) (ownCoord s) twin
      = wired (teamShape s) (ownCoord s) p) then some (twin, t.vc)
  else if t.vc = 4 then none
  else teamRoute s (teamVer s (injTepoch s)) t.dst 5 t.resp true

/-- Hand the transactions queued at port p to other ports; one whose route still needs it waits. -/
def handOff (s : State) (p : Nat) : State :=
  let l := (getPort s p).txq
  let s := updPort s p (fun v => { v with txq := [] })
  l.foldl (fun s t =>
    match otherWay s p t with
    | some (q, vc) => pump (updPort s q (fun v => { v with txq := v.txq ++ [{ t with vc := vc }] })) q
    | none => updPort s p (fun v => { v with txq := v.txq ++ [t] })) s

/-- Move on what waits at failed ports: it takes the current table's route, or waits on (R279). -/
def moveOn (s : State) : State :=
  (List.range 12).foldl (fun s p =>
    if portUp s p then s
    else
      let l := (getPort s p).txq
      let s := updPort s p (fun v => { v with txq := [] })
      l.foldl (fun s t =>
        match (if t.vc = 4 then none else
            teamRoute s (teamVer s (injTepoch s)) t.dst (if t.vc = 5 then 5 else if t.resp then 2 else 0)
              t.resp true) with
          | some (q, vc) => pump (updPort s q (fun v => { v with
              txq := v.txq ++ [{ t with vc := vc, tepoch := injTepoch s }] })) q
          | none => updPort s p (fun v => { v with txq := v.txq ++ [t] })) s) s

/-- Transactions that wait at failed ports are aged out (R279, R280).
(DESIGN CHOICE: assumption 37) -/
def ageWaiting (s : State) : State :=
  (List.range 12).foldl (fun s p =>
    let l := (getPort s p).txq
    if portUp s p || !l.any (aged s) then s
    else satCsrFld (updPort s p (fun v => { v with txq := l.filter (fun t => !aged s t) })) aYokeDup 15 0
      (l.filter (aged s)).length) s

/-- The routing version in force takes over the yoke ports of the team table in force (R199, R278).
(DESIGN CHOICE: assumption 27) -/
def syncYoke (s : State) : State :=
  setVer s (curEpoch s) { verOf s (curEpoch s) with team := teamVer s (injTepoch s) }

/-- Load the new team table into the free slot and switch the injection epoch; while the old version still holds the
other slot the new one waits (R278).
(DESIGN CHOICE: assumption 37) -/
def switchTeam (s : State) : State :=
  let e := 1 - injTepoch s
  if (teamVer s e).valid then { s with muster := { s.muster with late := true } }
  else
    let s := setTeamVer s e (teamTable s)
    let s := setCsrFld (setCsrFld s aYokeTepoch 63 63 e) aYokeTepoch (61 + e) (61 + e) 1
    moveOn (syncYoke { s with teamTime := s.now.toNat, muster := { s.muster with late := false } })

/-- Link state that changes between commits stands in the table in force.
(DESIGN CHOICE: assumption 37) -/
def refreshLinks (s : State) : State :=
  let e := injTepoch s
  moveOn (syncYoke (setTeamVer s e { teamVer s e with links := s.muster.linksDown }))

/-- Transactions held here under the epoch that is not in force (YOKE_TEPOCH.OLD). -/
def oldTxns (s : State) : Nat :=
  let old := fun (t : Txn) => decide (t.tepoch ≠ injTepoch s) && t.muster.isNone
  (List.range 12).foldl (fun a p =>
    a + ((getPort s p).rx.filter old).length + ((getPort s p).txq.filter old).length) 0

/-- TEAM_EPOCH_FREE: the old slot goes when OLD is zero or 1 ms after the switch; a table that waited for it is loaded
(R278). -/
def teamEpochFree (s : State) : State :=
  let e := 1 - injTepoch s
  if (teamVer s e).valid && decide (csrFld s aYokeTepoch (61 + e) (61 + e) = 1)
      && (decide (oldTxns s = 0) || decide (s.now.toNat ≥ s.teamTime + 1000000)) then
    let s := wrapCsrFld (setCsrFld (setTeamVer s e teamVer0) aYokeTepoch (61 + e) (61 + e) 0) aYokeTepoch 47 32 1
    if s.muster.late then switchTeam s else s
  else s

/-- TEAM_EPOCH_FREE (R278). -/
def execTeamEpochFree (s : State) : Out := .next (teamEpochFree s)

/-! ## Muster messages (R290) -/

/-- Send a muster message one hop on its way to a device, as a header-only V4 transaction. -/
def musterSend (s : State) (dst : Nat) (m : MusterMsg) : State :=
  match teamRoute s (teamVer s (injTepoch s)) dst 0 false true with
  | none => s
  | some (p, _) => sendTxn s p { txn0 s dst 4 with muster := some m }

/-- Pass a flood message over every up link but the one it came in on. -/
def flood (s : State) (from_ : Option Nat) (m : MusterMsg) : State :=
  (List.range 12).foldl (fun s p =>
    if portUp s p && decide (from_ ≠ some p) then
      sendTxn s p { txn0 s (csrFld s (aYokeStat p) 59 44) 4 with muster := some m }
    else s) s

/-- The next flood sequence of this device. -/
def nextSeq (s : State) : State × Nat :=
  let q := s.muster.seq + 1
  ({ s with muster := { s.muster with seq := q, seen := (ownCoord s, q) :: s.muster.seen } }, q)

/-- Mark a flood as passed on; none when it was already. -/
def firstSeen (s : State) (orig seq : Nat) : Option State :=
  if s.muster.seen.contains (orig, seq) then none
  else some { s with muster := { s.muster with seen := (orig, seq) :: s.muster.seen } }

/-- Members that the device's view of live links reaches, itself included (R294). -/
def reached (s : State) : Nat :=
  let v : TeamVer := teamTable s
  let me := ownCoord s
  ((bfsTree (teamShape s) v 10241 [me] [(me, me)]).filter (fun e => v.members.contains e.1)).length

/-- Shadowing stops: MATCHED returns to zero and the job must name a partner again (R307). -/
def stopShadowing (s : State) : State :=
  setCsrFld (setCsrFld { s with muster := { s.muster with shadow := none } } aMstShadow 63 63 0) aMstShadow
    15 0 0

/-- The device takes ROLE "isolated" (R294); a partner has left the team with it (R307). -/
def isolate (s : State) : State :=
  let s := setCsrFld s aMstState 31 28 5
  if s.muster.shadow.isSome then stopShadowing s else s

/-- A device that reaches at most half of the members is isolated (R294). -/
def checkIsolated (s : State) : State :=
  if decide (2 ≤ mRole s ∧ mRole s ≤ 4) && decide (2 * reached s ≤ (teamMembers s).length) then isolate s
  else s

/-- A link of this device changed: its own record, the flood, the table in force. -/
def ownLink (s : State) (p : Nat) (up : Bool) : State :=
  let me := ownCoord s
  let r := nextSeq s
  let l := r.1.muster.linksDown.filter (fun x => decide (x ≠ (me, p)))
  let l' := if up then
      match wired (teamShape s) me p with
      | some n => l.filter (fun x => decide (x ≠ (n, peerPort p)))
      | none => l
    else (me, p) :: l
  let s := { r.1 with muster := { r.1.muster with linksDown := l' } }
  checkIsolated (refreshLinks (flood s none (.linkEvent me r.2 me p up)))

/-! ## Link training and failure (R271, R272) -/

def setPortState (s : State) (p v : Nat) : State := setCsrFld s (aYokeStat p) 63 62 v

/-- The link layer of a port as training leaves it.
(DESIGN CHOICE: assumption 36) -/
def freshLink (v : YPort) (now : Nat) : YPort :=
  { v with
    txSeq := 0
    rxNext := 0
    unacked := []
    retryAt := none
    retrySeq := 0
    retryRow := 0
    used := []
    freed := []
    parts := []
    lastGood := now
    hbIn := some now
    hbOut := now }

/-- TRAIN_ID on port p: the link comes up when coordinate, port and shape are those the wiring rule
expects; else it stays down, fenced (R272). -/
def trainId (p : Nat) (coord port : Nat) (shape : Word) (s : State) : State :=
  if csrFld s (aYokeStat p) 63 62 ≠ 1 then s
  else if decide (wired (teamShape s) (ownCoord s) p = some coord) && decide (port = peerPort p)
      && decide (bits shape 63 48 = csrFld s aMstShape 63 48) then
    let s := setCsrFld (setPortState s p 2) (aYokeStat p) 59 44 coord
    let s := updPort s p (fun v => freshLink v s.now.toNat)
    let s := { s with muster := { s.muster with
      suspects := s.muster.suspects.filter (fun x => decide (x.1 ≠ coord)) } }
    pump (ownLink s p true) p
  else
    let s := setCsrFld (setPortState s p 0) (aYokeStat p) 61 61 1
    let s := { s with muster := { s.muster with barred := ownCoord s :: coord :: s.muster.barred } }
    note s (.other 272 p)

/-- TRAIN_ID (R272). -/
def execTrainId (p : Nat) (ws : List PWord) (s : State) : Out :=
  .next (match readFrame ws with
    | .trainId _ coord port shape => trainId p coord port shape s
    | _ => s)

/-- LINK_DOWN: lost lock, silence for LINK_TO, or 8 RETRY frames in a row for one FSEQ (R271, R279). -/
def linkDown (p : Nat) (lostLock : Bool) (s : State) : State :=
  let v := getPort s p
  if portUp s p && (lostLock || decide (s.now.toNat ≥ v.lastGood + csrFld s aYokeCtl 31 24 * 1000)
      || decide (v.retryRow ≥ 8)) then
    let s := satCsrFld (setPortState s p 0) (aYokeErr p) 15 0 1
    let s := updPort s p (fun v => { v with unacked := [], retryAt := none, retryRow := 0, hbIn := none,
                                            downAt := s.now.toNat })
    ownLink (handOff s p) p false
  else s

/-- LINK_DOWN (R271). -/
def execLinkDown (p : Nat) (lostLock : Bool) (s : State) : Out := .next (linkDown p lostLock s)

/-- LINK_RETRAIN: every 100 ms the steward trains an unfenced port of the wiring that is not up again, and sends
TRAIN_ID (R271, R272).
(DEDUCED: assumption 39) -/
def linkRetrain (p : Nat) (s : State) : State :=
  let v := getPort s p
  if teamValid s && decide (csrFld s aPwrDomain 27 27 = 1) && portPresent s.code p && decide (p < 12)
      && (wired (teamShape s) (ownCoord s) p).isSome
      && decide (csrFld s (aYokeStat p) 63 62 ≤ 1) && decide (csrFld s (aYokeStat p) 61 61 = 0)
      && (decide (v.downAt = 0) || decide (s.now.toNat ≥ v.downAt + 100000000)) then
    let s := updPort (setPortState s p 1) p (fun v => { v with downAt := s.now.toNat })
    let r := takeHdr s p
    emit r.1 (.yoke p (controlWords r.2 3 0 [packFields [(15, 0, ownCoord s), (19, 16, p)], csrGet s aMstShape]))
  else s

/-- LINK_RETRAIN (R271). -/
def execLinkRetrain (p : Nat) (s : State) : Out := .next (linkRetrain p s)

/-! ## Heartbeats (R289 to R291, R411) -/

/-- The present-fields mask of this device: bit f is 0 for a lost field. -/
def fieldMask (s : State) : Nat := 63 - csrFld s aPwrStat 53 48

/-- HEARTBEAT on port p. `latency` is the link latency in ns that the receiver removes. Nothing acts on
the MEPOCH and swath number that the frame carries. -/
def heartbeat (p : Nat) (h : FrameHdr) (coord role : Nat) (time : Word) (fields latency : Nat) (s : State) : State :=
  if !portUp s p then s
  else
    let s := acceptHdr s p h
    let s := updPort s p (fun v => { v with hbIn := some s.now.toNat })
    let t := time.toNat + latency
    let off := if t ≥ s.now.toNat then t - s.now.toNat else s.now.toNat - t
    let s := if off > 50000 then
        note { s with muster := { s.muster with
          barred := ownCoord s :: coord :: s.muster.barred } } (.other 289 coord)
      else s
    let last := fget zeroNat s.muster.masks coord
    let s := { s with muster := { s.muster with masks := fset zeroNat s.muster.masks coord (fields + 1) } }
    let s := if decide (last ≠ 0) && decide (last ≠ fields + 1) then note s (.other 411 coord) else s
    let vacant := memberState s coord = 0 ∨ memberState s coord = 2
    if role = 1 ∧ vacant then
      let s := setMember s coord 3
      if csrFld s aMstShadow 63 63 = 1 ∧ csrFld s aMstShadow 47 32 = ownCoord s then
        { s with muster := { s.muster with shadow := some coord } }
      else s
    else s

/-- HEARTBEAT (R291). -/
def execHeartbeat (p : Nat) (ws : List PWord) (latency : Nat) (s : State) : Out :=
  .next (match readFrame ws with
    | .heartbeat h coord role _ time _ fields => heartbeat p h coord role time fields latency s
    | _ => s)

/-- HEARTBEAT_SEND: every HB_US a HEARTBEAT on every up link (R290). -/
def heartbeatSend (s : State) : State :=
  (List.range 12).foldl (fun s p =>
    let v := getPort s p
    if portUp s p && decide (s.now.toNat ≥ v.hbOut + csrFld s aMstTiming 63 48 * 1000) then
      let r := takeHdr (setPort s p { v with hbOut := s.now.toNat }) p
      emit r.1 (.yoke p (controlWords r.2 2 0 [packFields [(15, 0, ownCoord s), (19, 16, mRole s)], BitVec.ofNat 64 (mEpoch s),
        s.now, BitVec.ofNat 64 s.swathNow, BitVec.ofNat 64 (fieldMask s)]))
    else s) s

/-- HEARTBEAT_SEND (R290). -/
def execHeartbeatSend (s : State) : Out := .next (heartbeatSend s)

/-- Ports of this device that the wiring joins to device d. -/
def portsTo (s : State) (d : Nat) : List Nat :=
  (List.range 12).filter (fun p => portPresent s.code p
    && decide (wired (teamShape s) (ownCoord s) p = some d))

/-- A heartbeat from d has come on an up link within the last `ns` nanoseconds. -/
def heardFrom (s : State) (d ns : Nat) : Bool :=
  (portsTo s d).any (fun p => portUp s p
    && (match (getPort s p).hbIn with | some t => decide (s.now.toNat ≤ t + ns) | none => false))

/-! ## Commits (R292 to R294) -/

/-- Member neighbours of a device (R292). -/
def memberNeighbours (s : State) (d : Nat) : List Nat :=
  ((List.range 12).filterMap (fun p => wired (teamShape s) d p)).eraseDups.filter
    (fun n => decide (n ≠ d) && decide (memberState s n = 1))

/-- The first swath that starts at or after device time t, under the anchors of R379 and R380. -/
def swathFrom (s : State) (t : Nat) : Nat :=
  let per := 1000 * max 1 (csrFld s aSwathCfg 19 0)
  let n := s.swA + (t - s.swT + per - 1) / per
  let ap := (csrGet s aSwathApply).toNat
  if ap ≠ 0 ∧ n > ap then
    let t1 := s.swT + (ap - s.swA) * per
    let per1 := 1000 * max 1 (csrFld s aSwathCfg 51 32)
    ap + (t - t1 + per1 - 1) / per1
  else n

/-- Apply a committed change (R293, R295): MEPOCH, the table, team routing. A device that is itself
declared down is isolated from the members. -/
def applyCommit (s : State) (c : Commit) : State :=
  let s := setMember s c.target (if c.kind = 1 then 2 else 1)
  let s := { s with muster := { s.muster with
    log := s.muster.log ++ [c]
    undelivered := s.muster.undelivered ++ [c]
    suspects := s.muster.suspects.filter (fun x => decide (x.1 ≠ c.target))
    queries := [] } }
  let s := setCsrFld s aMstState 63 32 c.mepoch
  let s := if c.kind = 1 ∧ c.target = ownCoord s ∧ ¬ isShadow s then isolate s else s
  let s := if c.kind = 1 ∧ (isShadow s ∧ c.target = csrFld s aMstShadow 47 32
        ∨ s.muster.shadow = some c.target) then stopShadowing s else s
  checkIsolated (switchTeam (updateRole s))

/-- Apply held commits that have become next; those that can no longer become so are let go. -/
def applyHeld : Nat → State → State
  | 0, s => { s with muster := { s.muster with held := s.muster.held.filter (fun c => decide (c.mepoch > mEpoch s)) } }
  | f + 1, s =>
    match s.muster.held.find? (fun c => decide (c.mepoch = mEpoch s + 1)) with
    | none => applyHeld f s
    | some c =>
      let s := { s with muster := { s.muster with held := s.muster.held.filter (fun x => decide (x ≠ c)) } }
      applyHeld f (applyCommit s c)

/-- The leader commits a change and floods it; an isolated device commits nothing (R293, R294).
(DEDUCED: assumption 39) -/
def commitChange (s : State) (kind target : Nat) : State :=
  let s := checkIsolated s
  if mRole s = 5 then s
  else
    let r := nextSeq s
    let c : Commit := { orig := ownCoord s, seq := r.2, kind := kind, target := target,
                        mepoch := mEpoch s + 1, act := swathFrom s (s.now.toNat + 1000000) }
    flood (applyCommit r.1 c) none (.commit c.orig c.seq c.kind c.target c.mepoch c.act)

/-! ## Agreement on a loss (R291, R292) -/

def setQueries (s : State) (l : List Query) : State := { s with muster := { s.muster with queries := l } }

/-- A LOST answer at the leader; the last one commits member-down. -/
def onLost (s : State) (sender target mepoch : Nat) : State :=
  if mepoch ≠ mEpoch s then s
  else
    let l := s.muster.queries.map (fun q =>
      if q.target = target then { q with lost := (sender :: q.lost).eraseDups } else q)
    let s := setQueries s l
    match l.find? (fun q => decide (q.target = target)) with
    | some q => if !q.alive && q.asked.all (fun n => q.lost.contains n) then commitChange s 1 target else s
    | none => s

/-- An ALIVE answer at the leader. -/
def onAlive (s : State) (target mepoch : Nat) : State :=
  if mepoch ≠ mEpoch s then s
  else setQueries s (s.muster.queries.map (fun q => if q.target = target then { q with alive := true } else q))

/-- The first SUSPECT for a target in this MEPOCH at the leader: QUERY to its member neighbours. -/
def onSuspect (s : State) (target mepoch : Nat) : State :=
  if mepoch ≠ mEpoch s ∨ memberState s target ≠ 1
      ∨ s.muster.queries.any (fun q => decide (q.target = target)) then s
  else
    let asked := memberNeighbours s target
    let me := ownCoord s
    let s := setQueries s (s.muster.queries ++ [{ target := target, time := s.now.toNat, asked := asked,
                                                  lost := [], alive := false }])
    asked.foldl (fun s n =>
      if n = me then (if heardFrom s target 300000 then onAlive s target mepoch else onLost s me target mepoch)
      else musterSend s n (.query me target mepoch)) s

/-- Whom a SUSPECT goes to: the leader, or the deputy when the leader is the target. -/
def suspectTo (s : State) (target : Nat) : Nat :=
  if target = leader s then (deputy s).getD (leader s) else leader s

def sendSuspect (s : State) (target : Nat) : State :=
  let d := suspectTo s target
  if d = ownCoord s then onSuspect s target (mEpoch s)
  else musterSend s d (.suspect (ownCoord s) target (mEpoch s))

/-- HEARTBEAT_MISS: a member neighbour without an up link, or silent for HB_MISS * HB_US, is suspected
(R291). -/
def heartbeatMiss (target : Nat) (s : State) : State :=
  if teamValid s && decide (memberState s target = 1) && !(portsTo s target).isEmpty
      && !s.muster.suspects.any (fun x => decide (x.1 = target))
      && !heardFrom s target (csrFld s aMstTiming 63 48 * csrFld s aMstTiming 47 44 * 1000) then
    sendSuspect { s with muster := { s.muster with
      suspects := (target, s.now.toNat) :: s.muster.suspects } } target
  else s

/-- HEARTBEAT_MISS (R291). -/
def execHeartbeatMiss (target : Nat) (s : State) : Out := .next (heartbeatMiss target s)

/-- SUSPECT_REPEAT: every 1 ms while the suspicion stands (R291). -/
def suspectRepeat (target : Nat) (s : State) : State :=
  match s.muster.suspects.find? (fun x => decide (x.1 = target)) with
  | none => s
  | some x =>
    if s.now.toNat ≥ x.2 + 1000000 then
      sendSuspect { s with muster := { s.muster with
        suspects := s.muster.suspects.map (fun y =>
          if y.1 = target then (target, s.now.toNat) else y) } } target
    else s

/-- SUSPECT_REPEAT (R291). -/
def execSuspectRepeat (target : Nat) (s : State) : Out := .next (suspectRepeat target s)

/-- Take the muster message at place i of port p. -/
def takeMuster (s : State) (p i : Nat) : Option (State × Txn × MusterMsg) :=
  match rxAt s p i with
  | none => none
  | some t => match t.muster with
    | none => none
    | some m => some (rxTake s p i t, t, m)

/-- Send a muster message of another device one hop on, under its sender's coordinate. -/
def musterPass (s : State) (t : Txn) (m : MusterMsg) : State :=
  match teamRoute s (teamVer s (injTepoch s)) t.dst 0 false true with
  | none => s
  | some (p, _) => sendTxn s p { txn0 s t.dst 4 with src := t.src, muster := some m }

/-- A directed message for another device goes one hop on; for this one, `act` handles it. -/
def directed (s : State) (t : Txn) (m : MusterMsg) (act : State → State) : State :=
  if t.dst = ownCoord s then act s else musterPass s t m

/-- A muster message that has aged is discarded on arrival (R280). -/
def musterAged (s : State) (p i : Nat) : Bool :=
  match rxAt s p i with
  | some t => t.muster.isSome && aged s t
  | none => false

def ageMuster (p i : Nat) (s : State) : State :=
  match rxAt s p i with
  | some t => satCsrFld (rxTake s p i t) aYokeDup 15 0 1
  | none => s

/-- SUSPECT (R292). -/
def suspectIn (p i : Nat) (s : State) : State :=
  match takeMuster s p i with
  | some (s1, t, .suspect r target ep) =>
    directed s1 t (.suspect r target ep) (fun s =>
      if leader s = ownCoord s ∨ target = leader s ∧ deputy s = some (ownCoord s) then
        onSuspect s target ep
      else s)
  | _ => s

/-- SUSPECT (R292). -/
def execSuspect (p i : Nat) (s : State) : Out :=
  .next (if musterAged s p i then ageMuster p i s else suspectIn p i s)

/-- QUERY: ALIVE when an up link has carried a heartbeat from the target within 300 µs (R292). -/
def queryIn (p i : Nat) (s : State) : State :=
  match takeMuster s p i with
  | some (s1, t, .query l target ep) =>
    directed s1 t (.query l target ep) (fun s =>
      let me := ownCoord s
      musterSend s l (if heardFrom s target 300000 then .alive me target ep else .lost me target ep))
  | _ => s

/-- QUERY (R292). -/
def execQuery (p i : Nat) (s : State) : Out :=
  .next (if musterAged s p i then ageMuster p i s else queryIn p i s)

def aliveIn (p i : Nat) (s : State) : State :=
  match takeMuster s p i with
  | some (s1, t, .alive d target ep) => directed s1 t (.alive d target ep) (fun s => onAlive s target ep)
  | _ => s

/-- ALIVE (R292). -/
def execAlive (p i : Nat) (s : State) : Out :=
  .next (if musterAged s p i then ageMuster p i s else aliveIn p i s)

def lostIn (p i : Nat) (s : State) : State :=
  match takeMuster s p i with
  | some (s1, t, .lost d target ep) => directed s1 t (.lost d target ep) (fun s => onLost s d target ep)
  | _ => s

/-- LOST (R292). -/
def execLost (p i : Nat) (s : State) : Out :=
  .next (if musterAged s p i then ageMuster p i s else lostIn p i s)

/-- CONFIRM_TIMEOUT: CONFIRM_US after QUERY with no ALIVE the leader commits member-down (R292). -/
def confirmTimeout (target : Nat) (s : State) : State :=
  match s.muster.queries.find? (fun q => decide (q.target = target)) with
  | none => s
  | some q => if !q.alive && decide (s.now.toNat ≥ q.time + csrFld s aMstTiming 31 16 * 1000) then
      commitChange s 1 target
    else s

/-- CONFIRM_TIMEOUT (R292). -/
def execConfirmTimeout (target : Nat) (s : State) : Out := .next (confirmTimeout target s)

/-- COMMIT: the next one is applied at once and flooded on; any other is held and the sending
neighbour is asked for what is missing (R293). -/
def commitIn (p i : Nat) (s : State) : State :=
  match takeMuster s p i with
  | some (s1, _, .commit orig seq kind target ep act) =>
    match firstSeen s1 orig seq with
    | none => s1
    | some s2 =>
      let c : Commit := { orig := orig, seq := seq, kind := kind, target := target, mepoch := ep, act := act }
      let s3 := flood s2 (some p) (.commit orig seq kind target ep act)
      if ep = mEpoch s3 + 1 then
        let s4 := applyCommit s3 c
        applyHeld s4.muster.held.length s4
      else
        let s4 := { s3 with muster := { s3.muster with held := s3.muster.held ++ [c] } }
        sendTxn s4 p { txn0 s4 (csrFld s4 (aYokeStat p) 59 44) 4 with
          muster := some (.missing (ownCoord s4) (mEpoch s4)) }
  | _ => s

/-- COMMIT (R293). -/
def execCommit (p i : Nat) (s : State) : Out :=
  .next (if musterAged s p i then ageMuster p i s else commitIn p i s)

/-- MISSING_COMMIT_REQUEST: the commits after the asker's MEPOCH go to it, in order (R293). -/
def missingIn (p i : Nat) (s : State) : State :=
  match takeMuster s p i with
  | some (s1, _, .missing asker ep) =>
    (s1.muster.log.filter (fun c => decide (c.mepoch > ep))).foldl (fun s c =>
      sendTxn s p { txn0 s asker 4 with
        muster := some (.commit c.orig c.seq c.kind c.target c.mepoch c.act) }) s1
  | _ => s

/-- MISSING_COMMIT_REQUEST (R293). -/
def execMissingCommitRequest (p i : Nat) (s : State) : Out :=
  .next (if musterAged s p i then ageMuster p i s else missingIn p i s)

/-- LINK_EVENT: link state is updated and the event passed on, once (R290). -/
def linkEventIn (p i : Nat) (s : State) : State :=
  match takeMuster s p i with
  | some (s1, _, .linkEvent orig seq reporter port up) =>
    match firstSeen s1 orig seq with
    | none => s1
    | some s2 =>
      let l := s2.muster.linksDown.filter (fun x => decide (x ≠ (reporter, port)))
      let l' := if up then
          match wired (teamShape s2) reporter port with
          | some n => l.filter (fun x => decide (x ≠ (n, peerPort port)))
          | none => l
        else (reporter, port) :: l
      let s3 := { s2 with muster := { s2.muster with linksDown := l' } }
      checkIsolated (refreshLinks (flood s3 (some p) (.linkEvent orig seq reporter port up)))
  | _ => s

/-- LINK_EVENT (R290). -/
def execLinkEvent (p i : Nat) (s : State) : Out :=
  .next (if musterAged s p i then ageMuster p i s else linkEventIn p i s)

/-! ## Shadowing and admission (R302 to R308) -/

/-- The leader admits a shadow, unless it has shown time skew or a cabling mismatch (R305, R308). -/
def admitAsk (s : State) (d : Nat) : State :=
  if s.muster.barred.contains d || decide (memberState s d = 1) then s else commitChange s 2 d

/-- The partner asks the leader to admitAsk its shadow. -/
def askAdmit (s : State) (d : Nat) : State :=
  if s.muster.barred.contains d then s
  else if leader s = ownCoord s then admitAsk s d
  else musterSend s (leader s) (.admitAsk d (ownCoord s))

/-- Order of the regions in a weight digest. -/
def insertDig (x : DigRun) : List DigRun → List DigRun
  | [] => [x]
  | y :: l => if x.fn * 8 + x.region < y.fn * 8 + y.region then x :: y :: l else y :: insertDig x l

/-- Start swaths of the digests that this device keeps. -/
def digSwaths (s : State) : List Nat := (s.digs.map (·.swath)).eraseDups

/-- The weight digest of a start swath, once every region started then has completed (R454). -/
def weightOf (s : State) (swath : Nat) : Option Word :=
  let l := (s.digs.filter (fun d => decide (d.swath = swath))).foldl (fun l d => insertDig d l) []
  if l.isEmpty then none
  else (l.mapM (fun (d : DigRun) => d.value)).map (fun vs => crc64 0#64 (vs.flatMap (fun v => natToBytes v.toNat 8)))

/-- The latest start swath whose regions have all completed, with its weight digest; 0 when there is none. -/
def lastWeight (s : State) : Nat × Word :=
  (digSwaths s).foldl (fun a x =>
    match weightOf s x with
    | some w => if x > a.1 then (x, w) else a
    | none => a) (0, 0#64)

/-- The partner compares a report with its own digests (R304, R454).
(DEDUCED: assumption 39) -/
def compareReport (s : State) (d swath : Nat) (out : Word) (start : Nat) (weight : Word) : State :=
  let sel := csrFld s aMstShadow 62 61
  let mine := weightOf s start
  if sel ≠ 0 ∧ mine.isNone then s
  else
    let okOut := decide (sel = 1) || (decide (swath = s.muster.lastSwath) && decide (out = s.muster.lastDigest))
    let okW := decide (sel = 0) || decide (mine = some weight)
    if okOut && okW then
      let s := satCsrFld s aMstShadow 15 0 1
      if csrFld s aMstShadow 15 0 ≥ max 1 (csrFld s aMstShadow 31 16) then askAdmit s d else s
    else
      let s := setCsrFld s aMstShadow 15 0 0
      let s := setCsrFld (satCsrFld s aMstShadowErr 63 48 1) aMstShadowErr 47 0 swath
      note s (.other 304 d)

/-- SHADOW_REPORT at the partner (R304). -/
def shadowReportIn (p i : Nat) (s : State) : State :=
  match takeMuster s p i with
  | some (s1, t, .shadowReport swath out start weight) =>
    -- a report of a swath that has not ended here waits for its end
    if t.dst = ownCoord s ∧ swath > s.muster.lastSwath then s
    else directed s1 t (.shadowReport swath out start weight) (fun s =>
      if csrFld s aMstShadow 63 63 = 1 ∧ csrFld s aMstShadow 47 32 = ownCoord s then
        let s := { s with muster := { s.muster with shadow := some t.src } }
        let s := if memberState s t.src = 1 then s else setMember s t.src 3
        compareReport s t.src swath out start weight
      else s)
  | _ => s

/-- SHADOW_REPORT (R304). -/
def execShadowReport (p i : Nat) (s : State) : Out :=
  .next (if musterAged s p i then ageMuster p i s else shadowReportIn p i s)

def admitIn (p i : Nat) (s : State) : State :=
  match takeMuster s p i with
  | some (s1, t, .admitAsk d partner) =>
    directed s1 t (.admitAsk d partner) (fun s =>
      if leader s = ownCoord s then admitAsk (if memberState s d = 1 then s else setMember s d 3) d else s)
  | _ => s

/-- ADMIT_REQUEST (R305). -/
def execAdmitRequest (p i : Nat) (s : State) : Out :=
  .next (if musterAged s p i then ageMuster p i s else admitIn p i s)

/-- The end of a swath while shadowing: the outbound digest is kept, and a shadow that has shown no skew
or mismatch reports (R303, R304, R308).
(DEDUCED: assumption 39) -/
def shadowSwathEnd (s : State) (swath : Nat) : State :=
  if !shadowing s then s
  else
    let d := s.muster.outDigest
    let s := { s with muster := { s.muster with
      outDigest := 0#64, lastDigest := d, lastSwath := swath } }
    if isShadow s && !s.muster.barred.contains (ownCoord s) then
      let sel := csrFld s aMstShadow 62 61
      let w := if sel = 0 then (0, 0#64) else lastWeight s
      musterSend s (csrFld s aMstShadow 47 32) (.shadowReport swath (if sel = 1 then 0#64 else d) w.1 w.2)
    else s

/-! ## Delivery of a change (R295, R301, R305) -/

/-- Local contributors of the sheaf below and at a node: bits of the masks.
(DEDUCED: assumption 40) -/
def localContributors (s : State) (id : Nat) : Nat → Nat → Nat
  | 0, _ => 0
  | f + 1, j =>
    match nodeOf s j id with
    | none => 0
    | some n =>
      ((List.range 16).filter (fun b => (nodeMask s j n).testBit b)).length
        + ((List.range (nodeChildren s j n)).map (fun k =>
            localContributors s id f (nodeKid s j n k))).foldl (· + ·) 0

/-- The root of a team sheaf: TOTAL counts contributors that are not on this device (R297).
(DEDUCED: assumption 40) -/
def teamRoot (s : State) (j n : Nat) : Bool :=
  decide (pfld (getPlot s j) (oSheafCfg n) 63 63 = 1) && nodeRoot s j n
    && decide (nodeTotal s j n > localContributors s (pfld (getPlot s j) (oSheafCfg n) 57 48) 41 j)

/-- The status message of an incomplete round (R301). -/
def incompleteWord (count round total : Nat) : Word :=
  setBits (setBits (setBits (setBits 0#64 63 56 1) 55 40 count) 39 32 round) 31 16 total

/-- Complete one round as incomplete. -/
def incompleteRound (s : State) (j n : Nat) (x : ShRound) : State :=
  let cnt := partsCount x.parts
  let total := nodeTotal s j n
  if x.delivering || decide (cnt = 0) || decide (cnt ≥ total) then s
  else
    let id := pfld (getPlot s j) (oSheafCfg n) 57 48
    let v := getNode s j n
    let v := roundDone (putRound v { x with delivering := true }) x.round
    let s := satCsrFld (setNode s j n v) aMstColl 63 52 1
    injectAt s j (rootMessage s j n (nodeTarget s j n) (nodeRing s j n) (0x8000 + id) x.w1
      [⟨incompleteWord cnt x.round total, false⟩] x.round)

/-- R301 at every root of a team sheaf. -/
def incompleteRounds (s : State) : State :=
  (List.range (numPlots s)).foldl (fun s j =>
    (List.range 32).foldl (fun s n =>
      if teamRoot s j n then (getNode s j n).rounds.foldl (fun s x => incompleteRound s j n x) s else s) s) s

/-- Deliver one committed change to the contexts of this device: MST_EVENT, the rounds, the end of
shadowing. The member-change notice is the swath unit's. -/
def deliverChange (s : State) (c : Commit) : State :=
  let s := csrSet s aMstEvent (setBits (setBits (setBits 0#64 63 56 c.kind) 55 40 c.target) 39 0 c.act)
  if c.kind = 1 then incompleteRounds s
  else if c.target = ownCoord s then
    updateRole (setCsrFld (setCsrFld s aMstState 31 28 2) aMstShadow 63 63 0)
  else if s.muster.shadow = some c.target then
    setCsrFld { s with muster := { s.muster with shadow := none } } aMstShadow 63 63 0
  else s

/-! ## Team collectives at the root (R297 to R300) -/

/-- The place of a remote contribution in the fold: source linear index, then source core (R297). -/
def remoteWho (s : State) (p : Packet) : Nat := 32 + linIdx (teamShape s) (pSrcDev p) * 32768 + pSrcCore p

/-- The round of a packet has already completed at a root (R300).
(DEDUCED: assumption 40) -/
def roundLate (v : ShNode) (r : Nat) : Bool :=
  decide (1 ≤ (v.oldest + 256 - r) % 256 ∧ (v.oldest + 256 - r) % 256 < 128)
    || (v.ahead && decide (r = (v.oldest + 1) % 256))

/-- Fold a remote contribution whose round the root accepts: poisoned when its digest differs, the whole
round when it is the 65th (R298, R299).
(DEDUCED: assumption 40) -/
def foldRemote (s : State) (j n : Nat) (p : Packet) (digest : Word) : State :=
  let bad := decide (sheafDigest p ≠ digest)
  let s := if bad then
      note (setCsrFld (satCsrFld s aMstColl 51 40 1) aMstColl 15 0 (pSrcDev p)) (.other 299 (pSrcDev p))
    else s
  let v := getNode s j n
  let x := (findRound v (pShRound p)).getD (emptyRound (pShRound p) p.w1)
  let s := if x.remotes.length = 64 then satCsrFld s aMstColl 27 16 1 else s
  let x := { x with remotes := x.remotes ++ [p] }
  let part : ShPart :=
    { who := if nodeFree s j n then 64 + x.parts.length else remoteWho s p
      count := pShCount p
      data := if bad then p.body.map (fun w => { w with poi := true }) else p.body
      shape := shShape p.w2 }
  let r := addPart s j n x part
  let s := setNode r.1 j n (putRound (getNode r.1 j n) r.2)
  if roundComplete s j n r.2 then completeRound s j n r.2 else s

/-- REMOTE_SHEAF_CONTRIBUTION: packet `id`, from another device, stands at the router of its root. -/
def remoteSheaf (id : Nat) (s : State) : State :=
  match findPkt s id with
  | none => s
  | some p =>
    if pType p ≠ tSHEAF ∨ p.yk = 0 ∨ !isLocalDev s (pDstDev p) ∨ !arrived s p then s
    else
      let s := dropPkt s id
      let j := pDstId p
      match nodeOf s j (pShId p), s.inbound.find? (fun x => decide (x.id + 1 = p.yk)) with
      | some n, some x =>
        let v := getNode s j n
        if !nodeRoot s j n then rejectRound s j p
        else if roundLate v (pShRound p) then
          rejectRound (satCsrFld s aMstColl 39 28 1) j p
        else if !roundOk v (pShRound p) then rejectRound s j p
        else foldRemote s j n p x.txn.digest
      | _, _ => rejectRound s j p

/-- REMOTE_SHEAF_CONTRIBUTION (R297). -/
def execRemoteSheafContribution (id : Nat) (s : State) : Out := .next (remoteSheaf id s)

end Sys2Proof.Machine
end

