-- ==== Sys2Proof/Machine/Control.lean ====
section
/-! DEFINITION. Control instructions: nop, br, jr, dbnz, end, trap (R38, R47, R48), and how a firing
ends or is abandoned (R33, R38, R549). -/

namespace Sys2Proof.Machine

/-- nop: no effect. -/
def nopEffect (_ : BitVec 32) (_ : Thread) (s : State) (_ _ : Nat) : Done := .next s

/-- nop (R48). -/
def execNop (c t : Nat) (f : Fetch) (s : State) : Out :=
  .next (issue 0x00 .bit0 resRR0 nopEffect c t f s)

/-- The branch target: pc + IMM15, modulo 4,096 (R21, R48). -/
def branchTo (w : BitVec 32) (pc : BitVec 12) : BitVec 12 :=
  BitVec.ofNat 12 (pc.toNat + (fImm15s w).toNat)

/-- br: pc + IMM15. -/
def brEffect (w : BitVec 32) (th : Thread) (s : State) (_ _ : Nat) : Done :=
  .jump s (branchTo w th.pc)

/-- br (R48). -/
def execBr (c t : Nat) (f : Fetch) (s : State) : Out :=
  .next (issue 0x01 .bit0 resJ0 brEffect c t f s)

/-- jr: pc gets s[A][11:0]; a poisoned s[A] is a control operand (R25). -/
def jrEffect (w : BitVec 32) (th : Thread) (s : State) (_ _ : Nat) : Done :=
  let a := rdS th (fA w)
  if a.poi then poisoned s else .jump s (BitVec.ofNat 12 a.val.toNat)

/-- jr (R48). -/
def execJr (c t : Nat) (f : Fetch) (s : State) : Out :=
  .next (issue 0x02 .bit0 resRRA jrEffect c t f s)

/-- dbnz: s[D] less one; when the result is not 0, pc + IMM15. For s0 the result is all ones and the
write is discarded. -/
def dbnzEffect (w : BitVec 32) (th : Thread) (s : State) (c t : Nat) : Done :=
  let d := rdS th (fD w)
  if d.poi then poisoned s
  else
    let v := d.val - 1#64
    let s := thUpd s c t (fun th => wrS th (fD w) ⟨v, false⟩)
    if v = 0#64 then .next s else .jump s (branchTo w th.pc)

/-- dbnz (R48). -/
def execDbnz (c t : Nat) (f : Fetch) (s : State) : Out :=
  .next (issue 0x03 .bit0 resNone dbnzEffect c t f s)

/-- Release the messages that a thread's firing reserved and did not select (R549). -/
def releaseRings (k : Core) (t : Nat) : Core :=
  (List.range 16).foldl (fun k r =>
    let l := ringMsgs k r
    if l.any (fun m => decide (m.resv = some t)) then
      setRing k r (l.map (fun m => if m.resv = some t then { m with resv := none } else m))
    else k) k

/-- The counts of a firing agree with its task's slots (R38). -/
def countsMatch (k : Core) (fi : Firing) : Bool :=
  (slots k (oTaskIn fi.task)).all (fun v => decide (nth fi.takes v.1 = v.2.1))
    && (slots k (oTaskOut fi.task)).all (fun v => decide (nth fi.puts v.1 = v.2.1))

/-- The end of a firing: the thread is free, the task idle, unused reservations released (R34, R38,
R549); a queue that a probe spilled may leave spill state (R180). -/
def endFiring (k : Core) (t : Nat) (fi : Firing) : Core :=
  let k := updThread k t (fun th => { th with firing := none, parts := [], cause := 0, counted := false })
  let k := setCfld k (oTaskStat fi.task) 31 30 0
  let k := releaseRings k t
  (slots k (oTaskOut fi.task)).foldl (fun k v => unspill k v.2.2) k

/-- end: compares the counts taken, selected and put with the declared counts (R38). -/
def endEffect (_ : BitVec 32) (th : Thread) (s : State) (c t : Nat) : Done :=
  match th.firing with
  | none => .next s
  | some fi =>
    if countsMatch (getCore s c) fi then
      .ended (progressMark (updCore s c (fun k => endFiring k t fi)) (plotOf c))
    else .fault s RATE 0

/-- end (R38, R47: its guard is ignored). -/
def execEnd (c t : Nat) (f : Fetch) (s : State) : Out :=
  .next (issue 0x04 .always resRR0 endEffect c t f s)

/-- trap: "software trap" with IMM15 in INFO (R75, R76). -/
def trapEffect (w : BitVec 32) (_ : Thread) (s : State) (_ _ : Nat) : Done :=
  .fault s SOFTTRAP (fImm15 w)

/-- trap (R48, R47: its guard is ignored). -/
def execTrap (c t : Nat) (f : Fetch) (s : State) : Out :=
  .next (issue 0x05 .always resJ0 trapEffect c t f s)

end Sys2Proof.Machine
end

