-- ==== Sys2Proof/Machine/Tasks.lean ====
section
/-! DEFINITION. Tasks and the scratchpad's own events: the firing rule (R33, R549), the enable check
(R31, R32), fault and stall clears (R75, R77), region writes (R128), scrubbing (R143) and promotion
(R122). -/

namespace Sys2Proof.Machine

/-! ## The firing rule -/

def taskEn (k : Core) (n : Nat) : Bool := decide (cfld k (oTaskCfg n) 63 63 = 1)
def taskState (k : Core) (n : Nat) : Nat := cfld k (oTaskStat n) 31 30

/-- Every input of task n holds its count. -/
def inputsReady (k : Core) (n : Nat) : Bool :=
  (slots k (oTaskIn n)).all (fun v => decide (available k v.2.2 ≥ v.2.1))

/-- Every output of task n has room for its count. -/
def outputsReady (k : Core) (n : Nat) : Bool :=
  (slots k (oTaskOut n)).all (fun v => decide (room k v.2.2 ≥ v.2.1))

/-- A source task or one with a ring input, which INTAKE_STOP holds (R182). -/
def isIntake (k : Core) (n : Nat) : Bool :=
  (slots k (oTaskIn n)).isEmpty || (slots k (oTaskIn n)).any (fun v => decide (qKind k v.2.2 = 4))

def intakeStop (k : Core) : Bool := decide (cfld k oFurCtl 62 62 = 1)

/-- Lowest-numbered free thread that may run task n (R33). -/
def freeThread (k : Core) (n : Nat) : Option Nat :=
  (List.range 4).find? (fun t => (cfld k (oTaskCfg n) 58 55).testBit t && (getThread k t).firing.isNone)

/-- Task n is a candidate (R33). -/
def isCandidate (k : Core) (n : Nat) : Bool :=
  taskEn k n && decide (taskState k n = 0) && inputsReady k n && outputsReady k n
    && (freeThread k n).isSome && !(intakeStop k && isIntake k n)

/-- The candidate that fires: the highest PRIO, and among equals the first after the task that fired
last (R33). -/
def chooseTask (k : Core) : Option Nat :=
  let order := (List.range 16).map (fun i => (k.lastFired + 1 + i) % 16)
  let cs := order.filter (isCandidate k)
  let top := cs.foldl (fun a n => max a (cfld k (oTaskCfg n) 60 59)) 0
  cs.find? (fun n => decide (cfld k (oTaskCfg n) 60 59 = top))

/-- Reserve up to `n` messages of ring r for thread t, oldest first; answers how many are left. -/
def reserveRing (t : Nat) : Nat → List RMsg → Nat × List RMsg
  | n, [] => (n, [])
  | 0, l => (0, l)
  | n + 1, m :: l =>
    if msgAvail m then
      let r := reserveRing t n l
      (r.1, { m with resv := some t } :: r.2)
    else
      let r := reserveRing t (n + 1) l
      (r.1, m :: r.2)

/-- Reserve `n` messages of a kind 4 queue, from its rings in increasing number (R549). -/
def reserveMsgs (k : Core) (t q n : Nat) : Core :=
  ((List.range 16).foldl (fun (a : Nat × Core) r =>
    if bit (creg a.2 (oQ q)) (32 + r) && ringOpen a.2 r then
      let x := reserveRing t a.1 (ringMsgs a.2 r)
      (x.1, setRing a.2 r x.2)
    else a) (n, k)).2

/-- Fire task n on thread t at field cycle `now` (R23, R33, R35); a task that fires is not blocked, so BLOCKED returns
to zero (R40). -/
def fireTask (k : Core) (n t now : Nat) : Core :=
  let fires := (cfld k (oTaskStat n) 63 32 + 1) % 2 ^ 32
  let k := (slots k (oTaskIn n)).foldl (fun k v =>
    if qKind k v.2.2 = 4 then reserveMsgs k t v.2.2 v.2.1 else k) k
  let k := setCfld (setCfld (setCfld k (oTaskStat n) 63 32 fires) (oTaskStat n) 31 30 2)
    (oTaskStat n) 29 28 t
  let k := setTP (setCfld k (oTaskStat n) 27 0 0) n { getTP k n with sentAt := 0 }
  let k := updThread k t (fun th => wrS
    { th with
      pc := BitVec.ofNat 12 (cfld k (oTaskCfg n) 43 32)
      firing := some { task := n, start := now, takes := [0, 0, 0, 0], puts := [0, 0, 0, 0],
                       chosen := none }
      parts := []
      cause := 0
      counted := false } 31 ⟨BitVec.ofNat 64 (2 ^ 32 * fires + n), false⟩)
  { k with lastFired := n }

/-- TASK_FIRING: at most one task fires (R33, R34). -/
def taskFiring (c : Nat) (s : State) : State :=
  let k := getCore s c
  if cfld k oState 47 47 = 0 ∨ k.stopped then s
  else match chooseTask k with
    | none => s
    | some n => match freeThread k n with
      | none => s
      | some t => setCore s c (fireTask k n t (coreCycles s c))

/-- TASK_FIRING (R33). -/
def execTaskFiring (c : Nat) (s : State) : Out := .next (taskFiring c s)

/-! ## The enable check (R27, R31, R32) -/

/-- Two enabled tasks share no input and no output queue. -/
def sharesQueue (k : Core) (n : Nat) (o : Nat → Nat) : Bool :=
  (List.range 16).any (fun m => decide (m ≠ n) && taskEn k m
    && (slots k (o m)).any (fun v => (slots k (o n)).any (fun u => decide (u.2.2 = v.2.2))))

/-- The shape of a choose task (R32). -/
def chooseShape (k : Core) (n : Nat) : Bool :=
  let i := slots k (oTaskIn n)
  let o := slots k (oTaskOut n)
  match i, o with
  | [(0, c0, _), (1, c1, _), (2, c2, _)], [(0, p0, _)] =>
    decide (c0 = 1) && decide (c1 = c2) && decide (p0 = c1)
  | _, _ => false

/-- The conditions of R31 and R32 on task n, its EN apart. -/
def taskOk (k : Core) (n : Nat) : Bool :=
  let i := slots k (oTaskIn n)
  let o := slots k (oTaskOut n)
  let kind := cfld k (oTaskCfg n) 62 61
  i.all (fun v => decide (qKind k v.2.2 = 1 ∨ qKind k v.2.2 = 3 ∨ qKind k v.2.2 = 4))
    && o.all (fun v => decide (qKind k v.2.2 = 2 ∨ qKind k v.2.2 = 3))
    && (i ++ o).all (fun v => decide (1 ≤ v.2.1 ∧ v.2.1 ≤ 16))
    && !sharesQueue k n oTaskIn && !sharesQueue k n oTaskOut
    && !(i ++ o).isEmpty
    && (decide (kind = 0) || (decide (kind = 1) && chooseShape k n))

/-- The stored bits of CORE_TASK_n_CFG. -/
def taskCfgMask : Word := 0xFF800FFF00000000#64

/-- Write CORE_TASK_n_CFG with the check of R31: a failed check leaves EN 0 and records "bad task". -/
def writeTaskCfg (k : Core) (n : Nat) (v : Word) : Core :=
  let k' := setCreg k (oTaskCfg n) (v &&& taskCfgMask)
  if !bit v 63 || taskOk k' n then k'
  else recordFault (setCfld k' (oTaskCfg n) 63 63 0) BADTASK n 0 0 0

/-- TASK_ENABLE_CHECK: a write of CORE_TASK_n_CFG (R31). -/
def execTaskEnableCheck (c n : Nat) (v : Word) (s : State) : Out :=
  .next (if n < 16 then updCore s c (fun k => writeTaskCfg k n v) else s)

/-! ## Clears -/

/-- FAULT_CLEAR: writing one to CORE_FAULT.VALID clears the record (R75). -/
def execFaultClear (c : Nat) (s : State) : Out :=
  .next (updCore s c (fun k => setCreg k oFault 0#64))

/-- Clear every stall counter of thread t (R77). -/
def clearStall (now : Nat) (k : Core) (t : Nat) : Core :=
  let k := (List.range 16).foldl (fun k i => setCreg k (oStall t i) 0#64) k
  updThread { k with stallBase := fset zeroNat k.stallBase t now } t (fun th => { th with issued := 0 })

/-- Clear the counters of the threads of a mask (CORE_STALL_CLR). -/
def clearStalls (s : State) (c : Nat) (m : Nat) : State :=
  updCore s c (fun k => (List.range 4).foldl (fun k t =>
    if m.testBit t then clearStall (coreCycles s c) k t else k) k)

/-- STALL_CLEAR: a write of CORE_STALL_CLR (R77). -/
def execStallClear (c : Nat) (v : Word) (s : State) : Out := .next (clearStalls s c (bits v 3 0))

/-! ## The scratchpad's events -/

/-- The stored bits of SPD_REGION_n_CFG. -/
def regionMask : Word := 0xE0007FFF00007FFF#64

/-- A region descriptor with EN 1 breaks a limit of R128. -/
def regionBad (k : Core) (n : Nat) (v : Word) : Bool :=
  let base := bits v 14 0
  let size := bits v 46 32 + 1
  match bits v 62 61 with
  | 0 => decide (base + size > 32768) || decide (size < 2)
  | 1 => decide (base + size > 32768) || decide (size < 3)
      || (List.range 16).any (fun m => decide (m ≠ n) && regEn k m && decide (regUse k m = 1))
  | 2 => decide (base + size > 32768) || decide (base % 4 ≠ 0) || decide (size % 4 ≠ 0)
  | _ => true

/-- Write a region descriptor: pointers, wrap bits and OPEN become zero; a rejected write leaves EN 0
and sets CFG_REJECT (R128).
(DEDUCED: assumption 30) -/
def writeRegion (k : Core) (n : Nat) (v : Word) : Core :=
  let k' := setRing (setCreg (setCreg k (oRegion n) (v &&& regionMask)) (oRegionPtr n) 0#64) n []
  if bit v 63 && regionBad k n v then
    setCfld (setCfld k' (oRegion n) 63 63 0) oSpdStat 63 63 1
  else k'

/-- A queue names an extension that is none: EXT_MISMATCH (R139).
(DEDUCED: assumption 30) -/
def extMismatch (k : Core) : Core :=
  if (List.range 16).any (fun q => decide (cfld k (oQ q) 60 60 = 1) && !hasExt k q) then
    setCfld k oSpdStat 62 62 1
  else k

/-- REGION_CFG_WRITE (R128), with the check of R139. -/
def execRegionCfgWrite (c n : Nat) (v : Word) (s : State) : Out :=
  .next (if n < 16 then updCore s c (fun k => extMismatch (writeRegion k n v)) else s)

/-- Insert a promoted access: the one that has waited longest first, then by precedence (R122). -/
def insertPromoted (x : Nat × Nat) : List (Nat × Nat) → List (Nat × Nat)
  | [] => [x]
  | y :: l => if x.1 < y.1 ∨ (x.1 = y.1 ∧ x.2 < y.2) then x :: y :: l else y :: insertPromoted x l

/-- SCRATCHPAD_ACCESS_PROMOTE: an access of a precedence from 2 to 7 that began to wait at field cycle
`since`. It counts as waiting; once it has waited 32 cycles it is promoted, and from then on it is served before every
source but the drain (R122).
(DESIGN CHOICE: assumption 12) -/
def promoteAccess (c prec since : Nat) (s : State) : State :=
  let k := getCore s c
  if prec < 2 ∨ 7 < prec ∨ coreCycles s c < since ∨ !accessWaits s c prec then s
  else if coreCycles s c < since + 32 then
    if k.waiting.contains (since, prec) then s
    else setCore s c { k with waiting := k.waiting ++ [(since, prec)] }
  else setCore s c { k with
    waiting := k.waiting.filter (fun x => decide (x ≠ (since, prec)))
    promoted := insertPromoted (since, prec) k.promoted }

/-- SCRATCHPAD_ACCESS_PROMOTE (R122). -/
def execScratchpadAccessPromote (c prec since : Nat) (s : State) : Out :=
  .next (promoteAccess c prec since s)

/-- Bits flip in a stored word: a circumstance from outside, which the command carries. -/
def upset (k : Core) (u : Nat × BitVec 72) : Core :=
  { k with spdFlip := fset noFlip k.spdFlip (u.1 % 32768) (fget noFlip k.spdFlip (u.1 % 32768) ^^^ u.2) }

/-- Read the words of a line under R141. -/
def scrubWords (s : State) (c w : Nat) : Nat → State
  | 0 => s
  | n + 1 => scrubWords (spdRead s c w).1 c (w + 1) n

/-- SCRUB_STEP: every INTERVAL cycles one line is read and the line advances (R143). -/
def scrubStep (c : Nat) (ups : List (Nat × BitVec 72)) (s : State) : State :=
  let s := updCore s c (fun k => ups.foldl upset k)
  let k := getCore s c
  if cfld k oSpdScrub 63 63 = 0 ∨ coreCycles s c < k.scrubAt + cfld k oSpdScrub 15 0 ∨ !padTurn s c 7 then s
  else
    let line := cfld k oSpdScrub 25 16
    updCore (scrubWords s c (32 * line) 32) c (fun k =>
      let k := setCfld k oSpdScrub 25 16 (line + 1)
      let k := if line = 1023 then wrapCfld k oSpdScrub 47 32 1 else k
      served { k with scrubAt := coreCycles s c } 7)

/-- SCRUB_STEP (R143). -/
def execScrubStep (c : Nat) (ups : List (Nat × BitVec 72)) (s : State) : Out :=
  .next (scrubStep c ups s)

end Sys2Proof.Machine
end

