-- ==== Sys2Proof/Machine/Furrow.lean ====
section
/-! DEFINITION. The furrow network: links, flits and credits (R146 to R162), the schedule (R158),
deadlock probes (R168 to R173), the extension mover and the silo (R174 to R181), drains (R182 to
R185). -/

namespace Sys2Proof.Machine

/-! ## Links -/

/-- The core at the other end of outgoing link d of core c: N 0, E 1, S 2, W 3 (R146). -/
def neighbour (s : State) (c d : Nat) : Option Nat :=
  let x := c % 160
  let y := c / 160
  match d with
  | 0 => if y = 0 then none else some (c - 160)
  | 1 => if x = 159 then none else some (c + 1)
  | 2 => if y + 1 ≥ coreRows s then none else some (c + 160)
  | _ => if x = 0 then none else some (c - 1)

/-- The opposite direction. -/
def opposite (d : Nat) : Nat := (d + 2) % 4

def getLink (k : Core) (d : Nat) : Link := fget link0 k.links d
def setLink (k : Core) (d : Nat) (l : Link) : Core := { k with links := fset link0 k.links d l }

/-- The seam lane group that a link crosses, when its ends lie in different fields: 0 to 41 by row for the
vertical seams, then by column for the two horizontal ones (R151).
(DESIGN CHOICE: assumption 56) -/
def seamOf (s : State) (c d : Nat) : Option Nat :=
  match neighbour s c d with
  | none => none
  | some n =>
    let a := physOf s (plotOf c)
    let b := physOf s (plotOf n)
    if fieldOf a = fieldOf b then none
    else if fieldOf a / 2 = fieldOf b / 2 then some (a / 42)
    else some (42 + 42 * min (fieldOf a / 2) (fieldOf b / 2) + (if a / 42 < b / 42 then a % 42 else b % 42))

/-- State of the seam lane group of a link: 0 in use, 1 fenced after a failed calibration, 2 fenced while its
sides differ in frequency, 3 held for recalibration (R153 to R156), 4 failed. -/
def seamState (s : State) (c d : Nat) : Nat :=
  match seamOf s c d with
  | some g => fget zeroNat s.seams g
  | none => 0

/-- The link exists on the grid, within one partition (R146, R157). -/
def linkExists (s : State) (c d : Nat) : Bool :=
  match neighbour s c d with
  | none => false
  | some n => coreOk s n && decide (fnOfCore s n = fnOfCore s c)

/-- The link leads to a quadrant that is fenced or without power, or its seam group is fenced (R154, R157). -/
def linkOff (s : State) (c d : Nat) : Bool :=
  decide (seamState s c d = 1 ∨ seamState s c d = 2 ∨ seamState s c d = 4)
    || (match neighbour s c d with
        | some n => let q := quadOf (physOf s (plotOf n)); decide (csrFld s aPwrDomain q q = 0 ∨ csrFld s aPwrDomain (32 + q) (32 + q) = 1)
        | none => false)

/-- The link is fenced: by the steward, or because it crosses a partition boundary (R157). -/
def linkFenced (s : State) (c d : Nat) : Bool := !linkExists s c d || linkOff s c d

/-! ## The schedule table (R158) -/

def sched (k : Core) (e : Nat) : Word := creg k (oFurSched e)
def schEn (w : Word) (d : Nat) : Bool := bit w (11 * d + 10)
def schSrc (w : Word) (d : Nat) : Nat := bits w (11 * d + 9) (11 * d + 5)
def schDst (w : Word) (d : Nat) : Nat := bits w (11 * d + 4) (11 * d)

/-- Entries of the table in use: up to and including the first LAST, else all 256. -/
def schedLen (k : Core) : Nat :=
  match (List.range 256).find? (fun e => bit (sched k e) 63) with
  | some e => e + 1
  | none => 256

/-- First entry from e on, within n steps and wrapping, in which link d is enabled. -/
def nextEntry (k : Core) (d len : Nat) : Nat → Nat → Option Nat
  | 0, _ => none
  | n + 1, e =>
    if schEn (sched k (e % len)) d then some (e % len) else nextEntry k d len n (e + 1)

def emptyPass (_ : Nat) : List QEntry := []
def getPass (k : Core) (i : Nat) : List QEntry := fget emptyPass k.pass i

/-- Sources used in the table: source and direction, for every enabled move. -/
def schedMoves (k : Core) : List (Nat × Nat × Nat) :=
  (List.range (schedLen k)).flatMap (fun e =>
    (List.range 4).filterMap (fun d =>
      if schEn (sched k e) d then some (schSrc (sched k e) d, d, schDst (sched k e) d) else none))

/-- The check of R158. -/
def schedOk (s : State) (c : Nat) : Bool :=
  let k := getCore s c
  let ms := schedMoves k
  ms.all (fun m => decide (m.1 < 20) && decide (m.2.2 < 20)
      && (decide (16 ≤ m.1) || decide (qKind k m.1 = 2)) && !linkFenced s c m.2.1
      && ms.all (fun n => decide (n.1 ≠ m.1) || decide (n.2.1 = m.2.1)))

/-- Each pointer at the first entry in which its link is enabled, move counts zero (R158). -/
def startPointers (k : Core) : Core :=
  (List.range 4).foldl (fun k d =>
    let p := (nextEntry k d (schedLen k) (schedLen k) 0).getD 0
    setLink k d { getLink k d with ptr := p, moves := 0 }) k

/-- Setting FUR_CTL.RUN: the check passes and the switch starts, or RUN reads 0 and SCHED_REJECT is
set. RUN already 1 changes nothing. -/
def startSwitch (s : State) (c : Nat) : State :=
  let k := getCore s c
  if cfld k oFurCtl 63 63 = 1 then s
  else if schedOk s c then setCore s c (setCfld (startPointers k) oFurCtl 63 63 1)
  else setCore s c (setCfld k oFurStat 60 60 1)

/-- SWITCH_RUN_START (R158). -/
def execSwitchRunStart (c : Nat) (s : State) : Out := .next (startSwitch s c)

/-- The stored bits of FUR_SCHED_e. -/
def schedMask : Word := 0x80FF0FFFFFFFFFFF#64

/-- A write of FUR_SCHED_e (R158). -/
def writeSched (k : Core) (e : Nat) (v : Word) : Core :=
  if cfld k oFurCtl 63 63 = 1 then setCfld k oFurStat 60 60 1
  else setCreg k (oFurSched e) (v &&& schedMask)

/-- SCHEDULE_WRITE (R158). -/
def execScheduleWrite (c e : Nat) (v : Word) (s : State) : Out :=
  .next (if e < 256 then updCore s c (fun k => writeSched k e v) else s)

/-! ## Moves, arrivals, credits (R148, R149, R159 to R162) -/

/-- The seeding value of a credit counter (R160). -/
def creditInit (target : Nat) : Nat := if target < 16 then 16 else 4

/-- Credits left for a target of a link. -/
def credits (l : Link) (target : Nat) : Nat := creditInit target - fget zeroNat l.used target

/-- The entry at the pointer of link d can move now (R159). -/
def canMove (s : State) (c d : Nat) : Bool :=
  let k := getCore s c
  let l := getLink k d
  let e := sched k l.ptr
  decide (cfld k oFurCtl 63 63 = 1) && decide (seamState s c d ≠ 3) && !linkFenced s c d && l.flit.isNone && schEn e d
    && decide (credits l (schDst e d) > 0)
    && (if schSrc e d < 16 then oldestReady k (schSrc e d)
        else !(getPass k (schSrc e d - 16)).isEmpty)

/-- Take the oldest entry of a source; a pass-through slot that frees returns a credit (R160). -/
def takeSource (s : State) (c src : Nat) : State × QEntry :=
  if src < 16 then qRead s c src
  else
    let k := getCore s c
    match getPass k (src - 16) with
    | [] => (s, ⟨0#256, 0#4⟩)
    | e :: l => (setCore s c (addCredit { k with pass := fset emptyPass k.pass (src - 16) l } src), e)

/-- LINK_MOVE: one step of a link (R159). -/
def linkMove (c d : Nat) (s : State) : State :=
  if decide (d < 4) && canMove s c d then
    let k := getCore s c
    let e := sched k (getLink k d).ptr
    let r := takeSource s c (schSrc e d)
    let dst := schDst e d
    progressMark (updCore r.1 c (fun k =>
      let l := getLink k d
      let done := decide (l.moves = bits e 55 48)
      let ptr := if done then (nextEntry k d (schedLen k) (schedLen k) (l.ptr + 1)).getD l.ptr else l.ptr
      setLink (wrapCfld k oFurFlits 63 32 1) d
        { l with
          ptr := ptr
          moves := if done then 0 else l.moves + 1
          flit := some ⟨r.2, dst⟩
          used := fset zeroNat l.used dst (fget zeroNat l.used dst + 1) })) (plotOf c)
  else s

/-- LINK_MOVE (R159). -/
def execLinkMove (c d : Nat) (s : State) : Out := .next (linkMove c d s)

/-- Report a furrow failure of a core to the steward. -/
def furrowFail (s : State) (c : Nat) : State := note s (.furrowFail c)

/-- Deliver a flit to its target: a kind 1 queue or a pass-through register with a free slot, else the
flit is discarded and OVERFLOW is set (R161).
(DEDUCED: assumption 28) -/
def deliverFlit (s : State) (n side dst : Nat) (e : QEntry) : State :=
  let k := getCore s n
  let k := { k with fedBy := fset zeroNat k.fedBy dst (side + 1) }
  let overrun := furrowFail (setCore s n (setCfld k oFurStat 59 59 1)) n
  if dst < 16 then
    if qKind k dst = 1 ∧ (getQueue k dst).buf.length < 16 then
      setCore s n (wrapCfld (bufPush k dst e) oFurFlits 31 0 1)
    else overrun
  else if (getPass k (dst - 16)).length < 4 then
    setCore s n (wrapCfld { k with pass := fset emptyPass k.pass (dst - 16) (getPass k (dst - 16) ++ [e]) }
      oFurFlits 31 0 1)
  else overrun

/-- The sideband of link d of core c failed its check at the receiver n: the flit and the credit returns of the cycle are
discarded, LINK_ERROR is set there and the context fails (R148). -/
def sidebandLost (s : State) (c d n : Nat) : State :=
  let s := updCore s c (fun k => setLink k d { getLink k d with cret := [] })
  furrowFail (updCore s n (fun k => setCfld k oFurStat 61 61 1)) n

/-- A corrected sideband error counts at the receiver (R148). -/
def sidebandCE (s : State) (n : Nat) (sb : Fetch) : State :=
  if sb = .corrected then updCore s n (fun k => satCfld k oFurStat 31 16 1) else s

/-- FLIT_ARRIVAL: the flit on outgoing link d of core c reaches the neighbour. `par` marks words with
bad parity, `sb` what the sideband check finds (R148, R149, R161). The errors of a flit that is discarded because the
receiver's RUN is 0 count as those of any other: R161 says of it only that the discard itself is no error.
(DESIGN CHOICE: assumption 76) -/
def flitArrival (c d : Nat) (par : BitVec 4) (sb : Fetch) (s : State) : State :=
  let k := getCore s c
  let l := getLink k d
  match l.flit, neighbour s c d with
  | some f, some n =>
    let s := setCore s c (setLink k d { l with flit := none })
    match sb with
    | .uncorrectable => sidebandLost s c d n
    | _ =>
      let s := updCore (sidebandCE s n sb) n (fun k => satCfld k oFurStat 15 0 (popcount par))
      if cfld (getCore s n) oFurCtl 63 63 = 0 then s
      else deliverFlit s n (opposite d) f.dst { f.entry with poi := f.entry.poi ||| par }
  | _, _ => s

/-- FLIT_ARRIVAL (R149). -/
def execFlitArrival (c d : Nat) (par : BitVec 4) (sb : Fetch) (s : State) : Out :=
  .next (flitArrival c d par sb s)

/-- CREDIT_RETURN: the oldest credit return waiting on the neighbour's link toward core c arrives at
core c's link d (R160). `sb` is what the check of the cycle's sideband finds: the returns of a cycle without a flit are
covered by SB_CHK too (R147, R148).
(DEDUCED: assumption 28) -/
def creditReturn (c d : Nat) (sb : Fetch) (s : State) : State :=
  match neighbour s c d with
  | none => s
  | some n =>
    let k := getCore s n
    let l := getLink k (opposite d)
    match l.cret with
    | [] => s
    | g :: rest =>
      if sb = .uncorrectable then sidebandLost s n (opposite d) c
      else
      let s := sidebandCE (setCore s n (setLink k (opposite d) { l with cret := rest })) c sb
      updCore s c (fun k =>
        let l := getLink k d
        setLink k d { l with used := fset zeroNat l.used g (fget zeroNat l.used g - 1) })

/-- CREDIT_RETURN (R160). -/
def execCreditReturn (c d : Nat) (sb : Fetch) (s : State) : Out := .next (creditReturn c d sb s)

/-! ## The mover and the silo (R174 to R181) -/

/-- Free entries of the extension that the mover may fill. -/
def extSpace (k : Core) (q : Nat) : Nat := extCap k q - extCount k q - (getQueue k q).siloReading

/-- Silo requests of a core in flight (R179). -/
def siloReqs (k : Core) : Nat := (k.reqs.filter (fun r => decide (r.kind ≥ 4))).length

/-- HBM team address of place p of queue q's silo sub-area (R181).
(DEDUCED: assumption 29) -/
def siloAddr (k : Core) (q p : Nat) : Word :=
  let off := cfld k oFurSilo 45 12 * 4096 + q * cfld k oFurSilo 57 46 * 256 + p * 32
  setBits (setBits (setBits 0#64 63 48 0xFFFF) 47 46 1) 45 0 off

/-- Inject a silo request, or hold its answer when no silo window permits it (R181, R246).
(DEDUCED: assumption 29) -/
def injectSilo (s : State) (c tag kind q place len : Nat) (data : List PWord) : State :=
  let k := getCore s c
  let a := siloAddr k q place
  let win := windowFor s k a len kind
  let r : Req :=
    { tag := tag, kind := kind, thread := 4, tq := 0, addr := a, spad := place, len := len, op := 0,
      data := data, gran := win.getD 0, gen := coreGen k, tries := 0, time := s.now.toNat, queue := q,
      got := [], status := if win.isNone then some stDENIED else none }
  let s := setCore s c { k with reqs := k.reqs ++ [r] }
  if win.isNone then s else sendReq s c r

/-- A silo request of `flits` flits can leave: a tag of the core's four and room in the router's L buffer (R179). -/
def siloFree (s : State) (c flits : Nat) : Bool :=
  let k := getCore s c
  (freeTag k).isSome && decide (siloReqs k < 4) && lRoom s (physOf s (plotOf c)) 0 false flits

/-- The first step of the mover for queue q (R174): 1 the oldest buffer entry goes to the extension, 2 it is posted to
the silo tail, 0 neither. -/
def moverPost (s : State) (c q : Nat) : Nat :=
  let k := getCore s c
  let v := getQueue k q
  if !v.spill || decide (v.buf.length < 8) then 0
  else if decide (siloHeld v = 0) && decide (extSpace k q > 0) then 1
  else if v.siloStage && decide (siloHeld v < siloCap k) && siloFree s c 2 then 2
  else 0

/-- The second step of the mover for queue q (R174): performed silo entries can be read back.
(DEDUCED: assumption 29) -/
def moverRefill (s : State) (c q : Nat) : Bool :=
  let k := getCore s c
  let v := getQueue k q
  v.spill && (match v.silo with | (_, true) :: _ => true | _ => false) && decide (v.siloReading = 0)
    && decide (extSpace k q > 0) && siloFree s c 1

/-- The mover has something to do for queue q. -/
def moverActs (s : State) (c q : Nat) : Bool := decide (moverPost s c q ≠ 0) || moverRefill s c q

/-- Leading entries of the silo whose writes are performed, in consecutive places of one 512 B block;
`off` is the byte offset of place p in its sub-area's 512 B grid.
(DEDUCED: assumption 29) -/
def siloRun (off p : Nat) : Nat → List (Nat × Bool) → Nat
  | 0, _ => 0
  | _, [] => 0
  | n + 1, (q, d) :: l =>
    if d && decide (q = p) && (decide (n = 15) || decide (off % 512 ≠ 0)) then
      1 + siloRun (off + 32) (p + 1) n l
    else 0

/-- Count an entry that the mover moved out of a buffer. -/
def countSpilled (s : State) (c q : Nat) : State := updCore s c (fun k => wrapCfld k (oFurQspill q) 63 32 1)

/-- The post of the mover's first step. -/
def moverPostServe (s : State) (c q : Nat) : State :=
  let k := getCore s c
  match moverPost s c q with
  | 1 =>
    let r := bufPop k q
    countSpilled (extPush (setCore s c r.1) c q r.2) c q
  | 2 =>
    let r := bufPop k q
    let k := r.1
    let v := getQueue k q
    let place := v.siloTail
    let k := setQueue k q { v with silo := v.silo ++ [(place, false)]
                                   siloTail := (place + 1) % siloCap k }
    let s := countSpilled (setCore s c k) c q
    injectSilo s c ((freeTag k).getD 0) 4 q place 32 (entryWords r.2)
  | _ => s

/-- The read of the mover's second step: up to 16 performed entries from the silo's head.
(DEDUCED: assumption 29) -/
def moverRefillServe (s : State) (c q : Nat) : State :=
  let k := getCore s c
  let v := getQueue k q
  match v.silo with
  | [] => s
  | (p, _) :: _ =>
    let n := min (min 16 (extSpace k q)) (siloRun (siloAddr k q p).toNat p 16 v.silo)
    let s := setCore s c (setQueue k q { v with silo := v.silo.drop n, siloReading := n })
    injectSilo s c ((freeTag k).getD 0) 5 q p (32 * n) []

/-- The mover serves queue q: the two steps of R174 one after the other. -/
def moverServe (s : State) (c q : Nat) : State :=
  let s := moverPostServe s c q
  if moverRefill s c q then moverRefillServe s c q else s

/-- MOVER_STEP: the next queue in rotation that has something to move (R174). -/
def moverStep (c : Nat) (s : State) : State :=
  let k := getCore s c
  match ((List.range 16).map (fun i => (k.moverLast + 1 + i) % 16)).find?
      (fun q => moverActs s c q) with
  | none => s
  | some q => moverServe (setCore s c (served { k with moverLast := q } 4)) c q

/-- MOVER_STEP (R174). -/
def execMoverStep (c : Nat) (s : State) : Out := .next (moverStep c s)

/-! ## Deadlock probes (R168 to R173) -/

/-- Put a probe into a core's store of 8; a full store drops and counts it (R171). -/
def storeProbe (k : Core) (p : Probe) : Core :=
  if k.probes.length < 8 then { k with probes := k.probes ++ [p] } else satCfld k oFurProbe 15 0 1

/-- The PROBE packet (R193). -/
def probePacket (s : State) (c dst : Nat) (p : Probe) : Packet :=
  mkPacket (mkW0 0xFFFF 0 dst 0 0 0 tPROBE 0) (coreW1 s c)
    (setBits (setBits (setBits (setBits (setBits (setBits 0#64 46 32 p.core) 31 28 p.task) 27 20 p.seq)
      19 13 p.hops) 12 9 p.queue) 8 8 p.side) 0#64 [] 0

/-- Send a probe from core c to the other end of queue q: side 0 the writer, 1 the reader (R169).
Answers whether there is an edge. -/
def sendProbe (s : State) (c q : Nat) (p : Probe) : State × Bool :=
  let k := getCore s c
  match qKind k q with
  | 3 => (updCore s c (fun k => storeProbe k { p with queue := q }), true)
  | 4 => (s, false)
  | 0 => (s, false)
  | _ =>
    let g := creg k (oFurQcfg q)
    let peer := bits g 18 4
    if bit g 19 && decide (fnOfCore s peer = fnOfCore s c) then
      (injectCore s c (probePacket s c peer { p with queue := bits g 3 0 }), true)
    else (s, false)

/-- Send a probe along every waiting edge of task n; counts those sent. -/
def forwardProbe (s : State) (c n : Nat) (p : Probe) (ins : Bool) : State × Nat :=
  let k := getCore s c
  let a := if ins then
      (slots k (oTaskIn n)).foldl (fun (x : State × Nat) v =>
        if available k v.2.2 < v.2.1 then
          let r := sendProbe x.1 c v.2.2 { p with side := 0 }
          (r.1, x.2 + r.2.toNat)
        else x) (s, 0)
    else (s, 0)
  (slots k (oTaskOut n)).foldl (fun (x : State × Nat) v =>
    if room k v.2.2 < v.2.1 then
      let r := sendProbe x.1 c v.2.2 { p with side := 1 }
      (r.1, x.2 + r.2.toNat)
    else x) a

/-- PROBE_SEND: a task whose BLOCKED count has reached a further multiple of the threshold sends a
probe to the readers of its blocked outputs (R168). FUR_PROBE.SENT counts once for each such event, however many edges
its probe follows and also where it finds none, since the task sends one probe with one sequence number.
(DESIGN CHOICE: assumption 76) -/
def probeSend (c n : Nat) (s : State) : State :=
  let k := getCore s c
  let m := blockedCnt k n / threshold k
  if n ≥ 16 ∨ cfld k oFurCtl 60 60 = 0 ∨ m ≤ (getTP k n).sentAt then s
  else
    let tp := getTP k n
    let s := setCore s c (satCfld (setTP k n { tp with seq := (tp.seq + 1) % 256, sentAt := m })
      oFurProbe 63 48 1)
    (forwardProbe s c n { core := c, task := n, seq := tp.seq, hops := 0, queue := 0, side := 1 }
      false).1

/-- PROBE_SEND (R168). -/
def execProbeSend (c task : Nat) (s : State) : Out := .next (probeSend c task s)

/-- The first OUT slot of task n, in slot order, that lacks room and is a kind 2 or 3 queue with an
extension of at least 16 entries (R172).
(DEDUCED: assumption 29) -/
def spillChoice (k : Core) (n : Nat) : Option Nat :=
  ((slots k (oTaskOut n)).find? (fun v => decide (room k v.2.2 < v.2.1)
    && decide (qKind k v.2.2 = 2 ∨ qKind k v.2.2 = 3) && decide (extCap k v.2.2 ≥ 16))).map (·.2.2)

/-- A probe has returned to its blocked origin: a spill, a silo stage, or "spill exhausted" (R172,
R173). -/
def deadlockFound (s : State) (c n : Nat) : State :=
  let s := updCore s c (fun k => satCfld k oFurProbe 31 16 1)
  let k := getCore s c
  let exhausted := note (setCore s c (setCfld k oFurStat 62 62 1)) (.spillExhausted c)
  match spillChoice k n with
  | none => exhausted
  | some q =>
    let v := getQueue k q
    let event := fun (v : Queue) => setCore s c (satCfld (setQueue k q v) (oFurQspill q) 15 0 1)
    if !v.spill then event { v with spill := true }
    else if !v.siloStage && decide (extSpace k q = 0) && decide (cfld k (oFurQcfg q) 62 62 = 1)
        && decide (cfld k oFurSilo 63 63 = 1) then event { v with siloStage := true }
    else exhausted

/-- The task of core k that names queue q on a side: 0 the writer, 1 the reader. -/
def probeTask (k : Core) (q side : Nat) : Option Nat :=
  (List.range 16).find? (fun n => taskEn k n
    && (slots k (if side = 0 then oTaskOut n else oTaskIn n)).any (fun v => decide (v.2.2 = q)))

/-- A probe reaches task n (R170). -/
def probeAt (s : State) (c n : Nat) (p : Probe) : State :=
  let k := getCore s c
  let tp := getTP k n
  let pid : ProbeId := { core := p.core, task := p.task, seq := p.seq }
  if decide (p.core = c ∧ p.task = n) && decide (blockedCnt k n ≥ threshold k) then deadlockFound s c n
  else if taskEn k n && decide (taskState k n = 0) && !(inputsReady k n && outputsReady k n)
      && decide (cfld k oState 47 47 = 1) && !tp.last.contains pid && decide (p.hops < 64) then
    let s := setCore s c (setTP k n { tp with last := (pid :: tp.last).take 4 })
    let r := forwardProbe s c n { p with hops := p.hops + 1 } true
    updCore r.1 c (fun k => satCfld k oFurProbe 47 32 r.2)
  else s

/-- PROBE: a PROBE packet at its destination enters the core's store, or, with no packet named, the
oldest stored probe reaches its task (R170, R171). -/
def probeStep (c : Nat) (pkt : Option Nat) (s : State) : State :=
  match pkt with
  | some id =>
    match findPkt s id with
    | none => s
    | some p =>
      if pType p ≠ tPROBE ∨ pDstId p ≠ c ∨ !arrived s p then s
      else updCore (dropPkt s id) c (fun k => storeProbe k
        { core := bits p.w2 46 32, task := bits p.w2 31 28, seq := bits p.w2 27 20,
          hops := bits p.w2 19 13, queue := bits p.w2 12 9, side := bits p.w2 8 8 })
  | none =>
    let k := getCore s c
    match k.probes with
    | [] => s
    | p :: l =>
      let s := setCore s c { k with probes := l }
      match probeTask k p.queue p.side with
      | none => s
      | some n => probeAt s c n p

/-- PROBE (R170). -/
def execProbe (c : Nat) (pkt : Option Nat) (s : State) : Out := .next (probeStep c pkt s)

/-! ## Drains (R182 to R185) -/

/-- INTAKE_STOP: FUR_CTL.INTAKE_STOP is set (R182). -/
def execIntakeStop (c : Nat) (s : State) : Out :=
  .next (updCore s c (fun k => setCfld k oFurCtl 62 62 1))

/-- Abandon every firing of a core: threads free, tasks idle, reservations released (R549). -/
def abandonFirings (k : Core) : Core :=
  (List.range 4).foldl (fun k t =>
    match (getThread k t).firing with
    | none => k
    | some fi =>
      let k := updThread k t (fun th => { th with firing := none, parts := [], cause := 0, counted := false })
      let k := if taskState k fi.task = 2 then setCfld k (oTaskStat fi.task) 31 30 0 else k
      releaseRings k t) k

/-- Empty every queue, extension, silo sub-area and pass-through register, and return the credit
counters to their seeding values (R185). Silo requests in flight keep their tags until they complete, and name no queue,
so that their data is dropped. -/
def emptyQueues (k : Core) : Core :=
  let k := (List.range 16).foldl (fun k q =>
    let v := getQueue k q
    let k := if hasExt k q then setCreg k (oRegionPtr (qExt k q)) 0#64 else k
    setQueue k q { queue0 q with spill := v.elastic, elastic := v.elastic }) k
  let k := (List.range 4).foldl (fun k d =>
    setLink k d { getLink k d with used := [], cret := [] }) k
  { k with pass := [], fedBy := [], reqs := k.reqs.map (fun r => if r.kind ≥ 4 then { r with queue := 16 } else r) }

/-- A discard drain of core c (R185).
(DEDUCED: assumption 28) -/
def discardDrain (s : State) (c : Nat) : State :=
  let s := abandonMatrix s c
  updCore s c (fun k =>
    let k := setCfld (setCfld k oFurCtl 63 63 0) oState 47 47 0
    let k := emptyQueues (abandonFirings k)
    { k with stopped := false })

/-- DISCARD_DRAIN: FUR_CTL.DISCARD is written with one (R185). -/
def execDiscardDrain (c : Nat) (s : State) : Out := .next (discardDrain s c)

/-- The core is quiet (R184). -/
def coreQuiet (s : State) (c : Nat) : Bool :=
  let k := getCore s c
  (List.range 16).all (fun n => decide (taskState k n ≠ 2)
      && !(taskEn k n && decide (taskState k n = 0) && decide (cfld k oState 47 47 = 1) && !k.stopped
        && inputsReady k n && outputsReady k n && !(intakeStop k && isIntake k n)))
    && (List.range 4).all (fun d => !canMove s c d && (getLink k d).flit.isNone
      && (getLink k d).cret.isEmpty)
    && (List.range 16).all (fun q => !moverActs s c q)
    && decide (siloReqs k = 0)

/-- Entries left in a core's queues. -/
def stranded (k : Core) : Nat :=
  (List.range 16).foldl (fun a q =>
    a + (getQueue k q).buf.length + extCount k q + (getQueue k q).silo.length) 0

/-- Function n pauses for a move, which copies its sheaf nodes with the rest of its plots' state (R437, R439). -/
def movingFn (s : State) (n : Nat) : Bool := match s.stw.move with | some m => m.fns.contains n | none => false

/-- One pass of a quiescent drain of function n's partition: the first stops intake; when every core is
quiet and the totals of flits sent and received are equal and unchanged over two passes, RUNNING and
RUN clear (R182), and the sheaf rounds in progress are discarded (R228).
(DEDUCED: assumption 26) -/
def quiescentPass (n : Nat) (s : State) : State :=
  let d := fget drain0 s.drains n
  let cs := partCores s n
  if !d.active then
    let s := cs.foldl (fun s c => updCore s c (fun k => setCfld k oFurCtl 62 62 1)) s
    let d : Drain := { active := true, start := s.now.toNat, prev := none, done := false }
    { s with drains := fset drain0 s.drains n d }
  else
    let tot := fun (hi lo : Nat) =>
      (cs.foldl (fun a c => a + cfld (getCore s c) oFurFlits hi lo) 0) % 2 ^ 32
    let now := (tot 63 32, tot 31 0)
    if cs.all (coreQuiet s) && decide (now.1 = now.2) && decide (d.prev = some now) then
      let s := if movingFn s n then s else abandonRounds s (partPlots s n)
      let s := cs.foldl (fun s c => updCore s c (fun k =>
        setCfld (setCfld (setCfld k oState 47 47 0) oFurCtl 63 63 0) oFurStat 47 32 (stranded k))) s
      { s with drains := fset drain0 s.drains n { d with active := false, prev := none, done := true } }
    else { s with drains := fset drain0 s.drains n { d with prev := some now } }

/-- QUIESCENT_DRAIN_TIMEOUT: not ended within 200 microseconds, the drain becomes a discard drain
(R183). The drain of a move has its own outcome (R439). -/
def quiescentTimeout (n : Nat) (s : State) : State :=
  let d := fget drain0 s.drains n
  if d.active && !movingFn s n && decide (s.now.toNat ≥ d.start + 200000) then
    let s := abandonRounds ((partCores s n).foldl discardDrain s) (partPlots s n)
    { s with drains := fset drain0 s.drains n { d with active := false, prev := none } }
  else s

end Sys2Proof.Machine
end

