-- ==== Sys2Proof/Machine/Matrix.lean ====
section
/-! DEFINITION. The matrix unit: mma, mdrain, mwait, mcfg (R69 to R74, R90, R102 to R106) and what the
multiply and drain engines do (R78 to R114). The multiply engine is free again after the cycles of R71; results are
complete, and a drain is, when their completion command comes. -/

namespace Sys2Proof.Machine

def getTile (k : Core) (b : Bool) : Tile := if b then k.tileB else k.tileA
def setTile (k : Core) (b : Bool) (t : Tile) : Core :=
  if b then { k with tileB := t } else { k with tileA := t }

def zeroPair (_ : Nat) : Pair := ⟨0#32, 0#32⟩

/-- Element i (32 * row + column) of a tile; undefined contents are free values (R102, R114).
(DESIGN CHOICE: assumption 23) -/
def tileEl (t : Tile) (i : Nat) : Pair :=
  match t.undef with
  | none => fget zeroPair t.el i
  | some d =>
    let w := Config.freeTile d i
    ⟨BitVec.ofNat 32 w.toNat, BitVec.ofNat 32 (w.toNat / 2 ^ 32)⟩

/-! ## Operand checks (R69, R70, R88) -/

/-- A descriptor: byte address, row pitch in bytes, transpose bit. -/
def dAddr (d : Word) : Nat := bits d 17 0
def dPitch (d : Word) : Nat := bits d 29 18 * 8
def dTr (d : Word) : Bool := bit d 30

/-- Stored rows and elements per row of operand A (false) or B (true) (R86). -/
def opShape (isB tr : Bool) (kk : Nat) : Nat × Nat := if isB == tr then (32, kk) else (kk, 32)

/-- Bytes of a stored row (R87). -/
def rowBytes (code n : Nat) : Nat := (n * codeWidth code + 7) / 8

/-- An operand lies as R88 requires. -/
def opOk (isB : Bool) (d : Word) (code kk : Nat) : Bool :=
  let sh := opShape isB (dTr d) kk
  let rb := rowBytes code sh.2
  decide (bits d 63 31 = 0) && decide (dAddr d % 8 = 0) && decide (rb ≤ dPitch d)
    && decide (dAddr d + (sh.1 - 1) * dPitch d + rb ≤ 262144)

def mK (c : Word) : Nat := bits c 19 8
def mFmtA (c : Word) : Nat := bits c 3 0
def mFmtB (c : Word) : Nat := bits c 7 4

/-- The formats and K agree (R69, R70). -/
def fmtOk (c : Word) : Bool :=
  let a := mFmtA c
  let b := mFmtB c
  let kk := mK c
  decide (bits c 63 20 = 0) && decide (a ≤ 11) && decide (b ≤ 11)
    && decide (codeRate a = codeRate b) && decide (codeIsMX a = codeIsMX b)
    && decide ((a = 10) = (b = 10)) && decide (8 ≤ kk ∧ kk ≤ 2048) && decide (kk % 8 = 0)
    && (!codeIsMX a || decide (kk % 32 = 0))

/-- The scale arrays of an MX mma lie in the scratchpad (R88, R89). -/
def scalesOk (c cfg : Word) : Bool :=
  !codeIsMX (mFmtA c) || (decide (bits cfg 46 32 * 8 + mK c ≤ 262144)
    && decide (bits cfg 61 47 * 8 + mK c ≤ 262144))

/-- The command queue is full or the target tile is draining (R71, R72). -/
def matBusy (k : Core) (tb : Bool) : Bool := decide (k.mq.length ≥ 2) || (getTile k tb).draining

/-! ## mma, mdrain, mwait, mcfg -/

def mmaLegal (w : BitVec 32) : Bool := decide (bits w 8 7 = 0) && decide (bits w 5 5 = 0)

/-- mma: checks, stalls under MATRIX_BUSY, or enqueues the command with the configuration it captures
(R69 to R73, R79, R90). A command that must stall does so before its ownership is looked at.
(DESIGN CHOICE: assumption 76) -/
def mmaEffect (w : BitVec 32) (th : Thread) (s : State) (c t : Nat) : Done :=
  let a := rdS th (xA w)
  let b := rdS th (xB w)
  let cc := rdS th (xC w)
  let k := getCore s c
  let tb := bit w 6
  let z := bit w 4
  let int8 := decide (mFmtA cc.val = 10)
  let tile := getTile k tb
  let cfg := creg k oMcfg
  if a.poi || b.poi || cc.poi then poisoned s
  else if !fmtOk cc.val || !opOk false a.val (mFmtA cc.val) (mK cc.val)
      || !opOk true b.val (mFmtB cc.val) (mK cc.val) || !scalesOk cc.val cfg then .fault s BADMAT 0
  else if matBusy k tb || (z && decide (tile.owner ≠ none ∧ tile.owner ≠ some t)) then .stall s 9
  else if !z && decide (tile.owner ≠ some t) then .fault s TILEOWNER 0
  else if !z && decide (tile.int8 ≠ int8) then .fault s BADMAT 0
  else
    let tile := if z then { tile with owner := some t, int8 := int8 } else tile
    .next (updCore s c (fun k =>
      let k := setTile k tb tile
      { k with mq := k.mq ++ [{ drain := false, tileB := tb, z := z, thread := t,
                                task := (th.firing.map (·.task)).getD 0, pc := th.pc.toNat,
                                a := a.val, b := b.val, c := cc.val, cfg := cfg }] }))

/-- mma (R69). -/
def execMma (c t : Nat) (f : Fetch) (s : State) : Out :=
  .next (issue 0xC0 .bit0 mmaLegal mmaEffect c t f s)

/-- The row-statistics multiplier: all-zero bits mean 1.0 (R103). -/
def drainScale (b : Word) : BitVec 32 :=
  if bits b 63 32 = 0 then 0x3F800000#32 else BitVec.ofNat 32 (bits b 63 32)

/-- The operands of mdrain are well formed (R105). An output row, or row statistics that are kept, at an address that is
not 8-byte aligned is refused: the table of R102 asks for the alignment and R105 names no case of its own for it.
(DESIGN CHOICE: assumption 76) -/
def drainOk (int8 : Bool) (a b : Word) : Bool :=
  let f := bits b 3 0
  let sc := drainScale b
  decide (bits a 63 63 = 0) && decide (bits a 17 0 % 8 = 0) && decide (bits b 11 4 = 0)
    && decide (f ≤ 11) && (decide (f ≠ 11) || int8)
    && isFin32 sc && decide (valueKey sc ≠ 0)
    && decide (outRowBytes f ≤ dPitch a) && decide (bits a 17 0 + 31 * dPitch a + outRowBytes f ≤ 262144)
    && (!outIsMX f || decide (bits a 62 48 * 8 + 32 ≤ 262144))
    && (!bit b 14 || (decide (bits a 47 30 % 8 = 0) && decide (bits a 47 30 + 256 ≤ 262144)))

def mdrainLegal (w : BitVec 32) : Bool := decide (bits w 8 7 = 0) && decide (xFlags w = 0)

/-- mdrain: by the tile's owner only; the tile drains from the next cycle (R83, R102, R105). -/
def mdrainEffect (w : BitVec 32) (th : Thread) (s : State) (c t : Nat) : Done :=
  let a := rdS th (xA w)
  let b := rdS th (xB w)
  let cc := rdS th (xC w)
  let k := getCore s c
  let tb := bit w 6
  let tile := getTile k tb
  if a.poi || b.poi || (bit b.val 13 && cc.poi) then poisoned s
  else if tile.owner ≠ some t then .fault s TILEOWNER 0
  else if !drainOk tile.int8 a.val b.val then .fault s BADMAT 0
  else if k.mq.length ≥ 2 then .stall s 9
  else
    .next (updCore s c (fun k =>
      let k := setTile k tb { tile with draining := true }
      { k with mq := k.mq ++ [{ drain := true, tileB := tb, z := false, thread := t,
                                task := (th.firing.map (·.task)).getD 0, pc := th.pc.toNat,
                                a := a.val, b := b.val,
                                c := if bit b.val 13 then cc.val else BitVec.allOnes 64,
                                cfg := 0#64 }] }))

/-- mdrain (R102). -/
def execMdrain (c t : Nat) (f : Fetch) (s : State) : Out :=
  .next (issue 0xC1 .bit0 mdrainLegal mdrainEffect c t f s)

/-- An mma in progress, if any, is on tile tb. -/
def runsOn (r : Option MmaRun) (tb : Bool) : Bool := match r with | some x => x.cmd.tileB == tb | none => false

/-- Some issued command on a tile has not completed. -/
def tileBusy (k : Core) (tb : Bool) : Bool :=
  k.mq.any (fun m => m.tileB == tb)
    || runsOn k.mma tb || runsOn k.mmaTail tb
    || (match k.drain with | some r => r.cmd.tileB == tb | none => false)

def mwaitLegal (w : BitVec 32) : Bool := decide (bits w 23 5 = 0)

/-- mwait: waits until every issued command on tile IMM10[0] has completed (R48, R109). -/
def mwaitEffect (w : BitVec 32) (_ : Thread) (s : State) (c _ : Nat) : Done :=
  if tileBusy (getCore s c) (bit w 4) then .stall s 9 else .next s

/-- mwait (R48). -/
def execMwait (c t : Nat) (f : Fetch) (s : State) : Out :=
  .next (issue 0xC2 .bit0 mwaitLegal mwaitEffect c t f s)

/-- mcfg: s[A] into CORE_MCFG; a reserved bit set is a bad matrix command (R90). -/
def mcfgEffect (w : BitVec 32) (th : Thread) (s : State) (c _ : Nat) : Done :=
  let a := rdS th (fA w)
  if a.poi then poisoned s
  else if bits a.val 63 62 ≠ 0 ∨ bits a.val 31 2 ≠ 0 then .fault s BADMAT 0
  else .next (updCore s c (fun k => setCreg k oMcfg a.val))

/-- mcfg (R90). -/
def execMcfg (c t : Nat) (f : Fetch) (s : State) : Out :=
  .next (issue 0xC3 .bit0 resRRA mcfgEffect c t f s)

/-! ## The multiply engine (R80, R81, R86 to R100, R113) -/

/-- Read the stored rows of an operand: each row as a number, and whether any word was poisoned. -/
def readRows (s : State) (c addr pitch nbytes : Nat) : Nat → State × List Nat × Bool
  | 0 => (s, [], false)
  | n + 1 =>
    let r := spdReadWords s c (addr / 8) ((nbytes + 7) / 8)
    let q := readRows r.1 c (addr + pitch) pitch nbytes n
    (q.1, (r.2.foldr (fun w a => w.val.toNat + 2 ^ 64 * a) 0) :: q.2.1,
      r.2.any (fun w => w.poi) || q.2.2)

/-- Element e of a row of width-w elements. -/
def rowEl (rows : List Nat) (r e w : Nat) : Nat := (rows.getD r 0 >>> (w * e)) % 2 ^ w

/-- Element (i, k) of A, or (k, i) of B, from the stored rows. -/
def opEl (isB tr : Bool) (rows : List Nat) (w i k : Nat) : Nat :=
  if isB == tr then rowEl rows i k w else rowEl rows k i w

/-- The chunk length of CORE_MCFG, at most 32 for MX formats (R90, R95). -/
def chunkLen (cfg : Word) (mx : Bool) : Nat :=
  let l := match bits cfg 1 0 with | 0 => 32 | 1 => 8 | 2 => 16 | _ => 64
  if mx then min l 32 else l

/-- Split a list into chunks of n. -/
def chunksOf {α : Type} (n : Nat) : Nat → List α → List (List α)
  | 0, _ => []
  | f + 1, l => match l with
    | [] => []
    | _ => l.take n :: chunksOf n f (l.drop n)

/-- One element of the result: the chunk sums of its products promoted in order (R95 to R99). -/
def mmaElement (start : Pair) (l : Nat) (a b : List (FVal × Int)) : Pair :=
  (chunksOf l a.length (List.zipWith matProduct a b)).foldl (fun p ch => promote p (chunkSum ch)) start

/-- A decoded line of an operand: its K elements with their block scales (R89, R91, R92). -/
def opLine (isB tr : Bool) (code kk : Nat) (rows : List Nat) (scales : Nat) (i : Nat) :
    List (FVal × Int) :=
  (List.range kk).map (fun k => matDecode code (opEl isB tr rows (codeWidth code) i k)
    ((scales >>> (8 * (32 * (k / 32) + i))) % 256))

/-- Read a scale array of K bytes as a number. -/
def readScales (s : State) (c word kk : Nat) (mx : Bool) : State × Nat × Bool :=
  if mx then
    let r := spdReadWords s c word ((kk + 7) / 8)
    (r.1, r.2.foldr (fun w a => w.val.toNat + 2 ^ 64 * a) 0, r.2.any (fun w => w.poi))
  else (s, 0, false)

/-- Run an mma on the operands it reads; a poisoned word is a fault of the owner thread (R113). -/
def runMma (s : State) (c : Nat) (m : MatCmd) : State :=
  let kk := mK m.c
  let ca := mFmtA m.c
  let cb := mFmtB m.c
  let mx := codeIsMX ca
  let sa := opShape false (dTr m.a) kk
  let sb := opShape true (dTr m.b) kk
  let ra := readRows s c (dAddr m.a) (dPitch m.a) (rowBytes ca sa.2) sa.1
  let rb := readRows ra.1 c (dAddr m.b) (dPitch m.b) (rowBytes cb sb.2) sb.1
  let xa := readScales rb.1 c (bits m.cfg 46 32) kk mx
  let xb := readScales xa.1 c (bits m.cfg 61 47) kk mx
  let s := xb.1
  if ra.2.2 || rb.2.2 || xa.2.2 || xb.2.2 then
    threadFault s c m.thread m.task m.pc POISON 0
  else
    let la := (List.range 32).map (opLine false (dTr m.a) ca kk ra.2.1 xa.2.1)
    let lb := (List.range 32).map (opLine true (dTr m.b) cb kk rb.2.1 xb.2.1)
    let t := getTile (getCore s c) m.tileB
    let res := (List.range 1024).filterMap (fun e =>
      let start := if m.z then zeroPair e else tileEl t e
      let p := mmaElement start (chunkLen m.cfg mx) (la.getD (e / 32) []) (lb.getD (e % 32) [])
      if p = zeroPair e then none else some (e, p))
    updCore s c (fun k => { k with mma := some { cmd := m, result := res, start := coreCycles s c } })

/-- Cycles for which an mma occupies the multiply engine (R71, R81). -/
def mmaCycles (m : MatCmd) : Nat := 1024 * mK m.c / codeRate (mFmtA m.c)

/-- An mma whose cycles on the engine are over makes room for the next one; its results are complete later (R81). -/
def retireEngine (now : Nat) (k : Core) : Core :=
  match k.mma, k.mmaTail with
  | some r, none => if r.start + mmaCycles r.cmd ≤ now then { k with mma := none, mmaTail := some r } else k
  | _, _ => k

/-- MMA_START: the mma at the head of the queue starts when the engine is free and every earlier
command on its tile has completed (R80); its operands are read at precedence 2 (R121).
(DESIGN CHOICE: assumption 22) -/
def mmaStart (c : Nat) (s : State) : State :=
  let k := retireEngine (coreCycles s c) (getCore s c)
  match k.mq with
  | m :: rest =>
    let drains := match k.drain with | some d => d.cmd.tileB == m.tileB | none => false
    if m.drain || k.mma.isSome || runsOn k.mmaTail m.tileB || drains || !padTurn s c 2 then s
    else runMma (padServe (setCore s c { k with mq := rest }) c 2) c m
  | [] => s

/-- MMA_START (R80, R113). -/
def execMmaStart (c : Nat) (s : State) : Out := .next (mmaStart c s)

/-- MMA_COMPLETE: the results become complete in the tile (R81).
(DESIGN CHOICE: assumption 22) -/
def mmaComplete (c : Nat) (s : State) : State :=
  updCore s c (fun k =>
    let done := fun (k : Core) (r : MmaRun) =>
      setTile k r.cmd.tileB { getTile k r.cmd.tileB with el := r.result, undef := none }
    match k.mmaTail, k.mma with
    | some r, _ => done { k with mmaTail := none } r
    | none, some r => done { k with mma := none } r
    | none, none => k)

/-- MMA_COMPLETE (R81). -/
def execMmaComplete (c : Nat) (s : State) : Out := .next (mmaComplete c s)

/-! ## The drain engine (R80, R82, R102 to R111) -/

/-- DRAIN_START: the drain at the head of the queue starts when the drain engine is free and every
earlier mma on its tile has completed (R80). -/
def drainStart (c : Nat) (s : State) : State :=
  let k := getCore s c
  match k.mq with
  | m :: rest =>
    let mul := runsOn k.mma m.tileB || runsOn k.mmaTail m.tileB
    if !m.drain || k.drain.isSome || mul then s
    else setCore s c { k with mq := rest, drain := some { cmd := m, start := coreCycles s c } }
  | [] => s

/-- DRAIN_START (R80). -/
def execDrainStart (c : Nat) (s : State) : Out := .next (drainStart c s)

/-- The format code of an output format other than the pair and INT32 (R104). -/
def outCode (f : Nat) : Nat :=
  match f with
  | 1 => 0 | 2 => 2 | 3 => 1 | 4 => 3 | 5 => 4 | 6 => 5 | 7 => 6 | 8 => 7 | 9 => 8 | _ => 9

/-- emax of R107. -/
def outEmax (f : Nat) : Int :=
  match f with | 6 => 8 | 7 => 15 | 8 => 2 | 9 => 4 | _ => 2

/-- floor(log2) of a finite nonzero value. -/
def floorLog2 (v : FVal) : Option Int :=
  match v with
  | .fin _ m e => if m = 0 then none else some ((Nat.log2 m : Int) + e)
  | _ => none

/-- What one output row of an MX format gives: its scale byte and whether an infinity made it NaN. -/
structure RowScale where
  byte : Nat
  nan : Bool
  inf : Bool
  deriving DecidableEq, Repr

/-- The scale of an output row: M over the elements that will be written, NaN when any of the block is NaN or infinite
(R107, R108). -/
def rowScale (f : Nat) (all vals : List (BitVec 32)) : RowScale :=
  let nan := all.any (fun v => !isFin32 v)
  let m := vals.foldl (fun a v =>
    match floorLog2 (ofF32 v), a with
    | none, a => a
    | some x, none => some x
    | some x, some y => some (if x < y then y else x)) (none : Option Int)
  if nan then ⟨255, true, all.any isInf32 && !vals.isEmpty⟩
  else match m with
    | none => ⟨0, false, false⟩
    | some x =>
      let b := x - outEmax f + 127
      ⟨if b < 0 then 0 else if b > 254 then 254 else b.toNat, false, false⟩

/-- One converted element (R93, R104, R107).
(DEDUCED: assumption 17) -/
def drainConv (f : Nat) (sc : RowScale) (p : Pair) : Conv :=
  if f = 0 then ⟨p.hi.toNat + 2 ^ 32 * p.lo.toNat, false, false⟩
  else if f = 11 then
    let r := toIntClamp (pairValue p) (-2147483648) 2147483647
    ⟨(r.1 % 4294967296).toNat, r.2, false⟩
  else if outIsMX f then
    (if sc.nan then ⟨0, false, false⟩
     else codeEncode (outCode f) (scaleBy (pairValue p) (127 - (sc.byte : Int))))
  else codeEncode (outCode f) (pairValue p)

/-- Write a row of `n` words: the bits of the mask, both as numbers. -/
def writeRow (s : State) (c w mask data : Nat) : Nat → State
  | 0 => s
  | n + 1 =>
    let m := BitVec.ofNat 64 mask
    let s := if m = 0#64 then s else spdWrite s c (w % 32768) m ⟨BitVec.ofNat 64 data, false⟩
    writeRow s c (w + 1) (mask / 2 ^ 64) (data / 2 ^ 64) n

/-- Write output row r of a drain, and its scale. -/
def drainRow (m : MatCmd) (t : Tile) (c : Nat) (s : State) (r : Nat) : State :=
  let f := bits m.b 3 0
  let wd := outRowBytes f / 4
  let tr := bit m.b 12
  let js := drainCols m r
  let pair := fun j => tileEl t (drainEl tr r j)
  let x := fun j => toF32 (pairValue (pair j))
  let sc := if outIsMX f then rowScale f ((List.range 32).map x) (js.map x) else ⟨0, false, false⟩
  let cv := js.map (fun j => (j, drainConv f sc (pair j)))
  let data := cv.foldl (fun a x => a + x.2.code <<< (wd * x.1)) 0
  let s := writeRow s c (drainWord m r) (drainMask m r) data (outRowBytes f / 8)
  let s := if outIsMX f && !js.isEmpty then
      spdWriteIn s c (bits m.a 62 48 * 8 + r) 1 ⟨BitVec.ofNat 64 sc.byte, false⟩
    else s
  updCore s c (fun k =>
    satCfld (satCfld k oMconv 63 32 (cv.filter (fun x => x.2.sat)).length) oMconv 31 0
      ((cv.filter (fun x => x.2.nanlost)).length + sc.inf.toNat))

def negInf32 : BitVec 32 := 0xFF800000#32

/-- The row-statistics update of R110 from (m, s) and the row's y values, none for a discarded
column. -/
def rowStat (m sum : BitVec 32) (y : List (Option (BitVec 32))) : BitVec 32 × BitVec 32 :=
  let mNew := y.foldl (fun a v => match v with | some v => fmax a v | none => a) m
  if mNew = negInf32 then (m, sum)
  else
    let u := treeReduce fadd 5
      (y.map (fun v => match v with | some v => fexp2 (fsub v mNew) | none => 0#32))
    (mNew, fadd (fmul sum (fexp2 (fsub m mNew))) u)

/-- Update the row statistics of tile row i. What the drain makes of a poisoned state word is open:
a free value. -/
def drainStat (m : MatCmd) (t : Tile) (c : Nat) (s : State) (i : Nat) : State :=
  if !bit m.c i then s
  else
    let w := bits m.a 47 30 / 8 + i
    let r := if bit m.b 15 then (s, (⟨BitVec.ofNat 64 negInf32.toNat, false⟩ : PWord))
      else spdRead s c w
    let s := if r.2.poi then { r.1 with free := r.1.free + 1 } else r.1
    let v := if r.2.poi then Config.freeWord r.1.free else r.2.val
    let y := (List.range 32).map (fun j =>
      if bit m.c (32 + j) then some (fmul (toF32 (pairValue (tileEl t (32 * i + j)))) (drainScale m.b))
      else none)
    let q := rowStat (BitVec.ofNat 32 v.toNat) (BitVec.ofNat 32 (v.toNat / 2 ^ 32)) y
    spdWrite s c w (BitVec.allOnes 64) ⟨BitVec.ofNat 64 (q.1.toNat + 2 ^ 32 * q.2.toNat), false⟩

/-- Clear a statistics slot with a reference exponent (R111, R112). -/
def clearSlot (k : Core) (n ref : Nat) : Core :=
  setCreg (setCreg k (oMslotSum n) (setBits (setBits 0#64 55 48 0xFF) 47 40 ref)) (oMslotHist n) 0#64

/-- Add one value to a statistics slot (R111). -/
def slotAdd (n : Nat) (k : Core) (v : BitVec 32) : Core :=
  let k := satCfld k (oMslotSum n) 23 0 1
  if !isFin32 v then satCfld k (oMslotSum n) 39 24 1
  else if valueKey v = 0 then k
  else
    let e := bits v 30 23
    let k := setCfld k (oMslotSum n) 63 56 (max (cfld k (oMslotSum n) 63 56) e)
    let k := setCfld k (oMslotSum n) 55 48 (min (cfld k (oMslotSum n) 55 48) e)
    let ref := cfld k (oMslotSum n) 47 40
    let bin := if ref < e + 8 then 0 else if ref < e + 16 then 1 else if ref < e + 24 then 2 else 3
    satCfld k (oMslotHist n) (16 * bin + 15) (16 * bin) 1

/-- The statistics slot update of a drain, as one step (R111). STAT_CLR has effect only with STATS.
(DESIGN CHOICE: assumption 76) -/
def drainSlot (m : MatCmd) (t : Tile) (k : Core) : Core :=
  let n := bits m.b 23 18
  if bit m.b 16 then
    let k := if bit m.b 17 then clearSlot k n (bits m.b 31 24) else k
    ((List.range 1024).filter (drainOn m.c)).foldl
      (fun k e => slotAdd n k (toF32 (pairValue (tileEl t e)))) k
  else k

/-- DRAIN_COMPLETE: the rows and scales are written, row statistics and the slot updated, the tile
released with its contents undefined (R73, R82, R102).
(DESIGN CHOICE: assumption 22) -/
def drainComplete (c : Nat) (s : State) : State :=
  match (getCore s c).drain with
  | none => s
  | some d =>
    let m := d.cmd
    let t := getTile (getCore s c) m.tileB
    let s := (List.range 32).foldl (drainRow m t c) s
    let s := if bit m.b 14 then (List.range 32).foldl (drainStat m t c) s else s
    let s := { s with free := s.free + 1 }
    updCore s c (fun k =>
      let k := drainSlot m t { k with drain := none }
      let more := k.mq.any (fun q => q.drain && (q.tileB == m.tileB))
      setTile k m.tileB { el := [], owner := none, int8 := t.int8, undef := some (s.free - 1),
                          draining := more })

/-- DRAIN_COMPLETE (R82). -/
def execDrainComplete (c : Nat) (s : State) : Out := .next (drainComplete c s)

end Sys2Proof.Machine
end

