-- ==== Sys2Proof/Machine/Memory.lean ====
section
/-! DEFINITION. The granary slices (R248 to R256, R550), the HBM controllers (R233 to R238, R551) and the
CXL ports (R241 to R243), with the operations performed at them (R258 to R265). -/

namespace Sys2Proof.Machine

/-! ## Operations on words (R63, R64, R264) -/

/-- The BF16 sum of two elements, rounded once (R63). -/
def addBF (a b : Nat) : Nat := (fencode bf16 (vAdd (fdecode bf16 (a % 65536)) (fdecode bf16 (b % 65536)))).code

/-- A word added to a memory word, element by element: 0 FP32, 1 BF16, 2 INT32, 3 INT64 (R63). -/
def taddWord (elt : Nat) (a b : Word) : Word :=
  if elt = 1 then
    BitVec.ofNat 64 ((List.range 4).foldl (fun x k =>
      x + 2 ^ (16 * k) * addBF (a.toNat >>> (16 * k)) (b.toNat >>> (16 * k))) 0)
  else foldWord elt 0 a b

/-- A tadd of one word: poison of either word poisons the result (R264). -/
def taddPW (elt : Nat) (m d : PWord) : PWord :=
  if m.poi || d.poi then ⟨0#64, true⟩ else ⟨taddWord elt m.val d.val, false⟩

/-- The memory word after a tatom: 0 swap, 1 fetch-add, 2 compare-and-swap (R64, R264). -/
def atomPW (op : Nat) (m : PWord) (d : List PWord) : PWord :=
  match op, d with
  | 0, x :: _ => x
  | 1, x :: _ => if m.poi || x.poi then ⟨0#64, true⟩ else ⟨m.val + x.val, false⟩
  | _, c :: n :: _ => if m.poi || c.poi || decide (m.val ≠ c.val) then m else n
  | _, _ => m

/-- Replace words of a list from place `off`. -/
def putWords (l : List PWord) (off : Nat) : List PWord → List PWord
  | [] => l
  | w :: ws => putWords (l.set off w) (off + 1) ws

/-- The words of a line from place `off`, n of them. -/
def lineWords (l : List PWord) (off n : Nat) : List PWord := (l.drop off).take n

/-- The line after an operation. -/
def applyOp (l : List PWord) (o : LineOp) : List PWord :=
  match o with
  | .load _ _ _ _ => l
  | .store off ws => putWords l off ws
  | .add elt off ws => putWords l off (List.zipWith (taddPW elt) (lineWords l off ws.length) ws)
  | .atomic op off ws => putWords l off ((lineWords l off 1).map (fun m => atomPW op m ws))

/-! ## Lines (R248, R550) -/

/-- The key of a line: address bits [63:8], with the device part 0xFFFF for a local one. -/
def lineKey (s : State) (a : Word) : Nat :=
  (if isLocalDev s (adDev a) then setBits a 63 48 0xFFFF else a).toNat / 256

def keyAddr (k : Nat) : Word := BitVec.ofNat 64 (256 * k)
def keyOff (k : Nat) : Nat := adOff (keyAddr k)
def keyTier (k : Nat) : Nat := adTier (keyAddr k)
def keyRemote (k : Nat) : Bool := decide (k / 2 ^ 40 ≠ 0xFFFF)

/-- Byte within its stack of an HBM offset (R233). -/
def stackByte (s : State) (a : Nat) : Nat :=
  let r := if a < hbmG s then a else a - hbmG s
  r / 4096 / hbmN s * 4096 + r % 4096

/-- The set of a line in its slice (R550). -/
def lineSet (s : State) (k : Nat) : Nat :=
  if keyRemote k then (k % 2 ^ 38 + k / 2 ^ 40) / 6 % 24576
  else if keyTier k = 1 then
    (2 * (stackByte s (keyOff k) / 256) + hbmStack s (keyOff k) % 2) % 24576
  else keyOff k % 2 ^ 40 / 256 % 24576

def getSlice (s : State) (f : Nat) : Slice := fget slice0 s.slices f
def setSlice (s : State) (f : Nat) (v : Slice) : State := { s with slices := fset slice0 s.slices f v }
def updSlice (s : State) (f : Nat) (g : Slice → Slice) : State := setSlice s f (g (getSlice s f))

/-- The line a slice holds for a key. -/
def lineAt (s : State) (f k : Nat) : Option Line := (getSlice s f).lines.find? (fun l => decide (l.addr = k))

/-- The slice without the line of a key. -/
def dropLine (s : State) (f k : Nat) : State :=
  updSlice s f (fun v => { v with lines := v.lines.filter (fun l => decide (l.addr ≠ k)) })

/-- Write a line and make it the most recently used. -/
def touchLine (s : State) (f : Nat) (l : Line) : State :=
  updSlice s f (fun v => { v with
    lines := l :: v.lines.filter (fun x => decide (x.addr ≠ l.addr)) })

/-- Ways of slice f that the repair map disables (R427).
(DEDUCED: assumption 33) -/
def disabledWays (s : State) (f : Nat) : Nat :=
  (mapEntries s).foldl (fun a e =>
    if entType e = 6 ∧ entRow e = f then a ||| 2 ^ (entDetail e % 16) else a) 0

/-- Ways of slice f whose quadrant is powered and not fenced, and which no repair has disabled (R402, R403, R427).
(DEDUCED: assumption 33) -/
def poweredWays (s : State) (f : Nat) : Nat :=
  (List.range 4).foldl (fun a q =>
    let d := 4 * f + q
    if csrFld s aPwrDomain d d = 1 ∧ csrFld s aPwrDomain (32 + d) (32 + d) = 0 then a + 15 * 16 ^ q else a) 0
    &&& (65535 - disabledWays s f)

/-- Ways into which the misses of a core's function may allocate in slice f (R251, R403).
(DEDUCED: assumption 33) -/
def waysOf (s : State) (f c : Nat) : Nat :=
  match fnOfCore s c with
  | some n => csrFld s (aGrnPart f n) 15 0 &&& poweredWays s f
  | none => 0

/-- Allocate a line in one of the ways of a mask: a free way, else the least recently used (R251).
(DEDUCED: assumption 33) -/
def allocLine (s : State) (f k mask : Nat) (d : List PWord) : State :=
  let v := getSlice s f
  let set := v.lines.filter (fun l => decide (lineSet s l.addr = lineSet s k))
  let free := (List.range 16).find? (fun w => mask.testBit w && !set.any (fun l => decide (l.way = w)))
  match free with
  | some w => setSlice s f { v with lines := { addr := k, way := w, data := d, flips := [] } :: v.lines }
  | none =>
    match set.reverse.find? (fun l => mask.testBit l.way) with
    | some old => setSlice s f { v with
        lines := { addr := k, way := old.way, data := d, flips := [] } :: v.lines.filter (fun l => decide (l.addr ≠ old.addr)) }
    | none => s

/-! ## HBM sectors (R236, R237) -/

def noWord : PWord := ⟨0#64, true⟩

/-- The four words of sector number `sec` (tier offset / 32) as stored. -/
def sectorRaw (s : State) (sec : Nat) : List PWord :=
  if fget noPoi s.hbmPoi sec then [noWord, noWord, noWord, noWord]
  else (List.range 4).map (fun i => ⟨BitVec.ofNat 64 (rdLE s.hbm (32 * sec + 8 * i) 8), false⟩)

/-- Store a whole sector; poison in any word stores the poison code (R237). -/
def sectorStore (s : State) (sec : Nat) (ws : List PWord) : State :=
  let poi := ws.any (fun w => w.poi)
  let v := if poi then 0 else ws.foldr (fun w a => w.val.toNat + 2 ^ 64 * a) 0
  { s with
    hbm := wrLE s.hbm (32 * sec) v 32
    hbmPoi := fset noPoi s.hbmPoi sec poi
    hbmErr := fset zeroNat s.hbmErr sec 0 }

/-- Record an uncorrectable sector (R236): UE, HBM_LAST_UE, the repair list, the steward. -/
def sectorUE (s : State) (sec : Nat) : State :=
  let k := hbmStack s (32 * sec)
  let s := satCsrFld s (aHbmStat k) 47 32 1
  let s := setCsrFld (setCsrFld s (aHbmLastUe k) 63 63 1) (aHbmLastUe k) 39 5 sec
  let s := { s with hbmRepair := if s.hbmRepair.contains sec then s.hbmRepair else s.hbmRepair ++ [sec] }
  sectorStore (note s (.hbmUE k sec)) sec [noWord, noWord, noWord, noWord]

/-- Read a sector: one wrong code symbol is corrected and the sector rewritten, two are uncorrectable, and what
more give is open. A poison-coded sector counts nothing.
(DESIGN CHOICE: assumption 20) -/
def sectorRead (s : State) (sec : Nat) : State × List PWord :=
  let raw := sectorRaw s sec
  let n := fget zeroNat s.hbmErr sec
  let ce := fun (s : State) => satCsrFld s (aHbmStat (hbmStack s (32 * sec))) 63 48 1
  let bad := (sectorUE s sec, [noWord, noWord, noWord, noWord])
  if n = 0 || fget noPoi s.hbmPoi sec then (s, raw)
  else if n = 1 then (ce (sectorStore s sec raw), raw)
  else if n = 2 then bad
  else
    let ws : List PWord := (List.range 4).map (fun i => ⟨Config.freeWord (s.free + 1 + i), false⟩)
    let s1 := sectorStore { s with free := s.free + 5 } sec ws
    match Config.freePick s.free % 3 with
    | 0 => (sectorUE { s with free := s.free + 5 } sec, [noWord, noWord, noWord, noWord])
    | 1 => (ce s1, ws)
    | _ => (s1, ws)

/-- Wrong code symbols that arise in sectors of the HBM tier: the sector and how many.
(DESIGN CHOICE: assumption 34) -/
def hbmUpsets (s : State) (ups : List (Nat × Nat)) : State :=
  { s with hbmErr := ups.foldl (fun m u => fset zeroNat m u.1 (fget zeroNat m u.1 + u.2)) s.hbmErr }

/-- Read the eight sectors of the line at tier offset `o`. -/
def hbmLineRead (s : State) (o : Nat) : State × List PWord :=
  (List.range 8).foldl (fun (a : State × List PWord) i =>
    let r := sectorRead a.1 (o / 32 + i)
    (r.1, a.2 ++ r.2)) (s, [])

/-- Write words into the line at tier offset `o`: a sector covered whole is replaced, a part is read,
merged and written, or stays poison (R237). -/
def hbmLineWrite (s : State) (o off : Nat) (ws : List PWord) : State :=
  (List.range 8).foldl (fun s i =>
    let lo := max off (4 * i)
    let hi := min (off + ws.length) (4 * i + 4)
    if lo ≥ hi then s
    else
      let part := lineWords ws (lo - off) (hi - lo)
      if hi - lo = 4 then sectorStore s (o / 32 + i) part
      else
        let r := sectorRead s (o / 32 + i)
        if r.2.any (fun w => w.poi) then r.1
        else sectorStore r.1 (o / 32 + i) (putWords r.2 (lo - 4 * i) part)) s

/-! ## CXL granules (R242) -/

/-- The 32 words of the line at CXL tier offset `o`. The device returns poison for the granules it holds
as poison and for those listed in `poi` (granule within the line); each counts in POISON_IN. -/
def cxlLineRead (s : State) (o off n : Nat) (poi : List Nat) : State × List PWord :=
  (List.range 4).foldl (fun (a : State × List PWord) i =>
    let need := decide (off < 8 * i + 8) && decide (8 * i < off + n)
    let bad := fget noPoi a.1.cxlPoi (o / 64 + i) || poi.contains i
    let ws : List PWord := (List.range 8).map (fun j =>
      if bad then noWord else ⟨BitVec.ofNat 64 (rdLE a.1.cxl (o + 64 * i + 8 * j) 8), false⟩)
    (if bad && need then satCsrFld a.1 (aCxlErr (o / 2 ^ 40)) 63 48 1 else a.1, a.2 ++ ws)) (s, [])

/-- Write words into the line at CXL tier offset `o`: poison in any word marks its granule; a granule
written in part stays poisoned.
(DEDUCED: assumption 32) -/
def cxlLineWrite (s : State) (o off : Nat) (ws : List PWord) : State :=
  (List.range 4).foldl (fun s i =>
    let lo := max off (8 * i)
    let hi := min (off + ws.length) (8 * i + 8)
    if lo ≥ hi then s
    else
      let part := lineWords ws (lo - off) (hi - lo)
      let g := o / 64 + i
      let poi := part.any (fun w => w.poi) || (fget noPoi s.cxlPoi g && decide (hi - lo < 8))
      { s with
        cxl := wrBytes s.cxl (o + 8 * lo) (wordBytes part)
        cxlPoi := fset noPoi s.cxlPoi g poi }) s

/-- Half of a CXL port that serves an offset in its window, and whether its link is up. -/
def cxlHalf (s : State) (o : Nat) : Nat :=
  if csrFld s (aCxlStat (o / 2 ^ 40)) 61 60 = 1 ∧ o % 2 ^ 40 ≥ 448 * 0x40000000 then 1 else 0

def cxlUp (s : State) (o : Nat) : Bool :=
  decide (csrFld s (aCxlStat (o / 2 ^ 40)) (63 - cxlHalf s o) (63 - cxlHalf s o) = 1)

/-! ## Queues toward memory (R235, R551) -/

/-- The channel group of an HBM line: 4 * stack + line of the page mod 4. -/
def groupOf (s : State) (k : Nat) : Nat := 4 * hbmStack s (keyOff k) + keyOff k / 256 % 16 % 4

def noJobs (_ : Nat) : List MemJob := []
def hbmJobs (s : State) (g : Nat) : List MemJob := fget noJobs s.hbmQ g
def cxlJobs (s : State) (p : Nat) : List MemJob := fget noJobs s.cxlQ p
def setHbmJobs (s : State) (g : Nat) (l : List MemJob) : State := { s with hbmQ := fset noJobs s.hbmQ g l }
def setCxlJobs (s : State) (p : Nat) (l : List MemJob) : State := { s with cxlQ := fset noJobs s.cxlQ p l }

/-- Queue a line access at its channel group or CXL port. -/
def addJob (s : State) (j : MemJob) : State :=
  if keyTier j.addr = 1 then setHbmJobs s (groupOf s j.addr) (hbmJobs s (groupOf s j.addr) ++ [j])
  else setCxlJobs s (keyOff j.addr / 2 ^ 40) (cxlJobs s (keyOff j.addr / 2 ^ 40) ++ [j])

/-! ## Answers (R66, R255, R283) -/

/-- Answer a request at slice f with a packet. -/
def replySlice (s : State) (f : Nat) (q : Packet) : State := injectEdge s (18 + f) q

/-- The gather of a request, if one is open. -/
def gatherOf (s : State) (p : Packet) : Option Gather := s.gathers.find? (fun g => decide (g.pkt.id = p.id))

def dropGather (s : State) (p : Packet) : State :=
  { s with gathers := s.gathers.filter (fun g => decide (g.pkt.id ≠ p.id)) }

/-- Words of load data for a request, which begin at word `start` of it: a row-bus beat for a core of
this device (R255), else gathered until the load is whole and answered with LOAD_DATA (R283). -/
def deliverWords (s : State) (f : Nat) (p : Packet) (start : Nat) (ws : List PWord) : State :=
  if p.yk = 0 then
    addBeats s f [{ core := pSrcCore p, tag := pReqTag p, ctx := pCtx p, gen := pGen p, addr := p.w2.toNat,
                    seed := decide (p.orig = 9), off := 8 * start, words := ws, issue := p.origArg }]
  else match gatherOf s p with
    | none => s
    | some g =>
      let parts := g.parts ++ [(start, ws)]
      let have_ := parts.foldl (fun a x => a + x.2.length) 0
      if have_ ≥ pReqWords p then
        let body := (List.range (pReqWords p)).map (fun i =>
          match parts.find? (fun x => decide (x.1 ≤ i) && decide (i < x.1 + x.2.length)) with
          | some x => x.2.getD (i - x.1) noWord
          | none => noWord)
        replySlice (dropGather s p) f (dataPacket s p body)
      else { s with gathers := s.gathers.map (fun y => if y.pkt.id = p.id then { y with parts := parts } else y) }

/-- A load ends with an error: its status, once. -/
def loadError (s : State) (f : Nat) (p : Packet) (status : Nat) : State :=
  if p.orig = 9 then
    -- a seed fetch that fails lands as a beat without words (R365)
    addBeats s f [{ core := pSrcCore p, tag := pReqTag p, ctx := pCtx p, gen := pGen p, addr := p.w2.toNat,
                    seed := true, off := 0, words := [], issue := 0 }]
  else if p.yk ≠ 0 ∧ (gatherOf s p).isNone then s
  else replySlice (dropGather s p) f (statusPacket s p status)

/-- The place in a request of word `off` of line k. -/
def startOf (p : Packet) (k off : Nat) : Nat := k % 2 ^ 38 * 32 + off - adOff p.w2 / 8

/-! ## Acceptance at the home slice (R249, R551) -/

/-- Lines that a request touches: key, first word in the line, words. -/
def piecesOf (s : State) : Nat → Word → Nat → List (Nat × Nat × Nat)
  | 0, _, _ => []
  | f + 1, a, n =>
    if n = 0 then []
    else
      let off := a.toNat % 256 / 8
      let m := min n (32 - off)
      (lineKey s a, off, m) :: piecesOf s f (a + BitVec.ofNat 64 (8 * m)) (n - m)

/-- The fetch of a line that later requests may wait for (R249). -/
def openFill (s : State) (f k : Nat) : Option Fill :=
  (getSlice s f).fills.find? (fun x => decide (x.addr = k) && !x.fresh && !x.stale)

/-- A load with GRAN fresh of a remote address (R249). -/
def freshLoad (p : Packet) (k : Nat) : Bool := decide (p.gran = 2) && keyRemote k

/-- Bits that become wrong in words of a slice's lines: the line's key, the word, and how many.
(DESIGN CHOICE: assumption 34) -/
def lineUpsets (s : State) (f : Nat) (ups : List (Nat × Nat × Nat)) : State :=
  ups.foldl (fun s u => updSlice s f (fun v => { v with
    lines := v.lines.map (fun l => if l.addr = u.1 then
      { l with flips := fset zeroNat l.flips (u.2.1 % 32) (fget zeroNat l.flips (u.2.1 % 32) + u.2.2) } else l) })) s

/-- Word i of a line, right again or wrong for good. -/
def fixWord (s : State) (f k i : Nat) (w : PWord) : State :=
  updSlice s f (fun v => { v with
    lines := v.lines.map (fun l => if l.addr = k then
      { l with data := l.data.set i w, flips := fset zeroNat l.flips i 0 } else l) })

/-- The check bits of word i of a line that is read: a corrected word counts, an uncorrectable one drops the line, and
what three or more wrong bits give is open (R252).
(DESIGN CHOICE: assumption 20) -/
def wordEcc (f k : Nat) (s : State) (i : Nat) : State :=
  match lineAt s f k with
  | none => s
  | some l =>
    let n := fget zeroNat l.flips i
    let ce := fun (s : State) => satCsrFld s (aGrnEcc f) 63 48 1
    let lost := fun (s : State) => satCsrFld (dropLine s f k) (aGrnEcc f) 47 32 1
    if n = 0 then s
    else if n = 1 then ce (fixWord s f k i (l.data.getD i noWord))
    else if n = 2 then lost s
    else
      let s := { s with free := s.free + 2 }
      let wrong := fixWord s f k i ⟨Config.freeWord (s.free - 1), false⟩
      match Config.freePick (s.free - 2) % 3 with
      | 0 => lost s
      | 1 => ce wrong
      | _ => wrong

/-- The check bits of the words of a line that are read (R252). -/
def lineEcc (s : State) (f k off n : Nat) : State := (List.range n).foldl (fun s i => wordEcc f k s (off + i)) s

/-- The operation of a request on one of its lines; a cached load carries its allocation ways. -/
def opOf (s : State) (f : Nat) (p : Packet) (k off n : Nat) : LineOp :=
  let ws := lineWords p.body (startOf p k off) n
  if pType p = tLOAD then
    .load p off n (if p.gran = 0 ∨ p.gran = 3 then some (waysOf s f (pSrcCore p)) else none)
  else if pType p = tSTORE then .store off ws
  else if pType p = tADD then .add (bits p.w3 19 16) off ws
  else .atomic (pType p - tSWAP) off p.body

/-- The piece of a request needs an access to memory (R551). -/
def needsMem (s : State) (f : Nat) (p : Packet) (k : Nat) : Bool :=
  !keyRemote k && (decide (pType p ≠ tLOAD) || ((lineAt s f k).isNone && (openFill s f k).isNone))

/-- Every channel group a request needs has free entries for all of its lines (R551). -/
def roomForAll (s : State) (f : Nat) (p : Packet) (l : List (Nat × Nat × Nat)) : Bool :=
  let need := (l.filter (fun x => needsMem s f p x.1 && decide (keyTier x.1 = 1))).map (fun x => groupOf s x.1)
  need.all (fun g => decide ((hbmJobs s g).length + (need.filter (fun y => decide (y = g))).length ≤ 512))

/-- Ask memory, or the remote device, for a line (R249). -/
def fetchLine (s : State) (f k id : Nat) (p : Packet) : State :=
  if keyRemote k then
    injectEdge s (18 + f) { mkPacket (mkW0 (k / 2 ^ 40) 0 0 0 0 0 tLOAD 0)
        (mkW1 (ownDev s) 0x7FFF (pCtx p) (pGen p)) (keyAddr k) (reqW3 0 0 0 32) [] 0 with
      orig := 8, origArg := id }
  else addJob s { addr := k, slice := f, fill := some id, op := .load p 0 32 none, pkt := p, resp := false,
                  old := [], time := s.now.toNat }

/-- Open a fetch of a line for an operation (R249). -/
def startFetch (s : State) (f k : Nat) (p : Packet) (op : LineOp) : State :=
  let id := s.nextId
  let s := wrapCsrFld { s with nextId := id + 1 } (aGrnStat f) 31 0 1
  let s := updSlice s f (fun v => { v with
    fills := v.fills ++ [{ id := id, addr := k, fresh := freshLoad p k, stale := false, ops := [op], result := none, time := s.now.toNat }] })
  fetchLine s f k id p

/-- One line of a load: served from the line, merged into the outstanding fetch, or fetched. A fresh load of a remote
line is always fetched anew (R249, R261). -/
def loadPiece (s : State) (f : Nat) (p : Packet) (k off n : Nat) : State :=
  let op := opOf s f p k off n
  if freshLoad p k then startFetch s f k p op
  else match lineAt s f k, openFill s f k with
    | some l, _ =>
      let s := wrapCsrFld (touchLine (blockServed s f) f l) (aGrnStat f) 63 32 1
      deliverWords s f p (startOf p k off) (lineWords l.data off n)
    | none, some x =>
      let s := wrapCsrFld s (aGrnStat f) 63 32 1
      updSlice s f (fun v => { v with
        fills := v.fills.map (fun y => if y.id = x.id then { y with ops := y.ops ++ [op] } else y) })
    | none, none => startFetch s f k p op

/-- Words of a line that an operation writes. -/
def opWrites : LineOp → List Nat
  | .load _ _ _ _ => []
  | .store off ws => (List.range ws.length).map (· + off)
  | .add _ off ws => (List.range ws.length).map (· + off)
  | .atomic _ off _ => [off]

/-- A line after an operation: the words it writes are right again. -/
def lineAfter (l : Line) (op : LineOp) : Line :=
  { l with
    data := applyOp l.data op
    flips := (opWrites op).foldl (fun m i => fset zeroNat m i 0) l.flips }

/-- What an operation does to a slice at once: the line is updated if present, and fetches of the line
that are under way see it in their order. -/
def applyAtSlice (s : State) (f k : Nat) (op : LineOp) : State :=
  let s := match lineAt s f k with
    | some l => touchLine s f (lineAfter l op)
    | none => s
  updSlice s f (fun v => { v with
    fills := v.fills.map (fun y => if y.addr = k then { y with ops := y.ops ++ [op] } else y) })

/-- The write that goes to memory for an operation: its result where the line is present, so that memory
need not be read. A compare-and-swap that fails writes nothing (R264). -/
def throughOp (old : Option Line) (op : LineOp) : LineOp :=
  match old, op with
  | some l, .add _ off ws => .store off (lineWords (applyOp l.data op) off ws.length)
  | some l, .atomic x off _ =>
    .store off (if x = 2 ∧ applyOp l.data op = l.data then [] else lineWords (applyOp l.data op) off 1)
  | _, _ => op

/-- One line of a store, tadd or tatom to a local address. A tatom on a present line is answered with the line's word:
at once for HBM, for CXL when the device has taken the result. -/
def writePiece (s : State) (f : Nat) (p : Packet) (k off n : Nat) : State :=
  let op := opOf s f p k off n
  let line := lineAt s f k
  let s := applyAtSlice s f k op
  let atom := decide (pType p ≥ tSWAP)
  let word := match line with | some l => if atom then lineWords l.data off 1 else [] | none => []
  let s := addJob s { addr := k, slice := f, fill := none, op := throughOp line op, pkt := p
                      resp := decide (keyTier k ≠ 1) || (atom && line.isNone), old := word, time := s.now.toNat }
  if keyTier k = 1 ∧ atom = true ∧ line.isSome = true then replySlice s f { statusPacket s p 0 with body := word } else s

/-- A tadd or tatom to a remote address drops the line, and fetches under way are not kept (R249). -/
def dropForRemote (s : State) (f k : Nat) : State :=
  updSlice (dropLine s f k) f (fun v => { v with
    fills := v.fills.map (fun y => if y.addr = k then { y with stale := true } else y) })

/-- A request for another device that is no load leaves through the yoke (R249). -/
def forwardRemote (s : State) (f : Nat) (p : Packet) : State :=
  injectEdge s (18 + f) { p with w0 := mkW0 (adDev p.w2) 0 0 0 0 (pNflits p) (pType p) 0 }

/-- Accept a request whose lines and room have been checked. -/
def acceptNow (s : State) (f : Nat) (p : Packet) (l : List (Nat × Nat × Nat)) : State :=
  let s := dropPkt s p.id
  if pType p = tLOAD then
    let s := if p.yk ≠ 0 then { s with gathers := s.gathers ++ [{ pkt := p, parts := [] }] } else s
    l.foldl (fun s x => loadPiece s f p x.1 x.2.1 x.2.2) s
  else if !isLocalDev s (adDev p.w2) then
    let s := l.foldl (fun s x =>
      if pType p = tSTORE then applyAtSlice s f x.1 (opOf s f p x.1 x.2.1 x.2.2)
      else dropForRemote s f x.1) s
    forwardRemote s f p
  else
    let s := l.foldl (fun s x => writePiece s f p x.1 x.2.1 x.2.2) s
    if adTier p.w2 = 1 ∧ pType p < tSWAP then replySlice s f (statusPacket s p 0) else s

/-- GRANARY_ACCEPT: the request `id` at its home slice, after bits of lines there have become wrong. The words that it
reads are checked (R252). It waits while a channel group it needs is full; a request for memory that cannot be
reached completes "unreachable". -/
def granaryAccept (id : Nat) (ups : List (Nat × Nat × Nat)) (s : State) : State :=
  match findPkt s id with
  | none => s
  | some p =>
    if !isRequest (pType p) || decide (pDstKind p ≠ 1) || !isLocalDev s (pDstDev p) || !arrived s p
        || !(decide (adTier p.w2 = 1) || decide (adTier p.w2 = 2)) then s
    else
      let f := pDstId p
      let l := piecesOf s 3 p.w2 (pReqWords p)
      let status := if isLocalDev s (adDev p.w2) then
          (if adTier p.w2 = 2 && !cxlUp s (adOff p.w2) then some stUNREACH else none)
        else remoteStatus s (adDev p.w2)
      let s := lineUpsets s f ups
      let s1 := if pType p = tSTORE then s else l.foldl (fun s x => lineEcc s f x.1 x.2.1 x.2.2) s
      match status with
      | some st => if pType p = tLOAD ∧ p.orig = 9 then loadError (dropPkt s id) f p st
          else replySlice (dropPkt s id) f (statusPacket s p st)
      | none => if roomForAll s1 f p l then acceptNow s1 f p l else s

/-- GRANARY_ACCEPT (R551, R249). -/
def execGranaryAccept (id : Nat) (ups : List (Nat × Nat × Nat)) (s : State) : Out := .next (granaryAccept id ups s)

/-! ## Returned lines (R249, R251) -/

/-- The operations of a fetch, in order, over the returned line: loads are served, the others change it. -/
def replayOps (s : State) (f k : Nat) (d : List PWord) : List LineOp → State × List PWord
  | [] => (s, d)
  | .load p off n _ :: l => replayOps (deliverWords s f p (startOf p k off) (lineWords d off n)) f k d l
  | o :: l => replayOps s f k (applyOp d o) l

/-- Ways into which the fetch may allocate. -/
def fillWays : List LineOp → Nat
  | [] => 0
  | .load _ _ _ (some m) :: l => if m ≠ 0 then m else fillWays l
  | _ :: l => fillWays l

/-- Fetches of a line that were opened before fetch `id` no longer leave their data in the slice (R254). -/
def passOlder (s : State) (f k id : Nat) : State :=
  updSlice s f (fun v => { v with
    fills := v.fills.map (fun y => if y.addr = k ∧ y.id < id then { y with stale := true } else y) })

/-- GRANARY_FILL: fetch `id` of slice f has returned; the waiting requests are served. Its data updates the line, or is
allocated, unless the fetch was invalidated or a later one has returned (R249, R254). -/
def granaryFill (f id : Nat) (s : State) : State :=
  match (getSlice s f).fills.find? (fun x => decide (x.id = id)) with
  | none => s
  | some x =>
    match x.result with
    | none => s
    | some (st, ws) =>
      let s := updSlice (blockServed s f) f (fun v => { v with fills := v.fills.filter (fun y => decide (y.id ≠ id)) })
      if st ≠ 0 then
        x.ops.foldl (fun s o => match o with | .load p _ _ _ => loadError s f p st | _ => s) s
      else
        let r := replayOps s f x.addr ws x.ops
        if x.stale then r.1
        else
          let s := passOlder r.1 f x.addr id
          match lineAt s f x.addr with
          | some l => if x.fresh then touchLine s f { l with data := r.2, flips := [] } else s
          | none => if x.fresh then s else allocLine s f x.addr (fillWays x.ops &&& poweredWays s f) r.2

/-- GRANARY_FILL (R249). -/
def execGranaryFill (f id : Nat) (s : State) : Out := .next (granaryFill f id s)

/-! ## Memory accesses performed (R235 to R238, R242, R243) -/

/-- Words off to off + n of the line at HBM offset `o`: only the sectors that hold them are read. -/
def hbmPartRead (s : State) (o off n : Nat) : State × List PWord :=
  let lo := off / 4
  let r := (List.range ((off + n + 3) / 4 - lo)).foldl (fun (a : State × List PWord) i =>
    let r := sectorRead a.1 (o / 32 + lo + i)
    (r.1, a.2 ++ r.2)) (s, [])
  (r.1, lineWords r.2 (off - 4 * lo) n)

/-- Perform a job at HBM.
(DEDUCED: assumption 32) -/
def hbmPerform (s : State) (j : MemJob) : State :=
  let o := keyOff j.addr
  match j.op with
  | .load _ _ _ _ =>
    let r := hbmLineRead s o
    match j.fill with
    | some id => fillAnswer r.1 id 0 r.2
    | none => r.1
  | .store off ws => hbmLineWrite s o off ws
  | .add elt off ws =>
    let r := hbmPartRead s o off ws.length
    hbmLineWrite r.1 o off (List.zipWith (taddPW elt) r.2 ws)
  | .atomic op off ws =>
    let r := hbmPartRead s o off 1
    let new := r.2.map (fun m => atomPW op m ws)
    let s := if op = 2 ∧ new = r.2 then r.1 else hbmLineWrite r.1 o off new
    if j.resp then replySlice s j.slice { statusPacket s j.pkt 0 with body := r.2 } else s

/-- Job i of a queue, when no earlier job is for the same line.
(DEDUCED: assumption 32) -/
def jobReady (l : List MemJob) (i : Nat) : Option MemJob :=
  match l[i]? with
  | none => none
  | some j => if (l.take i).any (fun x => decide (x.addr = j.addr)) then none else some j

/-- HBM_LINE_DONE: channel group g performs job i of its queue, after code symbols of the sectors in `ups` have become
wrong (R236).
(DESIGN CHOICE: assumption 34) -/
def hbmLineDone (g i : Nat) (ups : List (Nat × Nat)) (s : State) : State :=
  match jobReady (hbmJobs s g) i with
  | none => s
  | some j => hbmPerform (setHbmJobs (hbmUpsets (blockServed s (64 + g)) ups) g ((hbmJobs s g).eraseIdx i)) j

/-- HBM_LINE_DONE (R235). -/
def execHbmLineDone (g i : Nat) (ups : List (Nat × Nat)) (s : State) : Out :=
  .next (hbmLineDone g i ups s)

/-- Sectors of a stack of 48 GiB. -/
def stackSectors : Nat := 0x60000000

/-- Tier offset of sector q of stack k (R233). -/
def sectorTier (s : State) (k q : Nat) : Nat :=
  let b := 32 * q
  let idx := if k < 6 then k else k - 6
  (if k < 6 then 0 else hbmG s) + (b / 4096 * hbmN s + idx) * 4096 + b % 4096

/-- The power-on time from which the scrubber of stack k may read its next sector: a pass takes PERIOD_H hours, its
sectors evenly spaced (R238).
(DEDUCED: assumption 32) -/
def scrubDue (s : State) (k : Nat) : Nat :=
  fget zeroNat s.scrubT k
    + fget zeroNat s.scrubPos k * (csrFld s (aHbmScrub k) 15 0 * 3600000000000) / stackSectors

/-- HBM_PATROL_SCRUB: the scrubber of a powered stack k reads its next sector, when it is due, in an idle command slot;
a pass over the stack counts and the next begins a period later (R238). Code symbols of the sectors in `ups` have become
wrong before.
(DEDUCED: assumption 32) -/
def patrolScrub (k : Nat) (ups : List (Nat × Nat)) (s : State) : State :=
  let q := fget zeroNat s.scrubPos k
  let o := sectorTier s k q
  if decide (k % 6 ≥ hbmN s) || decide (k ≥ 12) || decide (csrFld s (aHbmScrub k) 63 63 = 0)
      || decide (csrFld s aPwrDomain (24 + k / 6) (24 + k / 6) = 0)
      || !(hbmJobs s (4 * k + o / 256 % 16 % 4)).isEmpty || decide (s.stw.upNs < scrubDue s k) then s
  else
    let s := (sectorRead (hbmUpsets s ups) (o / 32)).1
    let q' := (q + 1) % stackSectors
    let s := { s with scrubPos := fset zeroNat s.scrubPos k q' }
    if q' = 0 then
      let per := csrFld s (aHbmScrub k) 15 0 * 3600000000000
      wrapCsrFld { s with scrubT := fset zeroNat s.scrubT k (max s.stw.upNs (fget zeroNat s.scrubT k + per)) }
        (aHbmScrub k) 31 16 1
    else s

/-- HBM_PATROL_SCRUB (R238). -/
def execHbmPatrolScrub (k : Nat) (ups : List (Nat × Nat)) (s : State) : Out := .next (patrolScrub k ups s)

/-- Answer a CXL request whose access ended: an error at once and once, success with its last line. -/
def cxlReply (s : State) (p : Nat) (j : MemJob) (status : Nat) (old : List PWord) : State :=
  if !j.resp then s
  else
    let mine := fun (x : MemJob) => decide (x.pkt.id = j.pkt.id) && x.resp
    if status ≠ 0 then
      let s := setCxlJobs s p ((cxlJobs s p).map (fun x => if mine x then { x with resp := false } else x))
      replySlice s j.slice (statusPacket s j.pkt status)
    else if (cxlJobs s p).any mine then s
    else replySlice s j.slice { statusPacket s j.pkt 0 with body := old }

/-- Perform a job at its CXL device.
(DEDUCED: assumption 32) -/
def cxlPerform (s : State) (p : Nat) (j : MemJob) (poi : List Nat) : State :=
  let o := keyOff j.addr
  match j.op with
  | .load _ _ _ _ =>
    let r := cxlLineRead s o 0 32 poi
    match j.fill with
    | some id => fillAnswer r.1 id 0 r.2
    | none => r.1
  | .store off ws => cxlReply (cxlLineWrite s o off ws) p j 0 j.old
  | .add elt off ws =>
    let r := cxlLineRead s o off ws.length poi
    cxlReply (cxlLineWrite r.1 o off (List.zipWith (taddPW elt) (lineWords r.2 off ws.length) ws)) p j 0 []
  | .atomic op off ws =>
    let r := cxlLineRead s o off 1 poi
    let old := lineWords r.2 off 1
    let new := old.map (fun m => atomPW op m ws)
    let s := if op = 2 ∧ new = old then r.1 else cxlLineWrite r.1 o off new
    cxlReply s p j 0 old

/-- CXL_RESPONSE: job i of port p has its response; `poi` lists the granules of its line that the device
returns poisoned (R242). -/
def cxlResponse (p i : Nat) (poi : List Nat) (s : State) : State :=
  match jobReady (cxlJobs s p) i with
  | none => s
  | some j =>
    if cxlUp s (keyOff j.addr) then cxlPerform (setCxlJobs (blockServed s (8 + p)) p ((cxlJobs s p).eraseIdx i)) p j poi else s

/-- CXL_RESPONSE (R242). -/
def execCxlResponse (p i : Nat) (poi : List Nat) (s : State) : Out := .next (cxlResponse p i poi s)

/-- What a write that ends "unreachable" leaves at the device: done once or not at all, which is open. -/
def cxlMaybe (s : State) (j : MemJob) : State :=
  let pick := Config.freePick s.free % 2
  let s := { s with free := s.free + 1 }
  if pick = 0 then s
  else
    let o := keyOff j.addr
    match j.op with
    | .load _ _ _ _ => s
    | .store off ws => cxlLineWrite s o off ws
    | .add elt off ws =>
      cxlLineWrite s o off (List.zipWith (taddPW elt) (lineWords (cxlLineRead s o 0 0 []).2 off ws.length) ws)
    | .atomic op off ws =>
      cxlLineWrite s o off ((lineWords (cxlLineRead s o 0 0 []).2 off 1).map (fun m => atomPW op m ws))

/-- The slice forgets a write that has ended "unreachable": it drops the line, and fetches under way do not see the
write.
(DEDUCED: assumption 32) -/
def forgetWrite (s : State) (j : MemJob) : State :=
  updSlice (dropLine s j.slice j.addr) j.slice (fun v => { v with
    fills := v.fills.map (fun y => if y.addr = j.addr then { y with ops := y.ops.erase j.op, stale := true } else y) })

/-- A CXL access ends "unreachable" (R243). -/
def cxlFail (s : State) (p : Nat) (j : MemJob) : State :=
  match j.fill with
  | some id => fillAnswer s id stUNREACH []
  | none => cxlReply (cxlMaybe (forgetWrite s j) j) p j stUNREACH []

/-- CXL_TIMEOUT: no response after 100 µs of device time (R243). -/
def cxlTimeout (p i : Nat) (s : State) : State :=
  match (cxlJobs s p)[i]? with
  | none => s
  | some j =>
    if s.now.toNat ≥ j.time + 100000 then
      cxlFail (satCsrFld (setCxlJobs s p ((cxlJobs s p).eraseIdx i)) (aCxlErr p) 47 32 1) p j
    else s

/-- CXL_TIMEOUT (R243). -/
def execCxlTimeout (p i : Nat) (s : State) : Out := .next (cxlTimeout p i s)

/-- CXL_LINK_DOWN: the link, or half h of it, of port p goes down (R243). -/
def cxlLinkDown (p h : Nat) (s : State) : State :=
  if csrFld s (aCxlStat p) (63 - h % 2) (63 - h % 2) = 0 then s
  else
    let on := fun (j : MemJob) => decide (cxlHalf s (keyOff j.addr) = h % 2)
    let l := (cxlJobs s p).filter on
    let s := satCsrFld (setCsrFld s (aCxlStat p) (63 - h % 2) (63 - h % 2) 0) (aCxlErr p) 31 16 1
    let s := setCxlJobs s p ((cxlJobs s p).filter (fun j => !on j))
    l.foldl (fun (a : State × List Nat) j =>
      if a.2.contains j.pkt.id && j.fill.isNone then (cxlMaybe (forgetWrite a.1 j) j, a.2)
      else (cxlFail a.1 p j, j.pkt.id :: a.2)) (s, []) |>.1

/-- CXL_LINK_DOWN (R243). -/
def execCxlLinkDown (p h : Nat) (s : State) : Out := .next (cxlLinkDown p h s)

/-- CXL_LINK_RETRAIN: the steward brings a link or half with mapped memory up again (R243). -/
def cxlRetrain (p h : Nat) (s : State) : State :=
  let st := csrGet s (aCxlStat p)
  let mode := bits st 61 60
  let cap := if h % 2 = 0 then bits st 9 0 else bits st 19 10
  if decide (p < 4) && decide (mode = 1 ∨ mode = 0 ∧ h % 2 = 0) && decide (cap ≠ 0)
      && decide (csrFld s aPwrDomain 28 28 = 1) then
    setCsrFld s (aCxlStat p) (63 - h % 2) (63 - h % 2) 1
  else s

/-- CXL_LINK_RETRAIN (R243). -/
def execCxlLinkRetrain (p h : Nat) (s : State) : Out := .next (cxlRetrain p h s)

/-! ## Row bus (R256) -/

/-- Bytes waiting in a core's landing buffer. -/
def landUsed (k : Core) : Nat := k.landBuf.foldl (fun a b => a + 8 * b.words.length) 0

/-- The seed buffer of a core holds 4 chunks in flight; a beat of one lands in it (R363, R364). -/
def seedBeat (s : State) (b : Beat) : State :=
  updCore s b.core (fun k =>
    match k.seeding with
    | none => k
    | some v =>
      if v.gen ≠ b.gen ∨ v.ctx ≠ b.ctx then k
      else { k with landBuf := k.landBuf ++ [b] })

/-- The next slice of a column on the way to the field row of a core (R255). -/
def nextSlice (s : State) (f c : Nat) : Nat :=
  let row := physOf s (plotOf c) / 42 / 14
  if f / 2 < row then f + 2 else if row < f / 2 then f - 2 else f

/-- ROW_BUS_BEAT: beat i of slice f moves over a crosspath link toward the slice of its core's field row (R255), and that
slice sends it to the core while the landing buffer has 256 B free; a beat of
another context or generation, or of an earlier issue of the request, is dropped (R207, R256, R377). -/
def rowBusBeat (f i : Nat) (s : State) : State :=
  match (getSlice s f).beats[i]? with
  | none => s
  | some b =>
    let drop := updSlice s f (fun v => { v with beats := v.beats.eraseIdx i })
    let k := getCore s b.core
    let g := nextSlice s f b.core
    if g ≠ f then updSlice drop g (fun v => { v with beats := v.beats ++ [b] })
    else if b.seed then seedBeat drop b
    else if b.ctx ≠ coreCtx k ∨ b.gen ≠ coreGen k then staleResp drop b.core
    else match reqOf k b.tag with
      | none => drop
      | some r =>
        if r.addr.toNat ≠ b.addr ∨ r.status.isSome ∨ r.tries ≠ b.issue then drop
        else if landUsed k ≤ 768 then updCore drop b.core (fun k => { k with landBuf := k.landBuf ++ [b] })
        else s

/-- ROW_BUS_BEAT (R256). -/
def execRowBusBeat (f i : Nat) (s : State) : Out := .next (rowBusBeat f i s)

/-! ## Invalidation (R253) -/

/-- Drop lines in all slices; a fetch of such a line that is under way is served but not kept. -/
def dropLines (s : State) (hit : Nat → Bool) : State :=
  (List.range 6).foldl (fun s f => updSlice s f (fun v => { v with
    lines := v.lines.filter (fun l => !hit l.addr)
    fills := v.fills.map (fun y => if hit y.addr then { y with stale := true } else y) })) s

/-- A write of GRN_INV: PAGE and NPAGES_M1; either form of a local address names its lines (R231).
(DEDUCED: assumption 33) -/
def grnInv (s : State) (v : Word) : State :=
  let page := bits v 63 12
  let key0 := lineKey s (BitVec.ofNat 64 (page * 4096))
  dropLines s (fun k => decide (key0 ≤ k) && decide (k < key0 + 16 * (bits v 11 0 + 1)))

/-- GRN_INV (R253). -/
def execGrnInv (_field : Nat) (v : Word) (s : State) : Out := .next (grnInv s v)

/-- A write of GRN_INV_ALL with GO.
(DEDUCED: assumption 33) -/
def grnInvAll (s : State) (v : Word) : State := if bit v 0 then dropLines s keyRemote else s

/-- GRN_INV_ALL (R253). -/
def execGrnInvAll (_field : Nat) (v : Word) (s : State) : Out := .next (grnInvAll s v)

/-! ## Access by the host port and the steward (R250) -/

/-- Perform every queued access of a line in order. -/
def settleLine (s : State) (k : Nat) : State :=
  let mine := fun (j : MemJob) => decide (j.addr = k)
  if keyTier k = 1 then
    let g := groupOf s k
    let l := (hbmJobs s g).filter mine
    l.foldl (fun s j => hbmPerform s j) (setHbmJobs s g ((hbmJobs s g).filter (fun j => !mine j)))
  else
    let p := keyOff k / 2 ^ 40
    let l := (cxlJobs s p).filter mine
    l.foldl (fun s j => cxlPerform s p j []) (setCxlJobs s p ((cxlJobs s p).filter (fun j => !mine j)))

/-- Home slice of a local line. -/
def homeOf (s : State) (k : Nat) : Nat :=
  if keyTier k = 1 then stackSlice (hbmStack s (keyOff k)) else portSlice (keyOff k / 2 ^ 40)

/-- Words of a local line through its home slice. -/
def lineReadNow (s : State) (k off n : Nat) : State × List PWord :=
  let s := settleLine s k
  let s := lineEcc s (homeOf s k) k off n
  match lineAt s (homeOf s k) k with
  | some l => (s, lineWords l.data off n)
  | none =>
    if keyTier k = 1 then hbmPartRead s (keyOff k) off n
    else
      let r := cxlLineRead s (keyOff k) off n []
      (r.1, lineWords r.2 off n)

/-- Write words of a local line through its home slice. -/
def lineWriteNow (s : State) (k off : Nat) (ws : List PWord) : State :=
  let s := applyAtSlice (settleLine s k) (homeOf s k) k (.store off ws)
  if keyTier k = 1 then hbmLineWrite s (keyOff k) off ws else cxlLineWrite s (keyOff k) off ws

/-- Read n words at a local team address of tier 01 or 10. -/
def memReadWords (s : State) (a : Word) (n : Nat) : State × List PWord :=
  (piecesOf s (n + 2) a n).foldl (fun (x : State × List PWord) y =>
    let r := lineReadNow x.1 y.1 y.2.1 y.2.2
    (r.1, x.2 ++ r.2)) (s, [])

/-- Write words at a local team address of tier 01 or 10. -/
def memWriteWords (s : State) (a : Word) (ws : List PWord) : State :=
  ((piecesOf s (ws.length + 2) a ws.length).foldl (fun (x : State × List PWord) y =>
    (lineWriteNow x.1 y.1 y.2.1 (x.2.take y.2.2), x.2.drop y.2.2)) (s, ws)).1

/-- The bytes of words, with the poison of each byte's word. -/
def byteMarks (l : List PWord) : List (Byte × Bool) :=
  l.flatMap (fun w => (natToBytes w.val.toNat 8).map (fun b => (b, w.poi)))

/-- Read n bytes at a local team address of tier 01 or 10: the bytes, and whether any word is poisoned. -/
def memReadBytes (s : State) (a : Word) (n : Nat) : State × List Byte × Bool :=
  let lead := a.toNat % 8
  let r := memReadWords s (a - BitVec.ofNat 64 lead) ((lead + n + 7) / 8)
  let l := ((byteMarks r.2).drop lead).take n
  (r.1, l.map (·.1), l.any (·.2))

/-- Bytes back to words. -/
def bytesWords : List (Byte × Bool) → List PWord
  | (a, p) :: (b, _) :: (c, _) :: (d, _) :: (e, _) :: (f, _) :: (g, _) :: (h, _) :: l =>
    ⟨BitVec.ofNat 64 (bytesToNat [a, b, c, d, e, f, g, h]), p⟩ :: bytesWords l
  | _ => []

/-- Write bytes at a local team address of tier 01 or 10: partial words at the ends are merged. -/
def memWriteBytes (s : State) (a : Word) (bs : List Byte) : State :=
  let lead := a.toNat % 8
  let a0 := a - BitVec.ofNat 64 lead
  let n := (lead + bs.length + 7) / 8
  if lead = 0 ∧ bs.length % 8 = 0 then
    memWriteWords s a (bytesWords (bs.map (fun b => (b, false))))
  else
    let r := memReadWords s a0 n
    let old := byteMarks r.2
    let new := old.take lead ++ bs.map (fun b => (b, false)) ++ old.drop (lead + bs.length)
    -- a word takes the poison of the bytes it keeps
    let ws := (bytesWords new).zip r.2
    let keep := fun (i : Nat) (w : PWord × PWord) =>
      let part := decide (8 * i < lead) || decide (8 * i + 8 > lead + bs.length)
      if part && w.2.poi then (⟨0#64, true⟩ : PWord) else ⟨w.1.val, false⟩
    memWriteWords r.1 a0 ((List.range n).map (fun i => keep i (ws.getD i (noWord, noWord))))

end Sys2Proof.Machine
end

