-- ==== Sys2Proof/Machine/CoreRegs.lean ====
section
/-! DEFINITION. The registers of a core window and of a plot window: what a read returns, with the counts
that are views of the state, what a write stores, and what a clearing read clears (R12, R516). -/

namespace Sys2Proof.Machine

def b2n (b : Bool) : Nat := if b then 1 else 0

/-- Set a field. -/
def put (w : Word) (hi lo v : Nat) : Word := setBits w hi lo v

/-! ## Views of a core's state -/

/-- CORE_STATE: the busy bits are the running firings.
(DESIGN CHOICE: assumption 11) -/
def stateView (k : Core) : Word :=
  let th := (List.range 4).foldl (fun a t => a + b2n (getThread k t).firing.isSome * 2 ^ t) 0
  let ta := (List.range 16).foldl (fun a n => a + b2n (decide (taskState k n = 2)) * 2 ^ n) 0
  put (put (creg k oState) 19 16 th) 15 0 ta

/-- CORE_MUNIT.
(DESIGN CHOICE: assumption 11) -/
def munitView (k : Core) : Word :=
  put (put (put (put (put (put (put (put (put 0#64 11 10 k.mq.length) 9 9 (b2n k.mma.isSome)) 8 8
    (b2n k.drain.isSome)) 7 7 (b2n k.tileB.owner.isSome)) 6 5 (k.tileB.owner.getD 0)) 4 4
    (b2n k.tileB.int8)) 3 3 (b2n k.tileA.owner.isSome)) 2 1 (k.tileA.owner.getD 0)) 0 0 (b2n k.tileA.int8)

/-- CORE_QSTAT_n.
(DESIGN CHOICE: assumption 11) -/
def qstatView (k : Core) (q : Nat) : Word :=
  put (put (put (put 0#64 63 63 (b2n (getQueue k q).spill)) 45 32 (extCount k q)) 31 16
    (if qKind k q = 4 then available k q else 0)) 4 0 (getQueue k q).buf.length

/-- CORE_STALL_t_c: IDLE is the cycles since the base that no other counter has (R77).
(DESIGN CHOICE: assumption 11) -/
def stallView (s : State) (c t i : Nat) : Word :=
  let k := getCore s c
  if i = 1 then
    let others := (List.range 16).foldl (fun a j => if j = 1 then a else a + (creg k (oStall t j)).toNat) 0
    BitVec.ofNat 64 (coreCycles s c - fget zeroNat k.stallBase t - others) + creg k (oStall t 1)
  else creg k (oStall t i)

/-- FUR_PTR.
(DESIGN CHOICE: assumption 11) -/
def furPtrView (k : Core) : Word :=
  let w := (List.range 4).foldl (fun w d => put w (8 * d + 7) (8 * d) (getLink k d).ptr) 0#64
  (List.range 4).foldl (fun w i => put w (3 * i + 34) (3 * i + 32) (getPass k i).length) w

/-- Unacknowledged sends of thread t. -/
def unackOf (k : Core) (t : Nat) : Nat := (k.sends.filter (fun r => decide (r.thread = t))).length

/-- DRV_ORDER.
(DESIGN CHOICE: assumption 11) -/
def drvOrderView (k : Core) : Word :=
  (List.range 4).foldl (fun w t => put w (5 * t + 24) (5 * t + 20) (unackOf k t))
    (put (creg k oOrder) 4 0 (ordersInUse k).length)

/-- A read of core-window offset o, without clearing. -/
def coreView (s : State) (c o : Nat) : Word :=
  let k := getCore s c
  if o = oState then stateView k
  else if o = oMunit then munitView (retireEngine (coreCycles s c) k)
  else if 0x40 ≤ o ∧ o < 0x80 then tqStatView k ((o - 0x40) / 8)
  else if 0x380 ≤ o ∧ o < 0x400 then qstatView k ((o - 0x380) / 8)
  else if 0x800 ≤ o ∧ o < 0xA00 then stallView s c ((o - 0x800) / 0x80) ((o - 0x800) % 0x80 / 8)
  else if o = oStallClr then 0#64
  else if o = oFurStat then put (creg k o) 63 63 (b2n (coreQuiet s c))
  else if o = oFurPtr then furPtrView k
  else if 0x2180 ≤ o ∧ o < 0x2200 then
    put (creg k o) 31 16 ((getQueue k ((o - 0x2180) / 8)).silo.length
      + (getQueue k ((o - 0x2180) / 8)).siloReading)
  else if o = oOrder then drvOrderView k
  else creg k o

/-- The bits that a clearing read of a core-window offset clears (rc fields). -/
def coreRc (o : Nat) : Word :=
  if 0x40 ≤ o ∧ o < 0x80 then 0x000000FFFFFF0000#64
  else if o = oMconv then BitVec.allOnes 64
  else if o = oSpdEcc then 0xFFFFFFFF80000000#64
  else if o = oSpdStat then 0xFFFF#64
  else if o = oFurStat then 0xFFFFFFFF#64
  else if o = oFurProbe then BitVec.allOnes 64
  else if o = oMsgErr then BitVec.allOnes 64
  else if o = oOrder then 0xFFFF000000000000#64
  else if 0x5100 ≤ o ∧ o < 0x5180 then 0xFFFFFFFF#64
  else 0#64

/-- Read core-window offset o: the value, and the state after the clears. -/
def coreRead (s : State) (c o : Nat) (clear : Bool) : State × Word :=
  (if clear then updCore s c (fun k => setCreg k o (creg k o &&& ~~~coreRc o)) else s, coreView s c o)

/-! ## Writes -/

/-- The stored limits of CORE_TQ_LIMIT: 0 becomes 1, above 32 becomes 32. -/
def tqLimitWord (v : Word) : Word :=
  (List.range 8).foldl (fun w k => put w (6 * k + 5) (6 * k) (max 1 (min 32 (bits v (6 * k + 5) (6 * k)))))
    0#64

/-- A slot of CORE_TASK_n_IN or _OUT stores V, COUNT and QUEUE. -/
def taskSlotMask : Word := 0x9F0F9F0F9F0F9F0F#64

/-- A write of FUR_CTL (R158, R182, R185). -/
def writeFurCtl (s : State) (c : Nat) (v : Word) : State :=
  let was := cfld (getCore s c) oFurCtl 63 63
  let s := updCore s c (fun k =>
    setCfld (setCfld (setCfld k oFurCtl 62 62 (bits v 62 62)) oFurCtl 60 60 (bits v 60 60)) oFurCtl 47 32
      (max 16 (bits v 47 32)))
  if bit v 61 then discardDrain s c
  else if bit v 63 && decide (was = 0) then startSwitch s c
  else if bit v 63 then s
  else updCore s c (fun k => setCfld k oFurCtl 63 63 0)

/-- A write of CORE_AW_n_BASE: GRAN 0b11 stores EN 0. -/
def awBaseWord (v : Word) : Word :=
  let w := v &&& 0xFFC03FFFFFFFF000#64
  if bits w 59 58 = 3 then put w 63 63 0 else w

/-- Clear the hs bits that a write names with one. -/
def hsClear (k : Core) (o : Nat) (mask v : Word) : Core := setCreg k o (creg k o &&& ~~~(v &&& mask))

/-- A write of core-window offset o by the steward or by seeding, with the checks of the register.
(DEDUCED: assumption 30) -/
def coreWrite (s : State) (c o : Nat) (v : Word) : State :=
  let up := updCore s c
  if o = oFault then (if bit v 63 then up (fun k => setCreg k oFault 0#64) else s)
  else if o = oTqLimit then up (fun k => setCreg k o (tqLimitWord v))
  else if o = oMcfg then up (fun k => setCreg k o (v &&& 0x3FFFFFFF00000003#64))
  else if 0x100 ≤ o ∧ o < 0x300 then
    if o % 0x20 = 0 then up (fun k => writeTaskCfg k ((o - 0x100) / 0x20) v)
    else if o % 0x20 = 0x18 then s
    else up (fun k => setCreg k o (v &&& taskSlotMask))
  else if 0x300 ≤ o ∧ o < 0x380 then up (fun k => extMismatch (setCreg k o (v &&& 0xFF00FFFF00000000#64)))
  else if 0x400 ≤ o ∧ o < 0x500 then
    up (fun k => setCreg k o (if o % 16 = 0 then awBaseWord v else v &&& 0x00003FFFFFFFF000#64))
  else if o = oStallClr then clearStalls s c (bits v 3 0)
  else if o = oFurCtl then writeFurCtl s c v
  else if o = oFurStat then up (fun k => hsClear k o 0x7800000000000000#64 v)
  else if o = oFurSilo then up (fun k => setCreg k o (v &&& 0x83FFFFFFFFFFF000#64))
  else if 0x2100 ≤ o ∧ o < 0x2180 then up (fun k => setCreg k o (v &&& 0xC0000000000FFFFF#64))
  else if 0x2800 ≤ o ∧ o < 0x3000 then up (fun k => writeSched k ((o - 0x2800) / 8) v)
  else if 0x4000 ≤ o ∧ o < 0x4100 then
    if o % 16 = 0 then up (fun k => extMismatch (writeRegion k ((o - 0x4000) / 16) v)) else s
  else if o = oSpdScrub then
    up (fun k => setCreg k o (put (put (creg k o) 63 63 (bits v 63 63)) 15 0 (max 16 (bits v 15 0))))
  else if o = oSpdStat then up (fun k => hsClear k o 0xC000000000000000#64 v)
  else if 0x5200 ≤ o ∧ o < 0x5240 then
    if o % 16 = 0 then up (fun k => setCreg (setCreg k o (v &&& 0xC000FFFF0000FFFF#64)) (o + 8) 0#64) else s
  else s

/-! ## Plot window -/

/-- Flits held at the router of plot j under the other epoch than its injection epoch. -/
def oldFlits (s : State) (j : Nat) : Nat :=
  (s.net.filter (fun p => decide (p.at_ = physOf s j) && decide (pEpoch p ≠ injEpoch s j))).foldl
    (fun a p => a + flitsOf p) 0

/-- A read of plot-window offset o, without clearing.
(DESIGN CHOICE: assumption 11) -/
def plotView (s : State) (j o : Nat) : Word :=
  let p := getPlot s j
  if o = oPlotEpoch then
    put (put (put (preg p o) 62 62 (b2n s.ver1.valid)) 61 61 (b2n s.ver0.valid)) 15 0 (oldFlits s j)
  else if o = oPlotOrder then put (put (preg p o) 38 32 p.rcv.length) 20 16 p.window.length
  else preg p o

/-- rc fields of the plot window. -/
def plotRc (o : Nat) : Word :=
  if o = oRouteStat then BitVec.allOnes 64
  else if o = oPlotOrder then 0xFFFF00000000FFFF#64
  else if o = oSheafStat then 0x0000FFFFFFFFFFFF#64
  else 0#64

def plotRead (s : State) (j o : Nat) (clear : Bool) : State × Word :=
  (if clear then updPlot s j (fun p => setPreg p o (preg p o &&& ~~~plotRc o)) else s, plotView s j o)

/-- A write of plot-window offset o by the steward. The steward keeps NCHILD at 0 to 4 (values 5 to 7 are
rejected). -/
def plotWrite (s : State) (j o : Nat) (v : Word) : State :=
  let up := fun (w : Word) => updPlot s j (fun p => setPreg p o w)
  if o = oPlotCtl then
    up (put (put (put (put 0#64 63 48 (max 16 (bits v 63 48))) 47 40 (max 8 (bits v 47 40))) 39 32
      (bits v 39 32)) 31 16 (max 20 (bits v 31 16)))
  else if 0x100 ≤ o ∧ o < 0x300 then
    if o % 16 = 0 then (if bits v 60 58 > 4 then s else up (v &&& 0xFFFFFFFFF3FFF800#64))
    else if o % 16 = 8 then up (v &&& 0x07FFFFFFFFFFFFFF#64)
    else s
  else s

end Sys2Proof.Machine
end

