-- ==== Sys2Proof/Machine/Seams.lean ====
section
/-! DEFINITION. Seam lane groups: the sweep of their delay lines, capture phase and window, the margin of their phase
monitors, their hold for recalibration (R151, R153, R389, R390). -/

namespace Sys2Proof.Machine

/-- The fields on the two sides of a seam lane group.
(DESIGN CHOICE: assumption 56) -/
def seamFields (g : Nat) : Nat × Nat :=
  if g < 42 then (2 * (g / 14), 2 * (g / 14) + 1)
  else (2 * ((g - 42) / 42) + (g - 42) % 42 / 21, 2 * ((g - 42) / 42) + 2 + (g - 42) % 42 / 21)

/-- The physical plot on the sending side of one direction of a group: `back` is the direction to the north or west.
(DESIGN CHOICE: assumption 56) -/
def seamPlot (g : Nat) (back : Bool) : Nat :=
  if g < 42 then 42 * g + 20 + b2n back else 42 * (13 + b2n back + 14 * ((g - 42) / 42)) + (g - 42) % 42

def getCal (s : State) (g : Nat) : SeamCal := fget (fun _ => seamCal0) s.seamCal g
def updCal (s : State) (g : Nat) (f : SeamCal → SeamCal) : State :=
  { s with seamCal := fset (fun _ => seamCal0) s.seamCal g (f (getCal s g)) }

/-- Taps between the capture phase and the nearer edge of the window (R390). -/
def calMargin (c : SeamCal) : Nat := min (c.phase - c.lo) (c.hi - c.phase)

/-- CLK_SEAM.MIN_MARGIN: the lowest margin of the calibrated groups that are not fenced (R390). -/
def minMargin (s : State) : Nat :=
  let l := (List.range 126).filter (fun g => decide ((getCal s g).hi ≠ 0)
    && decide (fget zeroNat s.seams g = 0 ∨ fget zeroNat s.seams g = 3))
  let m := l.map (fun g => calMargin (getCal s g))
  m.foldl min (m.headD 0)

/-- CLK_SEAM.FENCED counts the fenced groups. -/
def refreshSeams (s : State) : State :=
  setCsrFld (setCsrFld s aClkSeam 29 24 (minMargin s)) aClkSeam 47 40
    (s.seams.filter (fun e => decide (e.2 = 1 ∨ e.2 = 2))).length

/-- A group's state: 0 in use, 1 fenced after a failed calibration, 2 fenced while its sides differ in frequency, 3 held
for recalibration, 4 failed and used by no logical link. -/
def setSeam (s : State) (g v : Nat) : State := refreshSeams { s with seams := fset zeroNat s.seams g v }

/-- The longest run of correct taps of a sweep: its first and last tap; the first of several.
(DESIGN CHOICE: assumption 56) -/
def tapRun (w : Word) : Option (Nat × Nat) :=
  let run := fun (a : Nat × Option (Nat × Nat)) (t : Nat) =>
    if bit w t then
      (a.1 + 1, match a.2 with
        | some b => if a.1 > b.2 - b.1 then some (t - a.1, t) else some b
        | none => some (t, t))
    else (0, a.2)
  ((List.range 64).foldl run (0, none)).2

/-- The window of a sweep that passes: at least 16 taps (R389). -/
def sweepWindow (w : Word) : Option (Nat × Nat) :=
  match tapRun w with
  | some b => if b.2 + 1 - b.1 ≥ 16 then some b else none
  | none => none

/-- The sweeps of a group: one that is not listed finds every tap correct.
(DESIGN CHOICE: assumption 56) -/
def sweepOf (l : List Sweep) (g : Nat) : Sweep :=
  (l.find? (fun x => decide (x.group = g))).getD { group := g, back := false, taps := [BitVec.allOnes 64] }

/-- What attempt i of some sweeps finds: a tap is correct only if a sweep was made. -/
def sweepTry (x : Sweep) (i : Nat) : Word := x.taps.getD i 0#64

/-- The capture phase goes to the middle of a window (R389). -/
def setWindow (s : State) (g : Nat) (b : Nat × Nat) : State :=
  refreshSeams (updCal s g (fun c => { c with lo := b.1, hi := b.2, phase := (b.1 + b.2) / 2, due := 0 }))

/-- Up to n attempts from attempt i on: each one that fails counts; whether one has passed. -/
def calibrate (g : Nat) (x : Sweep) : Nat → Nat → State → State × Bool
  | 0, _, s => (s, false)
  | n + 1, i, s =>
    match sweepWindow (sweepTry x i) with
    | some b => (setWindow s g b, true)
    | none => calibrate g x n (i + 1) (satCsrFld s aClkSeam 15 0 1)

/-- The phase monitor finds the edges of a group's window: a margin below 7 taps asks for a recalibration at the next
swath boundary (R153, R390). -/
def seamMonitor (s : State) (g lo hi : Nat) : State :=
  if (getCal s g).hi = 0 then s
  else
  let s := updCal s g (fun c => { c with lo := min lo c.phase, hi := max hi c.phase })
  let low := decide (calMargin (getCal s g) < 7)
  refreshSeams (updCal s g (fun c => { c with due := if low && decide (c.due = 0) then 1 + s.swathNow else c.due }))

/-- At a boundary the groups that wait for a recalibration are held (R153). -/
def holdSeams (s : State) : State :=
  (List.range 126).foldl (fun s g =>
    if (getCal s g).due ≠ 0 ∧ fget zeroNat s.seams g = 0 then
      updCal (setSeam s g 3) g (fun c => { c with due := 0, heldAt := cycles s (seamFields g).1 })
    else s) s

end Sys2Proof.Machine
end

