-- ==== Sys2Proof/Machine/HostPort.lean ====
section
/-! DEFINITION. The host port below its operations: frames and flow control (R310 to R313), transport
contexts, their acknowledgement, retransmission and timers (R318 to R325). -/

namespace Sys2Proof.Machine

/-! ## Functions and transport contexts -/

def getFun (s : State) (n : Nat) : Fun := fget fun0 s.funs n
def setFun (s : State) (n : Nat) (v : Fun) : State := { s with funs := fset fun0 s.funs n v }
def updFun (s : State) (n : Nat) (f : Fun → Fun) : State := setFun s n (f (getFun s n))

/-- FN_STAT.STATE: 0 off, 1 enabled, 2 draining, 3 resetting. -/
def fnState (s : State) (n : Nat) : Nat := csrFld s (aFn n fnStat) 63 61

def fnNetPort (s : State) (n : Nat) : Nat := csrFld s (aFn n fnNet) 34 32
def fnPrio (s : State) (n : Nat) : Nat := csrFld s (aFn n fnNet) 62 60

/-- Largest payload of a KHT packet: MTU less 68 bytes, down to a multiple of 8 (R320). -/
def payLimit (s : State) : Nat := (csrFld s aHostPortCfg 15 0 - 68) / 8 * 8

def khtWindow (s : State) : Nat := csrFld s aHostKht 31 16

def psnMod : Nat := 2 ^ 24

/-- Distance from PSN a to PSN b, modulo 2^24. -/
def psnDist (a b : Nat) : Nat := (b + psnMod - a) % psnMod

def findTc (s : State) (n t : Nat) : Option Tc :=
  s.tcs.find? (fun v => decide (v.fn = n) && decide (v.num = t))

/-- No TC has this number: it stands for one that has closed (R319). -/
def tcGone : Nat := 1024

/-- Free the number of a TC; the requests that came on it name no TC any more (R323, R340). -/
def dropTc (s : State) (n t : Nat) : State :=
  let gone := fun (x : Option Nat) => if x = some t then some tcGone else x
  let s := updFun s n (fun f => { f with
    reqs := f.reqs.map (fun r => { r with tc := gone r.tc, dup := gone r.dup })
    landed := f.landed.map (fun e => (e.1, e.2.map (fun x => { x with tc := gone x.tc }))) })
  { s with tcs := s.tcs.filter (fun v => !(decide (v.fn = n) && decide (v.num = t))) }

/-- Replace a transport context. -/
def putTc (s : State) (v : Tc) : State :=
  { s with tcs := s.tcs.map (fun x => if x.fn = v.fn ∧ x.num = v.num then v else x) }

/-- Breakout ports of a mode, and the engines that serve a port (R309). -/
def portCount (s : State) : Nat := 2 ^ s.stw.hostMode

def portEngines (s : State) (p : Nat) : List Nat :=
  match s.stw.hostMode with
  | 0 => [0, 1, 2, 3]
  | 1 => if p % 2 = 0 then [0, 1] else [2, 3]
  | 2 => [p % 4]
  | _ => [p / 2 % 4]

/-- TCs bound to an engine. -/
def engineBound (s : State) (e : Nat) : Nat := (s.tcs.filter (fun v => decide (v.engine = e))).length

/-- The engine with the fewest TCs bound among those of a port, the lowest when equal (R318). -/
def pickEngine (s : State) (p : Nat) : Nat :=
  (portEngines s p).foldl (fun a e => if engineBound s e < engineBound s a then e else a)
    ((portEngines s p).headD 0)

/-- An engine serves one packet; `miss`: the state of the TC was not cached. -/
def serve (s : State) (e : Nat) (miss : Bool) : State :=
  let s := wrapCsrFld (blockServed s (16 + e)) (aHostEngine e) 31 0 1
  if miss then satCsrFld s (aHostEngine e) 47 32 1 else s

/-! ## Output -/

def prioKey (port prio : Nat) : Nat := 8 * port + prio

/-- The tag of a frame that function n sends: its VLAN, priority and DSCP, with ECT(0) on an IP packet (R311). -/
def hostTag (s : State) (n : Nat) (b : HostOut) : HostTag :=
  let w := csrGet s (aFn n fnNet)
  let ip := match b with | .arp _ _ => false | _ => true
  { port := fnNetPort s n, prio := fnPrio s n, vlan := if bit w 63 then some (bits w 59 48) else none,
    dscp := if ip then bits w 47 42 else 0, ecn := if ip then 2 else 0 }

/-- Send a packet of function n, or hold it while its priority is paused (R312). -/
def sendHost (s : State) (n : Nat) (b : HostOut) : State :=
  let t := hostTag s n b
  if fget zeroNat s.hostPaused (prioKey t.port t.prio) = 1 then
    { s with hostHeld := s.hostHeld ++ [.host t b] }
  else emit s (.host t b)

/-- Bits of SACK: which packets beyond the next expected one have arrived. -/
def sackOf (v : Tc) : Word :=
  (List.range 64).foldl (fun w k =>
    let psn := (v.rxNext + 1 + k) % psnMod
    if v.held.any (fun f => decide ((readKht f.body).map (·.1.psn) = some psn)) then
      setBit w k true
    else w) 0#64

/-- The header of a packet the device sends on a TC; the acknowledgement rides on it (R324). -/
def tcHdr (s : State) (v : Tc) (op psn : Nat) (addr : Word) (status : Nat) : KhtHdr :=
  { ver := 1, op := op, ece := v.ece, ar := false, dtc := v.hostTc, psn := psn, ackpsn := v.rxNext,
    window := khtWindow s, sack := sackOf v, addr := addr, length := 0, status := status }

/-- Send on TC v: what it owed in acknowledgement is paid. -/
def tcSend (s : State) (v : Tc) (op psn : Nat) (addr : Word) (status : Nat) (data : List Word) : State × Tc :=
  (sendHost s v.fn (.kht v.fn v.num (khtHdrWords (tcHdr s v op psn addr status) ++ data)),
    { v with fresh := 0, ece := false })

def opCONNECTACK : Nat := 2
def opCLOSE : Nat := 3
def opCLOSEACK : Nat := 4
def opACK : Nat := 5
def opREADRESP : Nat := 8
def opNOTICE : Nat := 10
def opRESET : Nat := 11

/-- Send an ACK with a status and a ring or address (R324, R331). -/
def tcAck (s : State) (v : Tc) (addr : Word) (status : Nat) : State × Tc := tcSend s v opACK 0 addr status []

/-- The header of a RESET, which acknowledges nothing.
(DESIGN CHOICE: assumption 43) -/
def resetHdr (dtc : Nat) : KhtHdr :=
  { ver := 1, op := opRESET, ece := false, ar := false, dtc := dtc, psn := 0, ackpsn := 0, window := 0,
    sack := 0#64, addr := 0#64, length := 0, status := 0 }

/-- A RESET for a TC the device does not have: DTC 0 (R323, R464). -/
def resetUnknown (s : State) (n : Nat) : State := sendHost s n (.kht n 0 (khtHdrWords (resetHdr 0)))

/-- A RESET for a TC. -/
def resetOut (s : State) (v : Tc) : State := sendHost s v.fn (.kht v.fn v.num (khtHdrWords (resetHdr v.hostTc)))

/-- The TC becomes quiet: queued output is dropped (R323). -/
def quietTc (s : State) (v : Tc) : State :=
  putTc s { v with
    state := 1
    held := []
    reads := []
    txq := []
    unacked := []
    fresh := 0
    quietAt := s.now.toNat }

/-- Send the queued packets that the window, the peer's window and the congestion window allow (R325). -/
def pumpTc (s : State) (v : Tc) : Nat → State × Tc
  | 0 => (s, v)
  | f + 1 =>
    match v.txq with
    | [] => (s, v)
    | x :: rest =>
      if v.unacked.length < min (khtWindow s) (min v.peerWin v.cwnd) then
        let r := tcSend s v x.op v.txNext x.addr x.status x.data
        pumpTc r.1 { r.2 with
          txq := rest
          unacked := v.unacked ++ [{ x with psn := v.txNext, tries := 0, time := s.now.toNat, fast := false }]
          txNext := (v.txNext + 1) % psnMod } f
      else (s, v)

/-- Queue ordered packets on a TC and send what may be sent. -/
def queueTx (s : State) (v : Tc) (l : List TxPkt) : State × Tc :=
  let v := { v with txq := v.txq ++ l }
  pumpTc s v v.txq.length

/-- A packet to be queued. -/
def txPkt (op : Nat) (addr : Word) (status : Nat) (data : List Word) : TxPkt :=
  { psn := 0, op := op, addr := addr, status := status, data := data, tries := 0, time := 0, fast := false }

/-- Queue on TC t of function n, if it is open. -/
def sendOn (s : State) (n t : Nat) (l : List TxPkt) : State :=
  match findTc s n t with
  | some v => if v.state = 0 ∧ !v.qp then (let r := queueTx s v l; putTc r.1 r.2) else s
  | none => s

/-- Halve the congestion window, to at least 4 packets (R325). -/
def halve (v : Tc) : Tc := { v with cwnd := max 4 (v.cwnd / 2), roundEnd := v.txNext }

/-- Retransmit packet i of the unacknowledged ones. -/
def resend (s : State) (v : Tc) (x : TxPkt) : State × Tc :=
  let r := tcSend s v x.op x.psn x.addr x.status x.data
  (r.1, { r.2 with unacked := r.2.unacked.map (fun y => if y.psn = x.psn then { x with time := s.now.toNat } else y) })

/-- What a received acknowledgement does to the packets the device has sent (R325): acknowledged ones go,
one that three later packets have passed is sent again once, ECE halves the window, a round trip adds one
packet.
(DESIGN CHOICE: assumption 43) -/
def ackIn (s : State) (v : Tc) (h : KhtHdr) : State × Tc :=
  let acked := fun (psn : Nat) =>
    let d := psnDist h.ackpsn psn
    decide (d ≥ psnMod / 2) || (decide (1 ≤ d ∧ d ≤ 64) && bit h.sack (d - 1))
  let grown := decide (psnDist v.roundEnd h.ackpsn < psnMod / 2) && decide (v.roundEnd ≠ h.ackpsn)
  let v := { v with unacked := v.unacked.filter (fun x => !acked x.psn), peerWin := h.window,
                    reads := v.reads.filter (fun p => !acked p) }
  let v := if h.ece && decide (h.op = opACK) then halve v
    else if grown then { v with cwnd := v.cwnd + 1, roundEnd := v.txNext } else v
  let late := v.unacked.filter (fun x => !x.fast &&
    decide (((List.range 64).filter (fun k => bit h.sack k
      && decide (psnDist h.ackpsn x.psn < k + 1))).length ≥ 3))
  let r := late.foldl (fun (a : State × Tc) x => resend a.1 a.2 { x with fast := true }) (s, v)
  pumpTc r.1 r.2 r.2.txq.length

/-! ## Frames in (R310 to R313) -/

/-- Bytes that a priority holds on a port.
(DEDUCED: assumption 42) -/
def heldBytes (s : State) (port prio : Nat) : Nat :=
  (s.ingress.filter (fun f => decide (f.port = port) && decide (f.prio = prio))).foldl (fun a f => a + f.len) 0

/-- Send the pause or the resume that a priority's holding calls for (R312). -/
def pfcOut (s : State) (port prio : Nat) : State :=
  if !bit (csrGet s aHostPfc) (56 + prio) then s
  else
    let k := prioKey port prio
    let used := heldBytes s port prio
    if used > csrFld s aHostPfc 47 32 * 1024 ∧ fget zeroNat s.pauseSent k = 0 then
      emit { s with pauseSent := fset zeroNat s.pauseSent k 1 } (.pfc port prio true)
    else if used < csrFld s aHostPfc 31 16 * 1024 ∧ fget zeroNat s.pauseSent k = 1 then
      emit { s with pauseSent := fset zeroNat s.pauseSent k 0 } (.pfc port prio false)
    else s

/-- A frame is discarded and counted.
(DEDUCED: assumption 42) -/
def rxDrop (s : State) : State := satCsrFld s aHostPortStat 15 0 1

/-- The function that a frame is for (R310): one that is not off, on this port, with its MAC and IPv4
address, and with the VLAN tag that VLAN_EN requires.
(DEDUCED: assumption 42) -/
def frameFn (s : State) (f : HFrame) : Option Nat :=
  (List.range 64).find? (fun n =>
    decide (fnState s n ≠ 0) && decide (fnNetPort s n = f.port)
      && decide (csrFld s (aFn n fnMac) 47 0 = f.dmac)
      && (match f.ip with
          | some a => decide (csrFld s (aFn n fnIp4) 32 32 = 1) && decide (csrFld s (aFn n fnIp4) 31 0 = a)
          | none => false)
      && (decide (csrFld s (aFn n fnNet) 63 63 = 0) || decide (f.vlan = some (csrFld s (aFn n fnNet) 59 48))))

/-- The packet is one the device takes: a KHT packet of a defined form (R319 to R321), or a RoCEv2 packet
with a good invariant CRC (R329). -/
def bodyOk (s : State) : HBody → Bool
  | .kht udp ws => decide (udp = csrFld s aHostPortCfg 47 32)
      && (match readKht (.kht udp ws) with
        | some (h, _) => decide (h.ver = 1) && decide (1 ≤ h.op ∧ h.op ≤ 11) && decide (h.status ≤ 9)
        | none => false)
  | .roce r => r.icrcOk
  | _ => false

/-- Accept a frame into the ingress buffer, marking it CE above the ECN threshold (R312, R313).
(DEDUCED: assumption 42) -/
def acceptFrame (s : State) (n : Nat) (f : HFrame) : State :=
  let used := heldBytes s f.port f.prio
  let share := 16 * 1024 * 1024 / (8 * portCount s)
  if !bit (csrGet s aHostPfc) (56 + f.prio) && decide (used + f.len > share) then rxDrop s
  else
    let ce := f.ce || (f.ect && decide (used > csrFld s aHostPfc 15 0 * 1024))
    pfcOut { s with
      ingress := s.ingress ++ [{ f with id := s.nextId, fn := n, ce := ce, time := s.now.toNat }]
      nextId := s.nextId + 1 } f.port f.prio

/-- What the port serves in the dormant state (the admin function's operations on tier 11) and in the service
state (its 8-byte READs of blocks STW and TEST) (R419, R463).
(DEDUCED: assumption 42) -/
def portServes (s : State) (n : Nat) (b : HBody) : Bool :=
  let quiet := decide (csrFld s aPwrDormant 61 59 ≠ 0)
  let service := decide (csrFld s aStwBoot 63 61 = 3)
  let admin := decide (csrFld s aHostPortCfg 53 53 = 1) && decide (csrFld s aHostPortCfg 59 54 = n)
  let op := fun (h : KhtHdr) =>
    let ctl := decide (bits h.addr 47 46 = 3)
    let o := bits h.addr 45 0
    let stw := decide (o / 0x100000 = 0x7000) || decide (o / 0x100000 = 0x8000)
    if h.op = 6 then ctl && !service
    else if h.op = 7 then ctl && (!service || (stw && decide (h.length = 8)))
    else decide (h.op ≠ 9)
  if !quiet && !service then true
  else match readKht b with
    | some (h, _) => admin && op h
    | none => false

/-- A fragment, a packet with options, or one above the MTU (R310, R311). -/
def oddIp (s : State) (f : HFrame) : Bool := f.odd || decide (f.ipLen > csrFld s aHostPortCfg 15 0)

/-- FRAME_RECEIVE: a frame arrives with `fec` uncorrectable FEC codewords. A frame with one is lost. -/
def frameReceive (fec : Nat) (f : HFrame) (s : State) : State :=
  if f.port ≥ 8 ∨ f.prio ≥ 8 ∨ !bit (csrGet s aHostPortStat) (56 + f.port) then s
  else if fec ≠ 0 then satCsrFld s aHostPortStat 47 32 fec
  else match f.body with
    | .arp ip =>
      match (List.range 64).find? (fun n => decide (fnState s n ≠ 0) && decide (fnNetPort s n = f.port)
          && decide (csrFld s (aFn n fnIp4) 32 32 = 1) && decide (csrFld s (aFn n fnIp4) 31 0 = ip)) with
      | some n => sendHost s n (.arp ip (csrFld s (aFn n fnMac) 47 0))
      | none => rxDrop s
    | .ptp =>
      if csrFld s aHostPtpCfg 63 63 = 1 ∧ csrFld s aHostPtpCfg 61 59 = f.port ∧ csrFld s aHostPtpCfg 47 0 = f.dmac
        ∧ !oddIp s f then s else rxDrop s
    | b =>
      match frameFn s f with
      | none => rxDrop s
      | some n =>
        if oddIp s f || !bodyOk s b || !portServes s n b then rxDrop s
        else acceptFrame s n f

/-- FRAME_RECEIVE (R310, R312). -/
def execFrameReceive (fec : Nat) (f : HFrame) (s : State) : Out := .next (frameReceive fec f s)

/-- Take a frame out of the ingress buffer. -/
def takeFrame (s : State) (f : HFrame) : State :=
  pfcOut { s with ingress := s.ingress.filter (fun x => decide (x.id ≠ f.id)) } f.port f.prio

def findFrame (s : State) (id : Nat) : Option HFrame := s.ingress.find? (fun f => decide (f.id = id))

/-- PFC_PAUSE: a received pause (or resume) of a priority on a port; a resume releases what was held. -/
def pfcPause (port prio : Nat) (on : Bool) (s : State) : State :=
  let k := prioKey port prio
  if port ≥ 8 ∨ prio ≥ 8 then s
  else if on then { s with hostPaused := fset zeroNat s.hostPaused k 1 }
  else
    let mine := fun (e : Emit) => match e with | .host t _ => decide (prioKey t.port t.prio = k) | _ => false
    let l := s.hostHeld.filter mine
    l.foldl emit { s with hostPaused := fset zeroNat s.hostPaused k 0,
                          hostHeld := s.hostHeld.filter (fun e => !mine e) }

/-- PFC_PAUSE (R312). -/
def execPfcPause (port prio : Nat) (on : Bool) (s : State) : Out := .next (pfcPause port prio on s)

/-- HOST_LINK_CHANGE: LINK_UP of a breakout port of the mode (R309). -/
def hostLinkChange (port : Nat) (up : Bool) (s : State) : State :=
  if port < portCount s then setCsrFld s aHostPortStat (56 + port) (56 + port) (b2n up) else s

/-- HOST_LINK_CHANGE (R309). -/
def execHostLinkChange (port : Nat) (up : Bool) (s : State) : Out := .next (hostLinkChange port up s)

/-! ## Opening and closing (R322, R323, R328, R331) -/

/-- The ring exists (R331). -/
def cringEn (s : State) (n r : Nat) : Bool :=
  decide (csrFld s (aFn n (fnCringCtl r)) 63 63 = 1) && decide (csrFld s aStwBoot 63 61 ≠ 2)

/-- The connect record of a CONNECT_ACK.
(DESIGN CHOICE: assumption 43) -/
def connectAck (s : State) (v : Tc) : State :=
  let w0 := put (put (put 0#64 63 48 v.hostTc) 47 24 0) 15 0 (khtWindow s)
  let w1 := put (put (put (put 0#64 63 63 (b2n v.qp)) 62 60 v.ring) 59 58 v.pmtu) 23 0 v.hostQpn
  let w2 := put (put 0#64 15 0 v.num) 39 16 (if v.qp then 0x010000 + 1024 * v.fn + v.num else 0)
  sendHost s v.fn (.kht v.fn v.num (khtHdrWords (tcHdr s v opCONNECTACK 0 0#64 0) ++ [w0, w1, w2, 0#64]))

/-- The lowest free TC number of function n within TC_MAX and the device's 16,384. -/
def freeTc (s : State) (n : Nat) : Option Nat :=
  if s.tcs.length ≥ 16384 then none
  else (List.range (min 1024 (csrFld s (aFn n fnNet) 10 0))).find? (fun t => (findTc s n t).isNone)

/-- Open a TC for a connect record. -/
def openTc (s : State) (n t : Nat) (w0 w1 : Word) : State :=
  let v : Tc :=
    { fn := n, num := t, hostTc := bits w0 63 48, startPsn := bits w0 47 24, state := 0, qp := bit w1 63,
      ring := bits w1 62 60, pmtu := bits w1 59 58, hostQpn := bits w1 23 0,
      engine := pickEngine s (fnNetPort s n), rxNext := bits w0 47 24, held := [], fresh := 0, freshAt := 0,
      ece := false, reads := [], closing := false, txNext := 0, unacked := [], txq := [],
      peerWin := bits w0 15 0, cwnd := khtWindow s, roundEnd := 0, quietAt := 0, partWords := [],
      partPsn := 0, partAddr := 0#64, partRkey := 0, partLeft := 0, cnpAt := none }
  connectAck { s with tcs := s.tcs ++ [v] } v

/-- CONNECT of function n with a connect record.
(DESIGN CHOICE: assumption 43) -/
def connectFn (s : State) (n : Nat) (w0 w1 : Word) : State :=
  match s.tcs.find? (fun v => decide (v.fn = n) && decide (v.state = 0) && decide (v.hostTc = bits w0 63 48)
      && decide (v.startPsn = bits w0 47 24)) with
  | some v => connectAck s v
  | none =>
    if fnState s n ≠ 1 ∨ bits w1 59 58 = 3 ∨ (bit w1 63 && !cringEn s n (bits w1 62 60)) then resetUnknown s n
    else match freeTc s n with
      | some t => openTc s n t w0 w1
      | none => resetUnknown s n

/-- CONNECT: the frame of a KHT CONNECT is served.
(DESIGN CHOICE: assumption 43) -/
def connect (id : Nat) (miss : Bool) (s : State) : State :=
  match findFrame s id with
  | none => s
  | some f =>
    match readKht f.body with
    | some (h, data) =>
      if h.op ≠ 1 then s
      else
        let s := serve (takeFrame s f) (pickEngine s f.port) miss
        connectFn s f.fn (data.getD 0 0#64) (data.getD 1 0#64)
    | none => s

/-- CONNECT (R322, R323). -/
def execConnect (id : Nat) (miss : Bool) (s : State) : Out := .next (connect id miss s)

/-- A TC that is closing and has nothing left to deliver or to have acknowledged answers CLOSE_ACK and
becomes quiet (R323). -/
def tryClose (s : State) (n t : Nat) : State :=
  match findTc s n t with
  | some v =>
    if v.closing && decide (v.state = 0) && v.unacked.isEmpty && v.txq.isEmpty then
      let r := tcSend s v opCLOSEACK 0 0#64 0 []
      quietTc r.1 r.2
    else s
  | none => s

/-- The packet is held already. -/
def heldPsn (v : Tc) (psn : Nat) : Bool := v.held.any (fun x => decide ((readKht x.body).map (·.1.psn) = some psn))

/-- An ordered packet is accepted when its PSN lies in the window and it has not come before; one without order always
is (R324). -/
def acceptsPkt (s : State) (v : Tc) (h : KhtHdr) : Bool :=
  !(decide (h.op = opCLOSE) || decide (6 ≤ h.op ∧ h.op ≤ 10))
    || (decide (psnDist v.rxNext h.psn < khtWindow s) && !heldPsn v h.psn)

/-- A packet for a TC that is not open: one for a closed number or a quiet TC is answered with RESET, a RESET for a
closed number with nothing; a READ for a function in the resetting state is refused with "function disabled".
(DEDUCED: assumption 43) -/
def notOpen (s : State) (v : Tc) (h : KhtHdr) : State :=
  if v.qp then (if h.op = opRESET then s else resetOut s v)
  else if h.op = 7 ∧ fnState s v.fn = 3 then (tcSend s v opREADRESP v.txNext h.addr 7 []).1
  else resetOut s v

/-- The packet of a KHT frame whose operation is `op` is served on its TC: a packet for a TC that is not open is
answered as above; else it counts the CE mark of an accepted packet, applies the acknowledgement that rides on it and
goes on (R313, R323, R325, R464). -/
def onTc (s : State) (id op : Nat) (miss : Bool) (go : State → Tc → HFrame → KhtHdr → State) : State :=
  match findFrame s id with
  | none => s
  | some f =>
    match readKht f.body with
    | some (h, _) =>
      if h.op ≠ op then s
      else
        let s := takeFrame s f
        match findTc s f.fn h.dtc with
        | none => if op = opRESET then s else resetUnknown s f.fn
        | some v =>
          let s := serve s v.engine miss
          if v.state ≠ 0 ∨ v.qp then notOpen s v h
          else
            let v := if f.ce then halve { v with ece := v.ece || acceptsPkt s v h } else v
            if op = opRESET then go s v f h
            else
              let r := ackIn s v h
              go (putTc r.1 r.2) r.2 f h
    | none => s

/-- CLOSE_ACK: the device never sends CLOSE, so only the acknowledgement that rides on it counts. -/
def closeAck (id : Nat) (miss : Bool) (s : State) : State :=
  onTc s id opCLOSEACK miss (fun s v _ _ => tryClose s v.fn v.num)

/-- CLOSE_ACK (R320). -/
def execCloseAck (id : Nat) (miss : Bool) (s : State) : Out := .next (closeAck id miss s)

/-- KHT_RESET: queued output is dropped and the TC becomes quiet. -/
def khtReset (id : Nat) (miss : Bool) (s : State) : State :=
  onTc s id opRESET miss (fun s v _ _ => quietTc s v)

/-- KHT_RESET (R323). -/
def execKhtReset (id : Nat) (miss : Bool) (s : State) : Out := .next (khtReset id miss s)

/-! ## Timers (R323 to R325) -/

/-- KHT_RETRANSMIT_TIMEOUT: RTO_US has passed since a packet was sent: it is sent again, and after RETRIES
+ 1 expiries the TC is reset. -/
def khtTimeout (n t psn : Nat) (s : State) : State :=
  match findTc s n t with
  | none => s
  | some v =>
    match v.unacked.find? (fun x => decide (x.psn = psn)) with
    | none => s
    | some x =>
      if v.state ≠ 0 ∨ s.now.toNat < x.time + 1000 * csrFld s aHostKht 63 48 then s
      else if x.tries + 1 > csrFld s aHostKht 47 44 then quietTc (resetOut s v) v
      else
        let r := resend s v { x with tries := x.tries + 1, fast := false }
        putTc r.1 r.2

/-- KHT_RETRANSMIT_TIMEOUT (R325). -/
def execKhtRetransmitTimeout (n t psn : Nat) (s : State) : Out := .next (khtTimeout n t psn s)

/-- KHT_ACK_TIMER: 2 microseconds after delivered packets an ACK leaves. -/
def khtAckTimer (n t : Nat) (s : State) : State :=
  match findTc s n t with
  | none => s
  | some v =>
    if v.state = 0 ∧ !v.qp ∧ v.fresh ≠ 0 ∧ s.now.toNat ≥ v.freshAt + 2000 then
      let r := tcAck s v 0#64 0
      putTc r.1 r.2
    else s

/-- KHT_ACK_TIMER (R324). -/
def execKhtAckTimer (n t : Nat) (s : State) : Out := .next (khtAckTimer n t s)

/-- TC_QUIET_EXPIRE: the number of a TC that has been quiet for QUIET_US is free again, that of a queue pair of a
function that was reset as well. -/
def tcQuietExpire (n t : Nat) (s : State) : State :=
  match findTc s n t with
  | none => s
  | some v =>
    if (v.state = 1 ∨ v.state = 2 ∧ v.closing) ∧ s.now.toNat ≥ v.quietAt + 1000 * csrFld s aHostKht 15 0 then dropTc s n t else s

/-- TC_QUIET_EXPIRE (R323). -/
def execTcQuietExpire (n t : Nat) (s : State) : Out := .next (tcQuietExpire n t s)

end Sys2Proof.Machine
end

