-- ==== Sys2Proof/Machine/Commands.lean ====
section
/-! DEFINITION. Command rings, intake, replay records and result slots of a function (R330 to R341), and its
enabling and disabling (R342, R343). -/

namespace Sys2Proof.Machine

/-- Team address of an HBM offset of this device. -/
def hbmAddr (off : Nat) : Word := BitVec.ofNat 64 (0xFFFF * 2 ^ 48 + 2 ^ 46 + off)

/-- Base offset in a register whose bits [45:12] hold HBM offset bits [45:12]. -/
def baseOf (w : Word) : Nat := bits w 45 12 * 4096

def countFn (s : State) (n hi lo : Nat) : State := satCsrFld s (aFn n fnCount) hi lo 1

/-! ## Statuses (R338) -/

def csPENDING : Nat := 0x01
def csCOMPLETE : Nat := 0x02
def csDROPPED : Nat := 0x04
def csFAILED : Nat := 0x05
def csDISABLED : Nat := 0x06
def csBADCMD : Nat := 0x08
def csSLOTBUSY : Nat := 0x09
def csDISPATCH : Nat := 0x0A
def csSTALE : Nat := 0x0B

/-! ## Slots and replay records (R334, R337) -/

def slotCount (s : State) (n : Nat) : Nat := csrFld s (aFn n fnSlotCfg) 15 0
def slotSize (s : State) (n : Nat) : Nat := 2 ^ max 8 (csrFld s (aFn n fnSlotCfg) 63 59)
def slotAddr (s : State) (n i : Nat) : Word := hbmAddr (baseOf (csrGet s (aFn n fnSlotBase)) + i * slotSize s n)
def recAddr (s : State) (n reqId : Nat) : Word :=
  hbmAddr (baseOf (csrGet s (aFn n fnReplay)) + reqId % 4096 * 32)
def slotState (s : State) (n i : Nat) : Nat := fget zeroNat (getFun s n).slots i
def setSlot (s : State) (n i v : Nat) : State := updFun s n (fun x => { x with slots := fset zeroNat x.slots i v })

def plain (w : Word) : PWord := ⟨w, false⟩

/-- GEN in a slot's header. -/
def slotGen (s : State) (n i : Nat) : State × Nat :=
  let r := memReadWords s (slotAddr s n i) 1
  (r.1, bits (r.2.getD 0 noWord).val 63 32)

/-- Word 3 of a slot header: the function's context and the swath. -/
def ctxWord (s : State) (n : Nat) : Word :=
  put (put (put 0#64 63 56 (csrFld s (aFn n fnCtx) 63 56)) 55 48 (csrFld s (aFn n fnCtx) 55 48)) 47 0 s.swathNow

/-- Write a slot's 64-byte header (R337, R340). -/
def writeHeader (s : State) (n i gen status len reqId time : Nat) : State :=
  memWriteWords s (slotAddr s n i) [plain (put (put (put 0#64 63 32 gen) 31 24 status) 23 0 len),
    plain (BitVec.ofNat 64 reqId), plain (BitVec.ofNat 64 time), plain (ctxWord s n), plain 0#64, plain 0#64,
    plain 0#64, plain 0#64]

/-- The words of a replay record (R334).
(DEDUCED: assumption 48) -/
def recWords (reqId status slot gen acc done_ : Nat) : List Word :=
  [BitVec.ofNat 64 reqId, put (put (put (put 0#64 63 63 1) 55 48 status) 47 32 slot) 31 0 gen,
   BitVec.ofNat 64 acc, BitVec.ofNat 64 done_]

def writeRec (s : State) (n reqId : Nat) (l : List Word) : State :=
  memWriteWords s (recAddr s n reqId) (l.map plain)

/-- Send NOTICE with a record on a TC, unless the function is in quarantine (R335, R340, R477). -/
def notice (s : State) (n t : Nat) (l : List Word) : State :=
  if (getFun s n).replay.isSome then s else sendOn s n t [txPkt opNOTICE 0#64 0 l]

def findReq (s : State) (n ser : Nat) : Option HReq := (getFun s n).reqs.find? (fun r => decide (r.ser = ser))
def setReq (s : State) (n : Nat) (r : HReq) : State :=
  updFun s n (fun x => { x with reqs := x.reqs.map (fun y => if y.ser = r.ser then r else y) })
def dropReqH (s : State) (n ser : Nat) : State :=
  updFun s n (fun x => { x with reqs := x.reqs.filter (fun y => decide (y.ser ≠ ser)) })

/-- Complete a pending request with a status (R340): the header with GEN + 1, the replay record, then, when the request
came by KHT, the notices on its TC and its last duplicate TC. -/
def finishReq (s : State) (n ser status len : Nat) : State :=
  match findReq s n ser with
  | none => s
  | some r =>
    let now := s.now.toNat
    let s := dropReqH s n ser
    let g := if r.slot = 0xFFFF then (s, 0) else slotGen s n r.slot
    let gen := if r.slot = 0xFFFF then 0 else (g.2 + 1) % 2 ^ 32
    let s := g.1
    let s := if r.slot = 0xFFFF then s
      else setSlot (writeHeader s n r.slot gen status len r.reqId now) n r.slot 2
    let l := recWords r.reqId status r.slot gen r.accepted now
    let s := wrapCsrFld (writeRec s n r.reqId l) (aFn n fnCmds) 31 0 1
    match r.tc with
    | none => s
    | some t =>
      let s := notice s n t l
      match r.dup with
      | some d => if d = t then s else notice s n d l
      | none => s

/-- Complete every request of a list. -/
def finishAll (s : State) (n status : Nat) (l : List HReq) : State :=
  l.foldl (fun s r => finishReq s n r.ser status 0) s

/-! ## Landing (R330, R331) -/

def ringSize (s : State) (n r : Nat) : Nat := 2 ^ max 6 (csrFld s (aFn n (fnCringCtl r)) 62 58)
def ringBaseOff (s : State) (n r : Nat) : Nat := baseOf (csrGet s (aFn n (fnCringBase r)))
def ringHead (s : State) (n r : Nat) : Nat := csrFld s (aFn n (fnCringCtl r)) 31 16
def ringTail (s : State) (n r : Nat) : Nat := csrFld s (aFn n (fnCringCtl r)) 15 0
def ringPhase (s : State) (n r : Nat) : Nat := csrFld s (aFn n (fnCringCtl r)) 57 57
def noLanded (_ : Nat) : List Landed := []
def landedOf (s : State) (n r : Nat) : List Landed := fget noLanded (getFun s n).landed r
def setLanded (s : State) (n r : Nat) (l : List Landed) : State :=
  updFun s n (fun x => { x with landed := fset noLanded x.landed r l })
def ringIsFull (s : State) (n r : Nat) : Bool := decide ((landedOf s n r).length ≥ ringSize s n r)

/-- The entry at TAIL has landed: TAIL advances, PHASE inverts when it returns to 0 (R330). -/
def landTail (s : State) (n r : Nat) (tc : Option Nat) : State :=
  let t := ringTail s n r
  let nt := (t + 1) % ringSize s n r
  let s := setLanded s n r (landedOf s n r ++ [{ idx := t, tc := tc, time := s.now.toNat }])
  let s := setCsrFld s (aFn n (fnCringCtl r)) 15 0 nt
  if nt = 0 then setCsrFld s (aFn n (fnCringCtl r)) 57 57 (1 - ringPhase s n r) else s

/-- Land an entry that came by SUBMIT or SEND, or refuse it with a KHT status (R330, R331, R342). -/
def landEntry (s : State) (n r : Nat) (entry : List Word) (tc : Option Nat) : State × Nat :=
  let refuse := fun (st : Nat) => (countFn s n 39 28, st)
  if fnState s n ≠ 1 then refuse 7
  else if !cringEn s n r then refuse 9
  else if ringIsFull s n r then refuse 8
  else
    let w0 := put (entry.getD 0 0#64) 63 63 (ringPhase s n r)
    let ws := (w0 :: entry.tail).map plain
    (landTail (memWriteWords s (hbmAddr (ringBaseOff s n r + ringTail s n r * 256)) ws) n r tc, 0)

/-- What a host write of HBM bytes means to the rings of its function: the one that covers exactly the
entry at TAIL with the expected PHASE lands; any other that touches a ring is counted (R330, R342). -/
def coverWrite (s : State) (n off : Nat) (ws : List Word) (tc : Option Nat) : State :=
  (List.range 8).foldl (fun s r =>
    let b := ringBaseOff s n r
    if !cringEn s n r || decide (off ≥ b + 256 * ringSize s n r) || decide (off + 8 * ws.length ≤ b) then s
    else if decide (ws.length = 32) && decide (off = b + 256 * ringTail s n r) && !ringIsFull s n r
        && decide (bits (ws.getD 0 0#64) 63 63 = ringPhase s n r) && decide (fnState s n = 1) then
      landTail s n r tc
    else countFn s n 39 28) s

/-! ## Intake (R335) -/

def ecOp (e : List PWord) : Nat := bits (e.getD 0 noWord).val 55 48
def ecSlot (e : List PWord) : Nat := bits (e.getD 0 noWord).val 47 32
def ecReqId (e : List PWord) : Nat := (e.getD 1 noWord).val.toNat
def ecDeadline (e : List PWord) : Nat := (e.getD 2 noWord).val.toNat
def ecWord (e : List PWord) (i : Nat) : Word := (e.getD i noWord).val

def opNOP : Nat := 1
def opACKC : Nat := 2
def opSEED : Nat := 3
def opRUN : Nat := 4
def opTEARDOWN : Nat := 5

/-- The entry at the head of ring r, if one has landed. -/
def headEntry (s : State) (n r : Nat) : Option (Landed × State × List PWord) :=
  match landedOf s n r with
  | [] => none
  | x :: _ =>
    let q := memReadWords s (hbmAddr (ringBaseOff s n r + 256 * x.idx)) 32
    some (x, q.1, q.2)

/-- Consume the head entry of ring r. -/
def consume (s : State) (n r : Nat) : State :=
  let s := setCsrFld s (aFn n (fnCringCtl r)) 31 16 ((ringHead s n r + 1) % ringSize s n r)
  setLanded s n r (landedOf s n r).tail

/-- Apply one acknowledgement: slot and generation.
(DEDUCED: assumption 48) -/
def applyAck (s : State) (n slot gen : Nat) : State :=
  let g := slotGen s n slot
  if decide (slot < slotCount s n) && decide (slotState s n slot = 2) && decide (g.2 = gen) then
    setSlot g.1 n slot 0
  else countFn s n 15 4

/-- The valid acknowledgements of an entry: slot and generation. -/
def ackList (e : List PWord) : List (Nat × Nat) :=
  let one := fun (w : Word) => if bit w 63 then [(bits w 47 32, bits w 31 0)] else []
  one (ecWord e 3) ++ (if ecOp e = opACKC then (List.range 24).flatMap (fun i => one (ecWord e (8 + i))) else [])

/-- Status of a new request at intake: 1 pending, else what it completes with at once.
(DEDUCED: assumption 48) -/
def intakeStatus (s : State) (n : Nat) (e : List PWord) (forced : Bool) : Nat :=
  let slot := ecSlot e
  if forced then csDISABLED
  else if ecOp e = 0 ∨ ecOp e > 5 ∨ (slot ≠ 0xFFFF ∧ slot ≥ slotCount s n) then csBADCMD
  else if slot ≠ 0xFFFF ∧ slotState s n slot ≠ 0 then csSLOTBUSY
  else if ecDeadline e ≠ 0 ∧ (csrFld s aTimeStat 63 63 = 0 ∨ s.now.toNat ≥ ecDeadline e) then csDROPPED
  else csPENDING

/-- The number of a new request of function n: above every number given out or in use.
(DESIGN CHOICE: assumption 49) -/
def freshSer (s : State) (n : Nat) : Nat := (getFun s n).reqs.foldl (fun a q => max a (q.ser + 1)) s.nextSer

/-- A new request is recorded; one whose slot it may not take completes in the record alone.
(DEDUCED: assumption 48) -/
def acceptReq (s : State) (n r : Nat) (x : Landed) (e : List PWord) (status : Nat) : State × Option Nat :=
  let slot := ecSlot e
  let now := s.now.toNat
  let own := decide (slot ≠ 0xFFFF) && decide (slot < slotCount s n) && decide (slotState s n slot = 0)
  let g := if decide (slot ≠ 0xFFFF) && decide (slot < slotCount s n) then slotGen s n slot else (s, 0)
  let s := wrapCsrFld g.1 (aFn n fnCmds) 63 32 1
  let s := writeRec s n (ecReqId e) (recWords (ecReqId e) status slot g.2 now 0)
  let s := if own && decide (status = csPENDING) then
      setSlot (writeHeader s n slot g.2 csPENDING 0 (ecReqId e) 0) n slot 1 else s
  let req : HReq :=
    { ser := freshSer s n, reqId := ecReqId e, op := ecOp e, slot := if own then slot else 0xFFFF, ring := r,
      idx := x.idx, tc := x.tc, dup := none, deadline := ecDeadline e, entry := e, landTime := x.time,
      accepted := now, disp := 0, dispAt := 0, lastTry := 0, order := 0, mtch := 0 }
  let s := updFun { s with nextSer := req.ser + 1 } n (fun v => { v with reqs := v.reqs ++ [req] })
  if status = csPENDING then (s, some req.ser)
  else if own || decide (slot = 0xFFFF) then (finishReq s n req.ser status 0, none)
  else
    -- the slot is not the request's: the record keeps its number and its generation
    let s := dropReqH s n req.ser
    let l := recWords (ecReqId e) status slot g.2 now now
    let s := wrapCsrFld (writeRec s n (ecReqId e) l) (aFn n fnCmds) 31 0 1
    (match x.tc with | some t => notice s n t l | none => s, none)

/-- Intake takes the head entry of ring r (R335): a duplicate or stale one is answered, one whose record is
still in use waits, a new one is accepted and, when pending, handed on by its number. `stall` tells that
the function's context cannot take it yet (R375).
(DEDUCED: assumption 48) -/
def intake (s : State) (n r : Nat) (forced : Bool) (stall : State → List PWord → Bool) : State × Option Nat :=
  match headEntry s n r with
  | none => (s, none)
  | some (x, s1, e) =>
    let id := ecReqId e
    if id = 0 then (consume (satCsrFld s1 (aFn n fnCount) 3 0 1) n r, none)
    else
      let q := memReadWords s1 (recAddr s1 n id) 4
      let w := fun (i : Nat) => (q.2.getD i noWord).val
      let valid := bit (w 1) 63
      let rid := (w 0).toNat
      let s2 := q.1
      if valid && decide (rid = id) then
        let s := consume (countFn s2 n 63 52) n r
        match x.tc with
        | none => (s, none)
        | some t =>
          let s := notice s n t [w 0, w 1, w 2, w 3]
          (updFun s n (fun v => { v with reqs := v.reqs.map (fun y => if y.reqId = id then { y with dup := some t } else y) }),
            none)
      else if valid && decide (rid > id) then
        let s := consume (countFn s2 n 51 40) n r
        (match x.tc with
          | some t => notice s n t (recWords id csSTALE (ecSlot e) 0 s.now.toNat s.now.toNat)
          | none => s, none)
      else if valid && decide (bits (w 1) 55 48 = csPENDING) then
        if forced then (consume (countFn s2 n 39 28) n r, none) else (s, none)
      else
        let s3 := (ackList e).foldl (fun s a => applyAck s n a.1 a.2) s2
        let st := intakeStatus s3 n e forced
        if decide (st = csPENDING) && stall s3 e then (s, none)
        else
          let a := acceptReq s3 n r x e st
          (consume a.1 n r, a.2)

/-- The head entry of ring r of an enabled function has an operation that `sel` selects. -/
def headIs (s : State) (n r : Nat) (sel : List PWord → Bool) : Bool :=
  decide (fnState s n = 1) && decide (r < 8)
    && (match headEntry s n r with | some (_, _, e) => sel e | none => false)

def noStall (_ : State) (_ : List PWord) : Bool := false

/-- Intake of an entry that completes at once. -/
def intakeNow (n r : Nat) (sel : List PWord → Bool) (s : State) : State :=
  if headIs s n r sel then
    let a := intake s n r false noStall
    match a.2 with
    | some ser => finishReq a.1 n ser csCOMPLETE 0
    | none => a.1
  else s

/-- COMMAND_NOP (R333, R335). -/
def execCommandNop (n r : Nat) (s : State) : Out := .next (intakeNow n r (fun e => decide (ecOp e = opNOP)) s)

/-- COMMAND_ACK (R333, R335). -/
def execCommandAck (n r : Nat) (s : State) : Out := .next (intakeNow n r (fun e => decide (ecOp e = opACKC)) s)

/-- COMMAND_RESERVED (R333). -/
def execCommandReserved (n r : Nat) (s : State) : Out :=
  .next (intakeNow n r (fun e => decide (ecOp e = 0) || decide (ecOp e > 5)) s)

/-! ## FN_COMPLETE (R339) -/

/-- The writer of a function register is a core of the partition with the current context and generation;
the steward always passes. -/
def sourceOk (s : State) (n : Nat) : Who → Bool
  | .steward => true
  | .core c ctx gen => decide (fnOfCore s c = some n) && decide (ctx = csrFld s (aFn n fnCtx) 63 56)
      && decide (gen = csrFld s (aFn n fnCtx) 55 48)
  | _ => false

/-- A status that its writer may complete a request with: the context's statuses for a core, those that a completion
can report for the steward (R338, R339).
(DEDUCED: assumption 48) -/
def statusOk (who : Who) (st : Nat) : Bool :=
  decide (st = csCOMPLETE) || decide (st = 3) || decide (st ≥ 0x80)
    || (decide (who = .steward) && decide (4 ≤ st ∧ st ≤ csDISPATCH) && decide (st ≠ csSLOTBUSY))

/-- A write of FN_COMPLETE: the new state and the status of the write. -/
def fnCompleteW (n : Nat) (who : Who) (v : Word) (s : State) : State × Nat :=
  let st := bits v 63 56
  if !sourceOk s n who then (s, 1)
  else if (getFun s n).replay.isSome ∧ who ≠ .steward then (s, 0)
  else
    let ok := statusOk who st && decide (slotState s n (bits v 55 40) = 1) && decide (bits v 23 0 + 64 ≤ slotSize s n)
    match (getFun s n).reqs.find? (fun r => decide (r.slot = bits v 55 40) && decide (r.slot ≠ 0xFFFF)) with
    | some r => if ok then (finishReq s n r.ser st (bits v 23 0), 0) else (countFn s n 27 16, 0)
    | none => (countFn s n 27 16, 0)

/-- FN_COMPLETE (R339, R340). -/
def execFnComplete (n : Nat) (who : Who) (v : Word) (s : State) : Out := .next (fnCompleteW n who v s).1

/-! ## Disable and enable (R342, R343) -/

/-- Consume every landed entry of a ring: each completes "function disabled". -/
def flushRing (s : State) (n r : Nat) : Nat → State
  | 0 => s
  | f + 1 => if (landedOf s n r).isEmpty then s else flushRing (intake s n r true noStall).1 n r f

/-- FUNCTION_DISABLE: FN_CTL.EN is written 0 in the enabled state. -/
def functionDisable (n : Nat) (s : State) : State :=
  if n ≥ 64 ∨ fnState s n ≠ 1 then s
  else
    let s := setCsrFld (setCsrFld s (aFn n fnCtl) 63 63 0) (aFn n fnStat) 63 61 2
    let s := updFun s n (fun v => { v with drainAt := s.now.toNat })
    (List.range 8).foldl (fun s r => flushRing s n r (landedOf s n r).length) s

/-- FUNCTION_DISABLE (R342). -/
def execFunctionDisable (n : Nat) (s : State) : Out := .next (functionDisable n s)

/-- Write zeros over n words of HBM. -/
def zeroWords (s : State) (off n : Nat) : State := memWriteWords s (hbmAddr off) (List.replicate n (plain 0#64))

/-- FUNCTION_ENABLE: FN_CTL.EN is written 1 in the off state: every slot header reads GEN 0 and free, the
replay area is cleared, every ring starts with HEAD, TAIL and PHASE zero (R337, R343). -/
def functionEnable (n : Nat) (s : State) : State :=
  if n ≥ 64 ∨ fnState s n ≠ 0 then s
  else
    let s := (List.range (slotCount s n)).foldl (fun s i =>
      memWriteWords s (slotAddr s n i) (List.replicate 8 (plain 0#64))) s
    let s := zeroWords s (baseOf (csrGet s (aFn n fnReplay))) 16384
    let s := (List.range 8).foldl (fun s r =>
      let a := aFn n (fnCringCtl r)
      setCsrFld (setCsrFld (setCsrFld s a 57 57 0) a 31 16 0) a 15 0 0) s
    let s := updFun s n (fun v => { v with landed := [], slots := [], reqs := [] })
    setCsrFld (setCsrFld s (aFn n fnCtl) 63 63 1) (aFn n fnStat) 63 61 1

/-- FUNCTION_ENABLE (R343). -/
def execFunctionEnable (n : Nat) (s : State) : Out := .next (functionEnable n s)

end Sys2Proof.Machine
end

