-- ==== Sys2Proof/Machine/Crypto.lean ====
section
/-! DEFINITION. SHA-256 and SHA-384, ECDSA P-384 and HSS verification, and composite signature blocks (R7, R481 to
R483), as the standards named by R7 give them, which the spec does not repeat (PRESUMED: assumption 53). -/

namespace Sys2Proof.Machine

/-- A little-endian integer field of a record (R8). -/
def le (b : List Byte) (off n : Nat) : Nat := bytesToNat ((b.drop off).take n)

def zeroAt (b : List Byte) (off n : Nat) : Bool := ((b.drop off).take n).all (fun x => decide (x = 0#8))

def slice_ (b : List Byte) (o n : Nat) : List Byte := (b.drop o).take n

/-- The `n` low bytes of a number, most significant first. -/
def beBytes (v n : Nat) : List Byte := (natToBytes v n).reverse

/-- The number that a byte string spells, most significant byte first. -/
def beNat (b : List Byte) : Nat := b.foldl (fun a x => 256 * a + x.toNat) 0

/-! ## SHA-256 and SHA-384 (FIPS 180-4) -/

def k256_0 : List Nat :=
  [0x428a2f98, 0x71374491, 0xb5c0fbcf, 0xe9b5dba5, 0x3956c25b, 0x59f111f1, 0x923f82a4, 0xab1c5ed5,
   0xd807aa98, 0x12835b01, 0x243185be, 0x550c7dc3, 0x72be5d74, 0x80deb1fe, 0x9bdc06a7, 0xc19bf174,
   0xe49b69c1, 0xefbe4786, 0x0fc19dc6, 0x240ca1cc, 0x2de92c6f, 0x4a7484aa, 0x5cb0a9dc, 0x76f988da,
   0x983e5152, 0xa831c66d, 0xb00327c8, 0xbf597fc7, 0xc6e00bf3, 0xd5a79147, 0x06ca6351, 0x14292967]

def k256_1 : List Nat :=
  [0x27b70a85, 0x2e1b2138, 0x4d2c6dfc, 0x53380d13, 0x650a7354, 0x766a0abb, 0x81c2c92e, 0x92722c85,
   0xa2bfe8a1, 0xa81a664b, 0xc24b8b70, 0xc76c51a3, 0xd192e819, 0xd6990624, 0xf40e3585, 0x106aa070,
   0x19a4c116, 0x1e376c08, 0x2748774c, 0x34b0bcb5, 0x391c0cb3, 0x4ed8aa4a, 0x5b9cca4f, 0x682e6ff3,
   0x748f82ee, 0x78a5636f, 0x84c87814, 0x8cc70208, 0x90befffa, 0xa4506ceb, 0xbef9a3f7, 0xc67178f2]

def k384_0 : List Nat :=
  [0x428a2f98d728ae22, 0x7137449123ef65cd, 0xb5c0fbcfec4d3b2f, 0xe9b5dba58189dbbc,
   0x3956c25bf348b538, 0x59f111f1b605d019, 0x923f82a4af194f9b, 0xab1c5ed5da6d8118,
   0xd807aa98a3030242, 0x12835b0145706fbe, 0x243185be4ee4b28c, 0x550c7dc3d5ffb4e2,
   0x72be5d74f27b896f, 0x80deb1fe3b1696b1, 0x9bdc06a725c71235, 0xc19bf174cf692694,
   0xe49b69c19ef14ad2, 0xefbe4786384f25e3, 0x0fc19dc68b8cd5b5, 0x240ca1cc77ac9c65,
   0x2de92c6f592b0275, 0x4a7484aa6ea6e483, 0x5cb0a9dcbd41fbd4, 0x76f988da831153b5,
   0x983e5152ee66dfab, 0xa831c66d2db43210, 0xb00327c898fb213f, 0xbf597fc7beef0ee4,
   0xc6e00bf33da88fc2, 0xd5a79147930aa725, 0x06ca6351e003826f, 0x142929670a0e6e70,
   0x27b70a8546d22ffc, 0x2e1b21385c26c926, 0x4d2c6dfc5ac42aed, 0x53380d139d95b3df,
   0x650a73548baf63de, 0x766a0abb3c77b2a8, 0x81c2c92e47edaee6, 0x92722c851482353b]

def k384_1 : List Nat :=
  [0xa2bfe8a14cf10364, 0xa81a664bbc423001, 0xc24b8b70d0f89791, 0xc76c51a30654be30,
   0xd192e819d6ef5218, 0xd69906245565a910, 0xf40e35855771202a, 0x106aa07032bbd1b8,
   0x19a4c116b8d2d0c8, 0x1e376c085141ab53, 0x2748774cdf8eeb99, 0x34b0bcb5e19b48a8,
   0x391c0cb3c5c95a63, 0x4ed8aa4ae3418acb, 0x5b9cca4f7763e373, 0x682e6ff3d6b2b8a3,
   0x748f82ee5defb2fc, 0x78a5636f43172f60, 0x84c87814a1f0ab72, 0x8cc702081a6439ec,
   0x90befffa23631e28, 0xa4506cebde82bde9, 0xbef9a3f7b2c67915, 0xc67178f2e372532b,
   0xca273eceea26619c, 0xd186b8c721c0c207, 0xeada7dd6cde0eb1e, 0xf57d4f7fee6ed178,
   0x06f067aa72176fba, 0x0a637dc5a2c898a6, 0x113f9804bef90dae, 0x1b710b35131c471b,
   0x28db77f523047d84, 0x32caab7b40c72493, 0x3c9ebe0a15c9bebc, 0x431d67c49c100d4c,
   0x4cc5d4becb3e42b6, 0x597f299cfc657e2a, 0x5fcb6fab3ad6faec, 0x6c44198c4a475817]

/-- A member of the SHA-2 family with words of w bits: the constants of its rounds, its initial value, the rotations of
the functions of a round, those of the message schedule (the last a shift), the bytes of its length field.
(PRESUMED: assumption 53) -/
structure Sha (w : Nat) where
  k : List Nat
  init : List (BitVec w)
  big0 : Nat × Nat × Nat
  big1 : Nat × Nat × Nat
  small0 : Nat × Nat × Nat
  small1 : Nat × Nat × Nat
  lenBytes : Nat

def sha256P : Sha 32 :=
  { k := k256_0 ++ k256_1, big0 := (2, 13, 22), big1 := (6, 11, 25), small0 := (7, 18, 3), small1 := (17, 19, 10), lenBytes := 8
    init := [0x6a09e667#32, 0xbb67ae85#32, 0x3c6ef372#32, 0xa54ff53a#32,
             0x510e527f#32, 0x9b05688c#32, 0x1f83d9ab#32, 0x5be0cd19#32] }

def sha384P : Sha 64 :=
  { k := k384_0 ++ k384_1, big0 := (28, 34, 39), big1 := (14, 18, 41), small0 := (1, 8, 7), small1 := (19, 61, 6), lenBytes := 16
    init := [0xcbbb9d5dc1059ed8#64, 0x629a292a367cd507#64, 0x9159015a3070dd17#64,
             0x152fecd8f70e5939#64, 0x67332667ffc00b31#64, 0x8eb44a8768581511#64,
             0xdb0c2e0d64f98fa7#64, 0x47b5481dbefa4fa4#64] }

def shaBig {w : Nat} (r : Nat × Nat × Nat) (x : BitVec w) : BitVec w :=
  x.rotateRight r.1 ^^^ x.rotateRight r.2.1 ^^^ x.rotateRight r.2.2

def shaSmall {w : Nat} (r : Nat × Nat × Nat) (x : BitVec w) : BitVec w :=
  x.rotateRight r.1 ^^^ x.rotateRight r.2.1 ^^^ (x >>> r.2.2)

/-- One round on the working variables a to h. -/
def shaMix {w : Nat} (p : Sha w) (kw : BitVec w) (v : List (BitVec w)) : List (BitVec w) :=
  match v with
  | [a, b, c, d, e, f, g, h] =>
    let t1 := h + shaBig p.big1 e + ((e &&& f) ^^^ (~~~e &&& g)) + kw
    let t2 := shaBig p.big0 a + ((a &&& b) ^^^ (a &&& c) ^^^ (b &&& c))
    [t1 + t2, a, b, c, d + t1, e, f, g]
  | l => l

/-- One round: the schedule's next 16 words and the working variables. -/
def shaRound {w : Nat} (p : Sha w) (x : List (BitVec w) × List (BitVec w)) (k : Nat) :
    List (BitVec w) × List (BitVec w) :=
  let m := x.1
  let w0 := m.getD 0 0#w
  let next := shaSmall p.small1 (m.getD 14 0#w) + m.getD 9 0#w + shaSmall p.small0 (m.getD 1 0#w) + w0
  (m.drop 1 ++ [next], shaMix p (BitVec.ofNat w k + w0) x.2)

def shaBlock {w : Nat} (p : Sha w) (h : List (BitVec w)) (b : List Byte) : List (BitVec w) :=
  let m := (List.range 16).map (fun i => BitVec.ofNat w (beNat (slice_ b (w / 8 * i) (w / 8))))
  (h.zip (p.k.foldl (shaRound p) (m, h)).2).map (fun x => x.1 + x.2)

def shaBlocks {w : Nat} (p : Sha w) : Nat → List (BitVec w) → List Byte → List (BitVec w)
  | 0, h, _ => h
  | n + 1, h, b => shaBlocks p n (shaBlock p h (b.take (2 * w))) (b.drop (2 * w))

/-- The message with its padding. -/
def shaPad {w : Nat} (p : Sha w) (b : List Byte) : List Byte :=
  let n := b.length + 1 + p.lenBytes
  b ++ [0x80#8] ++ List.replicate ((2 * w - n % (2 * w)) % (2 * w)) 0#8 ++ beBytes (8 * b.length) p.lenBytes

/-- The digest words, each written big-endian. -/
def shaBytes {w : Nat} (p : Sha w) (b : List Byte) : List Byte :=
  let m := shaPad p b
  (shaBlocks p (m.length / (2 * w)) p.init m).flatMap (fun x => beBytes x.toNat (w / 8))

def sha256 (b : List Byte) : List Byte := shaBytes sha256P b

def sha384 (b : List Byte) : List Byte := (shaBytes sha384P b).take 48

/-- SHA-384 as the number that its 48 bytes spell in a record (R8). -/
def digest384 (l : List Byte) : Nat := bytesToNat (sha384 l)

/-! ## ECDSA P-384 with SHA-384 (FIPS 186-5) -/

def p384 : Nat := 2 ^ 384 - 2 ^ 128 - 2 ^ 96 + 2 ^ 32 - 1
def p384B : Nat :=
  0xb3312fa7e23ee7e4988e056be3f82d19181d9c6efe8141120314088f5013875ac656398d8a2ed19d2a85c8edd3ec2aef
def p384N : Nat :=
  0xffffffffffffffffffffffffffffffffffffffffffffffffc7634d81f4372ddf581a0db248b0a77aecec196accc52973
def p384Gx : Nat :=
  0xaa87ca22be8b05378eb1c71ef320ad746e1d3b628ba79b9859f741e082542a385502f25dbf55296c3a545e3872760ab7
def p384Gy : Nat :=
  0x3617de4a96262c6f5d9e98bf9292dc29f8f41dbd289a147ce9da3113b5f0b8c00a60b1ce1d7e819d7a431d7c90ea0e5f

/-- b to the power of the low k bits of e, modulo m. -/
def powMod (b m : Nat) : Nat → Nat → Nat
  | 0, _ => 1 % m
  | k + 1, e =>
    let h := powMod b m k (e / 2)
    let q := h * h % m
    if e % 2 = 1 then q * b % m else q

/-- Inverse modulo a prime of 384 bits. -/
def invMod (a m : Nat) : Nat := powMod (a % m) m 384 (m - 2)

/-- A point of the curve; none is the point at infinity. -/
abbrev Point := Option (Nat × Nat)

/-- The point with slope l through a and b. -/
def chord (l : Nat) (a b : Nat × Nat) : Point :=
  let x := (l * l + 2 * p384 - a.1 - b.1) % p384
  some (x, (l * (a.1 + p384 - x) + p384 - a.2) % p384)

def ptAdd : Point → Point → Point
  | none, b => b
  | a, none => a
  | some a, some b =>
    if a.1 = b.1 then
      if (a.2 + b.2) % p384 = 0 then none
      else chord ((3 * a.1 * a.1 + p384 - 3) * invMod (2 * a.2) p384 % p384) a b
    else chord ((b.2 + p384 - a.2) * invMod (b.1 + p384 - a.1) p384 % p384) a b

/-- The multiple of a point by the low k bits of e. -/
def ptMul (a : Point) : Nat → Nat → Point
  | 0, _ => none
  | k + 1, e =>
    let h := ptMul a k (e / 2)
    let d := ptAdd h h
    if e % 2 = 1 then ptAdd d a else d

def onCurve (q : Nat × Nat) : Bool :=
  decide (q.1 < p384 ∧ q.2 < p384) && decide (q.2 * q.2 % p384 = (q.1 * q.1 * q.1 + (p384 - 3) * q.1 + p384B) % p384)

/-- ECDSA over SHA-384 of a message: public key an uncompressed point of 97 bytes, signature r, then s.
(PRESUMED: assumption 53) -/
def ecdsaOk (key msg sig : List Byte) : Bool :=
  let q := (beNat (slice_ key 1 48), beNat (slice_ key 49 48))
  let r := beNat (slice_ sig 0 48)
  let s := beNat (slice_ sig 48 48)
  let w := invMod s p384N
  let x := ptAdd (ptMul (some (p384Gx, p384Gy)) 384 (beNat (sha384 msg) * w % p384N))
    (ptMul (some q) 384 (r * w % p384N))
  decide (key.length = 97) && decide (key.getD 0 0#8 = 4#8) && onCurve q && decide (0 < r ∧ r < p384N)
    && decide (0 < s ∧ s < p384N) && (match x with | some v => decide (v.1 % p384N = r) | none => false)

/-! ## HSS (SP 800-208): LMS_SHA256_M32_H20 with LMOTS_SHA256_N32_W4 -/

/-- Digit i of a byte string, in base 16. -/
def coef16 (b : List Byte) (i : Nat) : Nat :=
  let v := (b.getD (i / 2) 0#8).toNat
  if i % 2 = 0 then v / 16 else v % 16

def hashSteps (pre : List Byte) : Nat → Nat → List Byte → List Byte
  | 0, _, t => t
  | n + 1, j, t => hashSteps pre n (j + 1) (sha256 (pre ++ beBytes j 1 ++ t))

/-- The one-time public key that a signature of a message by leaf q of the tree named by `id` gives. -/
def otsCandidate (id : List Byte) (q : Nat) (msg sig : List Byte) : List Byte :=
  let pre := id ++ beBytes q 4
  let d := sha256 (pre ++ beBytes 0x8181 2 ++ slice_ sig 4 32 ++ msg)
  let sum := (List.range 64).foldl (fun a i => a + (15 - coef16 d i)) 0
  let full := d ++ beBytes (16 * sum) 2
  let z := (List.range 67).flatMap (fun i =>
    let a := coef16 full i
    hashSteps (pre ++ beBytes i 2) (15 - a) a (slice_ sig (36 + 32 * i) 32))
  sha256 (pre ++ beBytes 0x8080 2 ++ z)

/-- The root over node r with value t and the rest of its path. -/
def lmsRoot (id : List Byte) : Nat → Nat → List Byte → List Byte → List Byte
  | 0, _, _, t => t
  | n + 1, r, path, t =>
    let two := if r % 2 = 1 then path.take 32 ++ t else t ++ path.take 32
    lmsRoot id n (r / 2) (path.drop 32) (sha256 (id ++ beBytes (r / 2) 4 ++ beBytes 0x8383 2 ++ two))

/-- An LMS signature of 2,828 bytes under a public key of 56: type codes, identifier, root. -/
def lmsOk (key msg sig : List Byte) : Bool :=
  let id := slice_ key 8 16
  let q := beNat (slice_ sig 0 4)
  let leaf := sha256 (id ++ beBytes (2 ^ 20 + q) 4 ++ beBytes 0x8282 2 ++ otsCandidate id q msg (slice_ sig 4 2180))
  decide (key.length = 56) && decide (sig.length = 2828) && decide (beNat (slice_ key 0 4) = 8)
    && decide (beNat (slice_ key 4 4) = 3) && decide (beNat (slice_ sig 4 4) = 3)
    && decide (beNat (slice_ sig 2184 4) = 8) && decide (q < 2 ^ 20)
    && decide (lmsRoot id 20 (2 ^ 20 + q) (slice_ sig 2188 640) leaf = slice_ key 24 32)

/-- An HSS signature of two levels, 5,716 bytes, under a public key of 60.
(PRESUMED: assumption 53) -/
def hssOk (key msg sig : List Byte) : Bool :=
  let mid := slice_ sig 2832 56
  decide (key.length = 60) && decide (beNat (slice_ key 0 4) = 2) && decide (sig.length = 5716)
    && decide (beNat (slice_ sig 0 4) = 1) && lmsOk (slice_ key 4 56) mid (slice_ sig 4 2828)
    && lmsOk mid msg (slice_ sig 2888 2828)

/-! ## Composite signatures (R481 to R483) -/

/-- The domains of R482. -/
inductive SigDomain where
  /-- KFWIMG01, firmware header bytes 0x000 to 0x0FF -/
  | firmware
  /-- KPROFIL1, profile record bytes 0x00 to 0x2F -/
  | profile
  /-- KHOLDY01, a Holdy image's header and section table -/
  | image
  /-- KDBGUNL1, debug token bytes 0x00 to 0x3F -/
  | debug
  /-- KCERT001, the to-be-signed part of a certificate -/
  | cert
  /-- KSPDM001, the transcript hash of a signed response -/
  | spdm
  deriving DecidableEq, Repr

/-- The eight ASCII bytes of a domain, as the number they spell from the first byte up. -/
def domainNo : SigDomain → Nat
  | .firmware => 0x3130474d4957464b
  | .profile => 0x314c49464f52504b
  | .image => 0x313059444c4f484b
  | .debug => 0x314c4e554742444b
  | .cert => 0x313030545245434b
  | .spdm => 0x3130304d4450534b

/-- The signed message: the domain and SHA-384 of the covered content, 56 bytes (R482). -/
def signedMsg (d : SigDomain) (content : List Byte) : List Byte := natToBytes (domainNo d) 8 ++ sha384 content

/-- KEY_ID of a key pair: ECDSA public key of 97 bytes, then HSS public key of 60. -/
def keyIdOf (key : List Byte) : Nat := digest384 key

/-- MAGIC, VERSION and HSS_LEN of a composite signature block at an offset (R481). -/
def sigBlockFits (b : List Byte) (o : Nat) : Bool :=
  decide (le b o 8 = 0x314749534356504B) && decide (le b (o + 8) 2 = 1) && decide (le b (o + 0x0C) 4 = 5716)

/-- The block at an offset verifies under a key pair of 157 bytes (R483). -/
def sigVerifies (key : List Byte) (d : SigDomain) (content b : List Byte) (o : Nat) : Bool :=
  let msg := signedMsg d content
  sigBlockFits b o && decide (key.length = 157) && decide (le b (o + 0x10) 48 = keyIdOf key)
    && ecdsaOk (key.take 97) msg (slice_ b (o + 0x40) 96) && hssOk (key.drop 97) msg (slice_ b (o + 0xA0) 5716)

/-- The block verifies under one of the pairs trusted for its domain. -/
def sigTrusted (keys : List (List Byte)) (d : SigDomain) (content b : List Byte) (o : Nat) : Bool :=
  keys.any (fun k => sigVerifies k d content b o)

end Sys2Proof.Machine
end

