-- ==== Sys2Proof/Machine/Images.lean ====
section
/-! DEFINITION. Holdy images: their layout in HBM, their checks at admission, their records (R345 to R361,
R502, R503). -/

namespace Sys2Proof.Machine

def rBADIMAGE : Nat := 1
def rWRONGPART : Nat := 2
def rSHAPE : Nat := 3
def rBADSEED : Nat := 4
def rCHUNK : Nat := 5
def rBADTREE : Nat := 6
def rNOIDS : Nat := 7
def rNOSILO : Nat := 8
def rFURROW : Nat := 9
def rSWATH : Nat := 10
def rSIGNATURE : Nat := 11
def rWRITABLE : Nat := 12
def rSEEDTIME : Nat := 13
def rNOTADMITTED : Nat := 14
def rINUSE : Nat := 15
def rQUEUEFULL : Nat := 16

/-! ## Header and section table (R346 to R349) -/

/-- A section: type, offset, length and where its table entry lies. -/
structure Section where
  typ : Nat
  off : Nat
  len : Nat
  entry : Nat
  deriving DecidableEq, Repr

def sections (b : List Byte) : List Section :=
  (List.range (le b 0x0A 2)).map (fun k =>
    let e := 0x100 + 80 * k
    { typ := le b e 2, off := le b (e + 8) 8, len := le b (e + 0x10) 8, entry := e })

def findSection (l : List Section) (t : Nat) : Option Section := l.find? (fun x => decide (x.typ = t))

/-- The header is well formed and is the one the reference names (R346, R361).
(DEDUCED: assumption 50) -/
def headerFits (s : State) (a : Adm) (b : List Byte) : Bool :=
  decide (le b 0 8 = 0x474D4959444C4F48) && decide (le b 8 2 = 1)
    && decide (1 ≤ le b 0x0A 2 ∧ le b 0x0A 2 ≤ 15) && decide (le b 0x0D 1 < 8) && zeroAt b 0x0E 2
    && decide (le b 0x10 8 ≠ 0) && decide (le b 0x18 8 % 4096 = 0) && decide (le b 0x18 8 ≥ 8192)
    && decide (a.base + le b 0x18 8 ≤ 2 * hbmG s) && zeroAt b 0x28 24 && zeroAt b 0x70 144
    && decide (le b 0x10 8 = a.serial) && decide (le b 0x40 8 = a.digest)

/-- The section table is well formed (R347, R348). -/
def tableFits (b : List Byte) : Bool :=
  let l := sections b
  let one := fun (x : Section) =>
    decide (1 ≤ x.typ ∧ x.typ ≤ 7) && zeroAt b (x.entry + 2) 6 && decide (x.off % 4096 = 0)
      && decide (x.off ≥ 4096) && decide (x.len % 8 = 0) && zeroAt b (x.entry + 0x18) 8
      && (decide (x.typ ≠ 2 ∧ x.typ ≠ 5) || decide (x.len % 4096 = 0))
      && decide (x.off + x.len ≤ le b 0x18 8)
  let apart := fun (x y : Section) => decide (x.entry = y.entry)
    || (decide (x.typ ≠ y.typ) && decide (x.off + x.len ≤ y.off ∨ y.off + y.len ≤ x.off))
  l.all one && l.all (fun x => l.all (apart x)) && (findSection l 1).isSome && (findSection l 2).isSome

/-- The digest of the header and of every section (R346, R347). -/
def digestsFit (b : List Byte) : Bool :=
  decide (digest384 (b.take 0x40 ++ (b.drop 0x100).take (80 * le b 0x0A 2)) = le b 0x40 48)
    && (sections b).all (fun x => decide (digest384 ((b.drop x.off).take x.len) = le b (x.entry + 0x20) 48))

/-- The image is for this member and this ordering code (R349). -/
def partFits (s : State) (b : List Byte) : Bool := decide (le b 0x0C 1 = 6) && (le b 0x0D 1).testBit s.code

/-! ## Seeds (R350 to R355) -/

/-- A record of a seed (R353): type, ADDR, LEN and body. -/
structure SeedRec where
  typ : Nat
  addr : Nat
  len : Nat
  body : List Byte
  deriving DecidableEq, Repr

/-- A CSR record may name the offset (R354). -/
def seedCsrOk (o : Nat) : Bool :=
  decide (o = oTqLimit) || decide (o = oMcfg) || decide (o = oFurCtl)
    || (decide (0x100 ≤ o ∧ o < 0x300) && decide (o % 0x20 = 0 ∨ o % 0x20 = 8 ∨ o % 0x20 = 0x10))
    || (decide (0x300 ≤ o ∧ o < 0x380) && decide (o % 8 = 0))
    || (decide (0x4000 ≤ o ∧ o < 0x4100) && decide (o % 16 = 0))
    || (decide (0x2800 ≤ o ∧ o < 0x3000) && decide (o % 8 = 0))
    || (decide (0x2100 ≤ o ∧ o < 0x2180) && decide (o % 8 = 0))
    || (decide (0x5200 ≤ o ∧ o < 0x5240) && decide (o % 16 = 0))

/-- The pairs of a CSR record. -/
def csrPairs (r : SeedRec) : List (Nat × Word) :=
  (List.range (r.len / 16)).map (fun i => (le r.body (16 * i) 8, BitVec.ofNat 64 (le r.body (16 * i + 8) 8)))

/-- A record keeps the limits of its type (R353 to R355). -/
def recFits (r : SeedRec) : Bool :=
  match r.typ with
  | 0 => decide (r.addr = 0) && decide (r.len = 0)
  | 1 => decide (r.len % 4 = 0) && decide (r.addr < 4096) && decide (r.addr + r.len / 4 ≤ 4096)
  | 2 => decide (r.addr = 0) && decide (r.len % 16 = 0) && (csrPairs r).all (fun p => seedCsrOk p.1)
  | 3 => decide (r.addr % 8 = 0) && decide (r.addr + r.len ≤ 262144)
  | 4 => decide (r.addr = 0) && decide (r.len = 8)
  | 5 => decide (r.addr % 8 = 0) && decide (r.len = 16) && decide (1 ≤ le r.body 8 2 ∧ le r.body 8 2 ≤ 64)
      && decide (r.addr + le r.body 8 2 * 4064 ≤ 262144)
  | _ => false

/-- What the front of a stream holds: not yet a whole record, a bad one, or a record and what follows. -/
inductive Parsed where
  | short
  | bad
  | ok (r : SeedRec) (rest : List Byte)
  deriving DecidableEq, Repr

def parseRec (l : List Byte) : Parsed :=
  if l.length < 8 then .short
  else
    let h := le l 0 8
    let len := h % 2 ^ 19
    let pad := (len + 7) / 8 * 8
    let r : SeedRec := { typ := h / 2 ^ 56, addr := h / 2 ^ 19 % 2 ^ 18, len := len, body := (l.drop 8).take len }
    if h / 2 ^ 37 % 2 ^ 19 ≠ 0 then .bad
    else if l.length < 8 + pad then .short
    else if recFits r then .ok r (l.drop (8 + pad))
    else .bad

/-- A whole stream ends with END and keeps every limit; its data references lie within `refs` chunks. -/
def streamFits (refs : Nat) : Nat → List Byte → Bool
  | 0, _ => false
  | f + 1, l =>
    match parseRec l with
    | .ok r rest =>
      if r.typ = 0 then true
      else if r.typ = 5 ∧ le r.body 0 8 + le r.body 8 2 > refs then false
      else streamFits refs f rest
    | _ => false

/-- The payloads of a run of chunks. -/
def payloads (b : List Byte) (off : Nat) : Nat → List Byte
  | 0 => []
  | n + 1 => (b.drop off).take 4064 ++ payloads b (off + 4096) n

/-- Every seed of the image is well formed (R351, R353). -/
def seedsFit (b : List Byte) (off cores chunks refs : Nat) : Bool :=
  (List.range cores).all (fun k =>
    streamFits refs (4064 * chunks) (payloads b (off + k * chunks * 4096) chunks))

/-- The seed number of the core at (rx, ry) (R351). -/
def seedNumber (pw ph rx ry : Nat) : Nat :=
  if rx < 2 * pw then ry * (2 * pw) + rx else 2 * pw * (4 * ph) + ry * (2 * pw) + (rx - 2 * pw)

/-! ## Overlay, trees and plan (R220, R356 to R358) -/

def word64 (b : List Byte) (off : Nat) : Word := BitVec.ofNat 64 (le b off 8)

def overlayOf (b : List Byte) (x : Section) : List Word :=
  (List.range (x.len / 8)).map (fun i => word64 b (x.off + 8 * i))

/-- The four words of each sheaf node. -/
def nodesOf (b : List Byte) (x : Section) : List (List Word) :=
  (List.range (x.len / 32)).map (fun i => (List.range 4).map (fun k => word64 b (x.off + 32 * i + 8 * k)))

def ndWord (l : List Word) (i : Nat) : Word := l.getD i 0#64
def ndSheaf (l : List Word) : Nat := bits (ndWord l 0) 9 0
def ndRoot (l : List Word) : Bool := bit (ndWord l 0) 11
def ndKids (l : List Word) : Nat := bits (ndWord l 0) 14 12
def ndPinned (l : List Word) : Bool := bit (ndWord l 0) 15
def ndMask (l : List Word) : Nat := bits (ndWord l 0) 47 32
def ndPlot (l : List Word) : Nat := bits (ndWord l 1) 15 0
def ndTarget (l : List Word) : Nat := bits (ndWord l 1) 47 32
def ndKid (l : List Word) (i : Nat) : Nat := bits (ndWord l 2) (16 * i + 15) (16 * i)
def ndTotal (l : List Word) : Nat := bits (ndWord l 3) 15 0

/-- The children of a node. -/
def kidsOf (l : List Word) : List Nat := (List.range (ndKids l)).map (ndKid l)

/-- Plots reached from a plot through the children, to a depth. -/
def reach (t : List (List Word)) : Nat → List Nat → List Nat
  | 0, l => l
  | f + 1, l =>
    let more := (l.flatMap (fun p => (t.filter (fun x => decide (ndPlot x = p))).flatMap kidsOf)).filter
      (fun p => !l.contains p)
    if more.isEmpty then l else reach t f (l ++ more.eraseDups)

/-- The nodes of one sheaf form one tree with one root, and the root's TOTAL is in range (R220). -/
def treeFits (pw ph : Nat) (t : List (List Word)) : Bool :=
  let sum := t.foldl (fun a x => a + popcount (BitVec.ofNat 16 (ndMask x))) 0
  match t.filter ndRoot with
  | [root] =>
    let plots := t.map ndPlot
    decide (plots.eraseDups.length = t.length)
      && t.all (fun x => decide (ndPlot x < pw * ph) && decide (ndKids x ≤ 4)
          && decide ((kidsOf x).eraseDups.length = ndKids x)
          && (kidsOf x).all (fun p => t.any (fun y => decide (ndPlot y = p) && !ndRoot y
              && decide (ndTarget y = ndPlot x))))
      && decide ((reach t t.length [ndPlot root]).length = t.length)
      && decide (ndTarget root < 16 * pw * ph)
      && decide (sum ≤ ndTotal root ∧ ndTotal root ≤ sum + 64)
      && (ndPinned root || decide (ndTotal root = sum))
  | _ => false

/-- What names the SHEAF_ID of a node before the IDs are allocated: its pinned ID, or its local sheaf number (R357). -/
def ndKey (x : List Word) : Bool × Nat := if ndPinned x then (true, bits (ndWord x 0) 25 16) else (false, ndSheaf x)

/-- The nodes of every SHEAF_ID of the section form a tree, and no plot needs more than 32 nodes (R220). -/
def treesFit (pw ph sheaves : Nat) (l : List (List Word)) : Bool :=
  l.all (fun x => decide (ndSheaf x < sheaves))
    && ((l.map ndKey).eraseDups).all (fun k => treeFits pw ph (l.filter (fun x => decide (ndKey x = k))))
    && l.all (fun x => decide ((l.filter (fun y => decide (ndPlot y = ndPlot x))).length ≤ 32))

/-- What an image's signature covers: header bytes 0x00 to 0x3F and every section table entry but that of the
signature, in table order (R502). -/
def imageCovered (b : List Byte) : List Byte :=
  b.take 0x40 ++ ((sections b).filter (fun x => decide (x.typ ≠ 7))).flatMap (fun x => slice_ b x.entry 80)

/-- The signature section verifies under one of the function's signer pairs (R481 to R483, R502, R503). -/
def signatureFits (f : Fun) (b : List Byte) (x : Section) : Bool :=
  decide (x.len = 5880) && zeroAt b (x.off + 5876) 4 && sigTrusted f.signers .image (imageCovered b) b x.off

/-! ## Admission (R359, R360) -/

/-- Plot columns and rows of function n's partition. -/
def rectDims (s : State) (n : Nat) (p : Word) : Nat × Nat :=
  let w := bits p 11 6 - bits p 23 18 + 1
  (if csrFld s (aFn n fnPair) 63 63 = 1 then w / 2 else w, bits p 5 0 - bits p 17 12 + 1)

def partDims (s : State) (n : Nat) : Nat × Nat := rectDims s n (csrGet s (aFn n fnPart))

/-- An image of these dimensions fits the partition, or the full rectangle of a narrowed one (R350, R407). -/
def dimsFit (s : State) (n pw ph : Nat) : Bool :=
  decide (partDims s n = (pw, ph)) || (match (getFun s n).narrowed with
    | some x => decide (rectDims s n x.1 = (pw, ph))
    | none => false)

/-- Bytes [o, o + len) of the HBM tier lie in part on locked pages, of a function that `sel` selects. -/
def pagesLocked (s : State) (sel : Nat → Bool) (o len : Nat) : Bool :=
  s.funs.any (fun e => sel e.1 && e.2.imgs.any (fun i =>
    decide (i.2.base < o + len) && decide (o < i.2.base + 4096 * i.2.pages)))

/-- Some enabled address window of a core grants WR over a range of the HBM tier. -/
def writableByCore (s : State) (o len : Nat) : Bool :=
  s.cores.any (fun e => (List.range 16).any (fun n =>
    let w := creg e.2 (oAwBase n)
    bit w 63 && bit w 56 && decide (bits w 62 61 = 1) && !bit w 60
      && decide (baseOf w < o + len) && decide (o < baseOf (creg e.2 (oAwLimit n)) + 4096)))

/-- The image as the steward keeps it. -/
def imgOf (a : Adm) (b : List Byte) : Img :=
  let l := sections b
  let none0 : Section := { typ := 0, off := 0, len := 0, entry := 0 }
  let sh := (findSection l 1).getD none0
  let ref := (findSection l 5).getD none0
  let ov := (findSection l 3).getD none0
  let pl := findSection l 6
  let planF := fun (o n : Nat) => match pl with | some x => le b (x.off + o) n | none => 0
  { base := a.base, serial := a.serial, digest := a.digest, pages := le b 0x18 8 / 4096
    pw := le b sh.off 1, ph := le b (sh.off + 1) 1, chunks := le b (sh.off + 2) 1
    siloPages := le b (sh.off + 4) 2, sheaves := le b (sh.off + 6) 2
    seedOff := ((findSection l 2).getD none0).off, refOff := ref.off, refChunks := ref.len / 4096
    overlay := (overlayOf b ov).map (fun w => (bits w 15 0, bit w 16))
    nodes := nodesOf b ((findSection l 4).getD none0)
    periodMin := planF 0 4, periodMax := planF 4 4, estNs := planF 8 8
    notify := (planF 0x10 4).testBit 0, keep := (planF 0x10 4).testBit 1 }

/-- The partition shape section is well formed (R350). -/
def shapeFits (b : List Byte) (x : Section) : Bool :=
  let pg := le b (x.off + 4) 2
  decide (x.len = 64) && decide (1 ≤ le b x.off 1 ∧ le b x.off 1 ≤ 40)
    && decide (1 ≤ le b (x.off + 1) 1 ∧ le b (x.off + 1) 1 ≤ 40)
    && decide (1 ≤ le b (x.off + 2) 1 ∧ le b (x.off + 2) 1 ≤ 64) && decide (le b (x.off + 3) 1 < 2)
    && (if le b (x.off + 3) 1 = 1 then decide (1 ≤ pg ∧ pg ≤ 4095) else decide (pg = 0))
    && decide (le b (x.off + 6) 2 ≤ 1024) && decide (le b (x.off + 8) 2 ≤ 16) && zeroAt b (x.off + 10) 54

/-- The overlay section fits its count and names plots of the partition (R356). -/
def overlayFits (b : List Byte) (l : List Section) (sh : Section) : Bool :=
  let n := le b (sh.off + 8) 2
  match findSection l 3 with
  | none => decide (n = 0)
  | some x => decide (x.len = 8 * n)
      && (overlayOf b x).all (fun w => decide (bits w 63 17 = 0)
        && decide (bits w 15 0 < le b sh.off 1 * le b (sh.off + 1) 1))

/-- The swath plan section is well formed (R358). -/
def planFits (b : List Byte) (l : List Section) : Bool :=
  match findSection l 6 with
  | none => true
  | some x => decide (x.len = 32) && decide (le b (x.off + 0x10) 4 < 4) && zeroAt b (x.off + 0x14) 12

/-- A swath period lies in an image's range. -/
def periodFits (i : Img) (p : Nat) : Bool :=
  (decide (i.periodMin = 0) || decide (i.periodMin ≤ p)) && (decide (i.periodMax = 0) || decide (p ≤ i.periodMax))

/-- The reason to refuse an image whose bytes are b, 0 when there is none (R349 to R360, R367, R503). -/
def refuseImage (s : State) (n : Nat) (a : Adm) (b : List Byte) (poisoned : Bool) : Nat :=
  let f := getFun s n
  let l := sections b
  if !headerFits s a b then rBADIMAGE
  else if !partFits s b then rWRONGPART
  else if poisoned || !tableFits b || !digestsFit b then rBADIMAGE
  else
    let none0 : Section := { typ := 0, off := 0, len := 0, entry := 0 }
    let sh := (findSection l 1).getD none0
    let sd := (findSection l 2).getD none0
    if !shapeFits b sh || !overlayFits b l sh || !planFits b l then rBADIMAGE
    else
      let i := imgOf a b
      if decide (csrFld s (aFn n fnPart) 63 63 = 0) || !dimsFit s n i.pw i.ph then rSHAPE
      else if sd.len ≠ 16 * i.pw * i.ph * i.chunks * 4096 then rBADIMAGE
      else if !seedsFit b sd.off (16 * i.pw * i.ph) i.chunks i.refChunks then rBADSEED
      else if !treesFit i.pw i.ph i.sheaves i.nodes then rBADTREE
      else if !periodFits i (csrFld s aSwathCfg 19 0) then rSWATH
      else match findSection l 7 with
        | none => if f.requireSigned then rSIGNATURE else 0
        | some x => if signatureFits f b x then 0 else rSIGNATURE

/-- The image that an admission names. -/
def sameImg (a : Adm) (i : Img) : Bool :=
  decide (i.base = a.base) && decide (i.serial = a.serial) && decide (i.digest = a.digest)

/-- The reason that list entry or pages give to refuse an image: an entry in use is one with a different image. -/
def refusePlace (s : State) (n : Nat) (a : Adm) (total : Nat) : Nat :=
  if (getFun s n).imgs.any (fun e => decide (e.1 = a.list) && !sameImg a e.2) then rINUSE
  else if pagesLocked s (fun m => decide (m ≠ n)) a.base total || writableByCore s a.base total then rWRITABLE
  else 0

/-- Read a whole image: its header gives TOTAL. -/
def readImage (s : State) (base : Nat) : State × List Byte × Bool :=
  let h := memReadBytes s (hbmAddr base) 0x20
  let total := le h.2.1 0x18 8
  if base + total ≤ 2 * hbmG s ∧ total ≥ 256 then memReadBytes h.1 (hbmAddr base) total
  else memReadBytes h.1 (hbmAddr base) 256

/-- An image reference matches an admitted image: its list entry (R361). -/
def matchImg (f : Fun) (base serial digest : Nat) : Option (Nat × Img) :=
  f.imgs.find? (fun e => decide (e.2.base = base) && decide (e.2.serial = serial) && decide (e.2.digest = digest))

def imgAt (f : Fun) (l : Nat) : Option Img := (f.imgs.find? (fun e => decide (e.1 = l))).map (·.2)

/-- Store an admitted image in list entry l: FN_IMG shows it and its pages are locked (R360). -/
def storeImg (s : State) (n l : Nat) (i : Img) : State :=
  let s := updFun s n (fun f => { f with imgs := f.imgs.filter (fun e => decide (e.1 ≠ l)) ++ [(l, i)] })
  csrSet s (aFn n (fnImg l)) (put (put 0#64 63 63 1) 45 12 (i.base / 4096))

/-- Remove list entry l: its pages unlock. -/
def evictImg (s : State) (n l : Nat) : State :=
  csrSet (updFun s n (fun f => { f with imgs := f.imgs.filter (fun e => decide (e.1 ≠ l)) })) (aFn n (fnImg l)) 0#64

end Sys2Proof.Machine
end

