-- ==== Sys2Proof/Machine/Contexts.lean ====
section
/-! DEFINITION. Contexts of a function: SYNC packets, generations, switches, dispatch of RUN, admission and
teardown (R336, R359 to R378), and the seeding controller (R366). -/

namespace Sys2Proof.Machine

/-! ## The partition -/

/-- The north-west plot of function n's partition: the controller's router (R316). -/
def anchorPlot (s : State) (n : Nat) : Nat := csrFld s (aFn n fnPart) 17 12 * 40 + csrFld s (aFn n fnPart) 23 18

/-- Device plot of a partition-relative one. -/
def partPlot (s : State) (n pw rp : Nat) : Nat :=
  (csrFld s (aFn n fnPart) 17 12 + rp / pw) * 40 + csrFld s (aFn n fnPart) 23 18 + rp % pw

/-- Device core of a partition-relative index ry * W + rx. -/
def partCore (s : State) (n pw r : Nat) : Nat :=
  (4 * csrFld s (aFn n fnPart) 17 12 + r / (4 * pw)) * 160 + 4 * csrFld s (aFn n fnPart) 23 18 + r % (4 * pw)

/-- In redundant mode the twin half lies this many plots east of the primary half; the halves (R450). -/
def halves (s : State) (n : Nat) : List Nat :=
  let a := aFn n fnPart
  if csrFld s (aFn n fnPair) 63 63 = 1 then [0, (csrFld s a 11 6 - csrFld s a 23 18 + 1) / 2] else [0]

/-- Position of a core in the image that its half runs. -/
def relPos (s : State) (n c : Nat) : Nat × Nat :=
  let x := c % 160 - 4 * csrFld s (aFn n fnPart) 23 18
  let w := 4 * (halves s n).getD 1 0
  (if w ≠ 0 ∧ x ≥ w then x - w else x, c / 160 - 4 * csrFld s (aFn n fnPart) 17 12)

/-! ## SYNC packets (R362, R471) -/

def syncWord (code arg : Nat) : Word := put (put 0#64 63 56 code) 55 0 arg

def syncPkt (kind id code arg : Nat) : Packet :=
  mkPacket (mkW0 0xFFFF kind id 0 0 0 tSYNC 0) (mkW1 0xFFFF 0x7FFF 0 0) (syncWord code arg) 0#64 [] 0

/-- The controller of function n sends a code to a core. -/
def syncCore (s : State) (n c code arg : Nat) : State := injectAt s (anchorPlot s n) (syncPkt 0 c code arg)

/-- A code to every core of function n's partition. -/
def syncAll (s : State) (n code arg : Nat) : State := (partCores s n).foldl (fun s c => syncCore s n c code arg) s

/-- A core reports to the controller of its partition. -/
def syncCtl (s : State) (n c code arg : Nat) : State := injectAt s (plotOf c) (syncPkt 3 (anchorPlot s n) code arg)

def syncCode (p : Packet) : Nat := bits p.w2 63 56
def syncArg (p : Packet) (hi lo : Nat) : Nat := bits p.w2 hi lo

/-- The SYNC packet with an id and a code that has arrived. -/
def syncIn (s : State) (id code : Nat) : Option Packet :=
  match findPkt s id with
  | some p => if pType p = tSYNC ∧ syncCode p = code ∧ isLocalDev s (pDstDev p) ∧ arrived s p then some p else none
  | none => none

def scSEEDSTART : Nat := 0x01
def scSEEDED : Nat := 0x02
def scSTART : Nat := 0x03
def scCLEAN : Nat := 0x04
def scSWATH : Nat := 0x05
def scMEMBER : Nat := 0x06
def scFREEZE : Nat := 0x40
def scFROZEN : Nat := 0x41
def scCORERESET : Nat := 0x42
def scPLOTRESET : Nat := 0x43
def scRESETDONE : Nat := 0x44
def scGLEAN : Nat := 0x45
def scGLEANED : Nat := 0x46

/-! ## State and generation (R373 to R375) -/

def ctxState (s : State) (n : Nat) : Nat := csrFld s (aFn n fnCtx) 47 45
def ctxId (s : State) (n : Nat) : Nat := csrFld s (aFn n fnCtx) 63 56
def ctxGen (s : State) (n : Nat) : Nat := csrFld s (aFn n fnCtx) 55 48
def ctxList (s : State) (n : Nat) : Nat := csrFld s (aFn n fnCtx) 43 40
def setCtxState (s : State) (n v : Nat) : State := setCsrFld s (aFn n fnCtx) 47 45 v

/-- The image of the running context. -/
def curImg (s : State) (n : Nat) : Option Img := if ctxState s n = 0 then none else imgAt (getFun s n) (ctxList s n)

/-- Context ID b is not quiet: a memory controller or a yoke port holds a request, a tracker or a filter entry that
carries it, whichever device sent it (R374).
(DEDUCED: assumption 52) -/
def idBusy (s : State) (b : Nat) : Bool :=
  let mine := fun (p : Packet) => decide (pCtx p = b)
  let txn := fun (t : Txn) => match t.pkt with | some p => mine p | none => false
  s.hbmQ.any (fun e => e.2.any (fun j => mine j.pkt)) || s.cxlQ.any (fun e => e.2.any (fun j => mine j.pkt))
    || s.yports.any (fun e => e.2.trackers.any (fun t => mine t.pkt) || e.2.txq.any txn || e.2.rx.any txn)
    || s.inbound.any (fun i => txn i.txn) || s.filter.any (fun e => decide (e.ctx = b))

/-- A free quiet ID: the lowest.
(DEDUCED: assumption 52) -/
def freeCtxId (s : State) : Option Nat :=
  (List.range 255).find? (fun i => decide (fget zeroNat s.ctxIds (i + 1) = 0) && !idBusy s (i + 1)) |>.map (· + 1)

/-- Take the next pair for function n: GEN + 1, or an ID with GEN 0 at a first switch and at a wrap, whose
old ID retires (R373, R374). None while no ID is free.
(DEDUCED: assumption 52) -/
def nextPair (s : State) (n : Nat) : Option State :=
  let a := aFn n fnCtx
  let old := ctxId s n
  if old = 0 ∨ ctxGen s n = 255 then
    (freeCtxId s).map (fun i =>
      let s := { s with ctxIds := fset zeroNat s.ctxIds i 1 }
      let s := if old = 0 then s else { s with ctxIds := fset zeroNat s.ctxIds old 2 }
      setCsrFld (setCsrFld s a 63 56 i) a 55 48 0)
  else some (setCsrFld s a 55 48 (ctxGen s n + 1))

/-- What a core holds of its old generation goes: requests complete "context gone", sends and contributions
are forgotten (R363 step 3, R376).
(DEDUCED: assumption 52) -/
def dropOld (s : State) (c : Nat) : State :=
  let s := (getCore s c).reqs.foldl (fun s r => completeReq s c r.tag stGONE []) s
  let fix := fun (k : Core) =>
    { k with
      reqs := []
      sends := []
      orders := []
      ends := []
      sheafs := []
      landBuf := k.landBuf.filter (fun b => b.seed) }
  updCore s c fix

/-- Write a core's pair. -/
def setPair (s : State) (c ctx gen : Nat) : State :=
  updCore s c (fun k => setCfld (setCfld k oState 63 56 ctx) oState 55 48 gen)

/-- Give every core of the partition the function's pair, after its old requests end. -/
def pairToCores (s : State) (n : Nat) : State :=
  (partCores s n).foldl (fun s c => setPair (dropOld s c) c (ctxId s n) (ctxGen s n)) s

def isRun (r : HReq) : Bool := decide (r.op = opRUN)

/-- The pending RUNs of function n. -/
def runsOf (s : State) (n : Nat) : List HReq := (getFun s n).reqs.filter isRun

/-- CONTEXT_ID_QUIET: a retired ID that nothing carries any more returns to the pool; a silo held for it is
released (R374, R376).
(DEDUCED: assumption 52) -/
def contextIdQuiet (b : Nat) (s : State) : State :=
  if fget zeroNat s.ctxIds b = 2 ∧ !idBusy s b then
    let s := { s with ctxIds := fset zeroNat s.ctxIds b 0 }
    (List.range 64).foldl (fun s n =>
      if (getFun s n).siloUsed = b then updFun s n (fun f => { f with siloUsed := 0 }) else s) s
  else s

/-- CONTEXT_ID_QUIET (R374). -/
def execContextIdQuiet (b : Nat) (s : State) : Out := .next (contextIdQuiet b s)

/-! ## Dispatch (R336, R372, R381) -/

/-- The dispatch message's words (R336, R372). -/
def dispWords (n : Nat) (r : HReq) : List PWord :=
  let w := put (put (put (put 0#64 63 48 n) 47 40 r.ring) 39 24 r.idx) 20 16 r.mtch
  r.entry.take 32 ++ [plain w, plain (BitVec.ofNat 64 r.landTime)]

/-- The image reference of an entry names an image (R361). -/
def refNames (e : List PWord) (i : Img) : Bool :=
  decide (i.base = baseOf (ecWord e 4)) && decide (i.serial = (ecWord e 5).toNat) && decide (i.digest = (ecWord e 6).toNat)

/-- MATCH and LIST of a dispatch: whether the reference names the image of the current context, and the list entry that
it matches (R372). -/
def matchBits (s : State) (n : Nat) (r : HReq) : Nat :=
  let l := match matchImg (getFun s n) (baseOf (ecWord r.entry 4)) (ecWord r.entry 5).toNat (ecWord r.entry 6).toNat with
    | some x => x.1
    | none => r.mtch % 16
  16 * (match curImg s n with | some i => b2n (refNames r.entry i) | none => 0) + l

/-- Send the dispatch message of a request to ring 0 of the anchor. -/
def sendDispatch (s : State) (n : Nat) (r : HReq) : State :=
  let now := s.now.toNat
  let f := getFun s n
  let first := if r.disp = 0 then now else r.dispAt
  let ord := if r.order = 0 then f.order + 1 else r.order
  let r := { r with disp := 1, dispAt := first, lastTry := now, order := ord, mtch := matchBits s n r }
  let s := setReq (updFun s n (fun f => { f with order := max f.order ord })) n r
  let p := mkPacket (mkW0 0xFFFF 0 (anchorOf s n) 0 0 (nflitsFor 34) tMESSAGE (0xD000 + r.ring))
    (mkW1 (ownDev s) 0x7FFF (ctxId s n) (ctxGen s n)) 0#64 (mkMsgW3 0 false 34 0 false 0) (dispWords n r) 0
  injectEdge s 0 { p with orig := 1, origArg := n + 64 * r.ser }

/-- End of the swath that contains device time d, by the anchor of R379, or by the one that a pending period change
sets before d (R380). -/
def swathEnd (s : State) (d : Nat) : Nat :=
  let p := 1000 * csrFld s aSwathCfg 19 0
  let apply := (csrGet s aSwathApply).toNat
  let t := s.swT + (apply - s.swA) * p
  if apply ≠ 0 ∧ t ≤ d then
    let q := 1000 * csrFld s aSwathCfg 51 32
    t + ((d - t) / q + 1) * q
  else s.swT + ((d - s.swT) / p + 1) * p

/-- The image reference of an entry is malformed (R361). -/
def refBad (e : List PWord) (run : Bool) : Bool :=
  decide (bits (ecWord e 4) 63 46 ≠ 0) || decide (bits (ecWord e 4) 11 0 ≠ 0)
    || (if run then decide (ecWord e 7 ≠ 0#64) else decide (bits (ecWord e 7) 61 52 ≠ 0))

/-- The list entry that a RUN's reference matches. -/
def runMatch (s : State) (n : Nat) (e : List PWord) : Option (Nat × Img) :=
  matchImg (getFun s n) (baseOf (ecWord e 4)) (ecWord e 5).toNat (ecWord e 6).toNat

/-- A RUN waits in its ring: seeding, suspended, cleaning, or another switch is queued with no context
(R375).
(DEDUCED: assumption 48) -/
def runStalls (s : State) (n : Nat) (e : List PWord) : Bool :=
  if ecOp e ≠ opRUN ∨ refBad e true then false
  else
    let f := getFun s n
    match ctxState s n with
    | 0 => !f.switches.isEmpty && (runMatch s n e).isSome
    | 1 => true
    | 3 => true
    | 4 => match f.seed with | some c => c.clean | none => false
    | _ => false

/-- Queue a switch; a function holds at most 4 (R370). -/
def queueSwitch (s : State) (n : Nat) (sw : Switch) : State :=
  updFun s n (fun f => if f.switches.length < 4 then { f with switches := f.switches ++ [sw] } else f)

/-- A RUN at dispatch (R369, R372, R375, R381, R465). -/
def runGo (s : State) (n ser : Nat) : State :=
  match findReq s n ser with
  | none => s
  | some r =>
    let done := fun (st : Nat) => finishReq s n ser st 0
    if refBad r.entry true then done csBADCMD
    else if ctxState s n = 4 ∨ ctxState s n = 5 then done csFAILED
    else match runMatch s n r.entry with
      | none => done csBADCMD
      | some (l, img) =>
        let r := { r with mtch := l }
        let t := s.now.toNat
        let d := r.deadline
        if decide (d ≠ 0) && (decide (csrFld s aTimeStat 63 63 = 0) || decide (t > d)
            || decide (t + img.estNs > swathEnd s d)) then
          satCsrFld (done csDROPPED) (aFn n fnCtxStat) 31 16 1
        else if ctxState s n = 0 then
          queueSwitch (setReq s n r) n { list := l, act := 0, cmd := none, carry := some ser, admitting := false }
        else sendDispatch s n r

/-- RUN: intake takes a RUN entry at the head of ring r. -/
def runCmd (n r : Nat) (s : State) : State :=
  if headIs s n r (fun e => decide (ecOp e = opRUN)) then
    let a := intake s n r false (fun s e => runStalls s n e)
    match a.2 with
    | some ser => runGo a.1 n ser
    | none => a.1
  else s

/-- RUN (R335, R336). -/
def execRun (n r : Nat) (s : State) : Out := .next (runCmd n r s)

/-! ## The controller's START (R366) -/

/-- A notice lands in ring 0 of the anchor (R385). -/
def landNotice (s : State) (n tag : Nat) (w0 w1 : Word) : State :=
  let p := mkPacket (mkW0 0xFFFF 0 (anchorOf s n) 0 0 (nflitsFor 2) tMESSAGE tag)
    (mkW1 (ownDev s) 0x7FFF (ctxId s n) (ctxGen s n)) 0#64 (mkMsgW3 0 false 2 0 false 0) [plain w0, plain w1] 0
  injectAt s (anchorPlot s n) { p with orig := 2, origArg := n }

def ntCLEAN : Nat := 0xD100
def ntSWATH : Nat := 0xD101
def ntMEMBER : Nat := 0xD102

/-- START is sent: the context runs, the waiting command completes, held member notices land. -/
def sendStart (s : State) (n : Nat) (c : SeedCtl) : State :=
  let s := syncAll s n scSTART (ctxGen s n * 2 ^ 48 + ctxId s n * 2 ^ 40)
  let cyc := min (2 ^ 32 - 1) (cycles s (fieldOf (physOf s (anchorPlot s n))) - c.cycle)
  let a := aFn n fnSeedStat
  let s := setCsrFld (setCsrFld s a 63 62 2) a 31 0 cyc
  let s := setCtxState s n 2
  let held := (getFun s n).memberNotes
  let s := updFun s n (fun f => { f with seed := none, memberNotes := [] })
  let s := held.foldl (fun s w => landNotice s n ntMEMBER w.1 w.2) s
  match c.cmd with
  | some ser => finishReq s n ser csCOMPLETE 0
  | none => s

/-- START when every core has seeded without failure, the nodes and the overlay are written, and a carried
dispatch has landed or failed; the carried dispatch is sent once the cores have seeded. -/
def trySendStart (s : State) (n : Nat) : State :=
  match (getFun s n).seed with
  | none => s
  | some c =>
    if c.clean || c.failed.isSome || !c.written || decide (c.reported.length < (partCores s n).length) then s
    else match c.carry with
      | none => sendStart s n c
      | some ser =>
        match findReq s n ser with
        | none => sendStart s n c
        | some r => if r.disp = 0 then sendDispatch s n r else if r.disp = 2 then sendStart s n c else s

/-- DISPATCH_RETRY: a bounced dispatch is sent again 10 microseconds after its last try; one not landed 1 ms
after its first attempt completes "dispatch failed" (R336). -/
def dispatchRetry (n ser : Nat) (s : State) : State :=
  match findReq s n ser with
  | none => s
  | some r =>
    let t := s.now.toNat
    if r.disp = 0 ∨ r.disp = 2 then s
    else if t ≥ r.dispAt + 1000000 then trySendStart (finishReq s n ser csDISPATCH 0) n
    else if r.disp = 3 ∧ t ≥ r.lastTry + 10000 then sendDispatch s n r
    else s

/-- DISPATCH_RETRY (R336). -/
def execDispatchRetry (n ser : Nat) (s : State) : Out := .next (dispatchRetry n ser s)

/-- After a landing at core c, the controller of its function may send START. -/
def afterLand (s : State) (c : Nat) : State :=
  match fnOfCore s c with
  | some n => trySendStart s n
  | none => s

/-- MESSAGE_LANDING (R133, R215). -/
def execMessageLanding (c : Nat) (s : State) : Out := .next (afterLand (landingStep c s) c)

/-- LAND_WAIT_EXPIRE (R215). -/
def execLandWaitExpire (c : Nat) (s : State) : Out := .next (afterLand (landExpire c s) c)

/-! ## Switches (R350, R357, R368 to R371) -/

/-- SHEAF_IDs that the contexts of other functions hold. -/
def idsTaken (s : State) (n : Nat) : List Nat := s.funs.flatMap (fun e => if e.1 = n then [] else e.2.sheafIds)

/-- SHEAF_IDs that the pinned trees of an image keep. -/
def pinnedIds (i : Img) : List Nat := ((i.nodes.filter ndPinned).map (fun x => bits (ndWord x 0) 25 16)).eraseDups

/-- SHEAF_IDs that an image needs, a run for each half (R357, R450). -/
def idCount (s : State) (n : Nat) (i : Img) : Nat := i.sheaves * (halves s n).length

/-- The lowest run of free consecutive SHEAF_IDs for an image, unless a pinned one is taken. -/
def findIds (s : State) (n : Nat) (i : Img) : Option Nat :=
  let taken := idsTaken s n
  let pins := pinnedIds i
  let m := idCount s n i
  if pins.any (fun x => taken.contains x) then none
  else (List.range (1025 - m)).find? (fun b =>
    (List.range m).all (fun k => !taken.contains (b + k) && !pins.contains (b + k)))

/-- The SHEAF_ID of a node. -/
def nodeId (base : Nat) (x : List Word) : Nat := if ndPinned x then bits (ndWord x 0) 25 16 else base + ndSheaf x

/-- PLOT_SHEAF_n_CFG and _KIDS of a node in the half that lies h plots east, with relative places translated
(R220, R357, R450). -/
def nodeRegs (s : State) (n base pw h : Nat) (x : List Word) : Word × Word :=
  let w := ndWord x 0
  let target := if ndRoot x then partCore s n pw (ndTarget x) + 4 * h else partPlot s n pw (ndTarget x) + h
  let cfg := put (put (put (put (put (put (put (put 0#64 63 63 1) 62 62 (bits w 10 10)) 61 61 (b2n (ndRoot x)))
    60 58 (ndKids x)) 57 48 (nodeId base x)) 47 32 (ndMask x)) 31 28 (bits (ndWord x 1) 19 16)) 25 11 target
  let kid := fun (i : Nat) => if i < ndKids x then partPlot s n pw (ndKid x i) + h else 0
  (cfg, put (put (put (put (put 0#64 58 44 (ndTotal x)) 43 33 (kid 3)) 32 22 (kid 2)) 21 11 (kid 1)) 10 0 (kid 0))

/-- Write one node into a free node of its plot. -/
def writeNode (s : State) (n base pw h : Nat) (x : List Word) : State :=
  let j := partPlot s n pw (ndPlot x) + h
  let r := nodeRegs s n base pw h x
  match (List.range 32).find? (fun i => decide (pfld (getPlot s j) (oSheafCfg i) 63 63 = 0)) with
  | some i => updPlot (setNode s j i (shNode0 0)) j (fun p => setPreg (setPreg p (oSheafCfg i) r.1) (oSheafKids i) r.2)
  | none => s

/-- Clear the nodes, the overlay and the SHEAF_IDs of function n's context (R228, R376). -/
def clearSheaves (s : State) (n : Nat) : State :=
  let s := (partPlots s n).foldl (fun s j =>
    updPlot (clearNodes s j (fun _ => false)) j (fun p => { p with overlay := [] })) s
  updFun s n (fun f => { f with sheafIds := [], sheafBase := 0 })

/-- Write an image's sheaf nodes and overlay into the partition's routers. -/
def writeSheaves (s : State) (n : Nat) (i : Img) (base : Nat) : State :=
  let s := (halves s n).zipIdx.foldl (fun s h =>
    i.nodes.foldl (fun s x => writeNode s n (base + h.2 * i.sheaves) i.pw h.1 x) s) s
  let fixed := (halves s n).flatMap (fun h =>
    (i.overlay.filter (fun o => o.2)).map (fun o => partPlot s n i.pw o.1 + h))
  let s := (partPlots s n).foldl (fun s j => updPlot s j (fun p =>
    { p with overlay := fixed.foldl (fun m d => fset zeroWord m d 1#64) [] })) s
  let ids := (List.range (idCount s n i)).map (base + ·) ++ pinnedIds i
  updFun s n (fun f => { f with sheafBase := base, sheafIds := ids })

/-- CORE_SEAT of every core of the partition. A core of a twin half has that half's SHEAF_IDs and anchor. -/
def writeSeats (s : State) (n : Nat) (i : Img) (base : Nat) : State :=
  let w := (halves s n).getD 1 0
  (partCores s n).foldl (fun s c =>
    let h := if w ≠ 0 ∧ c % 160 / 4 ≥ csrFld s (aFn n fnPart) 23 18 + w then 1 else 0
    updCore s c (fun k => setCreg k oSeat
      (put (put (put (put (put (put 0#64 63 54 (base + h * i.sheaves)) 53 48 n) 47 42 (i.pw - 1)) 41 36
        (i.ph - 1)) 29 15 (anchorOf s n + 4 * h * w)) 14 0 c))) s

/-- The reason that a switch cannot start, 0 when there is none (R350, R358, R367). -/
def switchReason (s : State) (n : Nat) (i : Option Img) : Nat :=
  match i with
  | none => rNOTADMITTED
  | some i =>
    let f := getFun s n
    if partDims s n ≠ (i.pw, i.ph) then rSHAPE
    else if !periodFits i (csrFld s aSwathCfg 19 0) then rSWATH
    else if i.siloPages * 16 * i.pw * i.ph > f.siloPages
        ∨ (i.siloPages ≠ 0 ∧ f.siloUsed ≠ 0 ∧ f.siloUsed ≠ ctxId s n) then rNOSILO
    else if (findIds s n i).isNone then rNOIDS
    else 0

/-- The most recent dispatched RUN that is still pending (R369). -/
def lastDispatched (s : State) (n : Nat) : Option Nat :=
  ((runsOf s n).foldl (fun (a : Option HReq) r =>
    if r.order = 0 then a
    else match a with
      | some b => if b.order < r.order then some r else a
      | none => some r) none).map (·.ser)

/-- A switch that cannot start leaves the running context as it is.
(DEDUCED: assumption 50) -/
def switchFails (s : State) (n : Nat) (sw : Switch) (reason : Nat) : State :=
  let a := aFn n fnSeedStat
  let s := setCsrFld (setCsrFld s a 63 62 3) a 61 55 reason
  let s := match sw.cmd with | some ser => finishReq s n ser csBADCMD 0 | none => s
  match sw.carry with
  | some ser => if ctxState s n = 0 then finishReq s n ser csBADCMD 0 else s
  | none => s

/-- A switch to an image that fits the full rectangle of a narrowed function restores the rectangle, once its
quadrant is back (R407). -/
def widen (s : State) (n : Nat) (img : Option Img) : State :=
  match (getFun s n).narrowed, img with
  | some x, some i =>
    if rectDims s n x.1 = (i.pw, i.ph) ∧ csrFld s aPwrDomain x.2.2 x.2.2 = 1
        ∧ csrFld s aPwrDomain (32 + x.2.2) (32 + x.2.2) = 0 then
      updFun (csrSet s (aFn n fnPart) x.1) n (fun f => { f with narrowed := none })
    else s
  | _, _ => s

/-- Start a switch: pending requests of the old context complete (R371), the pair advances, the seats, nodes
and overlay are written, SEED_START leaves for every core (R366, R368). -/
def beginSwitch (s : State) (n : Nat) (sw : Switch) : State :=
  let img := imgAt (getFun s n) sw.list
  let s := widen s n img
  let reason := switchReason s n img
  match img with
  | none => switchFails s n sw reason
  | some i =>
    if reason ≠ 0 then switchFails s n sw reason
    else match nextPair s n with
      | none => switchFails s n sw rNOIDS
      | some s =>
        let gone := (runsOf s n).filter (fun r => decide (r.disp ≠ 0) && decide (some r.ser ≠ sw.carry))
        let s := gone.foldl (fun s r => finishReq s n r.ser (if r.deadline ≠ 0 then csDROPPED else csFAILED) 0) s
        let s := match sw.carry with
          | some ser => (match findReq s n ser with | some r => setReq s n { r with disp := 0 } | none => s)
          | none => s
        let base := (findIds s n i).getD 0
        let s := writeSheaves (clearSheaves s n) n i base
        let s := writeSeats s n i base
        let a := aFn n fnCtx
        let s := if ctxState s n = 3 then s else setCtxState s n 1
        let s := wrapCsrFld (setCsrFld s a 43 40 sw.list) a 15 0 1
        let st := aFn n fnSeedStat
        let s := setCsrFld (setCsrFld (setCsrFld s st 63 62 1) st 46 32 0) st 31 0 0
        let ctl : SeedCtl :=
          { clean := false, list := sw.list, cycle := cycles s (fieldOf (physOf s (anchorPlot s n))),
            time := s.now.toNat, reported := [], dropped := 0, failed := none, written := true, cmd := sw.cmd, carry := sw.carry }
        let s := updFun s n (fun f => { f with
          seed := some ctl
          siloUsed := if i.siloPages = 0 then f.siloUsed else ctxId s n })
        syncAll s n scSEEDSTART (ctxGen s n * 2 ^ 48 + ctxId s n * 2 ^ 40 + (i.chunks - 1) * 2 ^ 34
          + (i.base + i.seedOff) / 4096)

/-- The queued switch of function n may start now: its swath has begun and no seeding, drain or suspension
is in the way (R370). -/
def switchDue (s : State) (n : Nat) (sw : Switch) : Bool :=
  decide (ctxState s n = 0 ∨ ctxState s n = 2 ∨ ctxState s n = 5) && (getFun s n).recov.isNone
    && (getFun s n).suspended.isEmpty && (getFun s n).replay.isNone && !sw.admitting
    && (decide (sw.act = 0) || decide (sw.act ≤ s.swathNow))

/-- SWITCH_START: the oldest queued switch starts when it is due. -/
def switchStart (n : Nat) (s : State) : State :=
  match (getFun s n).switches with
  | [] => s
  | sw :: rest =>
    if switchDue s n sw then beginSwitch (updFun s n (fun f => { f with switches := rest })) n sw else s

/-- SWITCH_START (R368, R370). -/
def execSwitchStart (n : Nat) (s : State) : Out := .next (switchStart n s)

/-- A write of FN_SWITCH: the new state and the status of the write (R369). -/
def fnSwitchW (n : Nat) (who : Who) (v : Word) (s : State) : State × Nat :=
  let f := getFun s n
  let ok := decide (who = .steward)
    || (sourceOk s n who && decide (ctxState s n = 2) && f.switches.isEmpty && f.recov.isNone)
  if !ok then (s, 1)
  else if !bit v 63 then (s, 0)
  else
    let carry := if bit v 62 then lastDispatched s n else none
    (switchStart n (queueSwitch s n { list := bits v 51 48, act := 0, cmd := none, carry := carry, admitting := false }), 0)

/-- FN_SWITCH (R369). -/
def execFnSwitch (n : Nat) (who : Who) (v : Word) (s : State) : Out := .next (fnSwitchW n who v s).1

/-! ## SEED (R359, R360, R370) -/

/-- Refuse a SEED with a reason of R367. -/
def refuseSeed (s : State) (n ser reason : Nat) : State :=
  finishReq (setCsrFld s (aFn n fnSeedStat) 61 55 reason) n ser csBADCMD 0

/-- The admission of a SEED has succeeded: an ADMIT_ONLY one completes, another's switch may start in its turn. -/
def seedAdmitted (s : State) (n : Nat) (a : Adm) : State :=
  if a.only then finishReq s n a.ser csCOMPLETE 0
  else updFun s n (fun f => { f with
    switches := f.switches.map (fun x => if x.cmd = some a.ser then { x with admitting := false } else x) })

/-- The admission of a SEED has failed: its switch leaves the queue. -/
def seedRefused (s : State) (n : Nat) (a : Adm) (reason : Nat) : State :=
  let s := updFun s n (fun f => { f with switches := f.switches.filter (fun x => decide (x.cmd ≠ some a.ser)) })
  refuseSeed s n a.ser reason

/-- The list entry holds the very image, or its admission begins (R359). -/
def beginAdmission (s : State) (n : Nat) (a : Adm) : State :=
  let f := getFun s n
  if f.imgs.any (fun e => decide (e.1 = a.list) && sameImg a e.2) then seedAdmitted s n a
  else setFun s n { f with adms := f.adms ++ [a] }

/-- The admission that a SEED's entry asks for. -/
def admOf (ser : Nat) (e : List PWord) : Adm :=
  { ser := ser, list := bits (ecWord e 7) 51 48, only := bit (ecWord e 7) 63, act := bits (ecWord e 7) 47 0,
    base := baseOf (ecWord e 4), serial := (ecWord e 5).toNat, digest := (ecWord e 6).toNat }

/-- A SEED's switch takes its place in the queue before its admission begins; a SEED releases a function that a replay
verdict holds (R370, R478, R479). -/
def seedQueued (s : State) (n : Nat) (a : Adm) : State :=
  let s := if csrFld s (aFn n fnRecov) 63 61 = 2 then setCsrFld s (aFn n fnRecov) 63 61 0 else s
  if a.only then s
  else queueSwitch s n { list := a.list, act := a.act, cmd := some a.ser, carry := none, admitting := true }

/-- A SEED that intake has accepted, other than an eviction: its switch takes its place in the queue; its image is
admitted already, or its admission begins. -/
def seedGo (s : State) (n ser : Nat) : State :=
  match findReq s n ser with
  | none => s
  | some r =>
    let a := admOf ser r.entry
    if refBad r.entry false || decide ((getFun s n).barred = some a.serial) then finishReq s n ser csBADCMD 0
    else if !a.only && decide ((getFun s n).switches.length ≥ 4) then refuseSeed s n ser rQUEUEFULL
    else beginAdmission (seedQueued s n a) n a

/-- A SEED with EVICT: the entry goes, unless it is the current context's image (R360).
(DEDUCED: assumption 50) -/
def evictGo (s : State) (n ser : Nat) : State :=
  match findReq s n ser with
  | none => s
  | some r =>
    let l := bits (ecWord r.entry 7) 51 48
    if refBad r.entry false || (decide (ctxState s n ≠ 0) && decide (ctxList s n = l)) then finishReq s n ser csBADCMD 0
    else finishReq (evictImg s n l) n ser csCOMPLETE 0

/-- Intake of a SEED of one of its three forms. -/
def seedCmd (n r : Nat) (sel : Word → Bool) (go : State → Nat → Nat → State) (s : State) : State :=
  if headIs s n r (fun e => decide (ecOp e = opSEED) && sel (ecWord e 7)) then
    let a := intake s n r false noStall
    match a.2 with
    | some ser => go a.1 n ser
    | none => a.1
  else s

/-- SEED (R359). -/
def execSeed (n r : Nat) (s : State) : Out := .next (seedCmd n r (fun w => !bit w 63 && !bit w 62) seedGo s)

/-- SEED_ADMIT_ONLY (R359). -/
def execSeedAdmitOnly (n r : Nat) (s : State) : Out := .next (seedCmd n r (fun w => bit w 63 && !bit w 62) seedGo s)

/-- SEED_EVICT (R360). -/
def execSeedEvict (n r : Nat) (s : State) : Out := .next (seedCmd n r (fun w => bit w 62) evictGo s)

/-- IMAGE_ADMITTED: the oldest admission of function n ends (R359, R503). -/
def imageAdmitted (n : Nat) (s : State) : State :=
  match (getFun s n).adms with
  | [] => s
  | a :: rest =>
    let s := updFun s n (fun f => { f with adms := rest })
    let r := readImage s a.base
    let s := r.1
    let b := r.2.1
    let why := match refuseImage s n a b r.2.2 with
      | 0 => refusePlace s n a (le b 0x18 8)
      | x => x
    if why = 0 then seedAdmitted (storeImg s n a.list (imgOf a b)) n a
    else
      let s := if why = rSIGNATURE then satCsrFld s aSecVerify 31 16 1 else s
      seedRefused s n a why

/-- IMAGE_ADMITTED (R359). -/
def execImageAdmitted (n : Nat) (s : State) : Out := .next (imageAdmitted n s)

/-! ## TEARDOWN (R376) -/

/-- Discard-drain a partition; its sheaf rounds in progress are discarded (R185, R228). -/
def drainPart (s : State) (n : Nat) : State := abandonRounds ((partCores s n).foldl discardDrain s) (partPlots s n)

/-- The context of function n ends: its pair advances at the cores, its ID retires, its nodes and overlay
go (R376 steps 2, 4, 6). -/
def endContext (s : State) (n : Nat) : State :=
  let old := ctxId s n
  let a := aFn n fnCtx
  let s := drainPart s n
  let s := (partCores s n).foldl (fun s c => setPair (dropOld s c) c old ((ctxGen s n + 1) % 256)) s
  let s := clearSheaves s n
  let s := if old = 0 then s else { s with ctxIds := fset zeroNat s.ctxIds old 2 }
  let s := setCsrFld (setCsrFld (setCsrFld s a 63 56 0) a 55 48 0) a 43 40 0
  updFun (setCtxState s n 0) n (fun f => { f with seed := none, teardown := none })

/-- The steps of a teardown from the discard drain on. -/
def teardownNow (s : State) (n ser : Nat) : State :=
  let s := finishAll s n csFAILED (runsOf s n)
  finishReq (endContext s n) n ser csCOMPLETE 0

/-- A TEARDOWN that intake has accepted. -/
def teardownGo (s : State) (n ser : Nat) : State :=
  match findReq s n ser with
  | none => s
  | some r =>
    if ctxState s n = 0 then finishReq s n ser csCOMPLETE 0
    else
      let was := ctxState s n
      let s := match (getFun s n).seed with
        | some c => (match c.cmd with | some x => finishReq s n x csFAILED 0 | none => s)
        | none => s
      let s := updFun (setCtxState s n 4) n (fun f => { f with seed := none, recov := none, replay := none })
      let s := setCsrFld s (aFn n fnRecov) 63 61 0
      if bit (ecWord r.entry 8) 0 ∧ was = 2 then
        quiescentPass n (updFun s n (fun f => { f with teardown := some ser }))
      else teardownNow s n ser

/-- TEARDOWN: intake takes a TEARDOWN entry at the head of ring r. -/
def teardownCmd (n r : Nat) (s : State) : State :=
  if headIs s n r (fun e => decide (ecOp e = opTEARDOWN)) then
    let a := intake s n r false noStall
    match a.2 with
    | some ser => teardownGo a.1 n ser
    | none => a.1
  else s

/-- TEARDOWN (R376). -/
def execTeardown (n r : Nat) (s : State) : Out := .next (teardownCmd n r s)

/-- A graceful teardown goes on once its drain has ended. -/
def afterDrain (s : State) (n : Nat) : State :=
  match (getFun s n).teardown with
  | some ser => if (fget drain0 s.drains n).active then s else teardownNow s n ser
  | none => s

/-- QUIESCENT_DRAIN (R182). -/
def execQuiescentDrain (n : Nat) (s : State) : Out := .next (afterDrain (quiescentPass n s) n)

/-- QUIESCENT_DRAIN_TIMEOUT (R183). -/
def execQuiescentDrainTimeout (n : Nat) (s : State) : Out := .next (afterDrain (quiescentTimeout n s) n)

/-! ## Failure (R378, R475) -/

/-- The steward begins the recovery of a context that has failed or hangs: FREEZE leaves for every core
(R472, R475). -/
def startRecoveryAt (s : State) (n cause : Nat) (task : Option Nat) : State :=
  let f := getFun s n
  if f.recov.isSome ∨ ctxState s n = 0 ∨ ctxState s n = 5 then s
  else
    let a := aFn n fnRecov
    let s := satCsrFld (setCsrFld s a 55 48 cause) a 15 0 1
    let s := if csrFld s a 63 61 = 4 then s else setCsrFld s a 63 61 1
    let s := satCsrFld s aStwLadder 63 52 1
    let rec_ : Recovery :=
      { cause := cause, step := 1, time := s.now.toNat, task := task,
        frozen := (partCores s n).filter (fun c => s.lost.contains (plotOf c)), missed := [], plots := [],
        gleaned := (partPlots s n).filter (fun j => s.lost.contains j), trunc := false }
    let s := (partCores s n).foldl (fun s c => updCore s c (fun k => { k with latch := none })) s
    syncAll (updFun s n (fun f => { f with recov := some rec_ })) n scFREEZE (cause * 2 ^ 48)

def startRecovery (s : State) (n cause : Nat) : State := startRecoveryAt s n cause none

/-- Seeding fails (R366, R367). -/
def seedFails (s : State) (n core reason : Nat) : State :=
  match (getFun s n).seed with
  | none => s
  | some c =>
    if c.clean then s
    else
      let a := aFn n fnSeedStat
      let s := setCsrFld (setCsrFld (setCsrFld s a 63 62 3) a 61 55 reason) a 46 32 core
      let s := match c.cmd with | some ser => finishReq s n ser csFAILED 0 | none => s
      startRecovery (updFun s n (fun f => { f with seed := none })) n 7

end Sys2Proof.Machine
end

