-- ==== Sys2Proof/Machine/Seeding.lean ====
section
/-! DEFINITION. Seeding and cleaning at a core (R363 to R365, R382), and the controller's gathering of
SEEDED (R366). -/

namespace Sys2Proof.Machine

/-! ## Stopping (R363 steps 1 to 4) -/

/-- No thread is busy and the matrix unit has no queued or active command. -/
def coreIdle (k : Core) : Bool :=
  (List.range 4).all (fun t => (getThread k t).firing.isNone) && k.mq.isEmpty && k.mma.isNone && k.drain.isNone

/-- CORE_AW_n of every core of function n (R553): grants, the control tier, the silo. A grant over locked
pages keeps only RD; in quarantine WR and AT stay on the silo alone and REMOTE windows are off (R477). -/
def awGrant (s : State) (n i : Nat) : Word × Word :=
  let f := getFun s n
  let b := fget zeroWord f.grants (2 * i)
  let l := fget zeroWord f.grants (2 * i + 1)
  let locked := decide (bits b 62 61 = 1) && !bit b 60
    && pagesLocked s (fun _ => true) (baseOf b) (baseOf l + 4096 - baseOf b)
  let q := f.replay.isSome
  let b := if locked || q then put b 56 55 0 else b
  (if q && bit b 60 then put b 63 63 0 else b, l)

/-- The silo window: the partition's silo, without WR over locked pages (R247, R350, R360). -/
def awSilo (s : State) (n : Nat) : Word × Word :=
  match curImg s n with
  | some i =>
    if i.siloPages = 0 then (0#64, 0#64)
    else
      let first := (getFun s n).siloBase
      let last := first + i.siloPages * 16 * i.pw * i.ph - 1
      let w := put 0xA340000000000000#64 45 12 first
      (if pagesLocked s (fun _ => true) (4096 * first) (4096 * (last + 1 - first)) then put w 56 55 0 else w,
        put 0#64 45 12 last)
  | none => (0#64, 0#64)

def windowsOf (s : State) (n : Nat) : List (Word × Word) :=
  let ctl := if (getFun s n).replay.isSome then 0xE200000000000000#64 else 0xE300000000000000#64
  (List.range 14).map (awGrant s n) ++ [(ctl, 0x00003FFFFFFFF000#64), awSilo s n]

/-- A core with every register of its window at reset but those that R363 step 4 excepts. -/
def seedRegs (k : Core) (ctx gen : Nat) : Core :=
  let keep := put (put 0#64 63 56 ctx) 55 48 gen
  let r := setCreg (setCreg (setCreg { k with regs := [] } oState keep) oSeat (creg k oSeat)) oSpdScrub
    (creg k oSpdScrub)
  (List.range 64).foldl (fun k i => clearSlot k i 127) r

/-- The core as seeding leaves it before its clear: code, memory contents, landing stages, latch and fences
stay. -/
def seedCore (k : Core) (ctx gen now : Nat) : Core :=
  let r := seedRegs k ctx gen
  let fresh := { core0 0 with
    imem := k.imem
    regs := r.regs
    spd := k.spd
    spdPoi := k.spdPoi
    spdFlip := k.spdFlip
    land := k.land
    bounces := k.bounces
    links := (List.range 4).foldl (fun m d =>
      fset link0 m d { link0 d with flit := (getLink k d).flit }) []
    imemCE := k.imemCE
    latch := k.latch
    scrubAt := k.scrubAt }
  { fresh with stallBase := (List.range 4).foldl (fun m t => fset zeroNat m t now) [] }

/-- Write the windows of function n's cores into core c. -/
def writeWindows (s : State) (n c : Nat) : State :=
  (windowsOf s n).zipIdx.foldl (fun s w =>
    coreWrite (coreWrite s c (oAwBase w.2) w.1.1) c (oAwLimit w.2) w.1.2) s

/-- Close every ring of a core. -/
def closeRings (k : Core) : Core :=
  (List.range 16).foldl (fun k r => setCfld k (oRegionPtr r) 63 63 0) k

/-! ## Fetching (R364, R365) -/

/-- The image that a core is seeded from, and the number of its seed. -/
def seedImg (s : State) (c : Nat) : Option (Img × Nat) :=
  match fnOfCore s c with
  | none => none
  | some n =>
    match curImg s n with
    | none => none
    | some i => some (i, seedNumber i.pw i.ph (relPos s n c).1 (relPos s n c).2)

/-- Inject the eight LOADs of a chunk fetch. -/
def fetchLoads (s : State) (c : Nat) (fe : SeedFetch) : State :=
  (List.range 8).foldl (fun s i =>
    let a := hbmAddr (fe.addr + 512 * i)
    let p := mkPacket (reqW0 s a 0 tLOAD) (coreW1 s c) a (reqW3 0 0 (8 * fe.slot + i) 64) []
      (if fe.isRef then 0 else 1)
    injectAt s (plotOf c) { p with orig := 9 }) s

def setSeeding (s : State) (c : Nat) (f : Seeding → Seeding) : State :=
  updCore s c (fun k => { k with seeding := k.seeding.map f })

/-- A free quarter of the seed buffer: chunks in flight and chunks not yet parsed fill it. -/
def freeSlot (v : Seeding) : Option Nat :=
  if v.fetches.length + v.passed.length ≥ 4 then none
  else (List.range 4).find? (fun i => !v.fetches.any (fun f => decide (f.slot = i)))

/-- The next chunk to fetch: the seed's in order, then those of the data references: its reference mark,
chunk, address and destination, with what remains. -/
def nextFetch (i : Img) (k : Nat) (v : Seeding) : Option (SeedFetch × Seeding) :=
  let mk := fun (isRef : Bool) (chunk addr dst : Nat) =>
    { isRef := isRef, slot := 0, chunk := chunk, addr := addr, dst := dst, attempts := 0, time := 0,
      tries := 0 : SeedFetch }
  if v.next < v.chunks then
    some (mk false v.next (v.base + (k * v.chunks + v.next) * 4096) 0, { v with next := v.next + 1 })
  else if v.ended && decide (v.parse = v.chunks) then
    match v.refs with
    | [] => none
    | r :: rest =>
      let rest := if r.n ≤ 1 then rest else { first := r.first + 1, n := r.n - 1, dst := r.dst + 4064 } :: rest
      some (mk true r.first (i.base + i.refOff + r.first * 4096) r.dst, { v with refs := rest })
  else none

/-- Start chunk fetches while the seed buffer has room.
(DEDUCED: assumption 50) -/
def fillFetches (c : Nat) : Nat → State → State
  | 0, s => s
  | f + 1, s =>
    match (getCore s c).seeding, seedImg s c with
    | some v, some (i, k) =>
      match freeSlot v, nextFetch i k v with
      | some slot, some (fe, v') =>
        let fe := { fe with slot := slot, time := s.now.toNat }
        let s := setSeeding s c (fun _ => { v' with fetches := v'.fetches ++ [fe] })
        fillFetches c f (fetchLoads s c fe)
      | _, _ => s
    | _, _ => s

/-- SEEDED with FAIL and a reason. -/
def seedReport (s : State) (c fail reason : Nat) : State :=
  let s := setSeeding s c (fun v => { v with step := 3, fetches := [], passed := [] })
  let s := updCore s c (fun k => { k with landBuf := k.landBuf.filter (fun b => !b.seed) })
  match fnOfCore s c with
  | some n => syncCtl s n c scSEEDED (fail * 2 ^ 55 + reason * 2 ^ 48 + c)
  | none => s

/-- Steps 2 to 5 of R363 at a stopped core: the first fetches leave and the clear begins. -/
def seedProceed (s : State) (c : Nat) (v : Seeding) : State :=
  let s := discardDrain s c
  let s := setPair (dropOld (updCore s c closeRings) c) c v.ctx v.gen
  let now := coreCycles s c
  let s := updCore s c (fun k => { seedCore k v.ctx v.gen now with
    seeding := some { v with step := 2, clearAt := now } })
  let s := match fnOfCore s c with | some n => writeWindows s n c | none => s
  fillFetches c 4 s

/-! ## Cleaning (R382) -/

/-- The rings of the seed's RINGS record, empty and open. -/
def restoreRings (k : Core) : Core :=
  (List.range 16).foldl (fun k r =>
    if ringExists k r then
      setCreg (setRing k r []) (oRegionPtr r) (put 0#64 63 63 (b2n (k.seedRings.testBit r)))
    else k) k

/-- The clean of function n is done: the other dispatched requests complete, the context runs, a notice
lands. -/
def cleanDone (s : State) (n : Nat) (v : SeedCtl) : State :=
  let gone := (runsOf s n).filter (fun r => decide (r.disp ≠ 0))
  let s := finishAll s n csDROPPED gone
  let a := aFn n fnCtxStat
  let s := satCsrFld (satCsrFld s a 31 16 gone.length) a 47 32 1
  let s := updFun (setCtxState s n 2) n (fun f => { f with seed := none })
  landNotice s n ntCLEAN (BitVec.ofNat 64 s.swathNow) (BitVec.ofNat 64 (v.dropped + gone.length))

/-- A core has cleaned.
(DEDUCED: assumption 51) -/
def coreCleaned (s : State) (c : Nat) : State :=
  match fnOfCore s c with
  | none => s
  | some n =>
    match (getFun s n).seed with
    | none => s
    | some v =>
      let v := { v with reported := c :: v.reported }
      let s := updFun s n (fun f => { f with seed := some v })
      if v.clean ∧ v.reported.length ≥ (partCores s n).length then cleanDone s n v else s

/-- Steps 2 and 3 of R363 and the rest of R382 at a stopped core.
(DEDUCED: assumption 51) -/
def cleanProceed (s : State) (c : Nat) (v : Seeding) : State :=
  let s := abandonRounds (discardDrain s c) [plotOf c]
  let s := setPair (dropOld (updCore s c closeRings) c) c v.ctx v.gen
  let s := startSwitch (updCore s c restoreRings) c
  let s := updCore s c (fun k => { setCfld k oState 47 47 1 with seeding := none })
  coreCleaned s c

/-- A core that has stopped goes on. -/
def stopDone (s : State) (c : Nat) : State :=
  match (getCore s c).seeding with
  | none => s
  | some v =>
    if v.step ≠ 1 then s
    else if v.clean then cleanProceed s c v
    else seedProceed s c v

/-- A stopping core goes on as soon as it is idle. -/
def stopCheck (s : State) (c : Nat) : State := if coreIdle (getCore s c) then stopDone s c else s

/-- A core begins to stop for a seeding or a clean. -/
def beginStop (s : State) (c : Nat) (v : Seeding) : State :=
  stopCheck (updCore s c (fun k => { setCfld k oState 47 47 0 with seeding := some v })) c

/-- SEED_START: the controller's packet reaches a core. -/
def seedStart (id : Nat) (s : State) : State :=
  match syncIn s id scSEEDSTART with
  | none => s
  | some p =>
    let c := pDstId p
    let v : Seeding :=
      { clean := false, step := 1, cycle := coreCycles s c, ctx := syncArg p 47 40, gen := syncArg p 55 48,
        base := syncArg p 33 0 * 4096, chunks := syncArg p 39 34 + 1, clearAt := 0, cleared := false, next := 0,
        parse := 0, passed := [], stream := [], ended := false, fetches := [], refs := [], openRings := 0 }
    beginStop (dropPkt s id) c v

/-- SEED_START (R363). -/
def execSeedStart (id : Nat) (s : State) : Out := .next (seedStart id s)

/-- CLEAN: the controller's packet reaches a core.
(DEDUCED: assumption 51) -/
def cleanCore (id : Nat) (s : State) : State :=
  match syncIn s id scCLEAN with
  | none => s
  | some p =>
    let c := pDstId p
    let ctx := match fnOfCore s c with | some n => ctxId s n | none => coreCtx (getCore s c)
    let v : Seeding :=
      { clean := true, step := 1, cycle := coreCycles s c, ctx := ctx, gen := syncArg p 55 48,
        base := 0, chunks := 0, clearAt := 0, cleared := false, next := 0, parse := 0, passed := [], stream := [],
        ended := false, fetches := [], refs := [], openRings := 0 }
    beginStop (dropPkt s id) c v

/-- CLEAN (R382). -/
def execClean (id : Nat) (s : State) : Out := .next (cleanCore id s)

/-- SEED_STOP_TIMEOUT: after 32,000 cycles issue stops and the firings and commands are abandoned. -/
def seedStopTimeout (c : Nat) (s : State) : State :=
  match (getCore s c).seeding with
  | none => s
  | some v =>
    if v.step ≠ 1 then s
    else if coreIdle (getCore s c) then stopDone s c
    else if coreCycles s c ≥ v.cycle + 32000 then
      stopDone (abandonMatrix (updCore s c (fun k => abandonFirings k)) c) c
    else s

/-- SEED_STOP_TIMEOUT (R363). -/
def execSeedStopTimeout (c : Nat) (s : State) : Out := .next (seedStopTimeout c s)

/-! ## Parsing (R353 to R355, R364) -/

/-- Bytes as words with the mask of the bytes that are there. -/
def maskedWords : Nat → List Byte → List (Word × Word)
  | 0, _ => []
  | f + 1, l =>
    if l.isEmpty then []
    else
      let b := l.take 8
      (BitVec.ofNat 64 (2 ^ (8 * b.length) - 1), BitVec.ofNat 64 (bytesToNat b)) :: maskedWords f (l.drop 8)

/-- Write bytes into a core's scratchpad from an 8-aligned address. -/
def spdWriteSeed (s : State) (c addr : Nat) (l : List Byte) : State :=
  (maskedWords (l.length + 1) l).zipIdx.foldl (fun s w =>
    spdWrite s c (addr / 8 + w.2) w.1.1 ⟨w.1.2, false⟩) s

/-- Write a CODE record. -/
def writeCode (k : Core) (idx : Nat) (l : List Byte) : Core :=
  { k with imem := (List.range (l.length / 4)).foldl (fun m i =>
    fset (fun _ => 0#32) m (idx + i) (BitVec.ofNat 32 (le l (4 * i) 4))) k.imem }

/-- Write one pair of a CSR record; true when a task's EN check fails. -/
def csrSeed (s : State) (c : Nat) (p : Nat × Word) : State × Bool :=
  if p.1 = oFurCtl then
    (updCore s c (fun k => setCfld (setCfld k oFurCtl 60 60 (bits p.2 60 60)) oFurCtl 47 32
      (max 16 (bits p.2 47 32))), false)
  else
    let s := coreWrite s c p.1 p.2
    (s, decide (0x100 ≤ p.1 ∧ p.1 < 0x300 ∧ p.1 % 0x20 = 0) && bit p.2 63
      && decide (cfld (getCore s c) p.1 63 63 = 0))

/-- Write a record; true when the seed is bad.
(DEDUCED: assumption 50) -/
def applyRec (s : State) (c : Nat) (r : SeedRec) : State × Bool :=
  match r.typ with
  | 0 => (setSeeding s c (fun v => { v with ended := true }), false)
  | 1 => (updCore s c (fun k => writeCode k r.addr r.body), false)
  | 2 => (csrPairs r).foldl (fun a p => if a.2 then a else csrSeed a.1 c p) (s, false)
  | 3 => (spdWriteSeed s c r.addr r.body, false)
  | 4 => (setSeeding s c (fun v => { v with openRings := le r.body 0 2 }), false)
  | 5 =>
    let d : DataRef := { first := le r.body 0 8, n := le r.body 8 2, dst := r.addr }
    (setSeeding s c (fun v => { v with refs := v.refs ++ [d] }), false)
  | _ => (s, true)

/-- Parse the whole records at the front of the stream; true when the seed is bad. -/
def parseStream (c : Nat) : Nat → State → State × Bool
  | 0, s => (s, false)
  | f + 1, s =>
    match (getCore s c).seeding with
    | none => (s, false)
    | some v =>
      if v.ended then (setSeeding s c (fun v => { v with stream := [] }), false)
      else match parseRec v.stream with
        | .short => (s, false)
        | .bad => (s, true)
        | .ok r rest =>
          let a := applyRec (setSeeding s c (fun v => { v with stream := rest })) c r
          if a.2 then a else parseStream c f a.1

/-- A link that the schedule names is fenced (R154). -/
def namesFenced (s : State) (c : Nat) : Bool :=
  (schedMoves (getCore s c)).any (fun m => linkExists s c m.2.1 && linkOff s c m.2.1)

/-- FUR_SILO of a core (R363 step 7).
(DEDUCED: assumption 50) -/
def siloWord (s : State) (n c : Nat) (i : Img) : Word :=
  if i.siloPages = 0 then 0#64
  else
    let r := relPos s n c
    put (put (put 0#64 63 63 1) 57 46 i.siloPages) 45 12
      ((getFun s n).siloBase + (r.2 * 4 * i.pw + r.1) * i.siloPages)

/-- Open the rings of a mask. -/
def openRingsOf (k : Core) (m : Nat) : Core :=
  (List.range 16).foldl (fun k r =>
    if ringExists k r && m.testBit r then setCfld k (oRegionPtr r) 63 63 1 else k) k

/-- The elastic queues of a core enter spill state at seeding: those with ELASTIC and an extension of at least 16 entries
(R172, FUR_QCFG_n). -/
def setElastic (k : Core) : Core :=
  (List.range 16).foldl (fun k q =>
    if hasExt k q && decide (extCap k q ≥ 16) && decide (cfld k (oFurQcfg q) 63 63 = 1)
        && decide (1 ≤ qKind k q ∧ qKind k q ≤ 3) then
      setQueue k q { getQueue k q with spill := true, elastic := true }
    else k) k

/-- Steps 7 and 8 of R363. -/
def seedFinish (s : State) (c : Nat) (v : Seeding) : State :=
  match fnOfCore s c, seedImg s c with
  | some n, some (i, _) =>
    let s := startSwitch (updCore (coreWrite s c oFurSilo (siloWord s n c i)) c setElastic) c
    if cfld (getCore s c) oFurCtl 63 63 = 0 then
      seedReport s c 1 (if namesFenced s c then rFURROW else rBADSEED)
    else
      let open_ := fun k => { openRingsOf k v.openRings with seedRings := v.openRings }
      seedReport (updCore s c open_) c 0 0
  | _, _ => s

/-- Parse the chunks that have passed, in order, once the clear is complete; then fetch on, or finish. -/
def seedProgress (c : Nat) : Nat → State → State
  | 0, s => s
  | f + 1, s =>
    match (getCore s c).seeding with
    | none => s
    | some v =>
      if v.step ≠ 2 ∨ !v.cleared then s
      else match v.passed.find? (fun x => decide (x.1 = v.parse)) with
        | some x =>
          let v' := { v with
            stream := v.stream ++ x.2
            parse := v.parse + 1
            passed := v.passed.filter (fun y => decide (y.1 ≠ v.parse)) }
          let a := parseStream c ((v.stream.length + x.2.length) / 8 + 2) (setSeeding s c (fun _ => v'))
          if a.2 then seedReport a.1 c 1 rBADSEED else seedProgress c f (fillFetches c 4 a.1)
        | none =>
          if v.parse < v.chunks then s
          else if !v.ended then seedReport s c 1 rBADSEED
          else
            let s := fillFetches c 4 s
            match (getCore s c).seeding with
            | some v => if v.fetches.isEmpty ∧ v.refs.isEmpty then seedFinish s c v else s
            | none => s

/-! ## Chunk checks (R352, R365) -/

/-- The word of a chunk at place p, from the beats that have landed. -/
def chunkWord (k : Core) (fe : SeedFetch) (p : Nat) : Option PWord :=
  let tag := 8 * fe.slot + p / 64
  let off := 8 * (p % 64)
  let a := (hbmAddr (fe.addr + 512 * (p / 64))).toNat
  match k.landBuf.find? (fun b => b.seed && decide (b.tag = tag) && decide (b.addr = a) && decide (b.off ≤ off)
      && decide (off < b.off + 8 * b.words.length)) with
  | some b => b.words[(off - b.off) / 8]?
  | none => none

/-- All 512 words of a chunk, when they have landed. -/
def chunkWords (k : Core) (fe : SeedFetch) : Option (List PWord) :=
  (List.range 512).mapM (chunkWord k fe)

/-- A request of the chunk has completed with an error. -/
def chunkError (k : Core) (fe : SeedFetch) : Bool :=
  k.landBuf.any (fun b => b.seed && decide (b.tag / 8 = fe.slot) && b.words.isEmpty
    && decide (b.addr = (hbmAddr (fe.addr + 512 * (b.tag % 8))).toNat))

/-- The trailer that a chunk must carry.
(DEDUCED: assumption 50) -/
def trailerOf (serial k c : Nat) (payload : List Byte) : Nat :=
  bytesToNat (sha256 (payload ++ natToBytes k 4 ++ natToBytes c 2 ++ [0#8, 0#8] ++ natToBytes serial 8))

def chunkGood (i : Img) (k : Nat) (fe : SeedFetch) (ws : List PWord) : Bool :=
  let b := ws.flatMap (fun w => natToBytes w.val.toNat 8)
  ws.all (fun w => !w.poi)
    && decide (trailerOf i.serial (if fe.isRef then 0xFFFFFFFF else k) fe.chunk (b.take 4064) = le b 4064 32)

def dropBeats (s : State) (c slot : Nat) : State :=
  updCore s c (fun k => { k with
    landBuf := k.landBuf.filter (fun b => !b.seed || decide (b.tag / 8 ≠ slot)) })

def putFetch (s : State) (c : Nat) (fe : SeedFetch) : State :=
  setSeeding s c (fun v => { v with
    fetches := v.fetches.map (fun x => if x.slot = fe.slot then fe else x) })

/-- An attempt at a chunk fails: it is requested again, up to 8 times. -/
def attemptFails (s : State) (c : Nat) (fe : SeedFetch) : State :=
  let s := dropBeats s c fe.slot
  if fe.attempts ≥ 8 then seedReport s c 1 rCHUNK
  else
    let s := match fnOfCore s c with | some n => satCsrFld s (aFn n fnCtxStat) 63 48 1 | none => s
    let fe := { fe with attempts := fe.attempts + 1, time := s.now.toNat, tries := 0 }
    fetchLoads (putFetch s c fe) c fe

/-- A chunk has passed: a seed chunk waits for its turn, the payload of a reference is written. -/
def chunkPassed (s : State) (c : Nat) (fe : SeedFetch) (payload : List Byte) : State :=
  let s := dropBeats s c fe.slot
  let s := setSeeding s c (fun v => { v with
    fetches := v.fetches.filter (fun x => decide (x.slot ≠ fe.slot))
    passed := if fe.isRef then v.passed else v.passed ++ [(fe.chunk, payload)] })
  let s := if fe.isRef then spdWriteSeed s c fe.dst payload else s
  seedProgress c 70 s

/-- CHUNK_CHECK: a chunk whose words have landed, or one of whose requests failed, is checked. -/
def chunkCheck (c : Nat) (isRef : Bool) (chunk : Nat) (s : State) : State :=
  match (getCore s c).seeding, seedImg s c with
  | some v, some (i, k) =>
    if v.step ≠ 2 then s
    else match v.fetches.find? (fun f => decide (f.isRef = isRef) && decide (f.chunk = chunk)) with
      | none => s
      | some fe =>
        if chunkError (getCore s c) fe then attemptFails s c fe
        else match chunkWords (getCore s c) fe with
          | none => s
          | some ws =>
            if chunkGood i k fe ws then
              chunkPassed s c fe ((ws.flatMap (fun w => natToBytes w.val.toNat 8)).take 4064)
            else attemptFails s c fe
  | _, _ => s

/-- CHUNK_CHECK (R364, R365). -/
def execChunkCheck (c : Nat) (isRef : Bool) (chunk : Nat) (s : State) : Out :=
  .next (chunkCheck c isRef chunk s)

/-- SEED_CLEAR_COMPLETE: 1,024 cycles after it began, every scratchpad word is zero. -/
def seedClearComplete (c : Nat) (s : State) : State :=
  match (getCore s c).seeding with
  | none => s
  | some v =>
    if v.clean ∨ v.step ≠ 2 ∨ v.cleared ∨ coreCycles s c < v.clearAt + 1024 then s
    else
      let clr := fun k => { k with spd := [], spdPoi := [], spdFlip := [], seeding := some { v with cleared := true } }
      seedProgress c 70 (updCore s c clr)

/-- A chunk fetch's timer expires (R207): its LOADs are sent again, twice; then the attempt fails. -/
def seedFetchTimeout (c i : Nat) (s : State) : State :=
  match (getCore s c).seeding with
  | none => s
  | some v =>
    match v.fetches[i]? with
    | none => s
    | some fe =>
      if !timedOut s c 0xFFFF fe.time then s
      else if fe.tries < 2 then
        let fe := { fe with tries := fe.tries + 1, time := s.now.toNat }
        fetchLoads (putFetch s c fe) c fe
      else attemptFails s c fe

/-- TRACK_TIMEOUT (R207, R365). -/
def execTrackTimeout (c : Nat) (x : TimerRef) (s : State) : Out :=
  .next (match x with | .seed i => seedFetchTimeout c i s | y => trackTimeout c y s)

/-! ## The controller (R366) -/

/-- SEEDED: the controller takes a report. -/
def seededIn (id : Nat) (s : State) : State :=
  match syncIn s id scSEEDED with
  | none => s
  | some p =>
    match fnOfPlot s (pDstId p) with
    | none => dropPkt s id
    | some n =>
      let s := dropPkt s id
      let c := syncArg p 14 0
      match (getFun s n).seed with
      | none => s
      | some v =>
        if v.clean ∨ v.reported.contains c then s
        else if syncArg p 55 55 = 1 then seedFails s n c (syncArg p 54 48)
        else trySendStart (updFun s n (fun f => { f with seed := some { v with reported := c :: v.reported } })) n

/-- SEEDED (R366). -/
def execSeeded (id : Nat) (s : State) : Out := .next (seededIn id s)

/-- START: a core of the new pair runs. -/
def startIn (id : Nat) (s : State) : State :=
  match syncIn s id scSTART with
  | none => s
  | some p =>
    let c := pDstId p
    let s := dropPkt s id
    let k := getCore s c
    if coreCtx k = syncArg p 47 40 ∧ coreGen k = syncArg p 55 48 then
      setCore s c { setCfld k oState 47 47 1 with seeding := none }
    else s

/-- START (R366). -/
def execStart (id : Nat) (s : State) : Out := .next (startIn id s)

/-- SEED_TIMEOUT: reports not complete 10 ms after SEED_START. -/
def seedTimeout (n : Nat) (s : State) : State :=
  match (getFun s n).seed with
  | none => s
  | some v =>
    if !v.clean ∧ v.reported.length < (partCores s n).length ∧ s.now.toNat ≥ v.time + 10000000 then
      seedFails s n 0 rSEEDTIME
    else s

/-- SEED_TIMEOUT (R366). -/
def execSeedTimeout (n : Nat) (s : State) : Out := .next (seedTimeout n s)

end Sys2Proof.Machine
end

