-- ==== Sys2Proof/Machine/Swath.lean ====
section
/-! DEFINITION. Swaths: boundaries, period changes, drops and cleans, notices (R379 to R385, R295). -/

namespace Sys2Proof.Machine

/-- The period of the current anchor, in nanoseconds. -/
def swathPeriod (s : State) : Nat := 1000 * csrFld s aSwathCfg 19 0

/-- The swath that contains device time d, by the anchor of R379; 0 before the anchor. -/
def swathOf (s : State) (d : Nat) : Nat := if d < s.swT then 0 else s.swA + (d - s.swT) / swathPeriod s

/-- A boundary is due: the target exceeds the current number, and a catch-up boundary comes 1 microsecond after
the one before.
(DEDUCED: assumption 57) -/
def boundaryDue (s : State) : Bool :=
  let t := s.now.toNat
  let last := (csrGet s aSwathStart).toNat
  decide (csrFld s aTimeStat 63 63 = 1) && decide (swathOf s t > s.swathNow)
    && (decide (t < last) || decide (t ≥ last + 1000))

/-- The functions that own a partition. -/
def partFns (s : State) : List Nat :=
  (List.range 64).filter (fun n => decide (csrFld s (aFn n fnPart) 63 63 = 1))

/-- A packet of the steward to the controller of function n. -/
def stewardSync (s : State) (n code arg : Nat) : State := injectEdge s 17 (syncPkt 3 (anchorPlot s n) code arg)

/-- Begin a clean of function n, whose boundary dropped some requests (R382).
(DEDUCED: assumption 51) -/
def beginClean (s : State) (n dropped : Nat) : State :=
  match nextPair s n with
  | none => s
  | some s =>
    let ctl : SeedCtl :=
      { clean := true, list := ctxList s n, cycle := cycles s (fieldOf (physOf s (anchorPlot s n))),
        time := s.now.toNat, reported := [], dropped := dropped, failed := none, written := true, cmd := none,
        carry := none }
    let s := updFun (setCtxState s n 4) n (fun f => { f with seed := some ctl })
    syncAll s n scCLEAN (ctxGen s n * 2 ^ 48)

/-- The end of swath S for one running context: its requests of S drop, and a clean begins unless KEEP
(R382, R383). -/
def endSwathFn (swath : Nat) (s : State) (n : Nat) : State :=
  if ctxState s n ≠ 2 then s
  else
    let late := (runsOf s n).filter (fun r => decide (r.deadline ≠ 0) && decide (swathOf s r.deadline = swath))
    let s := satCsrFld (finishAll s n csDROPPED late) (aFn n fnCtxStat) 31 16 late.length
    let keep := match curImg s n with | some i => i.keep | none => true
    if late.isEmpty || keep || (getFun s n).recov.isSome then s else beginClean s n late.length

/-- The period change that takes effect at the start of a swath (R380). -/
def applyPeriod (s : State) (swath : Nat) : State :=
  if (csrGet s aSwathApply).toNat = swath ∧ swath ≠ 0 then
    let t := s.swT + (swath - s.swA) * swathPeriod s
    let s := setCsrFld s aSwathCfg 19 0 (csrFld s aSwathCfg 51 32)
    csrSet { s with swA := swath, swT := t } aSwathApply 0#64
  else s

/-- Deliver the committed changes whose swath starts (R295). -/
def deliverDue (s : State) (swath : Nat) : State :=
  let due := s.muster.undelivered.filter (fun c => decide (c.act ≤ swath))
  let s := { s with muster := { s.muster with
    undelivered := s.muster.undelivered.filter (fun c => decide (c.act > swath)) } }
  due.foldl (fun s c =>
    (partFns s).foldl (fun s n =>
      stewardSync s n scMEMBER (c.kind * 2 ^ 48 + c.target * 2 ^ 32 + c.act % 2 ^ 32)) (deliverChange s c)) s

/-- One boundary. -/
def swathBoundary (s : State) : State :=
  if !boundaryDue s then s
  else
    let old := s.swathNow
    let s := (partFns s).foldl (endSwathFn old) s
    let s := applyPeriod (shadowSwathEnd s old) (old + 1)
    let s := csrSet { s with swathNow := old + 1 } aSwathStart s.now
    let s := (partFns s).foldl (fun s n => stewardSync s n scSWATH (old + 1)) s
    deliverDue (holdSeams s) (old + 1)

/-- SWATH_BOUNDARY (R379). -/
def execSwathBoundary (s : State) : Out := .next (swathBoundary s)

/-- A write of SWATH_APPLY: a past or current swath is taken as the next one (R380). -/
def swathApply (v : Word) (s : State) : State :=
  csrSet s aSwathApply (if v = 0#64 then 0#64 else if v.toNat ≤ s.swathNow then BitVec.ofNat 64 (s.swathNow + 1) else v)

/-- SWATH_APPLY (R380). -/
def execSwathApply (v : Word) (s : State) : Out := .next (swathApply v s)

/-- A packet of the steward that has reached the controller of a function: it goes, and the controller acts. -/
def atController (s : State) (id code : Nat) (act : State → Packet → Nat → State) : State :=
  match syncIn s id code with
  | none => s
  | some p =>
    match fnOfPlot s (pDstId p) with
    | some n => act (dropPkt s id) p n
    | none => dropPkt s id

/-- Device time of the boundary at which swath n began: SWATH_START while n is current, by the anchor of R379 later.
(DEDUCED: assumption 51) -/
def boundaryTime (s : State) (n : Nat) : Word :=
  if n = s.swathNow then csrGet s aSwathStart else BitVec.ofNat 64 (s.swT + (n - s.swA) * swathPeriod s)

/-- SWATH_SYNC: a swath notice lands when NOTIFY is set (R385). -/
def swathSync (id : Nat) (s : State) : State :=
  atController s id scSWATH (fun s p n =>
    match curImg s n with
    | some i =>
      let w := syncArg p 47 0
      if i.notify then landNotice s n ntSWATH (BitVec.ofNat 64 w) (boundaryTime s w) else s
    | none => s)

/-- SWATH_SYNC (R385). -/
def execSwathSync (id : Nat) (s : State) : Out := .next (swathSync id s)

/-- MEMBER: a member-change notice lands, after START when the context is seeding (R385). -/
def memberIn (id : Nat) (s : State) : State :=
  atController s id scMEMBER (fun s p n =>
    let w := (BitVec.ofNat 64 (syncArg p 31 0), csrGet s aMstEvent)
    if ctxState s n = 0 then s
    else if ctxState s n = 1 then updFun s n (fun f => { f with memberNotes := f.memberNotes ++ [w] })
    else landNotice s n ntMEMBER w.1 w.2)

/-- MEMBER (R385). -/
def execMember (id : Nat) (s : State) : Out := .next (memberIn id s)

end Sys2Proof.Machine
end

