-- ==== Sys2Proof/Machine/Recovery.lean ====
section
/-! DEFINITION. Hang detection, freezing, gleaning, the steps of a context failure, core, plot, partition and
function resets, suspect replay (R342, R343, R378, R466 to R480). -/

namespace Sys2Proof.Machine

/-! ## Hang detection (R470) -/

/-- LONG_FIRING: the firing of thread t of core c has run for 2^FIRE_LOG2 cycles. -/
def longFiring (c t : Nat) (s : State) : State :=
  match (getThread (getCore s c) t).firing, fnOfCore s c with
  | some fi, some n =>
    if ctxState s n = 2 ∧ coreCycles s c ≥ fi.start + 2 ^ csrFld s aStwHangCfg 63 59 then
      startRecoveryAt s n 2 (some fi.task)
    else s
  | _, _ => s

/-- LONG_FIRING (R470). -/
def execLongFiring (c t : Nat) (s : State) : Out := .next (longFiring c t s)

/-- Some plot of function n has its progress mark set. -/
def anyProgress (s : State) (n : Nat) : Bool := (partPlots s n).any (fun j => (getPlot s j).progress)

/-- Read and clear the marks of function n's plots. -/
def clearProgress (s : State) (n : Nat) : State :=
  (partPlots s n).foldl (fun s j => updPlot s j (fun p => { p with progress := false })) s

/-- NO_PROGRESS: the steward reads and clears the marks; HANG_MS without one is a hang. -/
def noProgress (n : Nat) (s : State) : State :=
  let now := s.now.toNat
  let busy := decide (ctxState s n = 2) && (runsOf s n).any (fun r => decide (r.disp ≠ 0))
  if !busy || anyProgress s n then
    clearProgress (updFun s n (fun f => { f with progressAt := now })) n
  else if now ≥ (getFun s n).progressAt + csrFld s aStwHangCfg 47 32 * 1000000 then startRecovery s n 3
  else s

/-- NO_PROGRESS (R470). -/
def execNoProgress (n : Nat) (s : State) : Out := .next (noProgress n s)

/-- OVERDUE_REQUEST: a dispatched request without a deadline has been pending for REQ_MS.
(DESIGN CHOICE: assumption 54) -/
def overdueRequest (n ser : Nat) (s : State) : State :=
  match findReq s n ser with
  | none => s
  | some r =>
    if ctxState s n = 2 ∧ r.disp ≠ 0 ∧ r.deadline = 0
        ∧ s.now.toNat ≥ r.dispAt + csrFld s aStwHangCfg 31 16 * 1000000 then startRecovery s n 4
    else s

/-- OVERDUE_REQUEST (R470). -/
def execOverdueRequest (n ser : Nat) (s : State) : Out := .next (overdueRequest n ser s)

/-! ## Shared blocks (R469, R470) -/

/-- An HBM access ends "unreachable"; a write has taken effect once or not at all. -/
def hbmFail (s : State) (j : MemJob) : State :=
  let pick := Config.freePick s.free % 2
  let s := { s with free := s.free + 1 }
  match j.fill with
  | some id => fillAnswer s id stUNREACH []
  | none =>
    let s := match j.op with
      | .load _ _ _ _ => s
      | _ => if pick = 0 then s else hbmPerform s { j with resp := false }
    if j.resp then
      match j.op with
      | .load _ _ _ _ => loadError s j.slice j.pkt stUNREACH
      | _ => replySlice s j.slice (statusPacket s j.pkt stUNREACH)
    else s

/-- The packets that wait on a line fetch. -/
def fillPkts (y : Fill) : List Packet :=
  y.ops.filterMap (fun o => match o with | .load p _ _ _ => some p | _ => none)

/-- Reset a granary slice: what waits completes "unreachable", every line is dropped. -/
def resetSlice (s : State) (f : Nat) : State :=
  let v := getSlice s f
  let s := setSlice s f { v with lines := [], fills := [] }
  ((v.fills.flatMap fillPkts).eraseDups).foldl (fun s p => loadError s f p stUNREACH) s

/-- The engine whose transport context an accepted frame is for. -/
def frameEngine (s : State) (f : HFrame) : Option Nat :=
  match f.body with
  | .roce r => (findTc s f.fn (r.qpn % 1024)).map (·.engine)
  | .kht _ _ =>
    match readKht f.body with
    | some (h, _) => (findTc s f.fn h.dtc).map (·.engine)
    | none => none
  | _ => none

/-- The device times at which the requests that a block holds were accepted. -/
def blockTimes (s : State) : Block → List Nat
  | .slice f => (getSlice s f).fills.map (·.time)
  | .group g => (hbmJobs s g).map (·.time)
  | .engine e => (s.ingress.filter (fun f => decide (frameEngine s f = some e))).map (·.time)
  | .yoke p => (getPort s p).trackers.map (·.txn.first)
      ++ ((getPort s p).txq.filter (fun t => t.pkt.isSome)).map (·.first)
  | .cxl p => (cxlJobs s p).map (·.time)

/-- The number under which a block's last completion is kept. -/
def blockNo : Block → Nat
  | .slice f => f
  | .group g => 64 + g
  | .engine e => 16 + e
  | .yoke p => 32 + p
  | .cxl p => 8 + p

/-- The block's oldest accepted request is older than 2 ms, and it has completed none within that time (R470). -/
def blockHangs (s : State) (b : Block) : Bool :=
  (blockTimes s b).any (fun t => decide (s.now.toNat > t + 2000000))
    && decide (s.now.toNat > fget zeroNat s.blockDone (blockNo b) + 2000000)

/-- Every KHT TC of a list receives RESET and closes; queue pairs close. -/
def resetTcs (s : State) (l : List Tc) : State :=
  l.foldl (fun s v => dropTc (if v.qp then s else resetOut s v) v.fn v.num) s

/-- Reset a shared block (R469). -/
def resetBlock (s : State) : Block → State
  | .slice f => resetSlice s f
  | .group g => (hbmJobs s g).foldl hbmFail (setHbmJobs s g [])
  | .engine e => resetTcs s (s.tcs.filter (fun v => decide (v.engine = e)))
  | .yoke p => linkDown p true s
  | .cxl p => cxlLinkDown p 1 (cxlLinkDown p 0 s)

/-- SHARED_BLOCK_HANG: a block that has completed no request for 2 ms is reset.
(DESIGN CHOICE: assumption 54) -/
def sharedBlockHang (b : Block) (s : State) : State :=
  if blockHangs s b then satCsrFld (resetBlock s b) aStwLadder 15 4 1 else s

/-- SHARED_BLOCK_HANG (R469, R470). -/
def execSharedBlockHang (b : Block) (s : State) : Out := .next (sharedBlockHang b s)

/-! ## Freezing (R472, R473) -/

def poiBits (th : Thread) : Word :=
  (List.range 32).foldl (fun w r => if (rdS th r).poi then setBit w r true else w) 0#64

def predWords (th : Thread) : List Word :=
  (List.range 2).map (fun h =>
    (List.range 4).foldl (fun w i => put w (16 * i + 15) (16 * i) (rdP th (4 * h + i)).toNat) 0#64)

def threadWord (th : Thread) : Word :=
  let pc := put 0#64 43 32 th.pc.toNat
  match th.firing with
  | some fi => put (put pc 63 63 1) 51 48 fi.task
  | none => pc

def queueWords (k : Core) (q : Nat) : List Word :=
  match (getQueue k q).buf with
  | e :: _ => (entryWords e).map (fun w => w.val)
  | [] => List.replicate 4 0#64

/-- The state block of R473, in words. -/
def stateBlock (s : State) (c : Nat) : List Word :=
  let k := getCore s c
  let v := coreView s c
  let ts := (List.range 4).map (getThread k)
  let l := [put (put 0#64 63 63 1) 46 32 c, s.now, 0#64, 0#64, v oState, v oFault, v oMunit, v oMcfg]
    ++ (List.range 16).map (fun n => v (oTaskStat n)) ++ (List.range 16).map (fun n => v (oQstat n))
    ++ (List.range 8).map (fun n => v (oTqStat n)) ++ (List.range 16).map (fun n => v (oRegionPtr n))
    ++ [v oFurStat, v oFurPtr, v oFurProbe, v oFurFlits, v oOrder, v oMsgErr, v oSpdEcc, v oSpdStat]
    ++ ts.map threadWord ++ ts.map poiBits
    ++ ts.flatMap (fun th => (List.range 32).map (fun r => (rdS th r).val)) ++ ts.flatMap predWords
    ++ (List.range 16).flatMap (queueWords k)
  l ++ List.replicate (512 - l.length) 0#64

/-- FREEZE: a core stops, latches its state block, abandons its work and reports. -/
def freeze (id : Nat) (s : State) : State :=
  match syncIn s id scFREEZE with
  | none => s
  | some p =>
    let c := pDstId p
    let s := dropPkt s id
    let b := stateBlock s c
    let s := updCore s c (fun k => { abandonFirings k with
      stopped := true
      latch := some b
      seeding := none
      landBuf := k.landBuf.filter (fun x => !x.seed) })
    let s := abandonMatrix s c
    match fnOfCore s c with
    | some n => syncCtl s n c scFROZEN c
    | none => s

/-- FREEZE (R472). -/
def execFreeze (id : Nat) (s : State) : Out := .next (freeze id s)

def setRecov (s : State) (n : Nat) (r : Recovery) : State := updFun s n (fun f => { f with recov := some r })

/-- Bytes of a glean entry (R474). -/
def gleanStride (mode kib : Nat) : Nat :=
  match mode with
  | 0 => 4096
  | 2 => 266240
  | _ => 4096 + kib * 1024

/-- Width of a partition in cores. -/
def partWide (s : State) (n : Nat) : Nat :=
  4 * (csrFld s (aFn n fnPart) 11 6 - csrFld s (aFn n fnPart) 23 18 + 1)

/-- The number of a core's glean entry. -/
def gleanIndex (s : State) (n c : Nat) : Nat :=
  (c / 160 - 4 * csrFld s (aFn n fnPart) 17 12) * partWide s n + (c % 160 - 4 * csrFld s (aFn n fnPart) 23 18)

def gleanMode (s : State) (n : Nat) : Nat := csrFld s (aFn n fnGleanCfg) 62 61
def gleanKib (s : State) (n : Nat) : Nat := csrFld s (aFn n fnGleanCfg) 59 51
def gleanBase (s : State) (n : Nat) : Nat := baseOf (csrGet s (aFn n fnGleanCfg))

/-- HBM offset of a core's glean entry. -/
def gleanAddr (s : State) (n c : Nat) : Nat :=
  gleanBase s n + 0x1000 + gleanIndex s n c * gleanStride (gleanMode s n) (gleanKib s n)

/-- All cores have frozen or been reset: the glean begins, or the recovery goes on without one. -/
def frozenAll (s : State) (n : Nat) (r : Recovery) : State :=
  if r.step ≠ 1 ∨ !(partCores s n).all (fun c => r.frozen.contains c) then setRecov s n r
  else
    let a := aFn n fnGleanStat
    if csrFld s (aFn n fnGleanCfg) 63 63 = 0 then setRecov s n { r with step := 3 }
    else if csrFld s (aFn n fnGleanCfg) 60 60 = 1 ∧ csrFld s a 63 63 = 1 then
      setRecov (satCsrFld s a 47 32 1) n { r with step := 3 }
    else
      let s := setCsrFld s a 63 63 0
      let s := setRecov s n { r with step := 2 }
      (partPlots s n).foldl (fun s j =>
        injectAt s (anchorPlot s n) (syncPkt 3 j scGLEAN
          (gleanMode s n * 2 ^ 54 + gleanKib s n * 2 ^ 45 + gleanAddr s n (coreAt j 0) / 4096))) s

/-- Cores of function n count as frozen. -/
def coresFrozen (s : State) (n : Nat) (l : List Nat) : State :=
  match (getFun s n).recov with
  | none => s
  | some r =>
    frozenAll s n { r with
      frozen := r.frozen ++ l.filter (fun c => !r.frozen.contains c)
      missed := r.missed.filter (fun m => !l.contains m.1) }

/-- FROZEN: the controller takes a report. -/
def frozenIn (id : Nat) (s : State) : State :=
  atController s id scFROZEN (fun s p n => coresFrozen s n [syncArg p 14 0])

/-- FROZEN (R472). -/
def execFrozen (id : Nat) (s : State) : Out := .next (frozenIn id s)

/-- FREEZE_TIMEOUT: a core without FROZEN within FREEZE_TO_US receives a core reset. -/
def freezeTimeout (n c : Nat) (s : State) : State :=
  match (getFun s n).recov with
  | none => s
  | some r =>
    if r.step = 1 ∧ fnOfCore s c = some n ∧ !r.frozen.contains c ∧ !r.missed.any (fun m => decide (m.1 = c))
        ∧ !r.plots.any (fun m => decide (m.1 = plotOf c))
        ∧ s.now.toNat ≥ r.time + csrFld s aStwHangCfg 15 8 * 1000 then
      let s := satCsrFld s aStwLadder 51 40 1
      let s := setRecov s n { r with missed := r.missed ++ [(c, s.now.toNat)] }
      injectEdge s 17 (syncPkt 0 c scCORERESET c)
    else s

/-- FREEZE_TIMEOUT (R472). -/
def execFreezeTimeout (n c : Nat) (s : State) : Out := .next (freezeTimeout n c s)

/-! ## Core and plot resets (R466, R467) -/

/-- A core reset: threads, firings, queue buffers, pass-through registers, switch, matrix unit; rings close;
the pair becomes (0, 0). -/
def coreReset1 (s : State) (c : Nat) : State :=
  let s := abandonMatrix (updCore s c (fun k => abandonFirings k)) c
  let s := setPair (dropOld (updCore s c closeRings) c) c 0 0
  updCore s c (fun k =>
    let k := setCfld (setCfld k oFurCtl 63 63 0) oState 47 47 0
    let k := (List.range 16).foldl (fun k n =>
      if taskState k n = 0 then k else setCfld k (oTaskStat n) 31 30 0) k
    let k := (List.range 16).foldl (fun k q => setQueue k q { getQueue k q with buf := [] }) k
    { k with
      threads := []
      lastIssue := 3
      lastFired := 15
      pass := []
      stopped := false
      seeding := none
      landBuf := []
      waiting := []
      promoted := []
      portFree := 0 })

/-- A unit answers the steward. -/
def resetDonePkt (unit : Nat) : Packet := syncPkt 2 17 scRESETDONE unit

/-- CORE_RESET: the steward's packet reaches a core. -/
def coreResetIn (id : Nat) (s : State) : State :=
  match syncIn s id scCORERESET with
  | none => s
  | some p =>
    let c := pDstId p
    injectAt (coreReset1 (dropPkt s id) c) (plotOf c) (resetDonePkt c)

/-- CORE_RESET (R466). -/
def execCoreReset (id : Nat) (s : State) : Out := .next (coreResetIn id s)

/-- A plot reset: its cores, order tables, window (whose packets go to landing), nodes and overlay; with
`router` also the forwarding path. -/
def plotReset1 (s : State) (j : Nat) (router : Bool) : State :=
  let s := (List.range 16).foldl (fun s b => coreReset1 s (coreAt j b)) s
  let w := (getPlot s j).window
  let s := clearNodes s j (fun _ => false)
  let s := updPlot s j (fun p => { p with rcv := [], window := [], overlay := [] })
  let s := w.foldl (fun s h => passToLanding s h.pkt false) s
  if router then { s with net := s.net.filter (fun p => decide (p.at_ ≠ physOf s j)) } else s

/-- PLOT_RESET: the steward's packet reaches a router. -/
def plotResetIn (id : Nat) (s : State) : State :=
  match syncIn s id scPLOTRESET with
  | none => s
  | some p =>
    let j := syncArg p 10 0
    injectAt (plotReset1 (dropPkt s id) j (decide (syncArg p 11 11 = 1))) j (resetDonePkt (2 ^ 15 + j))

/-- PLOT_RESET (R466). -/
def execPlotReset (id : Nat) (s : State) : Out := .next (plotResetIn id s)

/-- 24 hours, in nanoseconds. -/
def day : Nat := 86400000000000

/-- The steward resets plot j. A second reset of one physical plot within 24 hours is reported as a failed
plot (R479).
(DESIGN CHOICE: assumption 54) -/
def sendPlotReset (s : State) (j router : Nat) : State :=
  let now := s.now.toNat
  let x := physOf s j
  let old := s.plotResets.filter (fun r => decide (now < r.2 + day))
  let s := satCsrFld { s with plotResets := (x, now) :: old } aStwLadder 39 28 1
  let s := if old.any (fun r => decide (r.1 = x)) then note s (.other 441 j) else s
  injectEdge s 17 (syncPkt 3 j scPLOTRESET (router * 2 ^ 11 + j))

/-- What a partition or function reset does when its last plot has answered: an off function, or one more
re-seed (R343, R479). -/
def resetsDone (s : State) (n : Nat) : State :=
  if (getFun s n).fnReset then
    setCsrFld s (aFn n fnStat) 63 61 0
  else
    let l := ctxList s n
    queueSwitch s n { list := l, act := 0, cmd := none, carry := none, admitting := false }

/-- A plot of function n has been reset for a partition reset: its scratchpads read zero. -/
def plotZeroed (s : State) (n j : Nat) : State :=
  if !(getFun s n).resets.contains j then s
  else
    let s := (List.range 16).foldl (fun s b => updCore s (coreAt j b) (fun k =>
      { k with spd := [], spdPoi := [], spdFlip := [] })) s
    let s := updFun s n (fun f => { f with resets := f.resets.filter (fun x => decide (x ≠ j)) })
    if (getFun s n).resets.isEmpty then resetsDone s n else s

/-- The plots of a recovery that have answered. -/
def recovPlot (s : State) (n j : Nat) : State :=
  match (getFun s n).recov with
  | none => s
  | some r =>
    if r.plots.any (fun m => decide (m.1 = j)) then
      coresFrozen (setRecov s n { r with plots := r.plots.filter (fun m => decide (m.1 ≠ j)) }) n
        ((List.range 16).map (coreAt j))
    else s

/-- RESET_DONE at the steward. -/
def resetDoneIn (id : Nat) (s : State) : State :=
  match syncIn s id scRESETDONE with
  | none => s
  | some p =>
    let s := dropPkt s id
    let u := syncArg p 14 0
    if syncArg p 15 15 = 1 then
      match fnOfPlot s u with
      | some n => plotZeroed (recovPlot s n u) n u
      | none => s
    else match fnOfCore s u with
      | some n =>
        match (getFun s n).recov with
        | some r => if r.missed.any (fun m => decide (m.1 = u)) then coresFrozen s n [u] else s
        | none => s
      | none => s

/-- No RESET_DONE from a core within 20 microseconds: a plot reset; from a plot within 50: the plot has
failed (R479). -/
def resetMissing (plot : Bool) (u : Nat) (s : State) : State :=
  match (if plot then fnOfPlot s u else fnOfCore s u) with
  | none => s
  | some n =>
    match (getFun s n).recov with
    | none => s
    | some r =>
      let now := s.now.toNat
      if plot then
        if r.plots.any (fun m => decide (m.1 = u) && decide (now ≥ m.2 + 50000)) then
          recovPlot (note s (.other 441 u)) n u
        else s
      else if r.missed.any (fun m => decide (m.1 = u) && decide (now ≥ m.2 + 20000)) then
        let j := plotOf u
        let s := setRecov s n { r with
          missed := r.missed.filter (fun m => decide (plotOf m.1 ≠ j))
          plots := r.plots ++ [(j, now)] }
        sendPlotReset s j 0
      else s

/-- RESET_DONE (R471, R479): the packet `id` arrives, or with none the answer of a core or plot is overdue. -/
def execResetDone (id : Option Nat) (plot : Bool) (unit : Nat) (s : State) : Out :=
  .next (match id with | some i => resetDoneIn i s | none => resetMissing plot unit s)

/-! ## Gleaning (R474) -/

/-- End of the host window with RD that covers an HBM offset of function n, 0 when there is none. -/
def gleanEnd (s : State) (n o : Nat) : Nat :=
  (List.range 8).foldl (fun e w =>
    let b := csrGet s (aFn n (fnHwBase w))
    let top := baseOf (csrGet s (aFn n (fnHwLimit w))) + 4096
    if bit b 63 && decide (bits b 62 61 = 1) && bit b 60 && decide (baseOf b ≤ o) && decide (o < top) then max e top
    else e) 0

/-- The occupied words of a region, from HEAD, with their header word.
(DEDUCED: assumption 55) -/
def regionSample (s : State) (c r : Nat) : List PWord :=
  let k := getCore s c
  let m := occupied k r
  let head := cfld k (oRegionPtr r) 14 0
  let ws := (List.range m).map (fun i => (spdRead s c ((regBase k r + (head + i) % regSize k r) % 32768)).2)
  plain (put (put 0#64 63 60 r) 46 32 m) :: ws

/-- A core's glean entry in a mode. -/
def gleanEntry (s : State) (c mode kib : Nat) : List PWord :=
  let block := ((getCore s c).latch.getD (List.replicate 512 0#64)).map plain
  match mode with
  | 0 => block
  | 2 => block ++ (List.range 32768).map (fun w => (spdRead s c w).2)
  | _ =>
    let k := getCore s c
    let l := ((List.range 16).filter (regEn k)).flatMap (regionSample s c)
    block ++ (l ++ List.replicate (kib * 128) (plain 0#64)).take (kib * 128)

/-- Write an entry up to the end of the area's window; whether it was cut. -/
def writeEntry (s : State) (o lim : Nat) (l : List PWord) : State × Bool :=
  (memWriteWords s (hbmAddr o) (l.take ((lim - o) / 8)), decide (o + 8 * l.length > lim))

/-- GLEAN: a plot router writes its cores' entries and reports. -/
def gleanIn (id : Nat) (s : State) : State :=
  match syncIn s id scGLEAN with
  | none => s
  | some p =>
    let s := dropPkt s id
    let j := pDstId p
    match fnOfPlot s j with
    | none => s
    | some n =>
      let mode := syncArg p 55 54
      let kib := syncArg p 53 45
      let lim := gleanEnd s n (gleanBase s n)
      let a := (List.range 16).foldl (fun (a : State × Bool) b =>
        let o := syncArg p 33 0 * 4096 + (b / 4 * partWide s n + b % 4) * gleanStride mode kib
        let w := writeEntry a.1 o lim (gleanEntry a.1 (coreAt j b) mode kib)
        (w.1, a.2 || w.2)) (s, false)
      injectAt a.1 j (syncPkt 3 (anchorPlot s n) scGLEANED (b2n a.2 * 2 ^ 55 + j))

/-- GLEAN (R474). -/
def execGlean (id : Nat) (s : State) : Out := .next (gleanIn id s)

/-- The header of a glean record. -/
def gleanHeader (s : State) (n : Nat) (r : Recovery) : List PWord :=
  let ser := match curImg s n with | some i => i.serial | none => 0
  let cfg := put (put (put (put (put (put 0#64 15 0 1) 23 16 (gleanMode s n)) 31 24 r.cause) 47 32 n) 55 48
    (ctxId s n)) 63 56 (ctxGen s n)
  let sz := put (put 0#64 31 0 (partCores s n).length) 63 32 (gleanStride (gleanMode s n) (gleanKib s n))
  [plain 0x4E41454C4756504B#64, plain cfg, plain (BitVec.ofNat 64 r.time), plain (BitVec.ofNat 64 s.swathNow),
   plain sz, plain (BitVec.ofNat 64 ser), plain 0#64, plain 0#64]

/-- GLEANED: with the last report the record becomes valid. -/
def gleanedIn (id : Nat) (s : State) : State :=
  atController s id scGLEANED (fun s p n =>
    match (getFun s n).recov with
    | none => s
    | some r =>
      let j := syncArg p 10 0
      if r.step ≠ 2 ∨ r.gleaned.contains j then s
      else
        let r := { r with gleaned := j :: r.gleaned, trunc := r.trunc || decide (syncArg p 55 55 = 1) }
        if r.gleaned.length < (partPlots s n).length then setRecov s n r
        else
          let o := gleanBase s n
          let w := writeEntry s o (gleanEnd s n o) (gleanHeader s n r)
          let miss := ((partCores s n).filter (fun c => (getCore s c).latch.isNone)).length
          let v := put (put (put (put (put (csrGet s (aFn n fnGleanStat)) 63 63 1) 62 62 (b2n (r.trunc || w.2)))
            55 48 r.cause) 31 16 miss) 14 0 (partCores s n).length
          setRecov (csrSet w.1 (aFn n fnGleanStat) v) n { r with step := 3 })

/-- GLEANED (R474). -/
def execGleaned (id : Nat) (s : State) : Out := .next (gleanedIn id s)

/-- GLEAN_RELEASE (R474). -/
def execGleanRelease (n : Nat) (s : State) : Out := .next (setCsrFld s (aFn n fnGleanStat) 63 63 0)

/-! ## Failure of a context (R378, R477) -/

/-- What a report says of function n: the cause of its failure, and the task of a core fault.
(DESIGN CHOICE: assumption 54) -/
def noteCause (s : State) (n : Nat) : Note → Option (Nat × Option Nat)
  | .coreFault c _ =>
    if fnOfCore s c = some n then some (1, some (cfld (getCore s c) oFault 47 44)) else none
  | .furrowFail c => if fnOfCore s c = some n then some (0, none) else none
  | .spillExhausted c => if fnOfCore s c = some n then some (5, none) else none
  | _ => none

/-- Another context has failed with this cause within 10 ms.
(DESIGN CHOICE: assumption 54) -/
def commonCause (s : State) (n cause : Nat) : Bool :=
  decide (cause ≠ 0) && s.funs.any (fun e => decide (e.1 ≠ n) && e.2.causes.any (fun x => decide (x.1 = cause)
    && decide (s.now.toNat ≤ x.2 + 10000000)))

/-- The queued switches that requests carry; the steward's own are dropped when a function is held. -/
def askedSwitches (f : Fun) : List Switch := f.switches.filter (fun w => w.cmd.isSome)

/-- Hold a suspect for its replay. -/
def queueReplay (s : State) (n cause : Nat) (task : Option Nat) (three : Bool) : State :=
  let r : Replay := { time := 0, cause := cause, three := three, task := task, msgs := [], seen := 0 }
  updFun (setCsrFld s (aFn n fnRecov) 63 61 3) n (fun f => { f with replay := some r, switches := askedSwitches f })

/-- A failed context without a suspicion: a switch to the same image is queued when AUTO is set. -/
def autoSwitch (s : State) (n : Nat) : State :=
  let s := setCsrFld s (aFn n fnRecov) 63 61 0
  if csrFld s (aFn n fnCtx) 44 44 = 1 then
    let l := ctxList s n
    queueSwitch s n { list := l, act := 0, cmd := none, carry := none, admitting := false }
  else s

/-- Another function that failed with the same cause and is still failed becomes a suspect too. -/
def suspectPeers (s : State) (n cause : Nat) : State :=
  s.funs.foldl (fun s e =>
    if e.1 ≠ n ∧ ctxState s e.1 = 5 ∧ csrFld s (aFn e.1 fnRecov) 63 61 = 0
        ∧ (getFun s e.1).causes.any (fun x => decide (x.1 = cause) && decide (s.now.toNat ≤ x.2 + 10000000)) then
      queueReplay s e.1 cause none false
    else s) s

/-- What follows a failure: a replay's count, a hold, a suspicion, or the AUTO switch (R477 to R479). -/
def afterFailure (s : State) (n cause : Nat) (task : Option Nat) : State :=
  let f := getFun s n
  let now := s.now.toNat
  match f.replay with
  | some r =>
    let same := decide (r.cause = cause) && (decide (cause ≠ 1) || decide (r.task = task) || r.task.isNone)
    updFun s n (fun f => { f with replay := some { r with seen := if same then r.seen + 1 else r.seen } })
  | none =>
    let held := match f.partResetAt with | some t => decide (now ≤ t + 10000000000) | none => false
    let three := decide (f.failTimes.length ≥ 3)
    if held then
      updFun (setCsrFld s (aFn n fnRecov) 63 61 2) n (fun f => { f with switches := askedSwitches f, partResetAt := none })
    else if three || commonCause s n cause then suspectPeers (queueReplay s n cause task three) n cause
    else autoSwitch s n

/-- The steps of R378. -/
def failNow (s : State) (n : Nat) (r : Recovery) : State :=
  let now := s.now.toNat
  let s := drainPart (setCtxState s n 5) n
  let s := match nextPair s n with
    | some s => s
    | none => setCsrFld s (aFn n fnCtx) 55 48 ((ctxGen s n + 1) % 256)
  let s := finishAll (pairToCores s n) n csFAILED (runsOf s n)
  let s := updFun s n (fun f => { f with
    recov := none
    seed := none
    failTimes := now :: f.failTimes.filter (fun t => decide (now ≤ t + 10000000000))
    causes := (r.cause, now) :: f.causes.filter (fun x => decide (now ≤ x.2 + 10000000000)) })
  let s := setCsrFld s (aFn n fnRecov) 47 40 (min 255 (getFun s n).failTimes.length)
  afterFailure s n r.cause r.task

/-- CONTEXT_FAIL: the steward's next step on a context that fails: a report of it starts the freeze; once the
freeze and the glean are done the steps of R378 follow. -/
def contextFail (n : Nat) (s : State) : State :=
  match (getFun s n).recov with
  | some r => if r.step = 3 then failNow s n r else frozenAll s n r
  | none =>
    match s.notes.reverse.findSome? (noteCause s n) with
    | none => s
    | some x =>
      let s := startRecoveryAt s n x.1 x.2
      { s with notes := s.notes.filter (fun m => (noteCause s n m).isNone) }

/-- CONTEXT_FAIL (R378). -/
def execContextFail (n : Nat) (s : State) : Out := .next (contextFail n s)

/-! ## Partition and function resets (R343, R466, R479) -/

/-- Reset every plot of function n's partition. -/
def resetPartition (s : State) (n : Nat) (fn : Bool) : State :=
  let s := satCsrFld s aStwLadder 27 16 1
  let l := partPlots s n
  let s := updFun s n (fun f => { f with resets := l, fnReset := fn, partResetAt := if fn then f.partResetAt else some s.now.toNat })
  if l.isEmpty then resetsDone s n
  else l.foldl (fun s j => injectEdge s 17 (syncPkt 3 j scPLOTRESET j)) s

/-- Every open KHT TC of function n receives RESET and becomes quiet, every queue pair moves into the error state, from
which its number is freed as that of a quiet TC (R323, R343).
(DEDUCED: assumption 43) -/
def endTcs (s : State) (n : Nat) : State :=
  s.tcs.foldl (fun s v =>
    if v.fn ≠ n then s
    else if v.qp then putTc s { v with state := 2, closing := true, quietAt := s.now.toNat, partWords := [] }
    else if v.state = 0 then quietTc (resetOut s v) v else s) s

/-- DRAIN_LIMIT_EXPIRE: DRAIN_MS after disable the pending requests end and the function is reset. -/
def drainLimit (n : Nat) (s : State) : State :=
  if fnState s n ≠ 2 ∨ s.now.toNat < (getFun s n).drainAt + csrFld s (aFn n fnCtl) 47 32 * 1000000 then s
  else
    let s := finishAll s n csDISABLED (getFun s n).reqs
    let s := setCsrFld s (aFn n fnStat) 63 61 3
    let s := endTcs s n
    let s := (List.range 8).foldl (fun s r => setCsrFld s (aFn n (fnCringCtl r)) 63 63 0) s
    let s := zeroWords s (baseOf (csrGet s (aFn n fnReplay))) 16384
    let s := if ctxState s n = 0 then drainPart s n else endContext s n
    let s := updFun s n (fun f => { f with
      slots := []
      landed := []
      adms := []
      switches := []
      memberNotes := []
      recov := none
      replay := none })
    resetPartition (setCsrFld s (aFn n fnRecov) 63 61 0) n true

/-- DRAIN_LIMIT_EXPIRE (R342, R343). -/
def execDrainLimitExpire (n : Nat) (s : State) : Out := .next (drainLimit n s)

/-! ## Suspect replay (R477, R478) -/

/-- Split the words of a ring into messages, each a header word and its LEN words. -/
def splitMsgs : Nat → List PWord → List (Word × List PWord)
  | 0, _ => []
  | f + 1, l =>
    match l with
    | [] => []
    | h :: rest => (h.val, rest.take (bits h.val 6 0)) :: splitMsgs f (rest.drop (bits h.val 6 0))

/-- The words of ring 0 in the glean entry of the anchor. -/
def gleanRing0 (s : State) (n : Nat) : List PWord :=
  let c := anchorOf s n
  let o := gleanAddr s n c
  let rd := fun (off m : Nat) => (memReadWords s (hbmAddr (o + off)) m).2
  if gleanMode s n = 2 then
    let k := getCore s c
    let ptr := ((rd 0x180 1).getD 0 noWord).val
    let head := bits ptr 14 0
    let tail := bits ptr 46 32
    let m := if bits ptr 47 47 = bits ptr 15 15 then tail - head else regSize k 0 - head + tail
    (List.range m).map (fun i => (rd (4096 + 8 * ((regBase k 0 + (head + i) % regSize k 0) % 32768)) 1).getD 0 noWord)
  else if gleanMode s n = 1 then
    let h := ((rd 4096 1).getD 0 noWord).val
    if bits h 63 60 = 0 then rd 4104 (min (bits h 46 32) (gleanKib s n * 128 - 1)) else []
  else []

/-- The dispatch messages of the record (R336): source core 0x7FFF, a dispatch tag.
(DEDUCED: assumption 55) -/
def gleanMsgs (s : State) (n : Nat) : List (List PWord) :=
  if csrFld s (aFn n fnGleanStat) 63 63 = 0 then []
  else ((splitMsgs 1024 (gleanRing0 s n)).filter (fun m => decide (bits m.1 46 32 = 0x7FFF)
    && decide (0xD000 ≤ bits m.1 31 16 ∧ bits m.1 31 16 ≤ 0xD007))).map (fun m => m.2)

/-- The next suspect: the queued function of lowest number, while none is replaying. -/
def nextSuspect (s : State) (n : Nat) : Bool :=
  decide (csrFld s (aFn n fnRecov) 63 61 = 3)
    && s.funs.all (fun e => decide (csrFld s (aFn e.1 fnRecov) 63 61 ≠ 4)
      && (decide (csrFld s (aFn e.1 fnRecov) 63 61 ≠ 3) || decide (n ≤ e.1)))

/-- The verdict of a replay. -/
def replayVerdict (s : State) (n verdict phase : Nat) : State :=
  let a := aFn n fnRecov
  updFun (setCsrFld (setCsrFld s a 60 58 verdict) a 63 61 phase) n (fun f => { f with replay := none })

/-- Land the dispatch messages of the record in the quarantined context. -/
def landReplay (s : State) (n : Nat) (r : Replay) : State :=
  let s := updFun s n (fun f => { f with replay := some { r with msgs := [] } })
  r.msgs.foldl (fun s m =>
    let tag := 0xD000 + bits (m.getD 32 noWord).val 47 40
    let p := mkPacket (mkW0 0xFFFF 0 (anchorOf s n) 0 0 (nflitsFor m.length) tMESSAGE tag)
      (mkW1 (ownDev s) 0x7FFF (ctxId s n) (ctxGen s n)) 0#64 (mkMsgW3 0 false m.length 0 false 0) m 0
    injectAt s (anchorPlot s n) { p with orig := 2, origArg := n }) s

/-- A replay whose quick test fails: the verdict is "hardware", the failing plots are declared failed (R478). -/
def replayHardware (s : State) (n : Nat) (bad : List Nat) : State :=
  autoSwitch (replayVerdict (bad.foldl (fun s j => note s (.other 441 j)) s) n 3 0) n

/-- SUSPECT_REPLAY: the next suspect's plots are tested, `bad` naming those that fail, and its image is switched
in quarantine; once it runs its dispatch messages land again. -/
def suspectReplay (n : Nat) (bad : List Nat) (s : State) : State :=
  match (getFun s n).replay with
  | none => s
  | some r =>
    if csrFld s (aFn n fnRecov) 63 61 = 4 ∧ ctxState s n = 2 then landReplay s n r
    else if !nextSuspect s n then s
    else if bad.any (inPart s n) then replayHardware s n (bad.filter (inPart s n))
    else
      let r := { r with time := s.now.toNat, msgs := gleanMsgs s n }
      let s := updFun (setCsrFld s (aFn n fnRecov) 63 61 4) n (fun f => { f with replay := some r })
      beginSwitch s n { list := ctxList s n, act := 0, cmd := none, carry := none, admitting := false }

/-- SUSPECT_REPLAY (R477). -/
def execSuspectReplay (n : Nat) (bad : List Nat) (s : State) : Out := .next (suspectReplay n bad s)

/-- A replay that did not reproduce its cause: a partition reset after three failures, else the outcome of
R378. -/
def notReproduced (s : State) (n : Nat) (r : Replay) : State :=
  let s := replayVerdict s n 2 0
  let s := if ctxState s n = 5 then s else drainPart (setCtxState s n 5) n
  let s := updFun s n (fun f => { f with seed := none, recov := none })
  if r.three then resetPartition (clearSheaves s n) n false else autoSwitch s n

/-- SUSPECT_REPLAY_VERDICT: the cause has recurred, once or twice, or REPLAY_MS has passed. -/
def replayVerdictStep (n : Nat) (s : State) : State :=
  match (getFun s n).replay with
  | none => s
  | some r =>
    if csrFld s (aFn n fnRecov) 63 61 ≠ 4 then s
    else if ctxState s n = 5 ∧ r.seen = 1 then setCsrFld s (aFn n fnRecov) 63 61 3
    else if ctxState s n = 5 ∧ r.seen ≥ 2 then
      let ser := (curImg s n).map (fun i => i.serial)
      updFun (replayVerdict s n 1 2) n (fun f => { f with barred := ser })
    else if s.now.toNat ≥ r.time + 100000000 ∨ ctxState s n = 5 then notReproduced s n r
    else s

/-- SUSPECT_REPLAY_VERDICT (R478). -/
def execSuspectReplayVerdict (n : Nat) (s : State) : Out := .next (replayVerdictStep n s)

end Sys2Proof.Machine
end

