-- ==== Sys2Proof/Machine/Clock.lean ====
section
/-! DEFINITION. Device time and its servo (R344, R393 to R398), clock sets, frequency changes and seams (R153,
R155, R156, R387 to R401). -/

namespace Sys2Proof.Machine

def setServo (s : State) (f : Servo → Servo) : State := { s with stw := { s.stw with servo := f s.stw.servo } }

/-! ## Device time -/

/-- Reload every field copy from the master (R398). -/
def reloadCopies (s : State) : State :=
  { s with copies := (List.range 6).foldl (fun m f => fset zeroNat m f s.now.toNat) s.copies }

def timeSrc (s : State) : Nat := csrFld s aTimeCfg 63 62
def servoState (s : State) : Nat := csrFld s aTimeStat 62 60
def setServoState (s : State) (v : Nat) : State := setCsrFld s aTimeStat 62 60 v

/-- Device time becomes valid: the swath in progress becomes current, without a boundary (R379, R396). -/
def timeValid (s : State) : State :=
  if csrFld s aTimeStat 63 63 = 1 then s
  else
    let s := setCsrFld s aTimeStat 63 63 1
    let p := swathPeriod s
    let n := s.now.toNat / p
    csrSet { s with swA := 0, swT := 0, swathNow := n } aSwathStart (BitVec.ofNat 64 (n * p))

/-- A step of device time (R394).
(DEDUCED: assumption 57) -/
def stepTime (s : State) (v : Word) : State :=
  let d := v - s.now
  -- timestamps taken before the step move with it
  let s := setServo s (fun x => { x with
    t2 := x.t2 + d
    dreq := x.dreq.map (fun q => (q.1, q.2 + d))
    ppsAt := x.ppsAt.map (· + d) })
  let s := reloadCopies { s with now := v }
  let s := satCsrFld s aTimeStat 47 32 1
  let s := setServo s (fun x => { x with good := 0, left := 0, acc := 0 })
  if timeSrc s = 1 ∨ timeSrc s = 2 then setServoState s 1 else s

/-- A measurement of the offset of device time from its source (R394, R395).
(DEDUCED: assumption 57) -/
def measure (s : State) (off : Int) : State :=
  let s := csrSet s aTimeStat (setBits (csrGet s aTimeStat) 31 0 (BitVec.ofInt 32 off).toNat)
  if off.natAbs > 1000 * csrFld s aTimeCfg 47 32 then
    let s := stepTime s (s.now - BitVec.ofInt 64 off)
    setServo s (fun x => { x with lastAt := s.now.toNat })
  else
    let good := if off.natAbs < 100 then s.stw.servo.good + 1 else 0
    let s := setServo s (fun x => { x with good := good, left := -off, acc := 0, lastAt := s.now.toNat })
    if servoState s = 3 ∨ servoState s = 0 then setServoState s 1
    else if servoState s = 1 ∧ good ≥ 16 then timeValid (setServoState s 2)
    else s

/-- A PTP message reaches the port's clock: it runs, and the port, transport and domain are its own (R344). -/
def ptpHere (s : State) (port transport domain : Nat) : Bool :=
  decide (csrFld s aHostPtpCfg 63 63 = 1) && decide (csrFld s aHostPtpCfg 61 59 = port)
    && decide (csrFld s aHostPtpCfg 62 62 = transport) && decide (csrFld s aHostPtpCfg 55 48 = domain)

/-- The PTP port state that goes with the servo state. -/
def ptpPortState (s : State) : State :=
  setCsrFld s aHostPtpStat 63 61 (if servoState s = 2 then 3 else if servoState s = 3 then 1 else 2)

/-- A hardware timestamp of a device time, with an error of at most 5 ns (R344). -/
def timestamp (w : Word) (err : Int) : Word := w + BitVec.ofInt 64 (max (-5) (min 5 err))

/-- The port sends a Delay_Req and keeps its departure time.
(DESIGN CHOICE: assumption 57) -/
def sendDelayReq (s : State) : State :=
  let n := s.stw.servo.reqSeq
  let w := csrGet s aHostPtpCfg
  emit (setServo s (fun x => { x with reqSeq := (n + 1) % 65536, dreq := some (n, s.now) }))
    (.delayReq (bits w 61 59) (bits w 62 62) (bits w 55 48) (bits w 47 0) n)

/-- A Sync with origin time t1 and arrival time t2 gives an offset; a Delay_Req follows it. -/
def syncMeasured (s : State) (t1 t2 : Word) : State :=
  let off := (t2 - t1).toInt - csrFld s aHostPtpStat 47 32
  let s := setServo s (fun x => { x with t1 := t1, t2 := t2, syncSeq := none })
  let s := setCsrFld s aHostPtpStat 31 0 (BitVec.ofInt 32 off).toNat
  let s := if timeSrc s = 1 then measure s off else s
  sendDelayReq (ptpPortState s)

/-- PTP_SYNC: a one-step Sync (kind 0) with its origin time, a two-step Sync (1), whose arrival time is kept, or the
Follow_Up (2) that brings its origin time. -/
def ptpSync (port transport domain seq kind : Nat) (t1 : Word) (err : Int) (s : State) : State :=
  if !ptpHere s port transport domain then s
  else if kind = 0 then syncMeasured s t1 (timestamp s.now err)
  else if kind = 1 then setServo s (fun x => { x with t2 := timestamp s.now err, syncSeq := some seq })
  else if kind = 2 ∧ s.stw.servo.syncSeq = some seq then syncMeasured s t1 s.stw.servo.t2
  else s

/-- PTP_SYNC (R394). -/
def execPtpSync (port transport domain seq kind : Nat) (t1 : Word) (err : Int) (s : State) : Out :=
  .next (ptpSync port transport domain seq kind t1 err s)

/-- PTP_DELAY_RESP: the Delay_Req of that number arrived at the master at t4; `err` is the error of its departure
timestamp. -/
def ptpDelayResp (port transport domain seq : Nat) (t4 : Word) (err : Int) (s : State) : State :=
  match s.stw.servo.dreq with
  | none => s
  | some q =>
    if !ptpHere s port transport domain ∨ q.1 ≠ seq then s
    else
      let v := s.stw.servo
      let t3 := timestamp q.2 err
      let d := ((v.t2 - v.t1).toInt + (t4 - t3).toInt) / 2
      setCsrFld (setServo s (fun x => { x with dreq := none })) aHostPtpStat 47 32 (min 65535 d.toNat)

/-- PTP_DELAY_RESP (R344). -/
def execPtpDelayResp (port transport domain seq : Nat) (t4 : Word) (err : Int) (s : State) : Out :=
  .next (ptpDelayResp port transport domain seq t4 err s)

/-- An edge of REF1PPS is accepted: it falls within 10 microseconds of one second after the edge accepted before it.
After 1.5 s without an edge the source counts as missing, and any edge is accepted (R395, R529).
(DEDUCED: assumption 57) -/
def edgeAccepted (s : State) : Bool :=
  match s.stw.servo.ppsAt with
  | none => true
  | some t =>
    let d := (s.now - t).toInt
    decide (999990000 ≤ d ∧ d ≤ 1000010000) || decide (d ≥ 1500000000)

/-- PPS_EDGE: under SRC 2 the edge marks second TIME_PPS_SEC. -/
def ppsEdge (s : State) : State :=
  if timeSrc s ≠ 2 ∨ !s.stw.servo.ppsSet ∨ !edgeAccepted s then s
  else
    let s := setServo s (fun x => { x with ppsAt := some s.now })
    let sec := csrGet s aTimePpsSec
    let off := (s.now - sec * 1000000000#64).toInt
    measure (csrSet s aTimePpsSec (sec + 1#64)) off

/-- PPS_EDGE (R394, R397). -/
def execPpsEdge (s : State) : Out := .next (ppsEdge s)

/-- TIME_HOLDOVER: the source of a locked servo is missing for its limit; `ref10Absent` says that the 10 MHz
input has been absent for 10 microseconds. -/
def timeHoldover (ref10Absent : Bool) (s : State) : State :=
  let since := s.now.toNat - s.stw.servo.lastAt
  let lost := (decide (timeSrc s = 1) && decide (since ≥ 3000000000))
    || (decide (timeSrc s = 2) && (decide (since ≥ 1500000000) || ref10Absent))
  if servoState s = 2 ∧ lost then ptpPortState (setServo (setServoState s 3) (fun x => { x with good := 0, left := 0 }))
  else s

/-- TIME_HOLDOVER (R395). -/
def execTimeHoldover (ref10Absent : Bool) (s : State) : Out := .next (timeHoldover ref10Absent s)

/-- TIME_COPY_CORRECT: the copy of field f is corrected against the master; it never decreases. -/
def timeCopyCorrect (f : Nat) (s : State) : State :=
  if f < 6 then { s with copies := fset zeroNat s.copies f (max (fget zeroNat s.copies f) s.now.toNat) } else s

/-- TIME_COPY_CORRECT (R398). -/
def execTimeCopyCorrect (f : Nat) (s : State) : Out := .next (timeCopyCorrect f s)

/-- A write of TIME_SET: a step, which makes device time valid while SRC is 0. -/
def timeSet (v : Word) (s : State) : State :=
  let s := stepTime s v
  if timeSrc s = 0 then timeValid s else s

/-- TIME_SET (R396). -/
def execTimeSet (v : Word) (s : State) : Out := .next (timeSet v s)

/-! ## Clock sets (R387, R388) -/

def nCur (s : State) (f : Nat) : Nat := csrFld s (aClkField f) 47 40
def nMax (s : State) (f : Nat) : Nat := csrFld s (aClkField f) 39 32
def fieldLost (s : State) (f : Nat) : Bool := decide (csrFld s aPwrStat (48 + f) (48 + f) = 1)

/-- N limit of a profile (R387).
(DESIGN CHOICE: assumption 64) -/
def profileN (p : Nat) : Nat :=
  match p with
  | 2 => 50
  | 3 => 58
  | 4 => 64
  | _ => 40

/-- The fields of field f's clock set. -/
def clockSet (s : State) (f : Nat) : List Nat :=
  (List.range 6).filter (fun g => !fieldLost s g && decide (nCur s g = nCur s f))

/-- CLK_FIELD_f.SET of every field. -/
def refreshSets (s : State) : State :=
  (List.range 6).foldl (fun s f => setCsrFld s (aClkField f) 53 51 ((clockSet s f).getD 0 f)) s

/-- N_MAX of every field: the profile's limit, the fused limit less the derates of its quadrants (R459). -/
def refreshLimits (s : State) : State :=
  (List.range 6).foldl (fun s f =>
    let der := (List.range 4).foldl (fun a q => a + csrFld s (aTestWear (4 * f + q)) 15 8) 0
    let top := 64 - fget zeroNat s.stw.fused f - der
    setCsrFld s (aClkField f) 39 32 (max 16 (min (profileN (csrFld s aPwrProfile 55 52)) top))) s

/-- A core's schedule uses a seam lane group. -/
def coreUses (s : State) (c g : Nat) : Bool :=
  (schedMoves (getCore s c)).any (fun m => decide (seamOf s c m.2.1 = some g))

/-- A running placement uses a seam lane group. -/
def seamInUse (s : State) (g : Nat) : Bool :=
  s.cores.any (fun e => decide (cfld e.2 oFurCtl 63 63 = 1) && coreUses s e.1 g)

/-- TEST_FAIL: the most recent failure found, of a unit at a physical plot (R426). -/
def setTestFail (s : State) (unit x source : Nat) : State :=
  csrSet s aTestFail (put (put (put (put (put 0#64 63 56 unit) 55 50 (x / 42)) 49 44 (x % 42)) 39 38 source) 6 0 127)

/-- A group fails calibration in service: it is fenced, the contexts that use it fail "furrow unavailable",
the plot on the sending side is reported failed (R155). -/
def groupFails (s : State) (g : Nat) (back : Bool) : State :=
  let s := setTestFail (setSeam s g 1) 8 (seamPlot g back) 2
  let fns := ((s.cores.filter (fun e => coreUses s e.1 g)).filterMap (fun e => fnOfCore s e.1)).eraseDups
  let s := fns.foldl (fun s n => startRecovery (setCsrFld s (aFn n fnSeedStat) 61 55 rFURROW) n 0) s
  match invPlace s.place (seamPlot g back) with
  | some j => note s (.other 441 j)
  | none => s

/-- Recalibrate a group, in one attempt: a group that passes is in use, unless a failed calibration has fenced it. -/
def recalibrate (s : State) (g : Nat) (x : Sweep) : State :=
  let r := calibrate g x 1 0 s
  if fget zeroNat s.seams g = 1 ∨ fget zeroNat s.seams g = 4 then r.1
  else if r.2 then setSeam r.1 g 0 else groupFails r.1 g x.back

/-- The seams of a change of N of some fields: groups between fields of one set are recalibrated, the others are
fenced (R151, R156, R399). -/
def changeSeams (s : State) (fs : List Nat) (sweeps : List Sweep) : State :=
  (List.range 126).foldl (fun s g =>
    let x := seamFields g
    if !fs.contains x.1 && !fs.contains x.2 then s
    else if nCur s x.1 = nCur s x.2 then recalibrate s g (sweepOf sweeps g)
    else if fget zeroNat s.seams g = 1 ∨ fget zeroNat s.seams g = 4 then s
    else setSeam s g 2) s

/-- Set N of some fields, in one stop (R399). `sweeps` is what the recalibration of the seam lane groups finds. -/
def changeN (s : State) (fs : List Nat) (n : Nat) (sweeps : List Sweep) : State :=
  let s := fs.foldl (fun s f => setCsrFld s (aClkField f) 47 40 n) s
  reloadCopies (changeSeams (refreshSets s) fs sweeps)

/-- Time of the next swath boundary, when device time is valid. -/
def nextBoundary (s : State) : Option Nat :=
  if csrFld s aTimeStat 63 63 = 0 then none
  else some (s.swT + (s.swathNow + 1 - s.swA) * swathPeriod s)

/-- A stop of 18 microseconds would end 5 before the next boundary. -/
def stopFits (s : State) : Bool :=
  match nextBoundary s with
  | none => true
  | some t => decide (s.now.toNat + 23000 ≤ t)

/-- A change of these fields to n may be made: present fields of one set, within their limits, and no running
placement uses a seam whose sides would differ (R156, R399). -/
def changeOk (s : State) (fs : List Nat) (n : Nat) : Bool :=
  !fs.isEmpty && fs.all (fun f => decide (f < 6) && !fieldLost s f && decide (csrFld s (aClkField f) 54 54 = 1)
      && decide (16 ≤ n ∧ n ≤ nMax s f) && decide (nCur s f = nCur s (fs.getD 0 0)))
    && (List.range 126).all (fun g =>
      let x := seamFields g
      let after := fun f => if fs.contains f then n else nCur s f
      decide (after x.1 = after x.2) || !seamInUse s g)

/-- FREQUENCY_CHANGE: the steward changes N of a clock set. -/
def frequencyChange (fs : List Nat) (n : Nat) (sweeps : List Sweep) (s : State) : State :=
  if changeOk s fs n && stopFits s then changeN s fs n sweeps else s

/-- FREQUENCY_CHANGE (R399). -/
def execFrequencyChange (fs : List Nat) (n : Nat) (sweeps : List Sweep) (s : State) : Out :=
  .next (frequencyChange fs n sweeps s)

/-- A write of CLK_FIELD_f.N_REQ stores the nearer bound of 16 and N_MAX. -/
def nReqWrite (f : Nat) (v : Word) (s : State) : State :=
  if f < 6 then setCsrFld s (aClkField f) 7 0 (max 16 (min (nMax s f) (bits v 7 0))) else s

/-- N_REQ_WRITE (R399). -/
def execNReqWrite (f : Nat) (v : Word) (s : State) : Out := .next (nReqWrite f v s)

/-- SEAM_RECALIBRATION: the phase monitor of a group reports its window; the recalibration of a held group ends, after
48 cycles for each of the 64 taps (R153, R155, R389). -/
def seamRecal (g : Nat) (e : SeamEv) (s : State) : State :=
  if g ≥ 126 then s
  else match e with
    | .monitor lo hi => seamMonitor s g lo hi
    | .swept x =>
      if fget zeroNat s.seams g = 3 ∧ cycles s (seamFields g).1 ≥ (getCal s g).heldAt + 3072 then
        recalibrate (satCsrFld s aClkSeam 63 48 1) g x
      else s

/-- SEAM_RECALIBRATION (R153). -/
def execSeamRecalibration (g : Nat) (e : SeamEv) (s : State) : Out := .next (seamRecal g e s)

end Sys2Proof.Machine
end

