-- ==== Sys2Proof/Machine/Arrange.lean ====
section
/-! DEFINITION. The repair map and the arrangement of logical plots that follows from it (R432 to R435), the
event log's mark and what a quadrant, a field or the device loses with its power (R402, R403, R409). -/

namespace Sys2Proof.Machine

def setStw (s : State) (f : Steward → Steward) : State := { s with stw := f s.stw }
def setPins (s : State) (f : Pins → Pins) : State := { s with pins := f s.pins }

/-- A new event is written to the event log: ALERT_N is asserted (R526).
(DESIGN CHOICE: assumption 68) -/
def logEvent (s : State) : State := setPins s (fun p => { p with event := true, alert := true })

/-! ## The repair map -/

def repairWord (typ origin row col core detail : Nat) : Word :=
  put (put (put (put (put (put 0#64 63 56 typ) 55 54 origin) 47 40 row) 39 32 col) 31 28 core) 27 0 detail

/-- Write a new entry into the older copy, which becomes the current one.
(DESIGN CHOICE: assumption 60) -/
def addRepair (s : State) (w0 : Word) (unit : Nat) : State :=
  let w1 := put (put 0#64 39 32 unit) 31 0 (s.stw.upNs / 3600000000000)
  let c := curMap s
  let seq := ((c.map (·.seq)).getD 0 + 1) % 2 ^ 64
  let new_ : RepairCopy := { seq := seq, entries := ((c.map (·.entries)).getD []) ++ [(w0, w1)], valid := true }
  setStw s (fun t => if c = some t.mapA then { t with mapB := new_ } else { t with mapA := new_ })

/-- Physical plot-rows of the part: rows 32 to 41 are fused off on a KPV6-M1 (R421). -/
def physRows (s : State) : Nat := if s.code = 1 then 32 else 42

def rowRetired (s : State) (r : Nat) : Bool :=
  (mapEntries s).any (fun e => decide (entType e = 2) && decide (entRow e = r))

/-- A physical plot is recorded failed (R430). -/
def plotBad (s : State) (x : Nat) : Bool :=
  s.stw.failed.contains x
    || (mapEntries s).any (fun e => decide (entType e = 1) && decide (42 * entRow e + entCol e = x))

/-- The relay path of a physical plot has failed its test (R150, R423, R430). -/
def relayBad (s : State) (x : Nat) : Bool :=
  (mapEntries s).any (fun e => decide (entType e = 1) && decide (42 * entRow e + entCol e = x) && decide (bits e.2 39 32 = 3))

/-- Record a failed plot, with the unit found; entries already there are not repeated. -/
def recordFailed (s : State) (x origin : Nat) (unit : Nat) : State :=
  if plotBad s x && (decide (unit ≠ 3) || relayBad s x) then s
  else setStw (addRepair s (repairWord 1 origin (x / 42) (x % 42) 0 0) unit) (fun t => { t with failed := x :: t.failed })

/-! ## Spares (R426, R427) -/

/-- TEST_FAIL for a failing bit, line or wire. -/
def defectSeen (s : State) (d : Defect) (source : Nat) : State :=
  let link := decide (6 ≤ d.unit ∧ d.unit ≤ 8)
  let s := setTestFail s d.unit d.x source
  let w := if d.unit = 9 then put (put (csrGet s aTestFail) 55 50 d.x) 49 44 0 else csrGet s aTestFail
  csrSet s aTestFail (if link then w else put (put (put w 43 40 d.core) 37 7 d.addr) 6 0 (if d.unit = 9 then 0 else d.bit))

/-- Word 0 of the entry of a repair (R433). -/
def defectWord (d : Defect) (origin : Nat) : Word :=
  if d.unit = 9 then repairWord 4 origin d.x 0 0 (9 * 2 ^ 24 + d.addr * 2 ^ 5)
  else if d.unit < 6 then
    repairWord 4 origin (d.x / 42) (d.x % 42) d.core (d.unit * 2 ^ 24 + d.addr % 2 ^ 17 * 2 ^ 7 + d.bit % 2 ^ 7)
  else repairWord 5 origin (d.x / 42) (d.x % 42) 0 (d.dir % 4 * 2 ^ 24 + d.bit % 2 ^ 9)

/-- Details of the repairs of one array or link: entries of its type, place and finding unit. -/
def repairsOf (s : State) (d : Defect) : List Nat :=
  let w := defectWord d 0
  ((mapEntries s).filter (fun e => decide (bits e.1 63 56 = bits w 63 56) && decide (bits e.1 47 28 = bits w 47 28)
    && decide (bits e.2 39 32 = d.unit))).map entDetail

/-- The spares hold the repairs made and one more. In a scratchpad bank one spare lane takes a bit position and 4 spare
rows take a word each.
(DESIGN CHOICE: assumption 60) -/
def sparesHold (s : State) (d : Defect) : Bool :=
  let l := (entDetail (defectWord d 0, 0#64) :: repairsOf s d).eraseDups
  match d.unit with
  | 4 =>
    let l := (l.map (fun x => (x / 2 ^ 7 % 2 ^ 17, x % 2 ^ 7))).filter (fun x => decide (bankOf x.1 = bankOf d.addr))
    l.any (fun y => decide ((((l.filter (fun x => decide (x.2 ≠ y.2))).map (·.1)).eraseDups).length ≤ 4))
  | 5 => decide (((l.map (fun x => x / 2 ^ 13 % 2 ^ 11)).eraseDups).length ≤ 8)
  | 9 => decide (l.length ≤ 256)
  | 6 => decide ((l.filter (fun x => decide (x / 2 ^ 24 = d.dir % 4))).length ≤ 8)
  | 7 => decide ((l.filter (fun x => decide (x / 2 ^ 24 = d.dir % 4))).length ≤ 4)
  | _ => true

/-- A failing bit, line or wire is repaired from the spares; beyond them its plot fails, or the granary way is
disabled (R427). -/
def repairDefect (origin source : Nat) (s : State) (d : Defect) : State :=
  let s := defectSeen s d source
  if (repairsOf s d).contains (entDetail (defectWord d 0, 0#64)) then s
  else if sparesHold s d then addRepair s (defectWord d origin) d.unit
  else if d.unit = 9 then
    let w := repairWord 6 origin d.x 0 0 (d.addr % 16)
    if (mapEntries s).any (fun e => decide (entType e = 6 ∧ entRow e = d.x ∧ entDetail e % 16 = d.addr % 16)) then s
    else addRepair s w 9
  else recordFailed s d.x origin d.unit

/-- The failures that a memory and link test finds, of units 4 to 9. -/
def repairAll (s : State) (origin source : Nat) (l : List Defect) : State :=
  (l.filter (fun d => decide (4 ≤ d.unit ∧ d.unit ≤ 9))).foldl (repairDefect origin source) s

/-! ## The arrangement derived from the map (R434) -/

/-- The non-used rows: the retired ones, made up to two with the highest rows that are not retired. -/
def nonUsedRows (s : State) : List Nat :=
  let rows := List.range (physRows s)
  let bad := rows.filter (rowRetired s)
  bad ++ ((rows.filter (fun r => !rowRetired s r)).reverse.take (2 - bad.length))

/-- The columns of a used row that carry its logical plots, in order. -/
def rowCols (s : State) (r : Nat) : List Nat :=
  let cols := List.range 42
  let ok := cols.filter (fun c => !plotBad s (42 * r + c))
  ok.take 40

/-- Physical plots of the logical plots, and the lost ones. -/
def arrangement (s : State) : FMap Nat × List Nat :=
  let non := nonUsedRows s
  let used := (List.range (physRows s)).filter (fun r => !non.contains r)
  let beyond := (List.range (numPlots s)).filter (fun j => decide (j / 40 ≥ used.length))
  let fill := fun (a : FMap Nat × List Nat) (x : Nat × Nat) =>
    let cols := rowCols s x.2
    (List.range 40).foldl (fun (a : FMap Nat × List Nat) px =>
      let j := 40 * x.1 + px
      match cols[px]? with
      | some c => (fset place0 a.1 j (42 * x.2 + c), a.2)
      | none => (a.1, a.2 ++ [j])) a
  ((List.range used.length).zip used).foldl fill ([], beyond)

/-- Skips of physical row r that are healthy: they carry no logical plot and have not failed. -/
def healthySkips (s : State) (r : Nat) : List Nat :=
  (List.range 42).filter (fun c =>
    !plotBad s (42 * r + c)
      && (match invPlace s.place (42 * r + c) with | some j => s.lost.contains j | none => true))

/-- A physical row carries logical plots. -/
def rowUsed (s : State) (r : Nat) : Bool :=
  (List.range (numPlots s)).any (fun j => !s.lost.contains j && decide (physOf s j / 42 = r))

/-- TEST_RESERVE follows the arrangement. -/
def refreshReserve (s : State) : State :=
  let rows := List.range (physRows s)
  let used := rows.filter (rowUsed s)
  let n := fun (k : Nat) => (used.filter (fun r => decide (min 2 (healthySkips s r).length = k))).length
  let spare := (rows.filter (fun r => !rowUsed s r && !rowRetired s r)).length
  let w := csrGet s aTestReserve
  csrSet s aTestReserve (put (put (put (put (put w 63 58 (n 2)) 57 52 (n 1)) 51 46 (n 0)) 45 44 (min 2 spare)) 31 16
    s.lost.length)

/-- Rows that a failed relay path retires, and that still carry logical plots (R150, R430). -/
def relayRows (s : State) : List Nat :=
  (List.range (physRows s)).filter (fun r => rowUsed s r && !rowRetired s r
    && (List.range 42).any (fun c => relayBad s (42 * r + c)))

/-! ## Loss of power -/

def setOn (s : State) (d v : Nat) : State := setCsrFld s aPwrDomain d d v
def setFenced (s : State) (d v : Nat) : State := setCsrFld s aPwrDomain (32 + d) (32 + d) v
def domainOn (s : State) (d : Nat) : Bool := decide (csrFld s aPwrDomain d d = 1)

/-- The quadrant of a logical plot. -/
def quadOfPlot (s : State) (j : Nat) : Nat := quadOf (physOf s j)

/-- Drop every line of a quadrant's granary ways (R403). -/
def dropWays (s : State) (d : Nat) : State :=
  updSlice s (d / 4) (fun v => { v with lines := v.lines.filter (fun l => decide (l.way / 4 ≠ d % 4)) })

/-- What a quadrant holds is lost with its power: its cores, the routers but for the attachment routers, its
ways. -/
def quadLost (s : State) (d : Nat) : State :=
  let s := dropWays s d
  { s with
    cores := s.cores.filter (fun e => decide (quadOfPlot s (plotOf e.1) ≠ d))
    plots := s.plots.filter (fun e => decide (quadOfPlot s e.1 ≠ d))
    net := s.net.filter (fun p => decide (quadOf p.at_ ≠ d) || isAttach p.at_) }

/-- Ports of the yoke, the CXL links and the host port are down. -/
def portsDown (s : State) : State :=
  let s := (List.range 12).foldl (fun s p => setCsrFld s (aYokeStat p) 63 62 0) s
  let s := (List.range 4).foldl (fun s p => setCsrFld s (aCxlStat p) 63 62 0) s
  setCsrFld s aHostPortStat 63 56 0

/-- D00 to D28 lose power (R409, R466, R535). -/
def deviceDown (s : State) : State :=
  let s := portsDown (csrSet s aPwrDomain 0x20000000#64)
  let s := (List.range 64).foldl (fun s n => updFun s n (fun f => { f with seed := none, recov := none })) s
  let s := setStw s (fun t => { t with quads := [], move := none, toPlace := [] })
  { s with
    cores := []
    plots := []
    net := []
    pairQ := []
    pairTags := []
    drains := []
    chg := { s.chg with step := 0 }
    slices := []
    hbmQ := []
    cxlQ := []
    gathers := []
    yports := []
    pairTab := []
    filter := []
    inbound := []
    ingress := []
    tcs := []
    hostPaused := []
    pauseSent := []
    hostHeld := []
    digs := s.digs.filter (fun d => d.value.isSome) }

end Sys2Proof.Machine
end

