-- ==== Sys2Proof/Machine/Drove.lean ====
section
/-! DEFINITION. Routers: hops on the adaptive, dimension-order and headland paths (R189, R195 to R202),
the escape channel (R201), injection epochs and changes of routing (R203 to R206). -/

namespace Sys2Proof.Machine

/-! ## Links between routers -/

/-- The physical neighbour of router x in direction d: N 0, E 1, S 2, W 3, on the 42 by 42 mesh. -/
def meshNext (x d : Nat) : Option Nat :=
  let c := x % 42
  let r := x / 42
  match d with
  | 0 => if r = 0 then none else some (x - 42)
  | 1 => if c = 41 then none else some (x + 1)
  | 2 => if r = 41 then none else some (x + 42)
  | _ => if c = 0 then none else some (x - 1)

/-- The router in direction d, when its link is up (R189). -/
def liveNext (v : RouteVer) (x d : Nat) : Option Nat :=
  match meshNext x d with
  | some y => if routerUp v x && routerUp v y then some y else none
  | none => none

/-- A router in pass-through mode: its plot carries no logical plot (R189). One that serves an edge unit still turns,
ejects and injects that unit's traffic (R547). -/
def passThrough (s : State) (v : RouteVer) (x : Nat) : Bool :=
  match invPlace v.place x with
  | some j => decide (numPlots s ≤ j)
  | none => true

/-- Productive directions toward router d: at most two, X first (R200). -/
def productive (x d : Nat) : List Nat :=
  (if d % 42 > x % 42 then [1] else if d % 42 < x % 42 then [3] else [])
    ++ (if d / 42 > x / 42 then [2] else if d / 42 < x / 42 then [0] else [])

/-- The routers from x to the root of the headland tree, x first. -/
def ancestors (v : RouteVer) : Nat → Nat → List Nat
  | 0, x => [x]
  | n + 1, x =>
    let p := fget parent0 v.parent x
    if p = x then [x] else x :: ancestors v n p

/-- The next router on the headland route from x to d: down when x is above d, else up (R202). -/
def headlandNext (v : RouteVer) (x d : Nat) : Option Nat :=
  let a := ancestors v 1764 d
  match a.findIdx? (fun y => decide (y = x)) with
  | some (i + 1) => a[i]?
  | some 0 => none
  | none =>
    let p := fget parent0 v.parent x
    if p = x then none else some p

/-- The first step of a list of routers turns at router y, between x and z. -/
def turns (x y z : Nat) : Bool := decide (y + y ≠ x + z)

/-- A path of up links: each router is the next one's neighbour, both have their links up, a router in pass-through mode
that belongs to no spine is crossed straight, and the path ends at the root (R189, R202). -/
def upPath (s : State) (v : RouteVer) (root : Nat) : List Nat → Bool
  | [] => false
  | [x] => decide (x = root)
  | [x, y] => (List.range 4).any (fun d => decide (liveNext v x d = some y)) && decide (y = root)
  | x :: y :: z :: l =>
    (List.range 4).any (fun d => decide (liveNext v x d = some y))
      && !(passThrough s v y && !isAttach y && turns x y z) && upPath s v root (y :: z :: l)

/-- The live routers that packets start from or end at: those of the logical plots, and those of the edge units. -/
def endpoints (s : State) (v : RouteVer) : List Nat :=
  (((List.range (numPlots s)).map (fget place0 v.place)) ++ (List.range 24).filterMap (edgeRouter v)).filter (routerUp v)

/-- The root of a version's headland tree: the live router of the steward (R202, R402).
(DESIGN CHOICE: assumption 27) -/
def treeRoot (v : RouteVer) : Nat := (edgeRouter v 17).getD 860

/-- The parents of a version form a headland tree: from every live router the up links lead to the root (R202). -/
def treeOk (s : State) (v : RouteVer) : Bool :=
  (endpoints s v).all (fun x => upPath s v (treeRoot v) (ancestors v 1764 x))

/-- The straight run from x in direction d, through routers in pass-through mode, to the next router that may turn: the
routers with their parents, nearest last; none where it leaves the mesh or meets a router of the tree. -/
def straightRun (s : State) (v : RouteVer) (seen : List Nat) (d : Nat) :
    Nat → Nat → List (Nat × Nat) → Option (List (Nat × Nat))
  | 0, _, _ => none
  | f + 1, x, acc =>
    match liveNext v x d with
    | none => none
    | some y =>
      if seen.contains y then none
      else if passThrough s v y && !isAttach y then straightRun s v seen d f y ((y, x) :: acc)
      else some ((y, x) :: acc)

/-- Breadth-first headland tree from the front of a queue: routers reached, and parents (R202). -/
def growTree (s : State) (v : RouteVer) : Nat → List Nat → List Nat → FMap Nat → FMap Nat
  | 0, _, _, t => t
  | _, [], _, t => t
  | f + 1, x :: q, seen, t =>
    let r := (List.range 4).foldl (fun (a : List Nat × List Nat × FMap Nat) d =>
      match straightRun s v a.2.1 d 42 x [] with
      | none => a
      | some l => (a.1 ++ (l.head?.map (·.1)).toList, l.map (·.1) ++ a.2.1,
          l.foldl (fun m e => fset parent0 m e.1 e.2) a.2.2)) (q, seen, t)
    growTree s v f r.1 r.2.1 r.2.2

/-- A version whose parents form a headland tree: those it names, when they do, else the breadth-first tree from the
root (R202: the steward recomputes the tree for each set of routers that are down).
(DESIGN CHOICE: assumption 27) -/
def withTree (s : State) (v : RouteVer) : RouteVer :=
  if treeOk s v then v
  else
    let r := treeRoot v
    { v with parent := growTree s v 1764 [r] [r] (fset parent0 [] r r) }

/-- A packet that came straight through: the direction it moves in, when it is on a link. -/
def heading (p : Packet) : Option Nat := if p.port < 4 then some ((p.port + 2) % 4) else none

/-- Where a router sends a packet next (R189, R198, R200, R202): a router, or no live productive
direction. A router of the headland spine turns the packets of the headland tree in every state of its plot (R547).
(DEDUCED: assumption 27) -/
def nextRouter (s : State) (p : Packet) (d : Nat) : Option Nat :=
  let v := verOf s (pEpoch p)
  let x := p.at_
  let tree := decide (p.chan = 3) || (decide (p.chan = 2) && p.headland)
  if passThrough s v x && (heading p).isSome && !(tree && isAttach x) then (heading p).bind (liveNext v x)
  else if tree then (headlandNext v x d).bind (fun y =>
    if (List.range 4).any (fun e => decide (liveNext v x e = some y)) then some y else none)
  else if p.chan = 2 then ((productive x d).head?).bind (liveNext v x)
  else
    let ys := (productive x d).filterMap (liveNext v x)
    match ys with
    | [] => none
    | [y] => some y
    | y :: z :: _ =>
      if bufFree s z (portFrom x z) p.chan > bufFree s y (portFrom x y) p.chan then some z else some y

/-! ## Header checks (R188, R195) -/

/-- Count in a field of PLOT_ROUTE_STAT of the plot at router x. -/
def routeCount (s : State) (x hi lo n : Nat) : State :=
  match plotAt s x with
  | some j => updPlot s j (fun p => satPfld p oRouteStat hi lo n)
  | none => s

/-- Apply the payload errors of a link: a corrected word counts, an uncorrectable one is poisoned. -/
def payErrors (b : List PWord) (errs : List (Nat × Fetch)) : List PWord :=
  errs.foldl (fun b e =>
    match e.2, b[e.1]? with
    | .uncorrectable, some w => b.set e.1 { w with poi := true }
    | _, _ => b) b

/-! ## Hops -/

/-- A C0 or C1 packet moves to C3 and sets ESC, when the C3 buffer of its input port has room for it (R187, R201). -/
def escapePkt (s : State) (p : Packet) : State :=
  if !bufRoom s p.at_ p.port 3 false (flitsOf p) then s
  else
  routeCount { s with net := s.net.map (fun q =>
    if q.id = p.id then { q with w0 := setBits q.w0 25 25 1, chan := 3 } else q) } p.at_ 63 48 1

/-- A free sheaf's node at the packet's router takes it to combine it: the node is not the root, the packet's round is
one of the two that it accepts, and the packet is not what this node has just sent on (R222, R225). -/
def keptHere (s : State) (p : Packet) : Bool :=
  decide (pType p = tSHEAF) && isLocalDev s (pDstDev p) && decide (p.yk = 0) && (match plotAt s p.at_ with
    | none => false
    | some j => match nodeOf s j (pShId p) with
      | none => false
      | some n => nodeFree s j n && !nodeRoot s j n && !sentOn s j p)

/-- The packet can leave its router for a neighbour now: it stands in a buffer, has a next router other than the one it is
at, and that router's buffer has room for all of it (R187, R196). -/
def readyFor (s : State) (p : Packet) : Option Nat :=
  if decide (p.port < 5) && !keptHere s p then
    match destRouter s p with
    | none => none
    | some d =>
      if p.at_ = d then none
      else match nextRouter s p d with
        | none => none
        | some y => if bufRoom s y (portFrom p.at_ y) p.chan p.headland (flitsOf p) then some y else none
  else none

/-- Place of the output port of router x toward its neighbour y in the state's table. -/
def outKey (x y : Nat) : Nat := 4 * x + (portFrom x y + 2) % 4

/-- Among the packets ready for one output on one channel, the one whose input port comes next in rotation, the oldest of
that port (R196, R197).
(DESIGN CHOICE: assumption 8) -/
def nextInTurn (a : Arb) (chan : Nat) (l : List Packet) : Option Packet :=
  let first := fget zeroNat a.last chan
  ((List.range 5).map (fun i => (first + i) % 5)).findSome? (fun port =>
    l.find? (fun p => decide (p.chan = chan) && decide (p.port = port)))

/-- A channel is starved at an output: its packet has been ready for 16 cycles and the channel has not been served in
them (R196).
(DEDUCED: assumption 8) -/
def starved (s : State) (a : Arb) (x : Nat) (p : Packet) : Bool :=
  decide (16 + max p.since (fget zeroNat a.served p.chan) ≤ cycles s (fieldOf x))

/-- The packet that the output of router x toward y sends next: C2 first, then a channel that has waited 16 cycles, then
C3, C1, C0 (R196). -/
def arbPick (s : State) (x y : Nat) : Option Nat :=
  let a := fget arb0 s.arb (outKey x y)
  let l := s.net.filter (fun p => decide (p.at_ = x) && decide (readyFor s p = some y))
  match nextInTurn a 2 l with
  | some p => some p.id
  | none =>
    let heads := [3, 1, 0].filterMap (fun ch => nextInTurn a ch l)
    match heads.find? (starved s a x) with
    | some p => some p.id
    | none => (heads.head?).map (·.id)

/-- The output of router x toward y has served a packet of a channel from an input port. -/
def servedOut (s : State) (x y chan port : Nat) : State :=
  let put := fun (a : Arb) => { a with
    last := fset zeroNat a.last chan (port + 1), served := fset zeroNat a.served chan (cycles s (fieldOf x)) }
  { s with arb := fupd arb0 s.arb (outKey x y) put }

/-- A packet that waits at the unit which made it enters the L buffer, oldest first, when there is room (R187). -/
def enterL (s : State) (p : Packet) : State :=
  let oldest := (s.net.find? (inBuf p.at_ 5 p.chan p.headland)).map (·.id)
  if bufRoom s p.at_ 4 p.chan p.headland (flitsOf p) && decide (oldest = some p.id) then
    { s with net := s.net.map (fun q =>
        if q.id = p.id then { q with port := 4, since := cycles s (fieldOf p.at_) } else q) }
  else s

/-- Words of a list of link errors that were corrected, each word once. -/
def correctedWords (errs : List (Nat × Fetch)) : Nat :=
  ((errs.filter (fun e => decide (e.2 = .corrected))).map (·.1)).eraseDups.length

/-- PACKET_HOP: packet `id` moves to the next router, when that router's buffer has room for all of it and the output's
turn is its own (R187, R196). `hdr` and `pay` say what the link's code finds in the eight words of its header flit and in
its payload words: a body of four words or fewer travels in the header (R188, R193). -/
def packetHop (id : Nat) (hdr pay : List (Nat × Fetch)) (s : State) : State :=
  match findPkt s id with
  | none => s
  | some p =>
    if p.port ≥ 5 then enterL s p
    else if keptHere s p then s
    else match destRouter s p with
    | none => s
    | some d =>
      if p.at_ = d then s
      else match nextRouter s p d with
      | none => if p.chan ≤ 1 then escapePkt s p else s
      | some y =>
        if arbPick s p.at_ y ≠ some id then s
        else
          let hdr := hdr.filter (fun e => decide (e.1 < 8))
          let pay := if pNflits p = 0 then [] else pay.filter (fun e => decide (e.1 < p.body.length))
          let q := { p with at_ := y, port := portFrom p.at_ y, since := cycles s (fieldOf y),
                            body := payErrors p.body pay }
          let s := servedOut s p.at_ y p.chan p.port
          let s := { s with net := s.net.map (fun x => if x.id = id then q else x) }
          let s := routeCount s y 15 0 (correctedWords hdr + correctedWords pay)
          if hdr.any (fun e => decide (e.2 = .uncorrectable)) || !headerOk q then hdrDrop s y id else s

/-- PACKET_HOP (R200). -/
def execPacketHop (id : Nat) (hdr pay : List (Nat × Fetch)) (s : State) : Out :=
  .next (packetHop id hdr pay s)

/-- ESC_WAIT at a router (PLOT_CTL, the same value in every router). -/
def escWait (s : State) (x : Nat) : Nat := pfld (getPlot s ((plotAt s x).getD 0)) oPlotCtl 47 40

/-- ESCAPE_TIMEOUT: a C0 or C1 header that has waited ESC_WAIT cycles at one router moves to C3
(R201). -/
def escapeTimeout (id : Nat) (s : State) : State :=
  match findPkt s id with
  | none => s
  | some p =>
    if p.chan ≤ 1 ∧ p.port < 5 ∧ !arrived s p ∧ cycles s (fieldOf p.at_) ≥ p.since + escWait s p.at_ then escapePkt s p
    else s

/-- ESCAPE_TIMEOUT (R201). -/
def execEscapeTimeout (id : Nat) (s : State) : Out := .next (escapeTimeout id s)

/-! ## Epochs and changes of routing (R204 to R206) -/

/-- EPOCH_SWITCH at an injection point: it uses the new epoch from then on (R205). -/
def epochSwitch (id : Nat) (s : State) : State :=
  match findPkt s id with
  | none => s
  | some p =>
    if pType p ≠ tEPOCHSWITCH ∨ !arrived s p then s
    else
      let s := dropPkt s id
      let e := bits p.w2 0 0
      match pDstKind p with
      | 1 => { s with edgeEpoch := fset zeroNat s.edgeEpoch (18 + pDstId p) e }
      | 2 => { s with edgeEpoch := fset zeroNat s.edgeEpoch (pDstId p) e }
      | 3 => updPlot s (pDstId p) (fun pl => setPfld pl oPlotEpoch 63 63 e)
      | _ => s

/-- EPOCH_SWITCH (R205). -/
def execEpochSwitch (id : Nat) (s : State) : Out := .next (epochSwitch id s)

/-- An EPOCH_SWITCH packet from the steward. -/
def switchPacket (kind dst e : Nat) : Packet :=
  mkPacket (mkW0 0xFFFF kind dst 0 0 0 tEPOCHSWITCH 0) (mkW1 0xFFFF 0x7FFF 0 0)
    (setBits 0#64 0 0 e) 0#64 [] 0

/-- A quadrant is powered and its tests have not ended (R408). -/
def underTest (s : State) (d : Nat) : Bool :=
  s.stw.quads.any (fun q => decide (q.dom = d) && !q.off && decide (q.step = 0))

/-- A plot injects packets: it is not lost and its quadrant is powered and not under test (R402, R408, R435). -/
def plotInjects (s : State) (j : Nat) : Bool :=
  !s.lost.contains j && !underTest s (quadOf (physOf s j)) && decide (csrFld s aPwrDomain (quadOf (physOf s j)) (quadOf (physOf s j)) = 1)

/-- Every injection point uses the epoch of the change. -/
def allSwitched (s : State) : Bool :=
  (List.range (numPlots s)).all (fun j => !plotInjects s j || decide (injEpoch s j = s.chg.epoch))
    && (List.range 24).all (fun e => decide (fget zeroNat s.edgeEpoch e = s.chg.epoch))

/-- Count a completed change in every plot's FLIPS and free the old slot (R205 step 4). -/
def finishChange (s : State) : State :=
  let old := verOf s (1 - s.chg.epoch)
  let s := setVer s (1 - s.chg.epoch) { old with valid := false }
  let s := (List.range (numPlots s)).foldl (fun s j =>
    if plotInjects s j then updPlot s j (fun p => setPfld p oPlotEpoch 47 32 (pfld p oPlotEpoch 47 32 + 1))
    else s) s
  { s with chg := { s.chg with step := 0 } }

/-- Load a version into slot e, with a headland tree and with the yoke ports that the team table in force gives (R199,
R202). -/
def loadVer (s : State) (e : Nat) (v : RouteVer) : State :=
  setVer s e { withTree s v with valid := true, team := teamVer s (injTepoch s) }

/-- ROUTING_CHANGE_PLANNED: with no change in progress, the steward writes version `v` into the inactive
slot and sends EPOCH_SWITCH to every injection point; with one in progress, it frees the old slot once
every point has switched and no old-epoch packet is left (R205). -/
def routingPlanned (v : RouteVer) (s : State) : State :=
  if s.chg.step = 0 then
    let e := 1 - curEpoch s
    let s := loadVer s e v
    let s := { s with chg := { step := 1, epoch := e, time := s.now.toNat } }
    let s := (List.range (numPlots s)).foldl (fun s j =>
      if plotInjects s j then injectEdge s 17 (switchPacket 3 j e) else s) s
    let s := (List.range 18).foldl (fun s u => injectEdge s 17 (switchPacket 2 u e)) s
    (List.range 6).foldl (fun s u => injectEdge s 17 (switchPacket 1 u e)) s
  else if allSwitched s && s.net.all (fun p => decide (pEpoch p = s.chg.epoch)) then finishChange s
  else s

/-- ROUTING_CHANGE_PLANNED (R205). -/
def execRoutingChangePlanned (v : RouteVer) (s : State) : Out := .next (routingPlanned v s)

/-- Inject an answer at the router that holds the packet it answers, under the epoch in force; one without a route is
discarded (R206). -/
def injectRouter (s : State) (x : Nat) (p : Packet) : State :=
  match plotAt s x with
  | some j => injectAt s j p
  | none =>
    let q := { p with w0 := setBits p.w0 26 26 (curEpoch s) }
    if destLost s q then s else putPacket s x q

/-- Handle a packet whose destination has become unreachable (R206). -/
def unreachable (s : State) (p : Packet) : State :=
  if p.orig = 8 then fillAnswer (dropPkt s p.id) p.origArg stUNREACH []
  else if isRequest (pType p) then
    injectRouter (dropPkt s p.id) p.at_ (statusPacket s p stUNREACH)
  else if pType p = tMESSAGE then
    let s := dropPkt s p.id
    if p.orig = 0 then injectRouter s p.at_ (bouncePacket s p rUNREACH) else dropUnsent s p
  else hdrDrop s p.at_ p.id

/-- Every point injects under epoch e, packets in the lost region are lost, the others are stamped with
e, and those whose destination has become unreachable are handled (R206). -/
def abruptSwitch (s : State) (e : Nat) : State :=
  let v := verOf s e
  let s := (List.range (numPlots s)).foldl (fun s j =>
    updPlot s j (fun p => setPfld p oPlotEpoch 63 63 e)) s
  let s := { s with edgeEpoch := (List.range 24).foldl (fun m u => fset zeroNat m u e) s.edgeEpoch }
  let kept := (s.net.filter (fun p => routerUp v p.at_)).map
    (fun p => { p with w0 := setBits p.w0 26 26 e })
  let s := { s with net := kept, chg := { s.chg with epoch := e } }
  finishChange (kept.foldl (fun s p => if destLost s p then unreachable s p else s) s)

/-- EPOCH_DRAIN_TIMEOUT: old-epoch traffic not drained 1 ms after the switch makes the change abrupt
(R205). -/
def epochDrainTimeout (s : State) : State :=
  if s.chg.step = 1 ∧ s.now.toNat ≥ s.chg.time + 1000000 then abruptSwitch s s.chg.epoch else s

/-- EPOCH_DRAIN_TIMEOUT (R205). -/
def execEpochDrainTimeout (s : State) : Out := .next (epochDrainTimeout s)

/-- ROUTING_CHANGE_ABRUPT: after the loss of a region the steward loads version `v` and switches at once
(R206); it starts no change before step 4 of the one in progress (R205). -/
def routingAbrupt (v : RouteVer) (s : State) : State :=
  if s.chg.step ≠ 0 then s
  else
    let e := 1 - curEpoch s
    abruptSwitch (loadVer s e v) e

/-- ROUTING_CHANGE_ABRUPT (R206). -/
def execRoutingChangeAbrupt (v : RouteVer) (s : State) : Out := .next (routingAbrupt v s)

end Sys2Proof.Machine
end

