-- ==== Sys2Proof/Machine/Power.lean ====
section
/-! DEFINITION. Heat, quadrant power, rail shorts, power profiles, the power limiter, the dormant state (R239,
R387, R404 to R420). -/

namespace Sys2Proof.Machine

/-! ## Profiles (R5, R6, R413 to R415) -/

def ceilingOf (p : Nat) : Nat :=
  match p with
  | 2 => 3000
  | 3 => 3600
  | 4 => 4200
  | _ => 2400

def ceilingW (s : State) : Nat := csrFld s aPwrProfile 31 16

/-- Bring every clock set within the lowest limit of its fields (R415). -/
def lowerSets (s : State) : State :=
  (List.range 6).foldl (fun s f =>
    let fs := clockSet s f
    let m := fs.foldl (fun a g => min a (nMax s g)) 64
    if fs.isEmpty ∨ nCur s f ≤ m then s else changeN s fs m []) s

/-- The effective profile: the lower of the record's and the declared one, A when either is absent.
(DEDUCED: assumption 58) -/
def applyProfile (s : State) : State :=
  let r := csrFld s aPwrProfile 51 48
  let d := csrFld s aPwrProfile 47 44
  let p := if r = 0 ∨ d = 0 then 1 else min r d
  let s := if p = csrFld s aPwrProfile 55 52 then s else setStw s (fun t => { t with profSwath := 1 + s.swathNow })
  let s := setCsrFld (setCsrFld s aPwrProfile 55 52 p) aPwrProfile 31 16 (ceilingOf p)
  lowerSets (refreshLimits s)

def setDeclared (s : State) (c : Nat) : State := applyProfile (setCsrFld s aPwrProfile 47 44 c)

def setCooling (s : State) (c : Cooling) : State := setStw s (fun t => { t with cooling := c })

/-- A declaration of class c: a lower class takes effect at once, a higher one after two consecutive
declarations of it at least 1 s apart (R414).
(DEDUCED: assumption 58) -/
def declareClass (s : State) (c : Nat) : State :=
  let now := s.now.toNat
  let d := csrFld s aPwrProfile 47 44
  if c ≤ d then setDeclared (setCooling s { last := now, higher := none }) c
  else match s.stw.cooling.higher with
    | some (x, t) =>
      if x = c then
        if now ≥ t + 1000000000 then setDeclared (setCooling s { last := now, higher := none }) c
        else setCooling s { last := now, higher := some (c, t) }
      else setCooling s { last := now, higher := some (c, now) }
    | none => setCooling s { last := now, higher := some (c, now) }

/-- A sideband response: COMMAND, the echoed sequence number, STATUS, payload (R538).
(DEDUCED: assumption 73) -/
def sbReply (s : State) (cmd seq status : Nat) (payload : List Byte) : State :=
  emit s (.sideband cmd seq status payload)

/-- The sideband is served while PWRGD is high (R537). -/
def sbServed (s : State) : Bool := s.pins.pwrgd

/-- COOLING: a class outside 1 to 4 is malformed and counts as no declaration (R539). -/
def coolingMsg (seq cls : Nat) (s : State) : State :=
  if !sbServed s then s
  else
    let ok := decide (1 ≤ cls ∧ cls ≤ 4)
    let s := if ok then declareClass s cls else s
    sbReply s 0x01 seq (if ok then 0 else 2)
      (natToBytes (csrFld s aPwrProfile 55 52 + 2 ^ 16 * ceilingW s) 4)

/-- COOLING (R414). -/
def execCooling (seq cls : Nat) (s : State) : Out := .next (coolingMsg seq cls s)

/-- COOLING_TIMEOUT: a declaration absent for 5 s counts as none. -/
def coolingTimeout (s : State) : State :=
  if csrFld s aPwrProfile 47 44 ≠ 0 ∧ s.now.toNat ≥ s.stw.cooling.last + 5000000000 then
    setDeclared (setCooling s { s.stw.cooling with higher := none }) 0
  else s

/-- COOLING_TIMEOUT (R414). -/
def execCoolingTimeout (s : State) : Out := .next (coolingTimeout s)

/-- Bit of an ordering code in a CODES field (R346). -/
def codeBit (codes : Nat) (s : State) : Bool := codes.testBit s.code

/-- The checks of a profile record's bytes, its composite signature among them (R413). -/
def profileFits (s : State) (b : List Byte) : Bool :=
  decide (b.length ≥ 0x30) && decide (le b 0 8 = 0x31464F525056504B) && decide (le b 8 2 = 1)
    && decide (1 ≤ le b 0x0A 1 ∧ le b 0x0A 1 ≤ 4) && codeBit (le b 0x0B 1) s && zeroAt b 0x0C 4
    && decide (le b 0x10 16 = s.stw.serial) && decide (le b 0x28 8 = 5876)
    && sigTrusted s.sec.profKeys .profile (b.take 0x30) b 0x30

/-- A firmware update is being verified or written (R490). -/
def fwBusy (s : State) : Bool := decide (csrFld s aSecFwupd 61 59 = 1 ∨ csrFld s aSecFwupd 61 59 = 2)

/-- PROFILE_RECORD_REPLACE: the record is verified; a refused one is treated as absent. It waits for a firmware
update under way. -/
def profileReplace (b : List Byte) (s : State) : State :=
  if fwBusy s then s
  else if profileFits s b then
    let s := setStw s (fun t => { t with profile := b })
    applyProfile (setCsrFld s aPwrProfile 51 48 (le b 0x0A 1))
  else
    let s := satCsrFld (setStw s (fun t => { t with profile := [] })) aSecVerify 47 32 1
    applyProfile (setCsrFld s aPwrProfile 51 48 0)

/-- PROFILE_RECORD_REPLACE (R413). -/
def execProfileRecordReplace (b : List Byte) (s : State) : Out :=
  .next (profileReplace b s)

/-! ## Heat (R404) -/

/-- 1 + the time since which a condition has held, 0 while it does not. -/
def since (old now : Nat) (holds : Bool) : Nat := if !holds then 0 else if old = 0 then 1 + now else old

/-- A time kept by `since` lies at least d nanoseconds back. -/
def heldFor (now x d : Nat) : Bool := decide (x ≠ 0) && decide (now + 1 ≥ x + d)

def thermOf (s : State) (d : Nat) : Nat := fget zeroNat s.stw.therm.temps d

/-- The tests of one set of quadrant temperatures. -/
def recordTemps (s : State) (die : List Nat) : State :=
  let now := s.now.toNat
  let th := csrFld s aPwrTherm 47 40
  let ret := csrFld s aPwrTherm 31 24
  let upd := fun (x : Therm) (d : Nat) =>
    let t := die.getD d 0
    { x with
      temps := fset zeroNat x.temps d t
      coolAt := fset zeroNat x.coolAt d (since (fget zeroNat x.coolAt d) now (decide (t < ret)))
      lowAt := fset zeroNat x.lowAt d (since (fget zeroNat x.lowAt d) now (decide (t + 5 < th))) }
  let s := setStw s (fun t => { t with therm := (List.range 24).foldl upd t.therm })
  let hot := (List.range 24).foldl (fun (a : Nat × Nat) d =>
    if die.getD d 0 > a.1 then (die.getD d 0, d) else a) (die.getD 0 0, 0)
  setCsrFld (setCsrFld s aPwrTherm 63 56 hot.1) aPwrTherm 55 51 hot.2

/-- HBM stack temperatures: TEMP, the refresh rate of R239, the halved command slots. -/
def recordStacks (s : State) (hbm : List Nat) : State :=
  (List.range (2 * hbmN s)).foldl (fun s i =>
    let k := if i < hbmN s then i else 6 + (i - hbmN s)
    let t := hbm.getD k 0
    let s := setCsrFld (setCsrFld s (aHbmStat k) 23 16 t) (aHbmStat k) 1 0
      (if t > 95 then 2 else if t > 85 then 1 else 0)
    setStw s (fun w =>
      let old := w.therm.hbmHot
      let on := if t ≥ 100 then true else if t < 95 then false else old.testBit k
      let base := if old.testBit k then old - 2 ^ k else old
      { w with therm := { w.therm with hbmHot := if on then base + 2 ^ k else base } })) s

/-- The functions whose partition holds plots of a quadrant. -/
def fnsOfQuad (s : State) (d : Nat) : List Nat :=
  (List.range 64).filter (fun n => (partPlots s n).any (fun j => !s.lost.contains j && decide (quadOfPlot s j = d)))

/-- A quadrant at 110 degrees that still has power: the contexts that use it fail (R404). -/
def hotFails (s : State) (d : Nat) : State :=
  if domainOn s d && decide (thermOf s d ≥ 110) then
    (fnsOfQuad s d).foldl (fun s n => startRecovery s n 10) s
  else s

/-- A hardware trip: D00 to D28 are opened and the cause is recorded (R409, R535). -/
def tripNow (s : State) (cause : Nat) : State :=
  if s.stw.trip then s
  else
    let s := setStw (setCsrFld s aPwrStat 7 0 cause) (fun t => { t with trip := true })
    let s := setPins s (fun p => { p with thermtrip := decide (cause = 1 ∨ cause = 2) })
    logEvent (deviceDown s)

/-- THERMAL_SAMPLE: quadrant temperatures by domain, stack temperatures by stack.
(DEDUCED: assumption 58) -/
def thermalSample (die hbm : List Nat) (s : State) : State :=
  let s := recordStacks (recordTemps s die) hbm
  let s := (List.range 24).foldl hotFails s
  if (List.range 24).any (fun d => decide (die.getD d 0 ≥ 115)) then tripNow s 1
  else if (List.range 12).any (fun k => decide (hbm.getD k 0 ≥ 105)) then tripNow s 2
  else s

/-- THERMAL_SAMPLE (R404). -/
def execThermalSample (die hbm : List Nat) (s : State) : Out := .next (thermalSample die hbm s)

/-- THERMAL_TRIP (R409). -/
def execThermalTrip (hbm : Bool) (s : State) : Out := .next (tripNow s (if hbm then 2 else 1))

/-- The quadrants of some fields that have power. -/
def poweredQuads (s : State) (fs : List Nat) : List Nat :=
  (fs.flatMap (fun f => (List.range 4).map (fun q => 4 * f + q))).filter (domainOn s)

/-- A quadrant-off sequence runs on a quadrant of these fields (R410). -/
def offRunning (s : State) (fs : List Nat) : Bool := s.stw.quads.any (fun q => q.off && fs.contains (q.dom / 4))

def stepMark (s : State) (fs : List Nat) : State :=
  let now := s.now.toNat
  setStw s (fun t => { t with therm := { t.therm with
    stepAt := fs.foldl (fun m f => fset zeroNat m f (1 + now)) t.therm.stepAt } })

/-- THROTTLE_STEP: one step of N of field f's clock set. `sweeps` is what the recalibration of the
seam lane groups finds. -/
def throttleStep (f : Nat) (sweeps : List Sweep) (s : State) : State :=
  let fs := clockSet s f
  let now := s.now.toNat
  let n := nCur s f
  let qs := poweredQuads s fs
  let hot := qs.any (fun d => decide (thermOf s d ≥ csrFld s aPwrTherm 47 40))
  let cool := qs.all (fun d => heldFor now (fget zeroNat s.stw.therm.lowAt d) 100000000)
  let due := fs.all (fun g =>
    let x := fget zeroNat s.stw.therm.stepAt g
    decide (x = 0) || heldFor now x 10000000)
  if f ≥ 6 ∨ !due ∨ offRunning s fs ∨ !stopFits s then s
  else if hot then
    if changeOk s fs (n - 1) then satCsrFld (stepMark (changeN s fs (n - 1) sweeps) fs) aPwrStat 31 16 1 else s
  else if cool && changeOk s fs (n + 1) then stepMark (changeN s fs (n + 1) sweeps) fs
  else s

/-- THROTTLE_STEP (R404). -/
def execThrottleStep (f : Nat) (sweeps : List Sweep) (s : State) : Out := .next (throttleStep f sweeps s)

/-! ## Quadrants off and on (R405 to R408) -/

/-- A routing version in which the routers of some domains are fenced; the plots keep their places. -/
def fencedVer (s : State) (v : RouteVer) (off : List Nat) : RouteVer :=
  let xs := (List.range 1764).filter (fun x => off.contains (quadOf x) && !isAttach x)
  { v with place := s.place, fenced := (v.fenced ++ xs).eraseDups }

/-- The partition rectangle without the columns, or without the rows, that hold plots of a quadrant, when what
remains is one rectangle. -/
def narrowTo (s : State) (n d pw ph : Nat) : Option Word :=
  let w := csrGet s (aFn n fnPart)
  let x0 := bits w 23 18
  let x1 := bits w 11 6
  let y0 := bits w 17 12
  let y1 := bits w 5 0
  let js := (partPlots s n).filter (fun j => decide (quadOfPlot s j = d))
  let cols := (List.range 40).filter (fun x => decide (x0 ≤ x ∧ x ≤ x1) && !js.any (fun j => decide (j % 40 = x)))
  let rows := (List.range 40).filter (fun y => decide (y0 ≤ y ∧ y ≤ y1) && !js.any (fun j => decide (j / 40 = y)))
  let whole := fun (l : List Nat) => decide (l.length = l.getLastD 0 - l.headD 0 + 1) && !l.isEmpty
  let wc := put (put w 23 18 (cols.headD 0)) 11 6 (cols.getLastD 0)
  let wr := put (put w 17 12 (rows.headD 0)) 5 0 (rows.getLastD 0)
  if whole cols && decide (rectDims s n wc = (pw, ph)) then some wc
  else if whole rows && decide (rectDims s n wr = (pw, ph)) then some wr
  else none

/-- The cores that leave a partition stop and lose their pair. -/
def leavePart (s : State) (cs : List Nat) : State :=
  cs.foldl (fun s c => setPair (dropOld (discardDrain s c) c) c 0 0) s

/-- Queue a switch of function n to list entry l with CARRY, and start it when nothing is in the way. -/
def carrySwitch (s : State) (n l : Nat) : State :=
  let sw : Switch := { list := l, act := 0, cmd := none, carry := lastDispatched s n, admitting := false }
  switchStart n (updFun s n (fun f => { f with switches := sw :: f.switches }))

/-- Narrow function n to its fallback image, when its record names one that fits (R405 step 1). -/
def narrowFn (s : State) (n d : Nat) : Option State :=
  let f := getFun s n
  if f.fallback ≥ 16 ∨ ctxState s n ≠ 2 ∨ f.narrowed.isSome then none
  else match imgAt f f.fallback with
    | none => none
    | some i =>
      (narrowTo s n d i.pw i.ph).map (fun w =>
        let old := partCores s n
        let x := (csrGet s (aFn n fnPart), ctxList s n, d)
        let s := updFun (csrSet s (aFn n fnPart) w) n (fun f => { f with narrowed := some x })
        let now := partCores s n
        carrySwitch (leavePart s (old.filter (fun c => !now.contains c))) n f.fallback)

/-- Step 1 for one function: narrow it, or begin the drain of its suspension. -/
def quadStop (d : Nat) (s : State) (n : Nat) : State :=
  match narrowFn s n d with
  | some s => s
  | none => if ctxState s n = 2 && !(fget drain0 s.drains n).active then quiescentPass n s else s

/-- A function whose suspension has drained: it holds no running or changing context (R405 step 2). -/
def quadDrained (s : State) (n : Nat) : Bool :=
  (getFun s n).recov.isNone && (getFun s n).seed.isNone && !(fget drain0 s.drains n).active

/-- Suspend function n for a quadrant: pending dispatched requests complete as R371 does. -/
def suspendFn (d : Nat) (s : State) (n : Nat) : State :=
  let gone := (runsOf s n).filter (fun r => decide (r.disp ≠ 0))
  let s := if ctxState s n = 2 then
      setCtxState (gone.foldl (fun s r => finishReq s n r.ser (if r.deadline ≠ 0 then csDROPPED else csFAILED) 0) s) n 3
    else s
  updFun s n (fun f => { f with
    suspended := if f.suspended.contains d then f.suspended else d :: f.suspended
    suspendAt := if f.suspended.isEmpty then s.now.toNat else f.suspendAt })

def setQuads (s : State) (l : List QuadSeq) : State := setStw s (fun t => { t with quads := l })

/-- Step of the sequence of domain d, if one runs. -/
def quadSeq (s : State) (d : Nat) : Option QuadSeq := s.stw.quads.find? (fun q => decide (q.dom = d))

def setQuadStep (s : State) (d k : Nat) : State :=
  setQuads s (s.stw.quads.map (fun q => if q.dom = d then { q with step := k } else q))

/-- QUADRANT_OFF: the next step of the quadrant-off sequence of quadrant d; `v` is the routing version the
steward has computed.
(DESIGN CHOICE: assumption 59) -/
def quadrantOff (d : Nat) (v : RouteVer) (s : State) : State :=
  match quadSeq s d with
  | none =>
    if d < 24 && domainOn s d && decide (thermOf s d ≥ csrFld s aPwrTherm 39 32) && !s.stw.trip then
      setQuads (satCsrFld s aPwrTherm 23 8 1)
        (s.stw.quads ++ [{ dom := d, off := true, step := 1, swath := s.swathNow }])
    else s
  | some q =>
    if !q.off then s
    else if q.step = 1 then
      if s.swathNow > q.swath || decide (thermOf s d ≥ 110) then
        setQuadStep ((fnsOfQuad s d).foldl (quadStop d) s) d 2
      else s
    else if q.step = 2 then
      let ready := s.stw.quads.filter (fun x => x.off && decide (x.step = 2) && (fnsOfQuad s x.dom).all (quadDrained s))
      if s.chg.step ≠ 0 ∨ !(ready.any (fun x => decide (x.dom = d))) then s
      else
        let s := ready.foldl (fun s x =>
          setQuadStep ((fnsOfQuad s x.dom).foldl (suspendFn x.dom) s) x.dom 3) s
        routingPlanned (fencedVer s v (ready.map (·.dom))) s
    else if s.chg.step ≠ 0 then s
    else
      let s := quadLost (setFenced s d 1) d
      setQuads (setOn s d 0) (s.stw.quads.filter (fun x => decide (x.dom ≠ d)))

/-- QUADRANT_OFF (R405). -/
def execQuadrantOff (d : Nat) (v : RouteVer) (s : State) : Out := .next (quadrantOff d v s)

/-- Resume a suspended function with a switch to its context's image (R406). The time of the suspension does
not count toward hang detection (R470). -/
def resumeFn (s : State) (n : Nat) : State :=
  let now := s.now.toNat
  let gap := now - (getFun s n).suspendAt
  let s := updFun s n (fun f => { f with
    progressAt := now
    reqs := f.reqs.map (fun r => if r.dispAt = 0 then r else { r with dispAt := r.dispAt + gap }) })
  if ctxState s n = 3 then
    let sw : Switch := { list := ctxList s n, act := 0, cmd := none, carry := lastDispatched s n, admitting := false }
    beginSwitch s n sw
  else s

/-- Quadrant d no longer keeps function n suspended. -/
def unsuspend (d : Nat) (s : State) (n : Nat) : State :=
  if !(getFun s n).suspended.contains d then s
  else
    let s := updFun s n (fun f => { f with suspended := f.suspended.filter (fun x => decide (x ≠ d)) })
    if (getFun s n).suspended.isEmpty then resumeFn s n else s

/-- The full rectangle and the former image of a function narrowed for quadrant d come back (R407). -/
def restoreFn (d : Nat) (s : State) (n : Nat) : State :=
  match (getFun s n).narrowed with
  | some x => if x.2.2 = d ∧ (imgAt (getFun s n) x.2.1).isSome then carrySwitch s n x.2.1 else s
  | none => s

/-- The plots of a quadrant come up: every register at its reset value, injecting under the epoch in force. -/
def quadUp (s : State) (d : Nat) : State :=
  let s := setOn s d 1
  (List.range (numPlots s)).foldl (fun s j =>
    if decide (quadOfPlot s j = d) && !s.lost.contains j then
      updPlot s j (fun p => setPfld p oPlotEpoch 63 63 s.chg.epoch)
    else s) s

/-- A quadrant that fails its self-test is failed hardware. -/
def quadFailed (s : State) (d : Nat) : State :=
  ((List.range 1764).filter (fun x => decide (quadOf x = d))).foldl (fun s x => recordFailed s x 2 1) s

/-- Quadrants under logic test at once, at most (R425). -/
def testLimit (s : State) : Nat := min (ceilingW s / 200) (csrFld s aTestCfg 31 24)

/-- Another quadrant may go under logic test. -/
def testRoom (s : State) : Bool :=
  decide ((s.stw.quads.filter (fun q => !q.off && decide (q.step = 0))).length < testLimit s)

/-- The tests of a returning quadrant end: it comes up, or stays off. -/
def quadTested (s : State) (d : Nat) (testOk : Bool) (v : RouteVer) : State :=
  if !testOk then setQuads (setOn (quadFailed s d) d 0) (s.stw.quads.filter (fun x => decide (x.dom ≠ d)))
  else if s.chg.step ≠ 0 then s
  else routingPlanned { v with place := s.place } (setQuadStep (quadUp s d) d 1)

/-- QUADRANT_RETURN: the next step of the return of quadrant d: it is powered and goes under test, its tests end, its
fences are released after the routing change, the functions narrowed for it come back. -/
def quadrantReturn (d : Nat) (testOk : Bool) (v : RouteVer) (s : State) : State :=
  match quadSeq s d with
  | none =>
    let cool := heldFor s.now.toNat (fget zeroNat s.stw.therm.coolAt d) 100000000
    let off := !domainOn s d && decide (csrFld s aPwrDomain (32 + d) (32 + d) = 1)
    let dead := ((List.range 1764).filter (fun x => decide (quadOf x = d))).all (plotBad s)
    if d ≥ 24 ∨ !off ∨ !cool ∨ dead ∨ s.stw.trip ∨ fieldLost s (d / 4) ∨ !testRoom s
        ∨ csrFld s aPwrDormant 61 59 ≠ 0 then s
    else setQuads (setOn s d 1) (s.stw.quads ++ [{ dom := d, off := false, step := 0, swath := 0 }])
  | some q =>
    if q.off then s
    else if q.step = 0 then quadTested s d testOk v
    else if q.step = 1 then
      if s.chg.step ≠ 0 then s
      else
        let s := (List.range 64).foldl (unsuspend d) (setFenced s d 0)
        setQuads s (s.stw.quads.map (fun x => if x.dom = d then { x with step := 2, swath := s.swathNow } else x))
    else if s.swathNow > q.swath then
      (List.range 64).foldl (restoreFn d) (setQuads s (s.stw.quads.filter (fun x => decide (x.dom ≠ d))))
    else s

/-- QUADRANT_RETURN (R407, R408). -/
def execQuadrantReturn (d : Nat) (testOk : Bool) (v : RouteVer) (s : State) : Out :=
  .next (quadrantReturn d testOk v s)

/-! ## Rail shorts (R411, R412) -/

/-- The logical plots of a field. -/
def fieldPlots (s : State) (f : Nat) : List Nat :=
  (List.range (numPlots s)).filter (fun j => !s.lost.contains j && decide (fieldOf (physOf s j) = f))

/-- A field is declared lost: the steps of R411. `v` is the routing version with the headland recomputed.
(DESIGN CHOICE: assumption 59) -/
def loseField (f : Nat) (v : RouteVer) (s : State) : State :=
  if f ≥ 6 ∨ fieldLost s f then s
  else
    let js := fieldPlots s f
    let fns := (List.range 64).filter (fun n => js.any (inPart s n))
    let s := setCsrFld (setCsrFld s aPwrStat (48 + f) (48 + f) 1) (aClkField f) 56 56 1
    let s := (List.range 126).foldl (fun s g =>
      if (seamFields g).1 = f ∨ (seamFields g).2 = f then setSeam s g 1 else s) s
    let s := setStw s (fun t => { t with
      quads := t.quads.filter (fun q => decide (q.dom / 4 ≠ f))
      move := none
      toPlace := t.toPlace.filter (fun j => !js.contains j) })
    let s := { s with lost := s.lost ++ js }
    let qs := (List.range 4).map (fun q => 4 * f + q)
    let s := routingAbrupt (fencedVer s v qs) s
    let s := fns.foldl (fun s n => startRecovery s n 0) s
    let s := qs.foldl (fun s d => setOn (quadLost s d) d 0) s
    let s := addRepair s (repairWord 3 2 f 0 0 0) 0
    logEvent (note (refreshSets (refreshReserve s)) (.other 411 f))

/-- FIELD_RAIL_SHORT: an overcurrent has opened the field's switch. -/
def execFieldRailShort (f : Nat) (v : RouteVer) (s : State) : Out := .next (loseField f v s)

/-! ## Input power (R416, R417) -/

def setPower (s : State) (g : Power → Power) : State := setStw s (fun t => { t with power := g t.power })

/-- The clock sets of the device. -/
def allSets (s : State) : List (List Nat) :=
  ((List.range 6).filter (fun f => !fieldLost s f && decide (nCur s f ≠ 0))).map (clockSet s) |>.eraseDups

/-- Move N of every clock set by one step, down or up, where the limits allow it. -/
def stepAll (s : State) (down : Bool) (sweeps : List Sweep) : State :=
  (allSets s).foldl (fun s fs =>
    let n := nCur s (fs.headD 0)
    let hot := (poweredQuads s fs).any (fun d => decide (thermOf s d ≥ csrFld s aPwrTherm 47 40))
    if down then
      if changeOk s fs (n - 1) then satCsrFld (changeN s fs (n - 1) sweeps) aPwrStat 31 16 1 else s
    else if !hot && changeOk s fs (n + 1) then changeN s fs (n + 1) sweeps
    else s) s

/-- The hardware limiter: two consecutive samples above 1.15 times the ceiling halve the field clocks; 1 ms
without a sample above the ceiling lifts it. -/
def limiter (w : Nat) (s : State) : State :=
  let now := s.now.toNat
  let top := ceilingW s
  let p := s.stw.power
  let overs := if 100 * w > 115 * top then p.overs + 1 else 0
  let overAt := if w > top then now else p.overAt
  if !p.halved && decide (overs ≥ 2) then
    satCsrFld (setPower s (fun p => { p with overs := overs, overAt := overAt, halved := true })) aPwrStat 47 32 1
  else
    setPower s (fun p => { p with overs := overs, overAt := overAt,
                                  halved := p.halved && !decide (w ≤ top ∧ now ≥ p.overAt + 1000000) })

/-- POWER_SAMPLE: a sample of w watts; `sweeps` is what the recalibration of the seam lane groups finds.
(DEDUCED: assumption 58) -/
def powerSample (w : Nat) (sweeps : List Sweep) (s : State) : State :=
  let now := s.now.toNat
  let s := limiter w s
  let l := (w :: s.stw.power.samples).take 100
  let mean := l.foldl (· + ·) 0 / l.length
  let s := setCsrFld (setPower s (fun p => { p with samples := l })) aPwrProfile 15 0 (min 65535 mean)
  let top := ceilingW s
  let low := since s.stw.power.lowAt now (decide (100 * mean < 95 * top))
  let s := setPower s (fun p => { p with lowAt := low })
  if !stopFits s then s
  else if mean > top ∧ now ≥ s.stw.power.movedAt + 1000000 then
    setPower (stepAll s true sweeps) (fun p => { p with movedAt := now })
  else if heldFor now low 100000000 ∧ now ≥ s.stw.power.movedAt + 10000000 then
    setPower (stepAll s false sweeps) (fun p => { p with movedAt := now })
  else s

/-- POWER_SAMPLE (R416, R417). -/
def execPowerSample (w : Nat) (sweeps : List Sweep) (s : State) : Out := .next (powerSample w sweeps s)

/-! ## The dormant state (R418 to R420) -/

/-- Answer a sideband POWER request, when the request came that way.
(DEDUCED: assumption 73) -/
def powerReply (s : State) (sb : Option Nat) (status : Nat) : State :=
  match sb with
  | some seq => sbReply s 0x05 seq status []
  | none => s

/-- The dormant state may be entered. -/
def dormantOk (s : State) : Bool :=
  let admin := fun (n : Nat) => decide (csrFld s aHostPortCfg 53 53 = 1) && decide (csrFld s aHostPortCfg 59 54 = n)
  decide (csrFld s aPwrDormant 61 59 = 0) && !s.stw.trip && decide (csrFld s aStwBoot 63 61 = 1)
    && (List.range 64).all (fun n => decide (ctxState s n = 0 ∨ ctxState s n = 5))
    && s.tcs.all (fun v => admin v.fn)

/-- DORMANT_ENTER: D00 to D25 and D28 lose power, and D27 without a team record.
(DESIGN CHOICE: assumption 59) -/
def dormantEnter (sb : Option Nat) (s : State) : State :=
  if !dormantOk s then powerReply (satCsrFld s aPwrDormant 47 32 1) sb 1
  else
    let team := teamValid s
    let s := (List.range 24).foldl quadLost s
    let off := (List.range 26) ++ [28] ++ (if team then [] else [27])
    let s := off.foldl (fun s d => setOn s d 0) s
    let s := (List.range 6).foldl (fun s f => setCsrFld (setCsrFld s (aClkField f) 55 54 2) (aClkField f) 47 40 0) s
    let s := (List.range 4).foldl (fun s p => setCsrFld s (aCxlStat p) 63 62 0) s
    let s := if team then s else (List.range 12).foldl (fun s p => setCsrFld s (aYokeStat p) 63 62 0) s
    let s := setStw s (fun t => { t with quads := [], move := none })
    let s := { s with slices := [], chg := { s.chg with step := 0 } }
    powerReply (setCsrFld s aPwrDormant 61 59 2) sb 0

/-- DORMANT_ENTER (R418, R419). -/
def execDormantEnter (sb : Option Nat) (s : State) : Out := .next (dormantEnter sb s)

/-- The quadrants of the part: some are fused off on a KPV6-M1 (R421).
(DESIGN CHOICE: assumption 59) -/
def quadPresent (s : State) (d : Nat) : Bool :=
  decide (d < 24) && !(decide (s.code = 1) && [18, 19, 22, 23].contains d)

/-- Power every present quadrant that is neither lost nor failed. -/
def quadsUp (s : State) : State :=
  ((List.range 24).filter (quadPresent s)).foldl (fun s d =>
    let dead := ((List.range 1764).filter (fun x => decide (quadOf x = d))).all (plotBad s)
    if fieldLost s (d / 4) || dead then s else setFenced (quadUp s d) d 0) s

/-- Take an arrangement over: the logical plots stand at its places. -/
def atPlaces (s : State) (a : FMap Nat × List Nat) : State := { s with place := a.1, lost := a.2 }

/-- No logical link of the arrangement that follows from the map uses a seam lane group (R154). -/
def groupUnused (s : State) (g : Nat) : Bool :=
  let a := arrangement s
  let t := atPlaces s a
  (List.range (numPlots s)).all (fun j => a.2.contains j
    || (List.range 64).all (fun i => decide (seamOf t (coreAt j (i / 4)) (i % 4) ≠ some g)))

/-- A group that fails three attempts at reset: a defect of the plot on its sending side, then of its row, where the
remap then avoids the group; else the group is fenced and the identity record reports it (R154). -/
def seamDefect (s : State) (g : Nat) (back : Bool) : State :=
  let x := seamPlot g back
  let s1 := recordFailed s x 1 8
  let spare := decide (((List.range (physRows s)).filter (rowRetired s)).length < 2)
  let s2 := if spare && !rowRetired s (x / 42) then addRepair s1 (repairWord 2 1 (x / 42) 0 0 0) 8 else s1
  if groupUnused s1 g then setSeam s1 g 4
  else if groupUnused s2 g then setSeam s2 g 4
  else
    let s := addRepair s (repairWord 10 1 (x / 42) (x % 42) 0 g) 8
    setStw (setSeam s g 1) (fun t => { t with seamDegraded := true })

/-- The calibration of one group at reset: three attempts at most (R154, R389). A group fenced before stays fenced. -/
def seamReset (s : State) (g : Nat) (x : Sweep) : State :=
  let f := seamFields g
  if fget zeroNat s.seams g = 1 then s
  else
    let r := calibrate g x 3 0 s
    if r.2 then setSeam r.1 g (if nCur s f.1 = nCur s f.2 then 0 else 2) else seamDefect r.1 g x.back

/-- Lock the field clocks at their limits and calibrate the seams (R389, R154). -/
def clocksUp (s : State) (sweeps : List Sweep) : State :=
  let s := refreshLimits s
  let s := (List.range 6).foldl (fun s f =>
    if fieldLost s f then s
    else setCsrFld (setCsrFld s (aClkField f) 55 54 1) (aClkField f) 47 40 (nMax s f)) s
  let s := refreshSets s
  reloadCopies ((List.range 126).foldl (fun s g => seamReset s g (sweepOf sweeps g)) s)

/-- The plots that a start or wake test fails, each with the unit found, are recorded; a failed relay path retires its
row (R430, R462). -/
def testFails (s : State) (origin source : Nat) (l : List (Nat × Nat)) : State :=
  l.foldl (fun s x =>
    let s := recordFailed (setTestFail s x.2 x.1 source) x.1 origin x.2
    if x.2 = 3 ∧ !rowRetired s (x.1 / 42) then addRepair s (repairWord 2 origin (x.1 / 42) 0 0 0) 3 else s) s

/-- The arrangement is derived from the map, and a version loaded under an epoch; the plots of a lost field are
absent (R434). -/
def rearrange (s : State) (e : Nat) (v : RouteVer) : State :=
  let a := arrangement s
  let gone := (List.range (numPlots s)).filter (fun j => fieldLost s (fieldOf (fget place0 a.1 j)))
  let s := atPlaces s (a.1, a.2 ++ gone.filter (fun j => !a.2.contains j))
  refreshReserve (loadVer s e { v with place := a.1 })

/-- Some logical plot stands at a place that the map names failed or retired. -/
def misplaced (s : State) : Bool :=
  (List.range (numPlots s)).any (fun j => !s.lost.contains j
    && (plotBad s (physOf s j) || rowRetired s (physOf s j / 42)))

/-- Report each link of a port that did not train: "CXL link failed", with 2 x port + half (R240). -/
def reportCxl (s : State) (x : CxlLink) : State :=
  let s := if x.up0 then s else note s (.other 240 (2 * x.port))
  if decide (x.mode = 1) && !x.up1 then note s (.other 240 (2 * x.port + 1)) else s

/-- Step 11 of a start, and the end of a wake: what training found at each CXL port. D28 stays on when a link trained
(R402). The full test of a cold start leaves the memory zero. -/
def linksTrained (s : State) (cold : Bool) (l : List CxlLink) : State :=
  let s := if cold then { s with cxl := [], cxlPoi := [] } else s
  (l.filter (fun x => decide (x.port < 4) && !(decide (s.code = 1) && decide (x.port ≥ 2)))).foldl (fun s x =>
    let lim := if x.mode = 1 then 448 else 896
    let w := put (put (put (put (put (put (put 0#64 63 63 (b2n x.up0)) 62 62 (b2n x.up1)) 61 60 (min 1 x.mode)) 59 59
      (b2n x.ide0)) 58 58 (b2n x.ide1)) 19 10 (if x.mode = 1 then min lim x.cap1 else 0)) 9 0 (min lim x.cap0)
    reportCxl (csrSet s (aCxlStat x.port) w) x) (setOn s 28 (b2n (l.any (fun x => x.up0 || x.up1))))

/-- WAKE: the domains come back, in `us` microseconds. `bad` names the plots that fail their tests, `defects` the
failing bits and wires, `sweeps` what the calibration of the seams finds, `links` what the retraining of the CXL links finds; `v` is the routing
version loaded. Failures follow the rules of a cold start.
(DESIGN CHOICE: assumption 59) -/
def wake (sb : Option Nat) (us : Nat) (bad : List (Nat × Nat)) (defects : List Defect) (sweeps : List Sweep)
    (links : List CxlLink) (v : RouteVer) (s : State) : State :=
  if csrFld s aPwrDormant 61 59 ≠ 2 ∧ csrFld s aPwrDormant 61 59 ≠ 3 then powerReply s sb 1
  else
    let s := testFails (repairAll s 2 3 defects) 2 3 bad
    let s := [24, 25, 27].foldl (fun s d => if d = 27 ∧ !teamValid s then s else setOn s d 1) s
    let s := clocksUp (quadsUp s) sweeps
    let s := if misplaced s then rearrange s s.chg.epoch v else loadVer s s.chg.epoch { v with place := s.place }
    let s := linksTrained s false links
    powerReply (setCsrFld (setCsrFld s aPwrDormant 61 59 0) aPwrDormant 31 0 us) sb 0

/-- WAKE (R420). -/
def execWake (sb : Option Nat) (us : Nat) (bad : List (Nat × Nat)) (defects : List Defect) (sweeps : List Sweep)
    (links : List CxlLink) (v : RouteVer) (s : State) : Out :=
  .next (wake sb us bad defects sweeps links v s)

end Sys2Proof.Machine
end

