-- ==== Sys2Proof/Machine/TestRepair.lean ====
section
/-! DEFINITION. Rotation, re-placement and moves of plots, redundant pairs, digests, wear (R434 to R459). -/

namespace Sys2Proof.Machine

/-! ## Declared failures (R441) -/

/-- 24 hours and 1 second, in nanoseconds. -/
def oneDay : Nat := 86400000000000
def oneSec : Nat := 1000000000

/-- What names plot j failed without a self-test: a report of the recovery ladder, a seam or a pair; sheaf adders
that mismatched three times within 1 s; uncorrectable words in 4 lines of one core within 24 hours. -/
def plotSuspect (s : State) (j : Nat) : Bool :=
  let now := s.now.toNat
  let up := s.stw.upNs
  s.notes.any (fun n => decide (n = .other 441 j))
    || decide ((s.stw.adders.filter (fun a => decide (a.1 = j) && decide (now ≤ a.2 + oneSec))).length ≥ 3)
    || (List.range 16).any (fun b =>
      let l := s.stw.ueLines.filter (fun u => decide (u.1 = coreAt j b) && decide (up ≤ u.2.2 + oneDay))
      decide ((l.map (fun u => u.2.1)).eraseDups.length ≥ 4))

/-- The plot at j fails: it is recorded, its partition's context fails, it waits for its re-placement. -/
def declareFailed (s : State) (j unit : Nat) : State :=
  let s := recordFailed s (physOf s j) 2 unit
  let s := setStw s (fun t => { t with
    toPlace := if t.toPlace.contains j then t.toPlace else t.toPlace ++ [j]
    adders := t.adders.filter (fun a => decide (a.1 ≠ j))
    ueLines := t.ueLines.filter (fun u => decide (plotOf u.1 ≠ j)) })
  let s := { s with notes := s.notes.filter (fun n => decide (n ≠ .other 441 j)) }
  let s := match fnOfPlot s j with
    | some n => startRecovery s n 0
    | none => s
  logEvent (refreshReserve s)

/-- A self-test has found a fault of a unit in plot j. -/
def testedFailed (s : State) (j unit : Nat) : State :=
  declareFailed (setTestFail s unit (physOf s j) 2) j unit

/-- PLOT_FAILED: `tested` names the unit in which a self-test has found a fault of plot j that no spare repairs. -/
def plotFailedStep (j : Nat) (tested : Option Nat) (s : State) : State :=
  if !plotOk s j || s.stw.toPlace.contains j then s
  else match tested with
    | some u => testedFailed s j u
    | none => if plotSuspect s j then declareFailed s j 0 else s

/-- PLOT_FAILED (R441). -/
def execPlotFailed (j : Nat) (tested : Option Nat) (s : State) : Out := .next (plotFailedStep j tested s)

/-! ## Moves (R436 to R440) -/

/-- The functions that hold moving plots and run: they pause. -/
def fnsMoving (s : State) (l : List (Nat × Nat)) : List Nat :=
  (List.range 64).filter (fun n => decide (ctxState s n = 2) && l.any (fun m => inPart s n m.1))

def setMove (s : State) (m : Option Move) : State := setStw s (fun t => { t with move := m })

/-- Start a move: the version with the destinations is ready, intake stops on every partition that holds a
moving plot (R437 steps 1 and 2).
(DESIGN CHOICE: assumption 61) -/
def startMove (s : State) (kind : Nat) (l : List (Nat × Nat)) (v : RouteVer) (bare : List Nat) : State :=
  let fns := fnsMoving s l
  let ran := (fns.flatMap (partCores s)).filter (fun c => decide (cfld (getCore s c) oFurCtl 63 63 = 1))
  let place := l.foldl (fun m x => fset place0 m x.1 x.2) s.place
  let mv : Move := { kind := kind, step := 1, time := s.now.toNat, moves := l, ver := { v with place := place },
                     fns := fns, bare := bare, ran := ran }
  fns.foldl (fun s n => quiescentPass n s) (setMove s (some mv))

/-- A core of a moving plot has nothing outstanding. -/
def coreStill (k : Core) : Bool := k.reqs.isEmpty && k.sends.isEmpty && k.mq.isEmpty && k.mma.isNone && k.drain.isNone

/-- Work resumes: RUN and RUNNING as before, INTAKE_STOP clear (R437 step 6).
(DESIGN CHOICE: assumption 61) -/
def resumeWork (m : Move) (s : State) : State :=
  let s := m.fns.foldl (fun s n =>
    if ctxState s n = 2 then
      (partCores s n).foldl (fun s c => updCore s c (fun k =>
        setCfld (setCfld (setCfld k oFurCtl 62 62 0) oState 47 47 1) oFurCtl 63 63 (b2n (m.ran.contains c)))) s
    else s) s
  { s with drains := s.drains.filter (fun e => !m.fns.contains e.1) }

/-- Counts of field cycles follow a plot into another field.
(DESIGN CHOICE: assumption 61) -/
def rebase (s : State) (j f g : Nat) : State :=
  if f = g then s
  else (List.range 16).foldl (fun s b => updCore s (coreAt j b) (fun k =>
    { k with
      stallBase := k.stallBase.map (fun e => (e.1, e.2 + cycles s g - cycles s f))
      scrubAt := k.scrubAt + cycles s g - cycles s f })) s

/-- Copy the plots' states; bare ones arrive in the state of R431.
(DESIGN CHOICE: assumption 61) -/
def copyPlots (m : Move) (s : State) : State :=
  let s := m.moves.foldl (fun s x =>
    if m.bare.contains x.1 then
      let cs := (List.range 16).map (coreAt x.1)
      updPlot { s with cores := s.cores.filter (fun e => !cs.contains e.1), plots := ferase x.1 s.plots } x.1
        (fun p => setPfld p oPlotEpoch 63 63 s.chg.epoch)
    else rebase s x.1 (fieldOf (physOf s x.1)) (fieldOf x.2)) s
  { s with place := m.ver.place }

/-- The plots of a move have been copied: a rotation step or a re-placement is complete.
(DESIGN CHOICE: assumption 61) -/
def endMove (m : Move) (s : State) : State :=
  let s := setMove (resumeWork m (copyPlots m s)) none
  let s := if m.kind = 0 then wrapCsrFld s aTestRotStat 63 32 1
    else wrapCsrFld (setStw s (fun t => { t with
      toPlace := t.toPlace.filter (fun j => decide (some j ≠ m.bare.head?)) })) aTestReserve 15 0 1
  refreshReserve s

/-- PLOT_MOVE: the next step of the move in progress.
(DESIGN CHOICE: assumption 61) -/
def plotMove (s : State) : State :=
  match s.stw.move with
  | none => s
  | some m =>
    if m.step = 1 then
      let ended := m.fns.all (fun n => decide (ctxState s n ≠ 2) || (fget drain0 s.drains n).done)
      let still := m.moves.all (fun x => m.bare.contains x.1
        || (List.range 16).all (fun b => coreStill (getCore s (coreAt x.1 b))))
      if ended && still && decide (s.chg.step = 0) then
        setMove (routingPlanned m.ver s) (some { m with step := 2 })
      else s
    else if s.chg.step = 0 then endMove m s
    else s

/-- PLOT_MOVE (R437). -/
def execPlotMove (s : State) : Out := .next (plotMove s)

/-- MOVE_DRAIN_TIMEOUT: a drain has not ended in 200 microseconds: a rotation step is abandoned; a re-placement
fails the partition and goes on without copying its plots. -/
def moveDrainTimeout (s : State) : State :=
  match s.stw.move with
  | none => s
  | some m =>
    let late := m.fns.filter (fun n => decide (ctxState s n = 2) && !(fget drain0 s.drains n).done)
    if m.step ≠ 1 ∨ late.isEmpty ∨ s.now.toNat < m.time + 200000 then s
    else if m.kind = 0 then satCsrFld (setMove (resumeWork m s) none) aTestRotStat 31 16 1
    else
      let bare := m.bare ++ (m.moves.map (·.1)).filter (fun j => late.any (fun n => inPart s n j))
      let s := late.foldl (fun s n => startRecovery (drainPart s n) n 0) s
      let s := { s with drains := s.drains.filter (fun e => !late.contains e.1) }
      setMove s (some { m with fns := m.fns.filter (fun n => !late.contains n), bare := bare })

/-- MOVE_DRAIN_TIMEOUT (R439). -/
def execMoveDrainTimeout (s : State) : Out := .next (moveDrainTimeout s)

/-! ## Re-placement (R442 to R445) -/

/-- The logical plot at a physical place. -/
def logicalAt (s : State) (x : Nat) : Option Nat :=
  match invPlace s.place x with
  | some j => if s.lost.contains j || decide (j ≥ numPlots s) then none else some j
  | none => none

/-- Powered: the destination of a move lies in no unpowered quadrant, nor in one that is being switched off
(R440). -/
def placeOk (s : State) (x : Nat) : Bool :=
  domainOn s (quadOf x) && decide (csrFld s aPwrDomain (32 + quadOf x) (32 + quadOf x) = 0) && !s.stw.quads.any (fun q => q.off && decide (q.dom = quadOf x))

/-- The nearest of some columns (or rows) to one: the lower on a tie. -/
def nearest (x : Nat) (l : List Nat) : Option Nat :=
  let d := fun (a : Nat) => (a - x) + (x - a)
  l.foldl (fun (a : Option Nat) y => match a with
    | some z => if d y < d z then some y else some z
    | none => some y) none

/-- Moves of a same-row re-placement: every logical plot from the failed one to the skip, that plot included,
moves one place toward the skip. -/
def rowMoves (s : State) (r c k : Nat) : List (Nat × Nat) :=
  let cols := (List.range 42).filter (fun x => if c ≤ k then decide (c ≤ x ∧ x ≤ k) else decide (k ≤ x ∧ x ≤ c))
  let cols := if c ≤ k then cols else cols.reverse
  let held := cols.filter (fun x => decide (x = k) || (logicalAt s (42 * r + x)).isSome)
  (held.zip held.tail).filterMap (fun p => (logicalAt s (42 * r + p.1)).map (fun j => (j, 42 * r + p.2)))

/-- Moves that fill a row: its logical plots take the given columns in order of px. -/
def fillRow (s : State) (src dst : Nat) (cols : List Nat) : List (Nat × Nat) :=
  let js := (List.range 42).filterMap (fun c => logicalAt s (42 * src + c))
  (js.zip cols).map (fun p => (p.1, 42 * dst + p.2))

/-- Columns that carry logical plots in a row, or those it would use when it carries none. -/
def useCols (s : State) (r : Nat) : List Nat :=
  let l := (List.range 42).filter (fun c => (logicalAt s (42 * r + c)).isSome)
  if l.isEmpty then rowCols s r else l

/-- Moves of a row retirement: the used rows from r toward the non-used row t each move one position. -/
def retireMoves (s : State) (r t : Nat) : List (Nat × Nat) :=
  let rows := (List.range (physRows s)).filter (fun y =>
    (if r ≤ t then decide (r ≤ y ∧ y ≤ t) else decide (t ≤ y ∧ y ≤ r)) && (rowUsed s y || decide (y = t)))
  let rows := if r ≤ t then rows else rows.reverse
  (rows.zip rows.tail).flatMap (fun p => fillRow s p.1 p.2 (useCols s p.2))

/-- The arrangement of a row that has lost a plot for good: its healthy columns carry its logical plots in order
of px, the last ones are lost (R434 step 3). -/
def loseInRow (s : State) (r : Nat) (v : RouteVer) (bare : List Nat) : State :=
  let js := (List.range 42).filterMap (fun c => logicalAt s (42 * r + c))
  let cols := rowCols s r
  let gone := js.drop cols.length
  let fns := (List.range 64).filter (fun n => gone.any (inPart s n))
  let s := fns.foldl (fun s n => startRecovery s n 0) { s with lost := s.lost ++ gone }
  let l := (js.zip cols).map (fun p => (p.1, 42 * r + p.2))
  startMove s 1 (l.filter (fun m => decide (physOf s m.1 ≠ m.2))) v bare

/-- A field change on the way of some moves waits until both fields are in one clock set (R440). -/
def oneSet (s : State) (l : List (Nat × Nat)) : Bool :=
  l.all (fun m => decide (nCur s (fieldOf (physOf s m.1)) = nCur s (fieldOf m.2)))

/-- Row r is retired onto the non-used row t. -/
def retireRow (s : State) (r t : Nat) (v : RouteVer) (bare : List Nat) : State :=
  let l := retireMoves s r t
  if !oneSet s l then s
  else startMove (addRepair s (repairWord 2 2 r 0 0 0) 0) 1 l v bare

/-- Healthy non-used rows with power. -/
def freeRows (s : State) : List Nat :=
  (List.range (physRows s)).filter (fun r => !rowUsed s r && !rowRetired s r && decide ((rowCols s r).length = 40)
    && (rowCols s r).all (fun c => placeOk s (42 * r + c)))

/-- Row r goes for good and no healthy row takes its place: its logical plots are lost (R434, R435). -/
def loseRow (s : State) (r : Nat) : State :=
  let js := (List.range 42).filterMap (fun c => logicalAt s (42 * r + c))
  let fns := (List.range 64).filter (fun n => js.any (inPart s n))
  let s := fns.foldl (fun s n => startRecovery s n 0) { s with lost := s.lost ++ js }
  let s := setStw s (fun t => { t with toPlace := t.toPlace.filter (fun j => !js.contains j) })
  refreshReserve (addRepair s (repairWord 2 2 r 0 0 0) 3)

/-- Retire row r, onto the nearest healthy non-used row when there is one. -/
def retireOrLose (s : State) (r : Nat) (v : RouteVer) (bare : List Nat) : State :=
  match nearest r (freeRows s) with
  | some t => retireRow s r t v bare
  | none => loseRow s r

/-- The steward is free to begin a re-placement (R445). -/
def placeReady (s : State) : Bool := s.stw.move.isNone && decide (s.chg.step = 0) && s.stw.quads.isEmpty

/-- The place of the failed plot j: the row's nearest healthy skip, or another row (R442). A row with a failed relay
path is retired. -/
def placeFailed (s : State) (j : Nat) (v : RouteVer) : State :=
  let x := physOf s j
  let r := x / 42
  if (relayRows s).contains r then retireOrLose s r v [j]
  else match nearest (x % 42) ((healthySkips s r).filter (fun c => placeOk s (42 * r + c))) with
    | some k =>
      let l := rowMoves s r (x % 42) k
      if oneSet s l then startMove s 1 l v [j] else s
    | none =>
      match nearest r (freeRows s) with
      | some t => retireRow s r t v [j]
      | none => loseInRow s r v [j]

/-- RE_PLACEMENT: the steward re-places the failed plot that waits longest, else the row of a failed relay path. `v` is the routing version it has
computed; `dead` says that the plot's router no longer forwards, so that an abrupt change fences it first. -/
def rePlacement (dead : Bool) (v : RouteVer) (s : State) : State :=
  if !placeReady s then s
  else match s.stw.toPlace, relayRows s with
    | [], [] => s
    | [], r :: _ => retireOrLose s r v []
    | j :: _, _ =>
      let x := physOf s j
      placeFailed (if dead then routingAbrupt { v with place := s.place, fenced := x :: v.fenced } s else s) j v

/-- RE_PLACEMENT (R442, R443). -/
def execRePlacement (dead : Bool) (v : RouteVer) (s : State) : Out := .next (rePlacement dead v s)

/-! ## Rotation (R446 to R449, R455) -/

/-- The walker of row r: column and whether it goes east; the easternmost healthy skip when the one kept is no
healthy skip.
(DESIGN CHOICE: assumption 60) -/
def walkerOf (s : State) (r : Nat) : Option (Nat × Bool) :=
  let sk := healthySkips s r
  match fget (fun _ => (0, false)) s.stw.walkers r with
  | (c, e) => if sk.contains c then some (c, e) else (sk.getLast?).map (fun c => (c, false))

/-- The column of the logical plot beside a walker in a direction, past a skip. -/
def besideWalker (s : State) (r c : Nat) (east : Bool) : Option Nat :=
  let cand := if east then [c + 1, c + 2] else (if c = 0 then [] else if c = 1 then [0] else [c - 1, c - 2])
  cand.find? (fun x => decide (x < 42) && (logicalAt s (42 * r + x)).isSome)

/-- The next move of row r's walker: the logical plot, the walker's column, the new walker. It reverses at either
end. -/
def walkerMove (s : State) (r : Nat) : Option (Nat × Nat × Nat × Bool) :=
  match walkerOf s r with
  | none => none
  | some (c, e) =>
    let go := fun (e : Bool) => (besideWalker s r c e).bind (fun x =>
      (logicalAt s (42 * r + x)).map (fun j => (j, c, x, e)))
    match go e with
    | some m => some m
    | none => go (!e)

/-- The move of one row is possible now: both ends have power and lie in one clock set. -/
def walkOk (s : State) (r : Nat) (m : Nat × Nat × Nat × Bool) : Bool :=
  placeOk s (42 * r + m.2.1) && placeOk s (42 * r + m.2.2.1) && oneSet s [(m.1, 42 * r + m.2.1)]

/-- Idle plots that a test finds failing, each with the unit found, are recorded (R430, R446, R447). -/
def idleFails (s : State) (bad : List (Nat × Nat)) : State :=
  bad.foldl (fun s x =>
    if (logicalAt s x.1).isSome then s else recordFailed (setTestFail s x.2 x.1 1) x.1 2 x.2) s

/-- The failing bits and wires that a test of idle plots finds are repaired from the spares (R426, R446). -/
def idleDefects (s : State) (l : List Defect) : State :=
  repairAll s 2 1 (l.filter (fun d => decide (d.unit ≤ 7) && (logicalAt s d.x).isNone))

/-- A rotation step is due: a stride has passed since the last one; a sweep takes the shortest stride. -/
def rotationDue (s : State) : Bool :=
  let stride := if s.stw.sweep ≠ 0 then 1 else max 1 (csrFld s aTestCfg 47 32)
  (decide (csrFld s aTestCfg 63 63 = 1) || decide (s.stw.sweep ≠ 0))
    && decide (s.swathNow ≥ s.stw.rotSwath + stride) && decide (s.now.toNat ≥ s.stw.rotTime + 45000000)

/-- Something forbids a step in this swath (R449). -/
def rotationHeld (s : State) : Bool :=
  !s.stw.toPlace.isEmpty || !(relayRows s).isEmpty || s.stw.move.isSome || !s.stw.quads.isEmpty || decide (s.chg.step ≠ 0)
    || decide (s.stw.profSwath = 1 + s.swathNow)

/-- ROTATION_STEP: `bad` names the idle plots whose tests have failed since the last step, `defects` the failing
bits and wires found in idle plots; `v` is the version that the steward has computed.
(DESIGN CHOICE: assumption 60) -/
def rotationStep (bad : List (Nat × Nat)) (defects : List Defect) (v : RouteVer) (s : State) : State :=
  if !rotationDue s then s
  else
    let s := refreshReserve (idleFails (idleDefects s defects) bad)
    let s := setStw s (fun t => { t with rotSwath := s.swathNow, rotTime := s.now.toNat, sweep := t.sweep - 1 })
    if rotationHeld s then s
    else
      let used := (List.range (physRows s)).filter (rowUsed s)
      let none_ := used.filter (fun r => (healthySkips s r).isEmpty)
      let was := csrFld s aTestRotStat 5 0
      let s := setCsrFld s aTestRotStat 5 0 none_.length
      match none_, freeRows s with
      | r :: _, t :: _ =>
        -- a row that had no walker at the last step is retired, when a healthy row exists
        if was ≠ 0 then retireRow s r ((nearest r (freeRows s)).getD t) v [] else s
      | _, _ =>
        let ms := used.filterMap (fun r => (walkerMove s r).map (fun m => (r, m)))
        let ms := ms.filter (fun x => walkOk s x.1 x.2)
        let s := setStw s (fun t => { t with
          walkers := ms.foldl (fun w x => fset (fun _ => (0, false)) w x.1 (x.2.2.2.1, x.2.2.2.2)) t.walkers })
        startMove s 0 (ms.map (fun x => (x.2.1, 42 * x.1 + x.2.2.1))) v []

/-- ROTATION_STEP (R446). -/
def execRotationStep (bad : List (Nat × Nat)) (defects : List Defect) (v : RouteVer) (s : State) : Out :=
  .next (rotationStep bad defects v s)

/-- SWEEP: one full rotation pass at the shortest effective stride (R455).
(DESIGN CHOICE: assumption 60) -/
def execSweep (s : State) : Out := .next (setStw s (fun t => { t with sweep := 83 }))

/-- IDLE_CHECK_FLIT: `sb` is what the receiver's check finds. The flit is discarded; it takes no slot and no
credit.
(DESIGN CHOICE: assumption 62) -/
def idleCheck (l : IdleLink) (sb : Fetch) (s : State) : State :=
  match l with
  | .furrow c d =>
    match neighbour s c d with
    | none => s
    | some n =>
      if (getLink (getCore s c) d).flit.isSome then s
      else match sb with
        | .clean => s
        | .corrected => updCore s n (fun k => satCfld k oFurStat 31 16 1)
        | .uncorrectable => furrowFail (updCore s n (fun k => setCfld k oFurStat 61 61 1)) n
  | .drove x y =>
    match sb with
    | .clean => s
    | .corrected => if portFrom x y < 4 then routeCount s y 15 0 1 else s
    | .uncorrectable =>
      if portFrom x y < 4 then
        match plotAt s y with
        | some j => note (updPlot s j (fun p => satPfld p oRouteStat 31 16 1)) (.hdrDrop j)
        | none => note s (.other 188 y)
      else s

/-- IDLE_CHECK_FLIT (R447). -/
def execIdleCheckFlit (l : IdleLink) (sb : Fetch) (s : State) : Out := .next (idleCheck l sb s)

/-! ## Redundant pairs (R451, R452) -/

/-- The oldest packet of a core that waits on the pair lane. -/
def pairHead (s : State) (c : Nat) : Option PairPkt := s.pairQ.find? (fun x => decide (x.core = c))

/-- A packet without its SRC_CORE and core tag. -/
def pairWords (p : Packet) : Word × Word × Word × Word × List PWord :=
  let w3 := if isRequest (pType p) then setBits p.w3 12 7 0 else p.w3
  let w1 := setBits p.w1 46 32 0
  (setBits p.w0 26 25 0, w1, p.w2, w3, p.body)

/-- The pair of a primary core fails: its packets are dropped, the event is counted in field hi:lo of FN_PAIR, the
context fails; the plots whose tests then fail are re-placed, else the event is recorded against both.
(DESIGN CHOICE: assumption 62) -/
def pairFails (s : State) (n c d hi : Nat) (l : List PairPkt) (bad : List (Nat × Nat)) : State :=
  let s := { s with pairQ := s.pairQ.filter (fun x => !l.contains x) }
  let s := satCsrFld s (aFn n fnPair) hi (hi - 15) 1
  let s := startRecovery s n 0
  let js := [plotOf c, plotOf d]
  let hit := bad.filter (fun x => js.contains x.1)
  if hit.isEmpty then js.foldl (fun s j => setTestFail s 13 (physOf s j) 2) s
  else hit.foldl (fun s x => testedFailed s x.1 x.2) s

/-- PAIR_COMPARE: the primary core's router compares its oldest outbound packet with its twin's. `bad` names the
plots of the pair whose tests fail after a mismatch.
(DESIGN CHOICE: assumption 62) -/
def pairCompare (c : Nat) (bad : List (Nat × Nat)) (s : State) : State :=
  match pairRole s c, fnOfCore s c with
  | some (false, d), some n =>
    match pairHead s c, pairHead s d with
    | some a, some b =>
      if pairWords a.pkt = pairWords b.pkt then
        let s := { s with pairQ := s.pairQ.filter (fun x => decide (x ≠ a) && decide (x ≠ b)) }
        let tag := pReqTag a.pkt
        let s := if isRequest (pType a.pkt) then
            { s with pairTags := (c, tag, pReqTag b.pkt)
                :: s.pairTags.filter (fun x => decide (x.1 ≠ c) || decide (x.2.1 ≠ tag)) }
          else s
        injectAt s (plotOf c) a.pkt
      else pairFails s n c d 31 [a, b] bad
    | _, _ => s
  | _, _ => s

/-- PAIR_COMPARE (R451, R452). -/
def execPairCompare (c : Nat) (bad : List (Nat × Nat)) (s : State) : Out := .next (pairCompare c bad s)

/-- PAIR_TIMEOUT: a copy of primary core c's pair has waited longer than FN_PAIR.WAIT. -/
def pairTimeout (c : Nat) (bad : List (Nat × Nat)) (s : State) : State :=
  match pairRole s c, fnOfCore s c with
  | some (false, d), some n =>
    let l := (pairHead s c).toList ++ (pairHead s d).toList
    let lim := csrFld s (aFn n fnPair) 47 32 * 1024
    if l.any (fun x => decide (coreCycles s x.core > x.since + lim)) then pairFails s n c d 15 l bad else s
  | _, _ => s

/-- PAIR_TIMEOUT (R452). -/
def execPairTimeout (c : Nat) (bad : List (Nat × Nat)) (s : State) : Out := .next (pairTimeout c bad s)

/-! ## Digests (R453) -/

/-- The four latest start swaths, and every digest still running. -/
def keepDigs (l : List DigRun) : List DigRun :=
  let sw := (l.map (·.swath)).eraseDups
  l.filter (fun d => d.value.isNone || decide ((sw.filter (fun x => decide (x > d.swath))).length < 4))

/-- DIGEST_START: region r of function n at the present swath. -/
def digestStart (n r : Nat) (s : State) : State :=
  let cfg := csrGet s (aFn n (fnDigCfg r))
  let st := aFn n (fnDigStat r)
  let now := s.swathNow
  let mine := fun (d : DigRun) => decide (d.fn = n) && decide (d.region = r)
  if n ≥ 64 ∨ r ≥ 8 ∨ !bit cfg 63 ∨ now % max 1 (bits cfg 61 46) ≠ 0
      ∨ s.digs.any (fun d => mine d && decide (d.swath = now)) then s
  else if csrFld s st 62 62 = 1 then setCsrFld s st 60 60 1
  else
    let d : DigRun := { swath := now, fn := n, region := r, value := none }
    setCsrFld { s with digs := keepDigs (d :: s.digs) } st 62 62 1

/-- DIGEST_START (R453). -/
def execDigestStart (n r : Nat) (s : State) : Out := .next (digestStart n r s)

/-- Team address of an offset in the HBM or CXL tier of this device. -/
def tierAddr (cxl : Bool) (off : Nat) : Word :=
  if cxl then BitVec.ofNat 64 (0xFFFF * 2 ^ 48 + 2 * 2 ^ 46 + off) else hbmAddr off

/-- DIGEST_COMPLETE: the region's CRC-64, or POISON with a value that the spec leaves open.
(DESIGN CHOICE: assumption 62) -/
def digestComplete (n r : Nat) (s : State) : State :=
  let st := aFn n (fnDigStat r)
  match s.digs.find? (fun d => decide (d.fn = n) && decide (d.region = r) && d.value.isNone) with
  | none => s
  | some d =>
    let cfg := csrGet s (aFn n (fnDigCfg r))
    let len := 4096 * (csrFld s (aFn n (fnDigSize r)) 23 0 + 1)
    let x := memReadBytes s (tierAddr (bit cfg 62) (baseOf cfg)) len
    let s := x.1
    let v := if x.2.2 then Config.freeWord s.free else crc64 0#64 x.2.1
    let s := if x.2.2 then { s with free := s.free + 1 } else s
    let s := { s with digs := s.digs.map (fun y => if y = d then { y with value := some v } else y) }
    let w := csrGet s st
    csrSet (csrSet s (aFn n (fnDigValue r)) v) st
      (put (put (put (put w 63 63 (b2n (!x.2.2))) 62 62 0) 61 61 (b2n x.2.2)) 47 0 d.swath)

/-- DIGEST_COMPLETE (R453). -/
def execDigestComplete (n r : Nat) (s : State) : Out := .next (digestComplete n r s)

/-! ## Wear (R458, R459) -/

/-- WEAR_MEASURE: the margin, trend and prediction of quadrant q as 16-bit values. A margin below 15 ps derates
the field; a field already at N 16 is lost, with routing version v. -/
def wearMeasure (q : Nat) (margin trend eol : BitVec 16) (v : RouteVer) (s : State) : State :=
  if q ≥ 24 ∨ !quadPresent s q then s
  else
    let w := csrGet s (aTestWear q)
    let s := csrSet s (aTestWear q) (put (put (put w 63 48 margin.toNat) 47 32 trend.toNat) 31 16 eol.toNat)
    if !margin.slt 15#16 then s
    else
      let f := q / 4
      let der := (List.range 4).foldl (fun a i => a + csrFld s (aTestWear (4 * f + i)) 15 8) 0
      let top := 64 - fget zeroNat s.stw.fused f - der
      if top ≤ 16 then loseField f v s
      else
        let s := setCsrFld s (aTestWear q) 15 8 (csrFld s (aTestWear q) 15 8 + 1)
        let s := addRepair s (repairWord 9 2 f 0 0 (top - 1)) 1
        logEvent (lowerSets (refreshLimits s))

/-- WEAR_MEASURE (R458, R459). -/
def execWearMeasure (q : Nat) (margin trend eol : BitVec 16) (v : RouteVer) (s : State) : Out :=
  .next (wearMeasure q margin trend eol v s)

end Sys2Proof.Machine
end

