-- ==== Sys2Proof/Machine/Security.lean ====
section
/-! DEFINITION. The security engine: verification of firmware, boot fetch and update, LMS leaves, attestation, debug
unlock, lifecycle (R481 to R507). -/

namespace Sys2Proof.Machine

def setSec (s : State) (f : Sec → Sec) : State := { s with sec := f s.sec }

/-! ## Firmware images (R485, R486) -/

/-- The checks of R486 in the order of SEC_FWUPD.ERROR: 1 format, 2 key, 3 signature, 4 SVN; 0 when all hold.
(DESIGN CHOICE: assumption 63) -/
def fwError (c : Sec) (b : List Byte) : Nat :=
  let slot := le b 0x0A 1
  let len := le b 0x10 8
  let svn := le b 0x0C 4
  let key := slice_ b 0x50 157
  if b.length < 0x2000 ∨ le b 0 8 ≠ 0x314D49574656504B ∨ le b 8 2 ≠ 1 ∨ !zeroAt b 0x0B 1 ∨ !zeroAt b 0xED 19
      ∨ !zeroAt b 0x17F4 2060 ∨ svn = 0 ∨ svn > 64 ∨ len > 0x1FFE000 ∨ b.length < 0x2000 + len
      ∨ digest384 (slice_ b 0x2000 len) ≠ le b 0x20 48 then 1
  else if slot ≥ 4 ∨ c.revoked.testBit slot ∨ fget zeroNat c.keyIds slot ≠ keyIdOf key
      ∨ le b 0x110 48 ≠ keyIdOf key then 2
  else if !sigVerifies key .firmware (b.take 0x100) b 0x100 then 3
  else if svn < c.fuseSvn then 4
  else 0

/-- What the region's image is once it has verified.
(DESIGN CHOICE: assumption 63) -/
def fwInstalled (c : Sec) (b : List Byte) (fetched : Bool) : Sec :=
  { c with
    fwValid := true
    fwSlot := le b 0x0A 1
    fwSvn := le b 0x0C 4
    fwDigest := digest384 (slice_ b 0 0x100)
    fwFetched := fetched }

/-! ## Boot fetch (R488, R489) -/

def setBoot (s : State) (b : Option BootFetch) : State := setSec s (fun c => { c with boot := b })

/-- The boot ROM waits at step 2 of a start for an image that verifies. -/
def fetchWanted (s : State) : Bool :=
  !s.sec.fwValid && (match s.stw.start with | some x => decide (x.step = 2) | none => false)

/-- The request for the boot service record goes to the tray controller: ALERT_N falls (R526). -/
def askService (s : State) : State :=
  let b : BootFetch := { step := 1, service := [], nonce := 0#64, next := 0, total := none, out := [],
                         progressAt := s.stw.upNs }
  let s := setPins (setBoot s (some b)) (fun p => { p with request := true, alert := true })
  sbReply s 0x04 0 0 []

/-- An attempt ends: reported over the sideband, retried 10 s later. -/
def attemptEnds (s : State) (b : BootFetch) : State :=
  logEvent (setBoot s (some { b with step := 3, out := [], progressAt := s.stw.upNs }))

/-- Length of one request: min(8,192, MTU - 52) rounded down to a multiple of 8. -/
def fetchLen (b : BootFetch) : Nat := min 8192 (le b.service 14 2 - 52) / 8 * 8

/-- Bytes still to be requested end here. -/
def fetchEnd (b : BootFetch) : Nat := match b.total with | some t => min t 0x2000000 | none => 0x2000000

/-- Send requests for consecutive offsets, at most 16 outstanding. -/
def fetchPump : Nat → State → BootFetch → State × BootFetch
  | 0, s, b => (s, b)
  | k + 1, s, b =>
    let len := min (fetchLen b) (fetchEnd b - b.next)
    if b.out.length ≥ 16 ∨ len = 0 then (s, b)
    else
      fetchPump k (emit s (.bootFetch b.next len b.nonce))
        { b with next := b.next + len, out := b.out ++ [(b.next, len, s.stw.upNs)] }

/-- The bytes of the firmware region. -/
def fwRegion (s : State) (n : Nat) : List Byte := rdBytes s.sec.flash 0 n

/-- BOOT_FETCH: the boot ROM's next step: it asks for the boot service record, verifies the region when every
byte has come, or retries 10 s after a failed attempt. -/
def bootFetch (s : State) : State :=
  match s.sec.boot with
  | none => if fetchWanted s then askService s else s
  | some b =>
    if b.step = 3 then (if s.stw.upNs ≥ b.progressAt + 10000000000 then askService s else s)
    else if b.step = 2 && b.out.isEmpty && b.total.isSome && decide (b.next ≥ fetchEnd b) then
      let img := fwRegion s (fetchEnd b)
      if fwError s.sec img = 0 then setBoot (setSec s (fun c => fwInstalled c img true)) none
      else attemptEnds s b
    else s

/-- BOOT_FETCH (R488). -/
def execBootFetch (s : State) : Out := .next (bootFetch s)

/-- A boot service record that the boot ROM can use (R541). -/
def serviceOk (r : List Byte) : Bool :=
  decide (r.length = 16) && decide (le r 0 1 < 4) && decide (le r 1 1 < 2 ^ le r 0 1) && decide (le r 14 2 ≥ 60)

/-- BOOT_SERVICE: the tray controller's answer; an attempt begins with a fresh nonce. -/
def bootService (r : List Byte) (s : State) : State :=
  match s.sec.boot with
  | some b =>
    if b.step ≠ 1 then s
    else
      let s := setPins s (fun p => { p with request := false })
      if !serviceOk r then attemptEnds s b
      else
        let s1 := { s with free := s.free + 1 }
        let x := fetchPump 16 s1 { b with step := 2, service := r, nonce := Config.freeWord s.free,
                                          progressAt := s.stw.upNs }
        setBoot x.1 (some x.2)
  | none => s

/-- BOOT_SERVICE (R541). -/
def execBootService (r : List Byte) (s : State) : Out := .next (bootService r s)

/-- A response fits an outstanding request of the attempt. -/
def fetchFits (b : BootFetch) (offset len : Nat) (nonce : Word) : Bool :=
  decide (b.step = 2) && decide (nonce = b.nonce) && b.out.any (fun x => decide (x.1 = offset) && decide (x.2.1 = len))

/-- FETCH_DATA: data of a matching response is written into the firmware region. `units` is the image length in
4 KiB units. -/
def fetchData (offset units : Nat) (nonce : Word) (data : List Byte) (s : State) : State :=
  match s.sec.boot with
  | some b =>
    if fetchFits b offset data.length nonce then
      let s := setSec s (fun c => { c with flash := wrBytes c.flash offset data })
      let b := { b with
        out := b.out.filter (fun x => decide (x.1 ≠ offset))
        total := some (4096 * units)
        progressAt := s.stw.upNs }
      let b := { b with out := b.out.filter (fun x => decide (x.1 < fetchEnd b)) }
      let x := fetchPump 16 s b
      setBoot x.1 (some x.2)
    else s
  | none => s

/-- FETCH_DATA (R489). -/
def execFetchData (offset units : Nat) (nonce : Word) (data : List Byte) (s : State) : Out :=
  .next (fetchData offset units nonce data s)

/-- FETCH_ERROR: an ERROR response ends the attempt. -/
def fetchError (offset len : Nat) (nonce : Word) (s : State) : State :=
  match s.sec.boot with
  | some b => if fetchFits b offset len nonce then attemptEnds s b else s
  | none => s

/-- FETCH_ERROR (R489). -/
def execFetchError (offset len : Nat) (nonce : Word) (s : State) : Out := .next (fetchError offset len nonce s)

/-- FETCH_RESEND: a request without an answer after 100 ms is sent again. -/
def fetchResend (offset : Nat) (s : State) : State :=
  match s.sec.boot with
  | some b =>
    match b.out.find? (fun x => decide (x.1 = offset)) with
    | some x =>
      if b.step = 2 ∧ s.stw.upNs ≥ x.2.2 + 100000000 then
        let out := b.out.map (fun y => if y.1 = offset then (y.1, y.2.1, s.stw.upNs) else y)
        setBoot (emit s (.bootFetch offset x.2.1 b.nonce)) (some { b with out := out })
      else s
    | none => s
  | none => s

/-- FETCH_RESEND (R489). -/
def execFetchResend (offset : Nat) (s : State) : Out := .next (fetchResend offset s)

/-- FETCH_ATTEMPT_TIMEOUT: no progress for 60 s. -/
def fetchTimeout (s : State) : State :=
  match s.sec.boot with
  | some b => if b.step ≤ 2 ∧ s.stw.upNs ≥ b.progressAt + 60000000000 then attemptEnds s b else s
  | none => s

/-- FETCH_ATTEMPT_TIMEOUT (R488). -/
def execFetchAttemptTimeout (s : State) : Out := .next (fetchTimeout s)

/-! ## Firmware update (R490, R491) -/

/-- The admin function or the steward writes the register. -/
def isAdmin (s : State) : Who → Bool
  | .host n => decide (csrFld s aHostPortCfg 53 53 = 1) && decide (csrFld s aHostPortCfg 59 54 = n)
  | .steward => true
  | _ => false

def fwState (s : State) (st err : Nat) : State :=
  setCsrFld (setCsrFld s aSecFwupd 61 59 st) aSecFwupd 55 48 err

/-- The new image in HBM: its header names its length; none when its words are poisoned. -/
def newImage (s : State) : State × Option (List Byte) :=
  let h := memReadBytes s (hbmAddr s.sec.updBase) 0x2000
  let n := min 0x2000000 (0x2000 + le h.2.1 0x10 8)
  let x := memReadBytes h.1 (hbmAddr s.sec.updBase) n
  (x.1, if x.2.2 then none else some x.2.1)

/-- FIRMWARE_UPDATE: one step.
(DESIGN CHOICE: assumption 63) -/
def firmwareUpdate (x : FwStep) (s : State) : State :=
  let st := csrFld s aSecFwupd 61 59
  match x with
  | .go who base =>
    if !isAdmin s who ∨ st = 1 ∨ st = 2 then s
    else fwState (setSec s (fun c => { c with updBase := base })) 1 0
  | .checked =>
    if st ≠ 1 then s
    else
      let r := newImage s
      let err := match r.2 with | some b => fwError s.sec b | none => 1
      if err ≠ 0 then satCsrFld (fwState r.1 4 err) aSecVerify 63 48 1
      else fwState (setSec r.1 (fun c => { c with fwValid := false, flash := [] })) 2 0
  | .programmed ok =>
    if st ≠ 2 then s
    else
      let r := newImage s
      match r.2, ok with
      | some b, true =>
        if fwError s.sec b = 0 then
          fwState (setSec r.1 (fun c => fwInstalled { c with flash := wrBytes [] 0 b } b false)) 3 0
        else satCsrFld (fwState r.1 4 5) aSecVerify 63 48 1
      | _, _ => satCsrFld (fwState r.1 4 5) aSecVerify 63 48 1

/-- FIRMWARE_UPDATE (R490). -/
def execFirmwareUpdate (x : FwStep) (s : State) : Out := .next (firmwareUpdate x s)

/-- COMMIT_SVN: the fused SVN rises to the running SVN, once the module is ready. -/
def commitSvn (who : Who) (s : State) : State :=
  let run := csrFld s aSecStat 47 40
  if isAdmin s who && decide (run > s.sec.fuseSvn) && decide (csrFld s aStwBoot 63 61 = 1) then
    setCsrFld (setSec s (fun c => { c with fuseSvn := run })) aSecStat 39 32 run
  else s

/-- COMMIT_SVN (R491). -/
def execCommitSvn (who : Who) (s : State) : Out := .next (commitSvn who s)

/-! ## LMS leaves (R494 to R497) -/

def lmsTree (s : State) : Nat := csrFld s aSecLms 63 44
def lmsBlock (s : State) : Nat := csrFld s aSecLms 43 34
def lmsLeaf (s : State) : Nat := csrFld s aSecLms 33 24

/-- The block after (t, b). -/
def nextBlock (t b : Nat) : Nat × Nat := if b = 1023 then (t + 1, 0) else (t, b + 1)

def serialBytes (s : State) : List Byte := natToBytes s.stw.serial 16

def reserved (s : State) (t b : Nat) : Bool :=
  s.sec.log.any (fun r => match r with | some r => decide (r.tree = t) && decide (r.block = b) | none => false)

def setLms (s : State) (t b l : Nat) : State :=
  setCsrFld (setCsrFld (setCsrFld s aSecLms 63 44 t) aSecLms 43 34 b) aSecLms 33 24 l

/-- SEC_STAT.LMS_OK follows the two causes that stop signing. -/
def lmsStop (s : State) (bitNo : Nat) : State := setCsrFld (setCsrFld s aSecLms bitNo bitNo 1) aSecStat 56 56 0

/-- The module may sign: provisioned, keys present, signing not stopped (R497, R506, R507). -/
def signOk (s : State) : Bool :=
  s.sec.alias_ && decide (s.sec.lifecycle = 1) && decide (csrFld s aSecStat 61 60 < 2)
    && decide (csrFld s aSecLms 20 20 = 0) && decide (csrFld s aSecLms 21 21 = 0)

/-- Use one leaf: none when signing has stopped or the leaf is not reserved (after the wait of R495). The leaf is
numbered through all bottom trees.
(DEDUCED: assumption 66) -/
def useLeaf (s : State) : Option (State × Nat) :=
  let t := lmsTree s
  let b := lmsBlock s
  let l := lmsLeaf s
  if !signOk s || !reserved s t b then none
  else
    let leaf := (t * 1024 + b) * 1024 + l
    if l < 1023 then
      let s := setLms s t b (l + 1)
      let x := nextBlock t b
      let s := if 1023 - l ≤ 64 && !reserved s x.1 x.2 then setCsrFld s aSecLms 23 23 1 else s
      some (s, leaf)
    else
      let x := nextBlock t b
      if x.1 ≥ 2 ^ 20 then some (lmsStop s 21, leaf)
      else
        let s := if x.2 = 0 then setCsrFld s aSecLms 22 22 0 else s
        some (setLms s x.1 x.2 0, leaf)

/-- The block whose reservation is due: the current one, else the next one with 64 leaves left.
(DEDUCED: assumption 66) -/
def dueBlock (s : State) : Option (Nat × Nat) :=
  let t := lmsTree s
  let b := lmsBlock s
  let x := nextBlock t b
  if !reserved s t b then some (t, b)
  else if 1024 - lmsLeaf s ≤ 64 ∧ x.1 < 2 ^ 20 ∧ !reserved s x.1 x.2
      ∧ (x.2 ≠ 0 ∨ csrFld s aSecLms 22 22 = 1) then some x
  else none

/-- The 32 bytes of a reservation record: its check words are the first 16 bytes of SHA-256 over words 0 and 1 and
the module SERIAL (R494). -/
def lmsBytes (s : State) (r : LmsRec) : List Byte :=
  let b := natToBytes (0x4B52 * 2 ^ 48 + r.tree % 2 ^ 20 * 2 ^ 28 + r.block % 2 ^ 10 * 2 ^ 18) 8 ++ natToBytes r.seq 8
  b ++ (sha256 (b ++ serialBytes s)).take 16

/-- The log after one more record: a sector holds 2,048 records, and the sector that the ring comes to is erased
before the write (R495). -/
def logAfter (c : Sec) (r : Option LmsRec) : Sec :=
  { c with
    log := r :: (if c.logNext % 2048 = 0 then c.log.take 129024 else c.log)
    logNext := (c.logNext + 1) % 131072 }

/-- The newest valid record. -/
def newestRec (s : State) : Option LmsRec := (s.sec.log.filterMap id).head?

/-- LMS_RESERVE: the record of the block that is due is written; `back` is what is read back of it. A torn record is
no record. Three failures in a row stop signing. -/
def lmsReserve (back : List Byte) (s : State) : State :=
  match dueBlock s with
  | none => s
  | some x =>
    if csrFld s aSecLms 20 20 = 1 ∨ csrFld s aSecLms 21 21 = 1 ∨ s.sec.lifecycle ≠ 1 then s
    else
      let r : LmsRec := { seq := ((newestRec s).map (·.seq)).getD 0 + 1, tree := x.1, block := x.2 }
      if back = lmsBytes s r then
        setCsrFld (setSec s (fun c => { logAfter c (some r) with lmsFails := 0 })) aSecLms 23 23 0
      else
        let s := satCsrFld (setSec s (fun c => { logAfter c none with lmsFails := c.lmsFails + 1 })) aSecLms 15 0 1
        if s.sec.lmsFails ≥ 3 then lmsStop s 20 else s

/-- LMS_RESERVE (R495). -/
def execLmsReserve (back : List Byte) (s : State) : Out := .next (lmsReserve back s)

/-- NEXT_BOTTOM_TREE_READY: the background computation, begun with 2^19 leaves left in the tree, is done. -/
def nextTree (s : State) : State :=
  let left := 2 ^ 20 - (lmsBlock s * 1024 + lmsLeaf s)
  if left ≤ 2 ^ 19 ∧ lmsTree s + 1 < 2 ^ 20 ∧ signOk s then setCsrFld s aSecLms 22 22 1 else s

/-- NEXT_BOTTOM_TREE_READY (R497). -/
def execNextBottomTreeReady (s : State) : Out := .next (nextTree s)

/-- Resume after the valid record with the highest SEQ (R496).
(DEDUCED: assumption 66) -/
def lmsResume (s : State) : State :=
  let top := (s.sec.log.filterMap id).foldl (fun (a : Option LmsRec) r => match a with
    | some x => if r.seq > x.seq then some r else some x
    | none => some r) none
  let s := csrSet s aSecLms 0#64
  match top with
  | none => setLms s 0 0 0
  | some r =>
    let x := nextBlock r.tree r.block
    if x.1 ≥ 2 ^ 20 then lmsStop s 21 else setLms s x.1 x.2 0

/-! ## Attestation (R498 to R501) -/

/-- The requester can reach the responder: the sideband while PWRGD is high; an enabled function while the host
port serves it. -/
def spdmServed (s : State) : SpdmFrom → Bool
  | .sideband => s.pins.pwrgd
  | .host n _ _ => decide (n < 64) && decide (fnState s n = 1) && domainOn s 26
      && decide (csrFld s aPwrDormant 61 59 = 0) && decide (csrFld s aStwBoot 63 61 ≠ 3)

def findPeer (s : State) (x : SpdmFrom) : Option SpdmPeer := s.sec.peers.find? (fun p => decide (p.src = x))

/-- The HSS half that the module holds on the transport of a requester.
(DEDUCED: assumption 66) -/
def heldHalf (s : State) : SpdmFrom → Option Nat
  | .sideband => s.sec.halfSb
  | .host _ _ _ => s.sec.halfHost

/-- Hold an HSS half on the transport of a requester. -/
def holdHalf (c : Sec) (x : SpdmFrom) (half : Option Nat) : Sec :=
  match x with
  | .sideband => { c with halfSb := half }
  | .host _ _ _ => { c with halfHost := half }

/-- Send a response and keep it for the requester; `half` is the leaf of the HSS half held from now on. -/
def spdmSend (s : State) (x : SpdmFrom) (seq : Nat) (r : SpdmResp) (half : Option Nat) : State :=
  let p : SpdmPeer := { src := x, seq := seq, last := r }
  emit (setSec s (fun c => { holdHalf c x half with peers := p :: c.peers.filter (fun q => decide (q.src ≠ x)) }))
    (.spdm x r)

/-- Answer an SPDM request: a host datagram that repeats the previous sequence number receives the same response
again (R501). -/
def spdmAnswer (x : SpdmFrom) (seq : Nat) (go : State → Option Nat → State × SpdmResp × Option Nat) (s : State) :
    State :=
  if !spdmServed s x then s
  else
    let fresh := fun (s : State) =>
      let r := go s (heldHalf s x)
      spdmSend r.1 x seq r.2.1 r.2.2
    match findPeer s x with
    | some p => if x ≠ .sideband ∧ p.seq = seq then emit s (.spdm x p.last) else fresh s
    | none => fresh s

/-- A plain response keeps the HSS half that is held. -/
def plainResp (r : SpdmResp) (s : State) (half : Option Nat) : State × SpdmResp × Option Nat := (s, r, half)

/-- A signature of the module over content of a domain (R482, R493). An SPDM transcript hash is open, since the
model's requests are no bytes.
(DESIGN CHOICE: assumption 67) -/
def moduleSig (d : SigDomain) (content : List Byte) (draw : Nat) : Nat := Config.freeSig draw (signedMsg d content)

/-- A signed response: one leaf; at most 64 in a second for a function (R500, R501).
(DEDUCED: assumption 66) -/
def signedResp (x : SpdmFrom) (mk : Nat → Nat → SpdmResp) (s : State) (half : Option Nat) :
    State × SpdmResp × Option Nat :=
  let up := s.stw.upNs
  let busy : Bool := match x with
    | .sideband => false
    | .host n _ _ => decide ((s.sec.signs.filter (fun e => decide (e.1 = n) && decide (up < e.2 + oneSec))).length ≥ 64)
  if busy then (s, .error 3, half)
  else match useLeaf s with
    | none => (s, .error 2, half)
    | some (s, leaf) =>
      let fn := match x with | .host n _ _ => n | .sideband => 64
      let s := setSec { s with free := s.free + 1 } (fun c => { c with
        signs := (fn, up) :: c.signs.filter (fun e => decide (up < e.2 + oneSec)) })
      (s, mk (moduleSig .spdm (natToBytes (Config.freeBytes (s.free - 1)) 48) (s.free - 1)) leaf, some leaf)

/-- GET_VERSION (R498). -/
def execGetVersion (x : SpdmFrom) (seq : Nat) (s : State) : Out := .next (spdmAnswer x seq (plainResp .version) s)

/-- GET_CAPABILITIES (R498). -/
def execGetCapabilities (x : SpdmFrom) (seq : Nat) (s : State) : Out :=
  .next (spdmAnswer x seq (plainResp .capabilities) s)

/-- NEGOTIATE_ALGORITHMS: ECDSA P-384 and SHA-384 (R498). -/
def execNegotiateAlgorithms (x : SpdmFrom) (seq : Nat) (s : State) : Out :=
  .next (spdmAnswer x seq (plainResp .algorithms) s)

/-- The certificate chain of slot 0: its contents are open; the Alias certificate changes with each start.
(DESIGN CHOICE: assumption 67) -/
def chainNo (s : State) : Nat := Config.freeBytes (csrFld s aStwBoot 31 0)

/-- The bytes of that chain; their number is open.
(DESIGN CHOICE: assumption 67) -/
def chainBytes (s : State) : List Byte := natToBytes (chainNo s) (Config.freePick (csrFld s aStwBoot 31 0))

/-- GET_DIGESTS (R498). -/
def execGetDigests (x : SpdmFrom) (seq : Nat) (s : State) : Out :=
  .next (spdmAnswer x seq (fun s h => plainResp (.digests (digest384 (chainBytes s))) s h) s)

/-- GET_CERTIFICATE: a decommissioned module answers ERROR Unspecified (R507). -/
def getCertificate (x : SpdmFrom) (seq : Nat) (s : State) : State :=
  spdmAnswer x seq (fun s h =>
    plainResp (if s.sec.lifecycle = 2 then .error 2 else .certificate (chainNo s)) s h) s

/-- GET_CERTIFICATE (R498). -/
def execGetCertificate (x : SpdmFrom) (seq : Nat) (s : State) : Out := .next (getCertificate x seq s)

/-- CHALLENGE (R500). -/
def execChallenge (x : SpdmFrom) (seq : Nat) (s : State) : Out :=
  .next (spdmAnswer x seq (signedResp x (fun sig leaf => .challengeAuth sig leaf)) s)

/-- Bytes of the repair map copy in use, as they are digested: its header of 32 bytes and its entries (R432).
(DESIGN CHOICE: assumption 67) -/
def mapBytes (s : State) : List Byte :=
  match curMap s with
  | some c => natToBytes 0x3150414D5256504B 8 ++ natToBytes 1 4 ++ natToBytes c.entries.length 4 ++ natToBytes c.seq 8
      ++ natToBytes 0 8 ++ c.entries.flatMap (fun e => natToBytes e.1.toNat 8 ++ natToBytes e.2.toNat 8)
  | none => []

/-- A measurement (R499); none for an index that does not exist. -/
def measurement (s : State) (i : Nat) : Option Nat :=
  match i with
  | 1 => some Config.romDigest
  | 2 => some s.sec.runDigest
  | 3 => some (csrFld s aSecStat 47 40 + 2 ^ 8 * s.sec.fuseSvn + 2 ^ 16 * csrFld s aSecStat 59 58
      + 2 ^ 24 * s.sec.lifecycle)
  | 4 => some (csrFld s aSecStat 61 60)
  | 5 => some (if s.stw.profile.isEmpty then 0 else digest384 s.stw.profile)
  | 6 => some (digest384 (mapBytes s))
  | _ =>
    if 16 ≤ i ∧ i < 80 then
      match curImg s (i - 16) with
      | some g => some (g.serial + 2 ^ 64 * g.digest)
      | none => some 0
    else none

/-- The indices a requester may read: every one over the sideband, 1 to 15 and its own over the host port. -/
def mayMeasure (x : SpdmFrom) (i : Nat) : Bool :=
  match x with
  | .sideband => true
  | .host n _ _ => decide (i < 16) || decide (i = 16 + n)

/-- GET_MEASUREMENTS (R499): the permitted ones of the requested indices, signed. -/
def execGetMeasurements (x : SpdmFrom) (seq : Nat) (idx : List Nat) (s : State) : Out :=
  let l := (idx.filter (mayMeasure x)).filterMap (fun i => (measurement s i).map (fun v => (i, v)))
  .next (spdmAnswer x seq (signedResp x (fun sig leaf => .measurements l sig leaf)) s)

/-- HSS_HALF_REQUEST: the HSS half of the last signed response on the transport (R500). -/
def hssHalf (x : SpdmFrom) (seq : Nat) (s : State) : State :=
  spdmAnswer x seq (fun s h => plainResp (match h with | some leaf => .hssHalf leaf | none => .error 2) s h) s

/-- HSS_HALF_REQUEST (R500). -/
def execHssHalfRequest (x : SpdmFrom) (seq : Nat) (s : State) : Out := .next (hssHalf x seq s)

/-- CERT_HSS_REQUEST: the HSS halves of the certificates in slot 0 (R500). -/
def execCertHssRequest (x : SpdmFrom) (seq : Nat) (s : State) : Out :=
  .next (spdmAnswer x seq (fun s h => plainResp (.certHss (chainNo s)) s h) s)

/-! ## Debug unlock and lifecycle (R504 to R507) -/

def debugLevel (s : State) : Nat := csrFld s aSecStat 61 60
def nonceBytes (d : Nat) : List Byte := natToBytes (Config.freeBytes d % 2 ^ 256) 32

/-- DEBUG_CHALLENGE: SERIAL and a fresh nonce, over the sideband (`some` sequence number) or JTAG. -/
def debugChallenge (sb : Option Nat) (s : State) : State :=
  if !s.pins.pwrgd then s
  else
    let d := s.free
    let s := setSec { s with free := d + 1 } (fun c => { c with nonce := some (d, s.stw.upNs) })
    match sb with
    | some seq => sbReply s 0x09 seq 0 (serialBytes s ++ nonceBytes d)
    | none => emit (emit s (.jtag (BitVec.ofNat 64 s.stw.serial))) (.jtag (BitVec.ofNat 64 (Config.freeBytes d)))

/-- DEBUG_CHALLENGE (R505). -/
def execDebugChallenge (sb : Option Nat) (s : State) : Out := .next (debugChallenge sb s)

/-- DEBUG_NONCE_EXPIRE: 10 minutes after its read.
(DEDUCED: assumption 65) -/
def nonceExpire (s : State) : State :=
  match s.sec.nonce with
  | some n => if s.stw.upNs ≥ n.2 + 600000000000 then setSec s (fun c => { c with nonce := none }) else s
  | none => s

/-- DEBUG_NONCE_EXPIRE (R505). -/
def execDebugNonceExpire (s : State) : Out := .next (nonceExpire s)

/-- The checks of a token's bytes, its composite signature among them. -/
def tokenFits (s : State) (b : List Byte) : Bool :=
  decide (b.length = 0x40 + 5876) && decide (le b 0 8 = 0x315447424456504B) && zeroAt b 9 7
    && decide (slice_ b 0x10 16 = serialBytes s) && sigTrusted s.sec.debugKeys .debug (b.take 0x40) b 0x40
    && (match s.sec.nonce with
        | some n => decide (slice_ b 0x20 32 = nonceBytes n.1) && decide (s.stw.upNs < n.2 + 600000000000)
        | none => false)

/-- A token is refused: it counts, and after three failures unlock is refused.
(DEDUCED: assumption 65) -/
def tokenFails (s : State) : State :=
  let s := satCsrFld s aSecVerify 15 0 1
  if csrFld s aSecStat 53 53 = 1 then s
  else
    let n := csrFld s aSecStat 55 54 + 1
    setCsrFld (setCsrFld s aSecStat 55 54 n) aSecStat 53 53 (b2n (decide (n ≥ 3)))

def spendNonce (s : State) : State := setSec s (fun c => { c with nonce := none })

/-- Raise the debug level; at level 2 the CDI and the Alias key are erased (R506). -/
def raiseDebug (s : State) (l : Nat) : State :=
  let s := setCsrFld s aSecStat 61 60 (max l (debugLevel s))
  if l ≥ 2 then setSec s (fun c => { c with alias_ := false }) else s

def tokenReply (s : State) (sb : Option Nat) (ok : Bool) : State :=
  match sb with
  | some seq => sbReply s 0x0A seq (if ok then 0 else 1) []
  | none => s

/-- DEBUG_TOKEN: a token naming a level.
(DEDUCED: assumption 65) -/
def debugToken (sb : Option Nat) (b : List Byte) (s : State) : State :=
  let l := le b 8 1
  if !s.pins.pwrgd ∨ l = 0xFF then s
  else if decide (csrFld s aSecStat 53 53 = 0) && decide (l = 1 ∨ l = 2) && tokenFits s b then
    tokenReply (raiseDebug (spendNonce s) l) sb true
  else tokenReply (tokenFails s) sb false

/-- DEBUG_TOKEN (R505). -/
def execDebugToken (sb : Option Nat) (b : List Byte) (s : State) : Out :=
  .next (debugToken sb b s)

/-- DECOMMISSION: a token with LEVEL 0xFF.
(DEDUCED: assumption 65) -/
def decommission (sb : Option Nat) (b : List Byte) (s : State) : State :=
  if !s.pins.pwrgd ∨ le b 8 1 ≠ 0xFF then s
  else if decide (csrFld s aSecStat 53 53 = 0) && tokenFits s b then
    let s := setSec (spendNonce s) (fun c => { c with lifecycle := 2, log := [], logNext := 0 })
    tokenReply (setCsrFld (setCsrFld s aSecStat 63 62 2) aSecStat 56 56 0) sb true
  else tokenReply (tokenFails s) sb false

/-- DECOMMISSION (R507). -/
def execDecommission (sb : Option Nat) (b : List Byte) (s : State) : Out :=
  .next (decommission sb b s)

end Sys2Proof.Machine
end

