-- ==== Sys2Proof/Machine/RegStore.lean ====
section
/-! DEFINITION. What a write stores in a register of blocks 0x0002 to 0x0008 (the register tables of each chapter),
what their reads return and clear, and the access rights of the Host column of R517. -/

namespace Sys2Proof.Machine

/-! ## The registers and their rights (R510, R517) -/

/-- Host column of R517: no register at the offset; host functions read, read and write, write; read, and the
admin function writes; steward only. -/
inductive Pol where
  | none
  | r
  | rw
  | w
  | ra
  | stw
  deriving DecidableEq, Repr

/-- A multiple of 8 in lo to hi - 8. -/
def within (o lo hi : Nat) : Bool := decide (lo ≤ o) && decide (o < hi) && decide (o % 8 = 0)

/-- Core window. -/
def polCore (o : Nat) : Pol :=
  if o = oStallClr then .w
  else if 0x5200 ≤ o ∧ o < 0x5240 then (if o % 16 = 0 then .rw else .r)
  else if within o 0x8 0x80 || within o 0x100 0x500 || within o 0x800 0xA00 || within o 0xC00 0x1000
      || within o 0x2000 0x2030 || within o 0x2100 0x2200 || within o 0x2800 0x3000 || within o 0x4000 0x4118
      || within o 0x5000 0x5018 || within o 0x5100 0x5180 then .r
  else .none

/-- Plot window. -/
def polPlot (o : Nat) : Pol := if within o 0 0x28 || within o 0x100 0x300 then .r else .none

/-- A function's window. -/
def polFn (o : Nat) : Pol :=
  if o = fnCtl then .ra
  else if o = fnComplete ∨ o = fnSwitch then .stw
  else if o = fnGleanCfg ∨ o = fnGleanStat then .rw
  else if within o 0x400 0x500 then (if o % 0x20 < 0x10 then .rw else .r)
  else if within o 0 0xA0 || within o 0x100 0x180 || within o 0x200 0x280 || within o 0x300 0x380 then .r
  else .none

/-- Blocks 0x0002 to 0x0008. -/
def polBlock (a : Nat) : Pol :=
  let o := a % 0x100000000
  match a / 0x100000000 with
  | 2 =>
    let r := o % 0x1000000
    if o ≥ 0x6000000 then .none
    else if r = 0x100020 ∨ r = 0x100028 then .w
    else if r = 0x100000 || r = 0x100008 || within r 0x100100 0x100300 then .r else .none
  | 3 => if o < 0xC0000 && within (o % 0x10000) 0 0x18 then .r else .none
  | 4 => if o < 0x40000 && within (o % 0x10000) 0 0x10 then .r else .none
  | 5 =>
    match fnOf a with
    | some x => polFn x.2
    | Option.none => if within o 0 0x20 || within o 0x40 0x60 || within o 0x80 0x90 then .r else .none
  | 6 =>
    if o < 0xC000 then (if within (o % 0x1000) 0 0x18 then .r else .none)
    else if within o 0xC000 0xC020 || within o 0xC100 0xC200 || within o 0x100000 0x100048 then .r else .none
  | 7 =>
    if a = aStwReset ∨ a = aSecFwupd ∨ a = aPwrDormant then .ra
    else if a = aStwStartCfg ∨ a = aTimeSet ∨ a = aClkSsc || within o 0x100 0x120 || within o 0x500000 0x500030 then .stw
    else if within o 0 0x28 || within o 0x100000 0x100020 || within o 0x200000 0x200028 || within o 0x300000 0x300020
        || within o 0x400000 0x400028 || o = 0x500040 then .r
    else .none
  | _ => if within o 0 0x28 || within o 0x100 0x1C0 then .stw else .none

/-! ## Reads -/

/-- Bits that a clearing read of a block's register clears (rc fields). -/
def rcMask (a : Nat) : Word :=
  let o := a % 0x100000000
  match a / 0x100000000 with
  | 2 => if o % 0x1000000 = 0x100008 then 0xFFFFFFFF00000000#64 else 0#64
  | 3 =>
    if o % 0x10000 = 0 then 0xFFFFFFFF00000000#64
    else if o % 0x10000 = 8 then 0x8000000000000000#64 else 0#64
  | 4 => if o % 0x10000 = 8 then 0xFFFFFFFFFFFF0000#64 else 0#64
  | 5 =>
    match fnOf a with
    | some x =>
      if x.2 = fnCount ∨ x.2 = fnCtxStat then BitVec.allOnes 64
      else if x.2 = fnPair then 0x00000000FFFFFFFF#64
      else if x.2 = fnGleanStat then 0x0000FFFF00000000#64
      else if x.2 = fnRecov then 0xFFFF#64
      else 0#64
    | none =>
      if a = aHostPortStat then 0x0000FFFFFFFFFFFF#64
      else if 0x40 ≤ o ∧ o < 0x60 then 0x0000FFFF00000000#64 else 0#64
  | 6 =>
    if o < 0xC000 then (if o % 0x1000 = 8 ∨ o % 0x1000 = 0x10 then BitVec.allOnes 64 else 0#64)
    else if a = aYokeDup then BitVec.allOnes 64
    else if a = aMstShadowErr ∨ a = aMstCollDenied then 0xFFFF000000000000#64
    else if a = aMstColl then 0xFFFFFFFFFFFF0000#64 else 0#64
  | 7 =>
    if a = aStwLadder ∨ a = aSecVerify then BitVec.allOnes 64
    else if a = aSecLms then 0xFFFF#64
    else if a = aTimeStat ∨ a = aPwrDormant then 0x0000FFFF00000000#64
    else if a = aPwrTherm then 0x0000000000FFFF00#64
    else if a = aPwrStat then 0x0000FFFFFFFF0000#64
    else if a = aClkSeam then 0xFFFF00000000FFFF#64 else 0#64
  | _ =>
    if a = aTestRotStat then 0x00000000FFFF0000#64
    else if a = aTestPriv then 0x0FFFFFFFFFFFFFFF#64 else 0#64

/-- STW_CTX_BUSY_k (R374). -/
def ctxBusyWord (s : State) (k : Nat) : Word :=
  BitVec.ofNat 64 ((List.range 64).foldl (fun a b => if idBusy s (64 * k + b) then a + 2 ^ b else a) 0)

/-- What a block's register holds: its stored fields with the counts that are views of the state. Registers of
fused-off stacks, CXL ports and yoke ports read as R233, R240 and R267 say.
(DESIGN CHOICE: assumption 1) -/
def blockView (s : State) (a : Nat) : Word :=
  let o := a % 0x100000000
  let w := csrGet s a
  match a / 0x100000000 with
  | 3 => if s.code = 1 ∧ [4, 5, 10, 11].contains (o / 0x10000) then 0#64 else w
  | 4 =>
    if s.code = 1 ∧ o / 0x10000 ≥ 2 then (if o % 0x10000 = 0 then 0x2000000000000000#64 else 0#64) else w
  | 5 =>
    match fnOf a with
    | some (n, x) =>
      if x = fnStat then
        put (put w 47 32 ((getFun s n).slots.filter (fun e => decide (e.2 = 1))).length) 10 0
          (s.tcs.filter (fun v => decide (v.fn = n) && decide (v.state ≠ 1))).length
      else w
    | none => if 0x40 ≤ o ∧ o < 0x60 then put w 63 48 (engineBound s ((o - 0x40) / 8)) else w
  | 6 =>
    if o < 0xC000 ∧ o % 0x1000 = 0 then
      let p := o / 0x1000
      if !portPresent s.code p then 0xC000000000000000#64
      else put (put w 33 24 (getPort s p).unacked.length) 13 0 (getPort s p).trackers.length
    else if a = aYokeDupOcc then BitVec.ofNat 64 s.filter.length
    else if a = aYokeTepoch then put w 15 0 (oldTxns s)
    else w
  | 7 =>
    if a = aTimeNow then s.now
    else if a = aSwathNow then BitVec.ofNat 64 s.swathNow
    else if within o 0x100 0x120 then ctxBusyWord s ((o - 0x100) / 8)
    else w
  | _ => w

/-- Read a register of a block: the state after its clears, and the value. An offset that names no register reads
as zero (R510).
(DEDUCED: assumption 71) -/
def blockRead (s : State) (a : Nat) (clear : Bool) : State × Word :=
  if polBlock a = .none then (s, 0#64)
  else (if clear then csrSet s a (csrGet s a &&& ~~~rcMask a) else s, blockView s a)

/-! ## Writes -/

/-- Bits that a write stores (rw fields); wo fields act and are stored nowhere. -/
def rwMask (a : Nat) : Word :=
  let o := a % 0x100000000
  match a / 0x100000000 with
  | 2 => if within (o % 0x1000000) 0x100100 0x100300 then 0xFFFF#64 else 0#64
  | 3 => if o % 0x10000 = 0x10 then 0x800000000000FFFF#64 else 0#64
  | 5 =>
    match fnOf a with
    | some x =>
      let x := x.2
      if x = fnCtl then 0x0000FFFF00000000#64
      else if x = fnMac then 0x0000FFFFFFFFFFFF#64
      else if x = fnIp4 then 0x00000001FFFFFFFF#64
      else if x = fnNet then 0xFFFFFC07000007FF#64
      else if x = fnPart then 0x8000000000FFFFFF#64
      else if x = fnSlotBase ∨ x = fnReplay then 0x00003FFFFFFFF000#64
      else if x = fnSlotCfg then 0xF80000000000FFFF#64
      else if x = fnCtx then 0x0000100000000000#64
      else if x = fnPair then 0x8000FFFF00000000#64
      else if x = fnGleanCfg then 0xFFF83FFFFFFFF000#64
      else if within x 0x100 0x180 then (if x % 16 = 0 then 0x00003FFFFFFFF000#64 else 0xFC00000000000000#64)
      else if within x 0x200 0x280 then (if x % 16 = 0 then 0xFBFFFFFFFFFFF000#64 else 0x00003FFFFFFFF000#64)
      else if within x 0x400 0x500 then
        (if x % 0x20 = 0 then 0xFFFFFFFFFFFFF000#64 else if x % 0x20 = 8 then 0x0000000000FFFFFF#64 else 0#64)
      else 0#64
    | none =>
      if a = aHostPortCfg then 0xFFE0FFFF0000FFFF#64
      else if a = aHostPfc then 0xFF00FFFFFFFFFFFF#64
      else if a = aHostKht then 0xFFFFF000FFFFFFFF#64
      else if a = aHostPtpCfg then 0xF8FFFFFFFFFFFFFF#64 else 0#64
  | 6 =>
    if a = aYokeCtl then 0xFFFFF000FF000000#64
    else if within o 0xC100 0xC200 then (if o % 16 = 0 then 0xFF003FFFFFFFF000#64 else 0x00003FFFFFFFF000#64)
    else if a = aMstShape then 0xFFFFFFFF80000000#64
    else if a = aMstTiming then 0xFFFFF000FFFF0000#64
    else if a = aMstShadow then 0xE000FFFFFFFF0000#64 else 0#64
  | 7 =>
    if a = aStwStartCfg then 0xFFFF#64
    else if a = aStwHangCfg then 0xF800FFFFFFFFFF00#64
    else if a = aTimeCfg then 0xC000FFFFFFFF0000#64
    else if a = aTimePpsSec then BitVec.allOnes 64
    else if a = aSwathCfg then 0x000FFFFF00000000#64
    else if a = aPwrTherm then 0x0000FFFFFF000000#64
    else if a = aClkSsc then 0x8000000000FFFFFF#64 else 0#64
  | _ => if a = aTestCfg then 0x8000FFFFFF000000#64 else 0#64

/-- Bits that a write of one clears (w1c and hs fields). -/
def w1cMask (a : Nat) : Word :=
  match fnOf a with
  | some x =>
    if x.2 = fnGleanStat then 0x8000000000000000#64
    else if within x.2 0x400 0x500 ∧ x.2 % 0x20 = 0x18 then 0x1000000000000000#64 else 0#64
  | none => 0#64

/-- A field brought into its bounds: the nearer bound is stored.
(DEDUCED: assumption 72) -/
def bound (w : Word) (hi lo mn mx : Nat) : Word := put w hi lo (max mn (min mx (bits w hi lo)))

/-- End of the enabled host window with RD of function n that covers an offset of a tier, 0 when there is none.
(DEDUCED: assumption 55) -/
def readWindowEnd (s : State) (n tier o : Nat) : Nat :=
  (List.range 8).foldl (fun e w =>
    let b := csrGet s (aFn n (fnHwBase w))
    let top := baseOf (csrGet s (aFn n (fnHwLimit w))) + 4096
    if bit b 63 && decide (bits b 62 61 = tier) && bit b 60 && decide (baseOf b ≤ o) && decide (o < top) then max e top
    else e) 0

/-- Storing rules of the function registers.
(DEDUCED: assumption 55) -/
def fixFn (s : State) (n x : Nat) (w : Word) : Word :=
  if x = fnCtl then bound w 47 32 1 65535
  else if x = fnSlotCfg then bound w 63 59 8 20
  else if x = fnPair then
    let w := bound w 47 32 1 65535
    let p := csrGet s (aFn n fnPart)
    if bit w 63 && decide ((bits p 11 6 - bits p 23 18 + 1) % 2 = 1) then put w 63 63 0 else w
  else if x = fnGleanCfg then
    let w := put w 59 51 (max 4 (min 256 ((bits w 59 51 + 3) / 4 * 4)))
    let w := if bits w 62 61 = 3 then put w 62 61 1 else w
    let size := 0x1000 + (partCores s n).length * gleanStride (bits w 62 61) (bits w 59 51)
    if readWindowEnd s n 1 (baseOf w) < baseOf w + size then put w 63 63 0 else w
  else if 0x100 ≤ x ∧ x < 0x180 ∧ x % 16 = 8 then bound w 62 58 6 16
  else if 0x200 ≤ x ∧ x < 0x280 ∧ x % 16 = 0 then (if bits w 62 61 = 3 then put w 63 63 0 else w)
  else if 0x400 ≤ x ∧ x < 0x500 ∧ x % 0x20 = 0 then
    let w := bound w 61 46 1 65535
    let size := (csrFld s (aFn n (x + 8)) 23 0 + 1) * 4096
    if readWindowEnd s n (1 + bits w 62 62) (baseOf w) < baseOf w + size then put w 63 63 0 else w
  else w

/-- RETRIES of YOKE_CTL, limited as in R287.
(DEDUCED: assumption 70) -/
def fixYokeCtl (w : Word) : Word :=
  let w := bound (bound w 63 48 20 65535) 31 24 1 255
  put w 47 44 (min (bits w 47 44) (1600 / bits w 63 48 - 1))

/-- A range of the control tier that touches block 0x0007 or 0x0008. -/
def touchesRestricted (lo hi : Nat) : Bool := decide (lo < 0x900000000) && decide (hi ≥ 0x700000000)

/-- MST_TIMING: HB_US within its bounds, HB_MISS 2 or 3, and a suspicion time of at least 100 µs. -/
def fixTiming (w : Word) : Word :=
  let miss := if bits w 47 44 = 2 then 2 else 3
  let hb := max (max 20 (min 100 (bits w 63 48))) ((100 + miss - 1) / miss)
  bound (put (put w 47 44 miss) 63 48 hb) 31 16 0 1200

/-- PWR_THERM: OFF_C first, then THROTTLE_C below it, then RETURN_C below that.
(DEDUCED: assumption 58) -/
def fixTherm (w : Word) : Word :=
  let off := min 110 (bits w 39 32)
  let thr := if bits w 47 40 < off then bits w 47 40 else off - 5
  put (put (put w 39 32 off) 47 40 thr) 31 24 (min (bits w 31 24) (thr - 5))

/-- The word that a write of v leaves, by the storing rules of each register.
(DEDUCED: assumption 72) -/
def fixBlock (s : State) (a : Nat) (w : Word) : Word :=
  let o := a % 0x100000000
  match a / 0x100000000 with
  | 3 => bound w 15 0 1 65535
  | 5 =>
    match fnOf a with
    | some (n, x) => fixFn s n x w
    | none =>
      if a = aHostPortCfg then bound (if bits w 61 60 ≥ 2 then put w 61 60 0 else w) 15 0 1500 9216
      else if a = aHostPfc then (if bits w 31 16 < bits w 47 32 then w else put w 31 16 (bits w 47 32 - 64))
      else if a = aHostKht then bound (bound w 63 48 5 65535) 31 16 4 1024 else w
  | 6 =>
    if a = aYokeCtl then fixYokeCtl w
    else if within o 0xC100 0xC200 ∧ o % 16 = 0 then
      (if bits w 62 61 = 3 ∧ touchesRestricted (baseOf w) (baseOf (csrGet s (a + 8)) + 4095) then put w 63 63 0 else w)
    else if a = aMstShape then (if bit w 31 && shapeOk s.code w then w else put w 31 31 0)
    else if a = aMstTiming then fixTiming w
    else if a = aMstShadow then bound (if bits w 62 61 = 3 then put w 62 61 2 else w) 31 16 1 65535
    else w
  | 7 =>
    if a = aStwStartCfg then bound w 15 0 1 65535
    else if a = aStwHangCfg then
      bound (bound (bound (bound w 63 59 16 31) 47 32 5 65535) 31 16 10 65535) 15 8 1 255
    else if a = aTimeCfg then bound (bound (if bits w 63 62 = 3 then put w 63 62 0 else w) 47 32 10 65535) 31 16 0 500
    else if a = aSwathCfg then bound w 51 32 50 100000
    else if a = aPwrTherm then fixTherm w
    else if a = aClkSsc then bound (bound w 23 16 0 6) 15 0 300 330
    else w
  | 8 => if a = aTestCfg then bound (bound w 47 32 1 65535) 31 24 0 24 else w
  | _ => w

/-- Store a write in a register of a block: the rw fields by their rules, the cleared bits cleared. A write of a
digest region's SIZE that its windows do not cover disables the region (R453). -/
def storeReg (s : State) (a : Nat) (v : Word) : State :=
  let old := csrGet s a
  let new := (fixBlock s a (v &&& rwMask a)) &&& rwMask a
  let s := csrSet s a (((old &&& ~~~rwMask a) ||| new) &&& ~~~(v &&& w1cMask a))
  match fnOf a with
  | some (n, x) =>
    if 0x400 ≤ x ∧ x < 0x500 ∧ x % 0x20 = 8 then
      let c := aFn n (x - 8)
      csrSet s c (fixFn s n (x - 8) (csrGet s c))
    else s
  | none => s

end Sys2Proof.Machine
end

