-- ==== Sys2Proof/Machine/BringUp.lean ====
section
/-! DEFINITION. Function records (R540), loss of power (R531 to R536), device resets (R466 to R468), the start
sequence (R460 to R465), privileged units (R456) and the outputs that ask for attention (R526, R534). -/

namespace Sys2Proof.Machine

/-! ## Function records (R540) -/

/-- A function record read from its bytes; none when it is malformed. -/
def parseRecord (b : List Byte) : Option FnRecord :=
  let nk := le b 3 1
  let np := le b 4 2
  let o := 0x18 + 157 * nk
  if b.length < 0x18 ∨ le b 0 1 ≥ 64 ∨ le b 1 1 ≥ 16 ∨ (le b 2 1 ≥ 16 ∧ le b 2 1 ≠ 0xFF) ∨ nk > 4 ∨ np > 64
      ∨ le b 6 2 ≠ 0 ∨ le b 8 8 % 4096 ≠ 0 ∨ b.length ≠ o + 16 * np then none
  else some
    { fn := le b 0 1, flags := le b 1 1, fallback := le b 2 1, siloBase := le b 8 8 / 4096, siloPages := le b 0x10 8,
      keys := (List.range nk).map (fun i => slice_ b (0x18 + 157 * i) 157),
      pairs := (List.range np).map (fun i => (word64 b (o + 16 * i), word64 b (o + 16 * i + 8))) }

def selKind (p : Word × Word) : Nat := bits p.1 63 56
def selOff (p : Word × Word) : Nat := bits p.1 11 0

/-- The FN registers that a pair may name. -/
def fnPairOk (o : Nat) : Bool :=
  [fnMac, fnIp4, fnNet, fnPart, fnSlotBase, fnSlotCfg, fnReplay, fnPair].contains o || within o 0x100 0x180
    || within o 0x200 0x280

/-- The selector of a pair is permitted. -/
def pairOk (admin : Bool) (p : Word × Word) : Bool :=
  match selKind p with
  | 1 => fnPairOk (selOff p)
  | 2 => admin && [0x000, 0x010, 0x018, 0x080].contains (selOff p)
  | 3 => decide (selOff p = 0)
  | 4 => (within (selOff p) 0x400 0x4E0) && !(decide (selOff p % 16 = 0) && bit p.2 54)
  | _ => false

/-- The value that a record gives an FN register: its last pair for it, else what the register holds. -/
def recordValue (s : State) (r : FnRecord) (o : Nat) : Word :=
  match (r.pairs.filter (fun p => decide (selKind p = 1) && decide (selOff p = o))).getLast? with
  | some p => p.2
  | none => csrGet s (aFn r.fn o)

/-- The plots of a partition word all exist. -/
def partPresent (s : State) (w : Word) : Bool :=
  !bit w 63 || (decide (bits w 11 6 < 40) && decide (bits w 5 0 < numPlots s / 40)
    && (List.range (numPlots s)).all (fun j => !s.lost.contains j
      || !(decide (bits w 23 18 ≤ j % 40 ∧ j % 40 ≤ bits w 11 6) && decide (bits w 17 12 ≤ j / 40 ∧ j / 40 ≤ bits w 5 0))))

/-- Two partition words share a plot. -/
def partsMeet (a b : Word) : Bool :=
  bit a 63 && bit b 63 && decide (bits a 23 18 ≤ bits b 11 6) && decide (bits b 23 18 ≤ bits a 11 6)
    && decide (bits a 17 12 ≤ bits b 5 0) && decide (bits b 17 12 ≤ bits a 5 0)

/-- HBM tier page of a page within a stack (R233, R429). -/
def tierPage (s : State) (x : Nat) : Nat :=
  let k := x / 2 ^ 48
  let p := x % 2 ^ 48
  if k < 6 then p * hbmN s + k else hbmG s / 4096 + p * hbmN s + (k - 6)

/-- What the steward answers to a record: 0 ok, 1 refused, 3 busy. -/
def recordStatus (s : State) (r : FnRecord) : Nat :=
  let part := recordValue s r fnPart
  let others := (List.range 64).filter (fun n => decide (n ≠ r.fn))
  let tcs := others.foldl (fun a n => a + csrFld s (aFn n fnNet) 10 0) (bits (recordValue s r fnNet) 10 0)
  if fnState s r.fn ≠ 0 ∧ r.pairs.any (fun p => decide (selKind p ≠ 2)) then 3
  else if !r.pairs.all (pairOk (r.flags.testBit 3)) || !partPresent s part
      || others.any (fun n => decide (fnState s n ≠ 0) && partsMeet part (csrGet s (aFn n fnPart)))
      || s.stw.retired.any (fun x => decide (r.siloBase ≤ tierPage s x) && decide (tierPage s x < r.siloBase + r.siloPages))
      || decide (tcs > 16384) then 1
  else 0

/-- HOST_PTP_CFG: EN starts and stops the clock (R344).
(DEDUCED: assumption 57) -/
def writePtpCfg (s : State) (v : Word) : State :=
  let old := csrFld s aHostPtpCfg 63 63
  let s := storeReg s aHostPtpCfg v
  let en := csrFld s aHostPtpCfg 63 63
  if en = old then s else setCsrFld s aHostPtpStat 63 61 en

/-- Write one pair of a record. -/
def writePair (n : Nat) (s : State) (p : Word × Word) : State :=
  match selKind p with
  | 1 => storeReg s (aFn n (selOff p)) p.2
  | 2 => if selOff p = 0x080 then writePtpCfg s p.2 else storeReg s (0x000500000000 + selOff p) p.2
  | 3 => (List.range 6).foldl (fun s f => storeReg s (aGrnPart f n) p.2) s
  | 4 =>
    let i := (selOff p - 0x400) / 16
    if selOff p % 16 = 0 then
      updFun s n (fun f => { f with grants := fset zeroWord f.grants (2 * i) (awBaseWord p.2) })
    else updFun s n (fun f => { f with grants := fset zeroWord f.grants (2 * i + 1) (p.2 &&& 0x00003FFFFFFFF000#64) })
  | _ => s

/-- Write an accepted record: its pairs in order, its flags, fallback, silo pool and keys; ADMIN; ENABLE. A window that
the record grants nothing in has no grant (R553); FN_CTX is written only while the function is off (R314). -/
def applyRecord (s : State) (r : FnRecord) : State :=
  let s := r.pairs.foldl (writePair r.fn) (updFun s r.fn (fun f => { f with grants := [] }))
  let s := if fnState s r.fn = 0 then setCsrFld s (aFn r.fn fnCtx) 44 44 (r.flags / 2 % 2) else s
  let s := updFun s r.fn (fun f => { f with
    requireSigned := r.flags.testBit 2
    fallback := r.fallback
    siloBase := r.siloBase
    siloPages := r.siloPages
    signers := r.keys })
  let s := if r.flags.testBit 3 then setCsrFld (setCsrFld s aHostPortCfg 59 54 r.fn) aHostPortCfg 53 53 1 else s
  if r.flags.testBit 0 then functionEnable r.fn s else s

/-- Take a record: it is checked, written and kept. -/
def takeRecord (s : State) (r : FnRecord) : State × Nat :=
  let st := recordStatus s r
  if st ≠ 0 then (s, st)
  else
    let s := applyRecord s r
    (setStw s (fun t => { t with records := r :: t.records.filter (fun x => decide (x.fn ≠ r.fn)) }), 0)

/-- The port mode that the kept records name (R309).
(DESIGN CHOICE: assumption 46) -/
def recordMode (s : State) : Nat :=
  s.stw.records.foldl (fun m r => r.pairs.foldl (fun m p =>
    if r.flags.testBit 3 ∧ selKind p = 2 ∧ selOff p = 0 then bits p.2 63 62 else m) m) 0

/-! ## What survives (R466, R534) -/

/-- CLK_FIELD_f.LOST of every field: a lost field stays lost (R412). -/
def lostRegs : List (Nat × Word) := (List.range 6).map (fun f => (aClkField f, 0x0100000000000000#64))

def keepRegs (s : State) (l : List (Nat × Word)) : FMap Word :=
  l.foldl (fun m e => fset csrReset m e.1 (csrGet s e.1 &&& e.2)) []

/-- The steward's records in boot flash, fuses and the power-on clock. A start cut short makes the next one cold.
(DEDUCED: assumption 69) -/
def stwKept (t : Steward) : Steward :=
  { steward0 with
    fused := t.fused, mapA := t.mapA, mapB := t.mapB, serial := t.serial, profile := t.profile, failed := t.failed
    retired := t.retired, pairsBad := t.pairsBad, upNs := t.upNs, coldAt := t.coldAt
    seamDegraded := t.seamDegraded, coldNext := t.coldNext || t.start.isSome, failAt := t.failAt }

/-- The security engine as it starts: fuses, boot flash and the reservation log stay.
(DEDUCED: assumption 69) -/
def secKept (c : Sec) : Sec :=
  { sec0 with
    flash := c.flash, fwValid := c.fwValid, fwSlot := c.fwSlot, fwSvn := c.fwSvn, fwDigest := c.fwDigest
    fwFetched := c.fwFetched, keyIds := c.keyIds, revoked := c.revoked, fuseSvn := c.fuseSvn
    lifecycle := c.lifecycle, log := c.log, logNext := c.logNext }

/-- The state after reset, with what belongs to the model, the fuses and boot flash. -/
def restart (s : State) (csr : FMap Word) (stw : Steward) (pins : Pins) : State :=
  { State.reset with
    pending := s.pending, free := s.free, code := s.code, outs := s.outs, cxl := s.cxl, cxlPoi := s.cxlPoi
    seams := s.seams.filter (fun e => decide (e.2 = 1)), nextId := s.nextId, nextSer := s.nextSer, csr := csr
    stw := stw, pins := pins, sec := secKept s.sec }

/-- Every regulator is off, D29 included: PWRGD falls and the outputs are released (R525, R531, R534).
(DEDUCED: assumption 69) -/
def powerOff (s : State) (pins : Pins) : State :=
  restart s (keepRegs s ([(aStwBoot, 0x07000000FFFFFFFF#64), (aPwrStat, 0x003F000000000000#64)] ++ lostRegs)) (stwKept s.stw)
    { pins with pwrgd := false, thermtrip := false, alert := false, event := false, request := false, i3c := 0 }

/-- Functions whose context runs. -/
def runningFns (s : State) : List Nat := (List.range 64).filter (fun n => decide (ctxState s n = 2))

/-- A function that becomes a suspect at a warm reset: its list of images and its failed context stay (R477).
(DEDUCED: assumption 69) -/
def keepSuspect (old : State) (s : State) (n : Nat) : State :=
  let imgs := (List.range 16).map (fun e => aFn n (fnImg e))
  let s := imgs.foldl (fun s a => csrSet s a (csrGet old a)) s
  let s := setCtxState (csrSet s (aFn n fnCtx) (csrGet old (aFn n fnCtx))) n 5
  queueReplay (updFun s n (fun f => { f with imgs := (getFun old n).imgs })) n 8 none false

/-- A device warm reset: D00 to D28 go down. Retained registers, HBM, boot flash, and the CXL contents where the
memory device keeps them, stay. The contexts that ran become suspects unless the cause is attributed to hardware.
(DEDUCED: assumption 69) -/
def warmDown (s : State) (suspects cxlKept : Bool) : State :=
  let fns := (List.range 64).flatMap (fun n =>
    [(aFn n fnGleanStat, BitVec.allOnes 64), (aFn n fnRecov, BitVec.allOnes 64)])
  let temps := (List.range 12).map (fun k => (aHbmStat k, 0x0000000000FF0000#64))
  let regs := keepRegs s ([(aStwBoot, BitVec.allOnes 64), (aStwStartCfg, BitVec.allOnes 64),
    (aStwLadder, BitVec.allOnes 64), (aPwrStat, 0x003F0000000000FF#64)] ++ fns ++ temps ++ lostRegs)
  let stw := { stwKept s.stw with records := s.stw.records, trip := s.stw.trip, therm := s.stw.therm }
  let n := restart s regs stw s.pins
  let n := { n with
    hbm := s.hbm
    hbmPoi := s.hbmPoi
    hbmErr := s.hbmErr
    hbmRepair := s.hbmRepair
    cxl := if cxlKept then s.cxl else []
    cxlPoi := if cxlKept then s.cxlPoi else [] }
  let n := if suspects then (runningFns s).foldl (keepSuspect s) n else n
  satCsrFld (setCsrFld n aStwBoot 63 61 2) aStwLadder 3 0 1

/-- The condition of a trip has cleared: every sensor below RETURN_C, or VIN at 42 V or above for 100 ms. -/
def tripCleared (s : State) : Bool :=
  !s.stw.trip || (if csrFld s aPwrStat 7 0 = 3 then
      decide (s.pins.vin ≥ 42000) && decide (s.stw.upNs ≥ s.pins.goodAt + 100000000)
    else
      let r := csrFld s aPwrTherm 31 24
      (List.range 24).all (fun d => decide (thermOf s d < r))
        && (List.range 12).all (fun k => decide (csrFld s (aHbmStat k) 23 16 < r)))

/-! ## Starts (R460 to R465) -/

def setStart (s : State) (x : Option Start) : State := setStw s (fun t => { t with start := x })

/-- The next step of the start in progress. -/
def toStep (s : State) (k : Nat) : State :=
  match s.stw.start with
  | some x => setStart s (some { x with step := k, stepAt := s.stw.upNs })
  | none => s

/-- The steward makes a cold start. -/
def coldDue (s : State) : Bool :=
  (curMap s).isNone || s.stw.coldNext
    || decide (s.stw.upNs > s.stw.coldAt + csrFld s aStwStartCfg 15 0 * 86400000000000)

/-- A start begins at step 2; `warm`: it ends a device warm reset.
(DEDUCED: assumption 70) -/
def beginStart (s : State) (warm : Bool) : State :=
  let kind := if coldDue s then 0 else if warm then 2 else 1
  let s := setStw (setPins s (fun p => { p with thermtrip := false })) (fun t => { t with trip := false })
  let s := wrapCsrFld (setCsrFld (setCsrFld s aStwBoot 63 61 0) aStwBoot 60 59 kind) aStwBoot 31 0 1
  setStart s (some { kind := kind, step := 2, began := s.stw.upNs, stepAt := s.stw.upNs })

/-- Only D29 stays powered, and D26 in the service state (R463). -/
def onlyD29 (s : State) (host : Bool) : State := setOn (deviceDown s) 26 (b2n host)

/-- The admin function of the service state: its kept record configures it and the port, and its TCs can open.
(DEDUCED: assumption 70) -/
def serviceAdmin (s : State) : State :=
  match s.stw.records.find? (fun r => r.flags.testBit 3) with
  | none => s
  | some r =>
    let s := (r.pairs.filter (fun p => decide (selKind p ≤ 2))).foldl (writePair r.fn) s
    let s := setCsrFld (setCsrFld s aHostPortCfg 59 54 r.fn) aHostPortCfg 53 53 1
    setCsrFld s (aFn r.fn fnStat) 63 61 1

/-- A start fails: the next is cold; the third in a row within 24 hours of power-on time is the last (R462, R463). -/
def startFails (s : State) : State :=
  let recent := s.stw.upNs :: s.stw.failAt.filter (fun t => decide (s.stw.upNs < t + oneDay))
  let n := min 3 (csrFld s aStwBoot 58 56 + 1)
  let s := setStw (setStart s none) (fun t => { t with coldNext := true, failAt := recent })
  let s := setCsrFld s aStwBoot 58 56 n
  if n = 3 ∧ recent.length ≥ 3 then logEvent (setCsrFld (serviceAdmin (onlyD29 s true)) aStwBoot 63 61 3)
  else logEvent (setCsrFld (onlyD29 s false) aStwBoot 63 61 2)

/-- Record the HBM rows repaired (R429, R433).
(DESIGN CHOICE: assumption 60) -/
def recordRows (s : State) (l : List Word) : State :=
  l.foldl (fun s w => if bits w 63 56 = 7 then addRepair s w 10 else s) s

/-- Step 2 ends: the image in boot flash verifies and runs. `prof` and `dbg` are the key pairs that its body lists for
the profile record and the debug tokens, at most 8 for each.
(DESIGN CHOICE: assumption 63) -/
def firmwareRuns (s : State) (prof dbg : List (List Byte)) : State :=
  if !s.sec.fwValid then s
  else
    let c := s.sec
    let w := put (put (put (put (put (put 0#64 63 62 c.lifecycle) 59 58 c.fwSlot) 57 57 (b2n c.fwFetched)) 56 56
      (b2n (decide (c.lifecycle = 1)))) 47 40 c.fwSvn) 39 32 c.fuseSvn
    let w := if c.lifecycle = 0 then put w 61 60 2 else w
    let s := setSec (csrSet s aSecStat w) (fun c =>
      { c with runDigest := c.fwDigest, alias_ := true, boot := none, profKeys := prof.take 8
               debugKeys := dbg.take 8 })
    toStep (lmsResume s) 3

/-- Step 3: the profile record is verified and the effective profile set; D26 is powered and the host port trains in
the mode of the kept records.
(DESIGN CHOICE: assumption 46) -/
def recordsRead (s : State) : State :=
  let p := s.stw.profile
  let ok := profileFits s p
  let s := if ok ∨ p.isEmpty then s else satCsrFld (setStw s (fun t => { t with profile := [] })) aSecVerify 47 32 1
  let s := applyProfile (setCsrFld s aPwrProfile 51 48 (if ok then le p 0x0A 1 else 0))
  let s := setStw s (fun t => { t with hostMode := recordMode s })
  toStep (setOn s 26 1) 5

/-- Step 9: the arrangement is derived from the map and version 0 loaded. -/
def arranged (s : State) (v : RouteVer) : State :=
  rearrange { s with chg := { step := 0, epoch := 0, time := 0 }, edgeEpoch := [] } 0 v

/-- A sector whose row is repaired: it holds poison no longer, and what it reads is open (R236, R429).
(DESIGN CHOICE: assumption 70) -/
def repairedSector (s : State) (sec : Nat) : State :=
  if fget noPoi s.hbmPoi sec then
    sectorStore { s with free := s.free + 4 } sec ((List.range 4).map (fun i => ⟨Config.freeWord (s.free + i), false⟩))
  else s

/-- Step 10: the repaired rows, the pages retired. The full test of a cold start leaves HBM zero.
(DEDUCED: assumption 70) -/
def memoryTested (s : State) (cold : Bool) (pages : List Nat) : State :=
  let s := if cold then { s with hbm := [], hbmPoi := [], hbmErr := [] }
    else (s.hbmRepair.filter (fun x => !(pages ++ s.stw.retired).any (fun y => decide (tierPage s y = x / 128)))).foldl
      repairedSector s
  let s := { s with hbmRepair := [] }
  pages.foldl (fun s x =>
    if s.stw.retired.contains x then s
    else setStw (addRepair s (repairWord 8 (if cold then 1 else 2) (x / 2 ^ 48) 0 0 (x % 2 ^ 28)) 10)
      (fun t => { t with retired := t.retired ++ [x] })) s

/-- Step 13: the kept records are applied, lowest function first, and the module is ready. -/
def moduleReady (s : State) (x : Start) : State :=
  let recs := (List.range 64).filterMap (fun n => s.stw.records.find? (fun r => decide (r.fn = n)))
  let s := recs.foldl (fun s r => if recordStatus s r = 0 then applyRecord s r else s) s
  let secs := min 65535 ((s.stw.upNs - x.began) / 1000000000)
  let s := setCsrFld (setCsrFld (setCsrFld s aStwBoot 63 61 1) aStwBoot 58 56 0) aStwBoot 47 32 secs
  setStw s (fun t => { t with
    start := none
    coldNext := false
    coldAt := if x.kind = 0 then t.upNs else t.coldAt
    failAt := [] })

/-- The steps of a start in progress. -/
def startStep (s : State) (x : Start) (e : StartEv) : State :=
  match x.step, e with
  | 2, .firmware p d => firmwareRuns s p d
  | 3, .records => recordsRead s
  | 5, .stacks ok => if ok then toStep (setOn (setOn s 24 1) 25 1) 6 else startFails s
  | 6, .fields l bad seams =>
    toStep (testFails (clocksUp (repairAll (quadsUp s) 1 0 l) seams) 1 0 bad) 9
  | 9, .routing v => toStep (arranged s v) 10
  | 10, .memory l pages => toStep (memoryTested (recordRows s l) (decide (x.kind = 0)) pages) 11
  | 11, .cxl l => toStep (linksTrained s (decide (x.kind = 0)) l) 12
  | 12, .yoke => toStep (if teamValid s then setOn s 27 1 else s) 13
  | 13, .ready => moduleReady s x
  | _, _ => s

/-- START_SEQUENCE: a start begins, or its next step is done. -/
def startSequence (e : StartEv) (s : State) : State :=
  match s.stw.start, e with
  | none, .begin_ =>
    let st := csrFld s aStwBoot 63 61
    if s.pins.pwrgd && s.pins.resetN && decide (40000 ≤ s.pins.vin ∧ s.pins.vin ≤ 60000) && decide (st ≠ 1)
        && decide (st ≠ 3) && tripCleared s then
      beginStart s (decide (st = 2) && decide (csrFld s aStwBoot 58 56 = 0))
    else s
  | some x, e => startStep s x e
  | none, _ => s

/-- START_SEQUENCE (R461). -/
def execStartSequence (e : StartEv) (s : State) : Out := .next (startSequence e s)

/-- Time of a step in ns (R461): cold and other starts. -/
def stepTimeNs (kind step : Nat) : Nat :=
  match step with
  | 2 => 1800000000
  | 5 => if kind = 0 then 15000000000 else 1500000000
  | 6 => if kind = 0 then 266100000 else 8800000
  | 9 => 300000000
  | 10 => if kind = 0 then 70000000000 else 100000000
  | 11 => if kind = 0 then 151000000000 else 1000000000
  | 12 => 2000000000
  | _ => 100000000

/-- START_STEP_TIMEOUT: a step takes more than four times its time. Fetching firmware does not count (R488). -/
def startTimeout (s : State) : State :=
  match s.stw.start with
  | some x =>
    if s.stw.upNs > x.stepAt + 4 * stepTimeNs x.kind x.step && !(decide (x.step = 2) && !s.sec.fwValid) then
      startFails s
    else s
  | none => s

/-- START_STEP_TIMEOUT (R462). -/
def execStartStepTimeout (s : State) : Out := .next (startTimeout s)

/-! ## Resets -/

/-- A warm reset and, while RESET_N is high, the start that ends it. -/
def warmReset (s : State) (suspects cxlKept : Bool) : State :=
  let s := warmDown s suspects cxlKept
  if s.pins.resetN && tripCleared s then beginStart s true else s

/-- DEVICE_WARM_RESET: unplanned; `hw`: its cause is attributed to hardware. The steward refuses one that would leave
a trip too early. -/
def deviceWarmReset (hw cxlKept : Bool) (s : State) : State :=
  if s.pins.pwrgd && tripCleared s then warmReset s (!hw) cxlKept else s

/-- DEVICE_WARM_RESET (R466). -/
def execDeviceWarmReset (hw cxlKept : Bool) (s : State) : Out := .next (deviceWarmReset hw cxlKept s)

/-- Answer a POWER request of the sideband; a register write has none.
(DEDUCED: assumption 73) -/
def powerAnswer (s : State) (sb : Option Nat) (status : Nat) : State :=
  match sb with
  | some q => sbReply s 0x05 q status []
  | none => s

def setPlan (s : State) (k : Nat) : State := setStw s (fun t => { t with plan := k })

/-- Steps 1 and 2 of a planned warm reset: the rings stop, and every pending request completes 0x05. -/
def planAsk (sb : Option Nat) (cold : Bool) (s : State) : State :=
  if !s.pins.pwrgd then s
  else if csrFld s aStwBoot 63 61 ≠ 1 ∨ !tripCleared s then powerAnswer s sb 1
  else
    let s := setCsrFld (powerAnswer s sb 0) aStwBoot 63 61 2
    let s := (List.range 64).foldl (fun s n => finishAll s n csFAILED (getFun s n).reqs) s
    setStw s (fun t => { t with plan := 1, coldNext := t.coldNext || cold })

/-- Step 3: the running partitions are frozen and gleaned. -/
def planFreeze (s : State) : State :=
  if s.stw.plan ≠ 1 then s
  else setPlan ((runningFns s).foldl (fun s n => startRecovery s n 8) s) 2

/-- Step 4: D00 to D28 are reset, once every freeze and glean is done. -/
def planReset (cxlKept : Bool) (s : State) : State :=
  let done := (List.range 64).all (fun n => match (getFun s n).recov with
    | some r => decide (r.step = 3)
    | none => true)
  if s.stw.plan = 2 ∧ done then warmReset s false cxlKept else s

/-- PLANNED_WARM_RESET: one step of a planned warm reset. -/
def plannedWarmReset (e : PlanEv) (s : State) : State :=
  match e with
  | .ask sb => planAsk sb false s
  | .freeze => planFreeze s
  | .reset k => planReset k s

/-- PLANNED_WARM_RESET (R468). -/
def execPlannedWarmReset (e : PlanEv) (s : State) : Out := .next (plannedWarmReset e s)

/-- WARM_RESET_COLD_START: the request of a planned warm reset whose start is cold. -/
def execWarmResetColdStart (sb : Option Nat) (s : State) : Out := .next (planAsk sb true s)

/-- COLD_START_REQUEST: the way out of the service state. -/
def coldStartRequest (seq : Nat) (s : State) : State :=
  if !s.pins.pwrgd then s
  else if csrFld s aStwBoot 63 61 ≠ 3 then powerAnswer s (some seq) 1
  else beginStart (setStw (powerAnswer s (some seq) 0) (fun t => { t with coldNext := true })) false

/-- COLD_START_REQUEST (R463, R539). -/
def execColdStartRequest (seq : Nat) (s : State) : Out := .next (coldStartRequest seq s)

/-- POWER_CYCLE: the request goes to the tray controller, with ALERT_N (R526, R534). -/
def powerCycle (s : State) : State :=
  if !s.pins.pwrgd then s
  else sbReply (setPins s (fun p => { p with request := true, alert := true })) 0x0B 0 0 []

/-- POWER_CYCLE (R479). -/
def execPowerCycle (s : State) : Out := .next (powerCycle s)

/-! ## Power input and control pins (R531 to R535) -/

/-- POWER_UP: MOD_EN is high with VIN at `vin` mV. In range, and with no off timer running, D29 comes into regulation
and PWRGD rises. A module that has power takes note of its input. -/
def powerUp (vin : Nat) (s : State) : State :=
  let good := if vin ≥ 42000 ∧ s.pins.vin < 42000 then s.stw.upNs else s.pins.goodAt
  let s := setPins s (fun p => { p with vin := vin, modEn := true, goodAt := good })
  if decide (40000 ≤ vin ∧ vin ≤ 60000) && !s.pins.pwrgd && decide (s.pins.holdoff = 0) then
    setPins s (fun p => { p with pwrgd := true })
  else s

/-- POWER_UP (R533). -/
def execPowerUp (vin : Nat) (s : State) : Out := .next (powerUp vin s)

/-- MOD_EN_LOW: every regulator is off for 30 s at least. -/
def execModEnLow (s : State) : Out :=
  .next (powerOff s { s.pins with modEn := false, holdoff := 30000000000 })

/-- RESET_N: low makes an unplanned warm reset and holds it; high releases it. -/
def resetPin (high cxlKept : Bool) (s : State) : State :=
  let s := setPins s (fun p => { p with resetN := high })
  if !high && s.pins.pwrgd then warmDown s true cxlKept else s

/-- RESET_N (R533). -/
def execResetN (high cxlKept : Bool) (s : State) : Out := .next (resetPin high cxlKept s)

/-- UNDERVOLTAGE_TRIP: VIN has stayed below 40 V for 1 ms while D00 to D28 are powered. -/
def undervoltage (vin : Nat) (s : State) : State :=
  let s := setPins s (fun p => { p with vin := vin })
  if decide (vin < 40000) && s.pins.pwrgd && (List.range 29).any (domainOn s) then tripNow s 3 else s

/-- UNDERVOLTAGE_TRIP (R535). -/
def execUndervoltageTrip (vin : Nat) (s : State) : Out := .next (undervoltage vin s)

/-- OVERVOLTAGE_OFF: the input switch opens; the module is off until VIN has been in range for 1 s. -/
def overvoltage (vin : Nat) (s : State) : State :=
  if vin ≤ 62000 then s else powerOff s { s.pins with vin := vin, holdoff := 1000000000 }

/-- OVERVOLTAGE_OFF (R531). -/
def execOvervoltageOff (vin : Nat) (s : State) : Out := .next (overvoltage vin s)

/-- VIN_LOSS: below 36 V every regulator is off. -/
def execVinLoss (vin : Nat) (s : State) : Out :=
  .next (if vin < 36000 then powerOff s { s.pins with vin := vin } else s)

/-- ALERT_REASSERT: the condition has persisted for 1 s after a STATUS request released ALERT_N. -/
def alertReassert (s : State) : State :=
  let p := s.pins
  if p.pwrgd && (p.event || p.request) && !p.alert && decide (s.stw.upNs ≥ p.releasedAt + 1000000000) then
    setPins s (fun p => { p with alert := true })
  else s

/-- ALERT_REASSERT (R526). -/
def execAlertReassert (s : State) : Out := .next (alertReassert s)

/-! ## Privileged units (R456) -/

/-- Poison a word of the first contribution to a round of a node. -/
def poisonFold (s : State) (j n round i : Nat) : State :=
  match findRound (getNode s j n) round with
  | none => s
  | some x =>
    match x.parts with
    | [] => s
    | p :: l => setNode s j n (putRound (getNode s j n) { x with parts := { p with data := p.data.set i noWord } :: l })

/-- A mismatch of a sheaf adder: the word is poisoned, and three within 1 s at one router fail its plot. -/
def adderMismatch (s : State) (j n round i : Nat) : State :=
  let s := poisonFold (satCsrFld s aTestPriv 11 0 1) j n round i
  setStw s (fun t => { t with
    adders := (j, s.now.toNat) :: t.adders.filter (fun a => decide (s.now.toNat ≤ a.2 + 1000000000)) })

/-- PRIVILEGED_MISMATCH: the response of the unit. A warm reset that one forces is attributed to hardware. -/
def privMismatch (u : PrivUnit) (s : State) : State :=
  match u with
  | .steward failed =>
    let s := satCsrFld s aTestPriv 59 48 1
    let cur := s.stw.pair
    let bad := if failed then s.stw.pairsBad ||| 2 ^ cur else s.stw.pairsBad
    let s := setStw s (fun t => { t with pair := 1 - cur, pairsBad := bad })
    if bad.testBit 0 ∧ bad.testBit 1 then deviceWarmReset true true s
    else if bad.testBit (1 - cur) then setStw s (fun t => { t with pair := cur }) else s
  | .security second =>
    let s := satCsrFld s aTestPriv 47 36 1
    if second then deviceWarmReset true true s else s
  | .muster => satCsrFld s aTestPriv 35 24 1
  | .route loads =>
    let s := satCsrFld s aTestPriv 23 12 1
    if loads then s else deviceWarmReset true true s
  | .adder j n round i => adderMismatch s j n round i

/-- PRIVILEGED_MISMATCH (R456). -/
def execPrivilegedMismatch (u : PrivUnit) (s : State) : Out := .next (privMismatch u s)

end Sys2Proof.Machine
end

