-- ==== Sys2Proof/Machine/Registers.lean ====
section
/-! DEFINITION. Accesses to the control tier: their form (R10, R11), the rights of each path (R14, R511 to R514), what a
write does beside storing, and the JTAG port (R504, R511). -/

namespace Sys2Proof.Machine

/-! ## Rights -/

/-- The policy of the register at a place. -/
def polAt : Place → Pol
  | .core _ o => polCore o
  | .plot _ o => polPlot o
  | .block a => polBlock a
  | .none => .none

/-- The policy lets a host function make the access. An offset without a register lets every access pass (R510).
(DEDUCED: assumption 71) -/
def polOk (p : Pol) (admin write : Bool) : Bool :=
  match p with
  | .none => true
  | .rw => true
  | .w => true
  | .r => !write
  | .ra => !write || admin
  | .stw => false

/-- In the service state the admin function reads STW and TEST, and nothing else is served (R463). -/
def serviceMay (a : Nat) (admin write : Bool) : Bool :=
  admin && !write && restricted a && (decide (a / 0x100000000 = 8) || decide (a % 0x100000000 < 0x100000))

/-- A host function may make the access (R512, R317). -/
def hostMay (s : State) (n a : Nat) (write : Bool) : Bool :=
  let admin := isAdmin s (.host n)
  if csrFld s aStwBoot 63 61 = 3 then serviceMay a admin write
  else
    match placeOf a with
    | .core i o => decide (fnOfCore s i = some n) && polOk (polCore o) admin write
    | .plot j o => decide (fnOfPlot s j = some n) && polOk (polPlot o) admin write
    | .block a =>
      if a / 0x100000000 = 8 then false
      else
        match fnOf a with
        | some x => (decide (x.1 = n) || (admin && write && decide (x.2 = fnCtl))) && polOk (polBlock a) admin write
        | none => polOk (polBlock a) admin write
    | .none => true

/-- GRN_INV and GRN_INV_ALL of a field. -/
def grnInvAt (a : Nat) : Bool :=
  decide (a / 0x100000000 = 2) && decide (a % 0x100000000 < 0x6000000)
    && (decide (a % 0x1000000 = 0x100020) || decide (a % 0x1000000 = 0x100028))

/-- A core may make the access (R513). -/
def coreMay (s : State) (c a : Nat) (write : Bool) : Bool :=
  match fnOfCore s c with
  | none => false
  | some n =>
    if restricted a then false
    else if !write then hostMay s n a false
    else grnInvAt a || decide (a = aFn n fnComplete) || decide (a = aFn n fnSwitch)

/-- A remote device may make the access, once a window permits it (R514). -/
def remoteMay (a : Nat) (write : Bool) : Bool :=
  if write then grnInvAt a
  else decide (2 ≤ a / 0x100000000) && decide (a / 0x100000000 ≤ 6) && (fnOf a).isNone && polOk (polBlock a) false false

/-- The requester has the right to make the access (R511). -/
def mayAccess (s : State) (who : Who) (a : Nat) (write : Bool) : Bool :=
  match who with
  | .steward => true
  | .jtag => decide (debugLevel s ≥ (if write then 2 else 1))
  | .host n => hostMay s n a write
  | .core c _ _ => coreMay s c a write
  | .remote => remoteMay a write

/-- Count a denied access against the function that made it (R14).
(DEDUCED: assumption 71) -/
def countDenied (s : State) (who : Who) : State :=
  let up := fun n => updFun s n (fun f => { f with denied := f.denied + 1 })
  match who with
  | .host n => up n
  | .core c _ _ =>
    match fnOfCore s c with
    | some n => up n
    | none => s
  | _ => s

/-- What stops an access before it is performed: 3 bad access (R11), 2 unmapped (R232, R510), 1 denied, 5 unreachable:
the window of a plot whose quadrant has no power.
(DEDUCED: assumption 71) -/
def accessStatus (s : State) (who : Who) (a size : Nat) (write : Bool) : Nat :=
  if size ≠ 8 ∨ a % 8 ≠ 0 then 3
  else
    let rest := fun (j : Nat) =>
      if !mayAccess s who a write then 1 else if !domainOn s (quadOfPlot s j) || underTest s (quadOfPlot s j) then 5 else 0
    match placeOf a with
    | .none => 2
    | .core c _ => if !coreOk s c then 2 else rest (plotOf c)
    | .plot j _ => if !plotOk s j then 2 else rest j
    | .block _ => if !mayAccess s who a write then 1 else 0

/-! ## Reads -/

/-- The path's reads clear rc fields (R516). -/
def clears : Who → Bool
  | .host _ => true
  | .core _ _ _ => true
  | .remote => true
  | _ => false

/-- Read a register: the state, the value, the status. A read that is not performed returns zero (R14). -/
def readReg (s : State) (who : Who) (a size : Nat) : State × Word × Nat :=
  let st := accessStatus s who a size false
  if st = 1 then (countDenied s who, 0#64, 1)
  else if st ≠ 0 then (s, 0#64, st)
  else
    let r := match placeOf a with
      | .core c o => coreRead s c o (clears who)
      | .plot j o => plotRead s j o (clears who)
      | .block a => blockRead s a (clears who)
      | .none => (s, 0#64)
    (r.1, r.2, 0)

/-- RC_READ: a register read. -/
def rcRead (who : Who) (a size : Nat) (s : State) : State :=
  let r := readReg s who a size
  emit r.1 (.access a r.2.1 r.2.2)

/-- RC_READ (R516). -/
def execRcRead (who : Who) (a size : Nat) (s : State) : Out := .next (rcRead who a size s)

/-! ## Writes with an effect of their own -/

/-- FN_CTL: DRAIN_MS is stored; EN enables a function that is off or disables one that is enabled (R342, R343). -/
def writeFnCtl (s : State) (n : Nat) (v : Word) : State :=
  let s := storeReg s (aFn n fnCtl) v
  if bit v 63 then functionEnable n s else functionDisable n s

/-- FN_PART: a suspended function whose new partition leaves out every quadrant that is off resumes (R406).
(DEDUCED: assumption 72) -/
def writeFnPart (s : State) (n : Nat) (v : Word) : State :=
  let s := storeReg s (aFn n fnPart) v
  let f := getFun s n
  let l := f.suspended.filter (fun d => (partPlots s n).any (fun j => decide (quadOfPlot s j = d)))
  let s := updFun s n (fun f => { f with suspended := l })
  if l.isEmpty && !f.suspended.isEmpty then resumeFn s n else s

/-- TIME_CFG: another source starts the servo anew (R394, R395).
(DEDUCED: assumption 57) -/
def writeTimeCfg (s : State) (v : Word) : State :=
  let old := timeSrc s
  let s := storeReg s aTimeCfg v
  if timeSrc s = old then s
  else setServo (setServoState s (if timeSrc s = 0 then 0 else 1)) (fun x => { x with good := 0, left := 0, acc := 0 })

/-- STW_RESET by KIND (R468, R479); other values are ignored. -/
def writeStwReset (s : State) (v : Word) : State :=
  match bits v 63 61 with
  | 1 => planAsk none false s
  | 2 => planAsk none true s
  | 3 => powerCycle s
  | _ => s

/-- SEC_FWUPD: GO starts an update, COMMIT_SVN raises the fused SVN (R490, R491). -/
def writeFwupd (s : State) (who : Who) (v : Word) : State :=
  let s := if bit v 63 then firmwareUpdate (.go who (baseOf v)) s else s
  if bit v 62 then commitSvn who s else s

/-- PWR_DORMANT: ENTER requests dormant; WAKE starts a wake, which the row WAKE completes (R418, R420).
(DESIGN CHOICE: assumption 59) -/
def writeDormant (s : State) (v : Word) : State :=
  let s := if bit v 63 then dormantEnter none s else s
  if bit v 62 && decide (csrFld s aPwrDormant 61 59 = 2) then setCsrFld s aPwrDormant 61 59 3 else s

/-- TEST_CFG: SWEEP starts a sweep (R455). -/
def writeTestCfg (s : State) (v : Word) : State :=
  let s := storeReg s aTestCfg v
  if bit v 62 then setStw s (fun t => { t with sweep := 83 }) else s

/-- TIME_PPS_SEC: the second that the next edge marks (R394). -/
def writePpsSec (s : State) (v : Word) : State := setServo (storeReg s aTimePpsSec v) (fun x => { x with ppsSet := true })

/-- A register that a function record configures (R540). -/
def fnConfig (x : Nat) : Bool :=
  decide (x = fnMac) || decide (x = fnIp4) || decide (x = fnNet) || decide (x = fnPart) || decide (x = fnSlotBase)
    || decide (x = fnSlotCfg) || decide (x = fnReplay) || decide (x = fnPair) || within x 0x100 0x180 || within x 0x200 0x280

/-- Write a function register. The steward writes the configuration of a function only while it is off, but for a
narrower partition of a suspended one (R314, R406); no such write is made otherwise.
(DEDUCED: assumption 72) -/
def writeFnReg (s : State) (who : Who) (n x : Nat) (v : Word) : State × Nat :=
  if fnConfig x && decide (fnState s n ≠ 0) && !(decide (x = fnPart) && !(getFun s n).suspended.isEmpty) then (s, 0)
  else if x = fnCtl then (writeFnCtl s n v, 0)
  else if x = fnComplete then fnCompleteW n who v s
  else if x = fnSwitch then fnSwitchW n who v s
  else if x = fnPair then (if ctxState s n = 0 then storeReg s (aFn n x) v else s, 0)
  else if x = fnPart then (writeFnPart s n v, 0)
  else (storeReg s (aFn n x) v, 0)

/-- Write a register of blocks 0x0002 to 0x0008. -/
def writeBlock (s : State) (who : Who) (a : Nat) (v : Word) : State × Nat :=
  match fnOf a with
  | some x => writeFnReg s who x.1 x.2 v
  | none =>
    let r := if grnInvAt a then (if a % 0x1000000 = 0x100020 then grnInv s v else grnInvAll s v)
      else if a = aSwathApply then swathApply v s
      else if a = aTimeSet then timeSet v s
      else if a = aTimeCfg then writeTimeCfg s v
      else if a = aTimePpsSec then writePpsSec s v
      else if a = aHostPtpCfg then writePtpCfg s v
      else if aClkField 0 ≤ a ∧ a < aClkField 6 then nReqWrite ((a - aClkField 0) / 8) v s
      else if a = aSecFwupd then writeFwupd s who v
      else if a = aStwReset then writeStwReset s v
      else if a = aPwrDormant then writeDormant s v
      else if a = aTestCfg then writeTestCfg s v
      else storeReg s a v
    (r, 0)

/-- A write of CORE_AW_n_BASE or _LIMIT that would grant WR over locked pages: the steward makes none (R360).
(DEDUCED: assumption 72) -/
def awLocked (s : State) (c o : Nat) (v : Word) : Bool :=
  (List.range 16).any (fun n =>
    let k := getCore s c
    let b := if o = oAwBase n then awBaseWord v else creg k (oAwBase n)
    let l := if o = oAwLimit n then v else creg k (oAwLimit n)
    (decide (o = oAwBase n) || decide (o = oAwLimit n)) && bit b 63 && bit b 56 && decide (bits b 62 61 = 1) && !bit b 60
      && pagesLocked s (fun _ => true) (baseOf b) (baseOf l + 4096 - baseOf b))

/-- Write a register: the state and the status. A debug requester at level 2 writes as the steward does (R504).
(DEDUCED: assumption 72) -/
def writeReg (s : State) (who : Who) (a : Nat) (v : Word) (size : Nat) : State × Nat :=
  let st := accessStatus s who a size true
  if st = 1 then (countDenied s who, 1)
  else if st ≠ 0 then (s, st)
  else
    match placeOf a with
    | .core c o => (if awLocked s c o v then s else coreWrite s c o v, 0)
    | .plot j o => (plotWrite s j o v, 0)
    | .block a => writeBlock s (if who = .jtag then .steward else who) a v
    | .none => (s, 0)

/-- REGISTER_WRITE: a register write and its status. -/
def registerWrite (who : Who) (a : Nat) (v : Word) (size : Nat) (s : State) : State :=
  let r := writeReg s who a v size
  emit r.1 (.access a v r.2)

/-- REGISTER_WRITE (R12). -/
def execRegisterWrite (who : Who) (a : Nat) (v : Word) (size : Nat) (s : State) : Out :=
  .next (registerWrite who a v size s)

/-! ## JTAG (R504, R511) -/

/-- JTAG_ACCESS: a register read returns its value on the scan port; a level that does not allow the access gives
nothing. -/
def jtagAccess (op : JtagOp) (s : State) : State :=
  match op with
  | .read a => if mayAccess s .jtag a false then let r := readReg s .jtag a 8; emit r.1 (.jtag r.2.1) else s
  | .write a v => if mayAccess s .jtag a true then (writeReg s .jtag a v 8).1 else s
  | .halt on => if debugLevel s ≥ 2 then setStw s (fun t => { t with halted := on }) else s

/-- JTAG_ACCESS (R511). -/
def execJtagAccess (op : JtagOp) (s : State) : Out := .next (jtagAccess op s)

end Sys2Proof.Machine
end

