-- ==== Sys2Proof/Machine/System.lean ====
section
/-! DEFINITION. The system instructions: csrr, csrw, rdtime, swath (R48, R398). -/

namespace Sys2Proof.Machine

/-- Only D is used: rdtime, swath (R548). -/
def resD (w : BitVec 32) : Bool := decide (bits w 18 4 = 0)

/-- The offset that csrr and csrw form: (s[A] + 8 * IMM10) mod 0x1_0000, with s[A][2:0] ignored. -/
def csrOffset (w : BitVec 32) (a : Word) : Nat := (a + 8#64 * fImm10s w).toNat % 0x10000 / 8 * 8

/-- csrr: the register of the own window; its rc fields clear (R516). -/
def csrrEffect (w : BitVec 32) (th : Thread) (s : State) (c t : Nat) : Done :=
  let a := rdS th (fA w)
  if a.poi then poisoned s
  else
    let r := coreRead s c (csrOffset w a.val) true
    doneS r.1 c t (fD w) ⟨r.2, false⟩

/-- csrr (R48). -/
def execCsrr (c t : Nat) (f : Fetch) (s : State) : Out :=
  .next (issue 0xD0 .bit0 resNone csrrEffect c t f s)

/-- csrw: CORE_TQ_LIMIT or CORE_STALL_CLR; any other offset is a bad csr. A poisoned s[D] is a use (R25).
(DEDUCED: assumption 31) -/
def csrwEffect (w : BitVec 32) (th : Thread) (s : State) (c _ : Nat) : Done :=
  let a := rdS th (fA w)
  let d := rdS th (fD w)
  let o := csrOffset w a.val
  if a.poi then poisoned s
  else if o ≠ oTqLimit ∧ o ≠ oStallClr then .fault s BADCSR 0
  else if d.poi then poisoned s
  else .next (coreWrite s c o d.val)

/-- csrw (R48). -/
def execCsrw (c t : Nat) (f : Fetch) (s : State) : Out :=
  .next (issue 0xD1 .bit0 resNone csrwEffect c t f s)

/-- rdtime: the copy of device time of the core's field (R398). -/
def rdtimeEffect (w : BitVec 32) (_ : Thread) (s : State) (c t : Nat) : Done :=
  doneS s c t (fD w) ⟨BitVec.ofNat 64 (fget zeroNat s.copies (fieldOf (physOf s (plotOf c)))), false⟩

/-- rdtime (R398). -/
def execRdtime (c t : Nat) (f : Fetch) (s : State) : Out :=
  .next (issue 0xD2 .bit0 resD rdtimeEffect c t f s)

/-- swath: the current swath number. -/
def swathEffect (w : BitVec 32) (_ : Thread) (s : State) (c t : Nat) : Done :=
  doneS s c t (fD w) ⟨BitVec.ofNat 64 s.swathNow, false⟩

/-- swath (R48). -/
def execSwath (c t : Nat) (f : Fetch) (s : State) : Out :=
  .next (issue 0xD3 .bit0 resD swathEffect c t f s)

end Sys2Proof.Machine
end

