-- ==== Sys2Proof/Machine/Packets.lean ====
section
/-! DEFINITION. Packets at their destination routers: requests of cores performed at scratchpads, registers and home
slices (R203, R258 to R264, R245, R283), and the packet types whose steps stand in other files, which leave the
device where they are for another one. -/

namespace Sys2Proof.Machine

/-- A packet of a type at its router: one for another device leaves through its yoke port, one for this device takes
its step. -/
def atRouter (typ id : Nat) (step : State → State) (s : State) : State :=
  match findPkt s id with
  | none => s
  | some p => if pType p ≠ typ then s else if isLocalDev s (pDstDev p) then step s else leaveDevice s p

/-! ## Requests -/

/-- Answer a request at the unit that performed it. -/
def answerAt (s : State) (p q : Packet) : State :=
  match pDstKind p with
  | 0 => injectAt s (plotOf (pDstId p)) q
  | 1 => injectEdge s (18 + pDstId p) q
  | 2 => injectEdge s (pDstId p) q
  | _ => injectAt s (pDstId p) q

/-- Perform a request on scratchpad words of core c: the state, the words it returns (R258, R260, R264).
(DEDUCED: assumption 47) -/
def spdPerform (s : State) (c : Nat) (p : Packet) : State × List PWord :=
  let w := adOff p.w2 / 8 % 32768
  let n := pReqWords p
  let t := pType p
  if t = tLOAD then spdReadWords s c w n
  else if t = tSTORE then (spdWriteWords s c w (p.body.take n), [])
  else if t = tADD then
    let r := spdReadWords s c w n
    (spdWriteWords r.1 c w (List.zipWith (taddPW (bits p.w3 19 16)) r.2 p.body), [])
  else
    let r := spdReadWords s c w 1
    let new := r.2.map (fun m => atomPW (t - tSWAP) m p.body)
    (if t = tCAS ∧ new = r.2 then r.1 else spdWriteWords r.1 c w new, r.2)

/-- A partition or function reset of the core's function is under way: its scratchpads answer "denied" (R466).
(DEDUCED: assumption 47) -/
def spdDenied (s : State) (c : Nat) : Bool :=
  match fnOfCore s c with
  | some n => (getFun s n).resets.contains (plotOf c)
  | none => false

/-- A packet from outside a primary core's half reaches its twin as well (R451).
(DEDUCED: assumption 47) -/
def spdTwin (s : State) (c : Nat) (p : Packet) : State :=
  match pairRole s c with
  | some (false, tw) =>
    if isLocalDev s (pSrcDev p) && decide (pSrcCore p ≠ 0x7FFF) && decide (fnOfCore s (pSrcCore p) = fnOfCore s c)
    then s else (spdPerform s tw p).1
  | _ => s

/-- The answer to a request with a status and the words it returns: LOAD_DATA for a load that succeeded, else a
COMPLETION, which carries the old value of an atomic (R193). -/
def requestAnswer (s : State) (p : Packet) (status : Nat) (ws : List PWord) : Packet :=
  if pType p = tLOAD ∧ status = 0 then dataPacket s p ws else { statusPacket s p status with body := ws }

/-- A request at the scratchpad of core c. -/
def spdRequest (s : State) (c : Nat) (p : Packet) : State :=
  if spdDenied s c then answerAt s p (statusPacket s p stDENIED)
  else
    let r := spdPerform s c p
    let s := spdTwin r.1 c p
    answerAt s p (requestAnswer s p 0 r.2)

/-- Who a tier 11 request comes from. -/
def requester (p : Packet) : Who := if p.yk ≠ 0 then .remote else .core (pSrcCore p) (pCtx p) (pGen p)

/-- A request at a register: only a load or store of one word, whose data is not poisoned (R245). -/
def regRequest (s : State) (p : Packet) : State :=
  let a := adOff p.w2
  if pReqWords p ≠ 1 ∨ pType p > tSTORE ∨ p.body.any (fun w => w.poi) then
    answerAt s p (statusPacket s p stBADACCESS)
  else if pType p = tLOAD then
    let r := readReg s (requester p) a 8
    answerAt r.1 p (requestAnswer r.1 p r.2.2 (if r.2.2 = 0 then [plain r.2.1] else []))
  else
    let r := writeReg s (requester p) a (p.body.headD (plain 0#64)).val 8
    answerAt r.1 p (statusPacket r.1 p r.2)

/-- A request that has reached its destination router: it is performed, or accepted by its home slice. One for a
scratchpad that is being cleared waits (R363). -/
def requestStep (id : Nat) (s : State) : State :=
  match findPkt s id with
  | none => s
  | some p =>
    if !arrived s p ∨ (adTier p.w2 = 0 ∧ pDstKind p = 0 ∧ clearing s (pDstId p) = true) then s
    else
      let t := adTier p.w2
      if (t = 1 ∨ t = 2) ∧ pDstKind p = 1 then granaryAccept id [] s
      else
        let s := dropPkt s id
        if t = 0 ∧ pDstKind p = 0 then spdRequest s (pDstId p) p
        else if t = 3 then regRequest s p
        else answerAt s p (statusPacket s p stUNMAPPED)

/-- LOAD (R258). -/
def execLoad (id : Nat) (s : State) : Out := .next (atRouter tLOAD id (requestStep id) s)

/-- STORE (R258). -/
def execStore (id : Nat) (s : State) : Out := .next (atRouter tSTORE id (requestStep id) s)

/-- ADD (R259, R264). -/
def execAddPacket (id : Nat) (s : State) : Out := .next (atRouter tADD id (requestStep id) s)

/-- SWAP (R264). -/
def execSwap (id : Nat) (s : State) : Out := .next (atRouter tSWAP id (requestStep id) s)

/-- FETCH_ADD (R264). -/
def execFetchAdd (id : Nat) (s : State) : Out := .next (atRouter tFADD id (requestStep id) s)

/-- CAS (R264). -/
def execCas (id : Nat) (s : State) : Out := .next (atRouter tCAS id (requestStep id) s)

/-! ## The other types -/

/-- MESSAGE (R210, R212). -/
def execMessage (id : Nat) (s : State) : Out := .next (atRouter tMESSAGE id (messageStep id) s)

/-- ORDER_END (R211). -/
def execOrderEnd (id : Nat) (s : State) : Out := .next (atRouter tORDEREND id (orderEndStep id) s)

/-- MSG_ACK (R216). -/
def execMsgAck (id : Nat) (s : State) : Out := .next (atRouter tMSGACK id (msgAckStep id) s)

/-- BOUNCE (R218). -/
def execBounce (id : Nat) (s : State) : Out := .next (atRouter tBOUNCE id (bounceStep id) s)

/-- LOAD_DATA: data of a scratchpad or control-tier load reaches the requesting core (R66). -/
def execLoadData (id : Nat) (s : State) : Out := .next (atRouter tLOADDATA id (responseStep id tLOADDATA) s)

/-- COMPLETION (R66); the COMPLETION of an ORDER_END lets a new burst start (R211). -/
def execCompletion (id : Nat) (s : State) : Out := .next (atRouter tCOMPLETION id (responseStep id tCOMPLETION) s)

/-- SHEAF_PACKET (R221). -/
def execSheafPacket (id : Nat) (s : State) : Out := .next (atRouter tSHEAF id (sheafPacketStep id) s)

/-- SHEAF_DONE (R223, R224). -/
def execSheafDone (id : Nat) (s : State) : Out := .next (atRouter tSHEAFDONE id (sheafDoneStep id) s)

end Sys2Proof.Machine
end

