-- ==== Sys2Proof/Machine/HostOps.lean ====
section
/-! DEFINITION. What the host asks for: KHT operations in PSN order (R323, R324, R326, R327, R330, R331) and the RoCEv2
subset (R328, R329), with the host windows (R317) and locked pages (R360) they pass. -/

namespace Sys2Proof.Machine

/-! ## Access to memory by the host port (R317, R342, R360) -/

def kPOISONED : Nat := 6
def kDISABLED : Nat := 7
def kBADREQUEST : Nat := 9

/-- Host window w of function n covers bytes [o, o + len) of a tier with a right: 60 RD, 59 WR. -/
def hwCovers (s : State) (n w tier o len right : Nat) : Bool :=
  let b := csrGet s (aFn n (fnHwBase w))
  bit b 63 && decide (bits b 62 61 = tier) && bit b right && decide (baseOf b ≤ o)
    && decide (o + len ≤ baseOf (csrGet s (aFn n (fnHwLimit w))) + 4096)

/-- What stops a host access to tier 00, 01 or 10 as a whole; `w` is the window an rkey names. Host WRITEs are refused
from the disable on, READs in the resetting state (R342, R343). -/
def hostStatus (s : State) (n : Nat) (w : Option Nat) (a : Word) (len : Nat) (write : Bool) : Nat :=
  let right := if write then 59 else 60
  let l := match w with
    | some w => [w]
    | none => List.range 8
  if fnState s n ≠ 1 ∧ (write ∨ fnState s n ≠ 2) then kDISABLED
  else if !isLocalDev s (adDev a) || decide (adTier a = 3)
      || !l.any (fun w => hwCovers s n w (adTier a) (adOff a) len right) then 1
  else if write && decide (adTier a = 1) && pagesLocked s (fun _ => true) (adOff a) len then 1
  else 0

/-- What stops the access to one word: unmapped, a scratchpad that answers "denied" or has no power, memory that
cannot be reached. -/
def wordStatus (s : State) (a : Word) : Nat :=
  match localTarget s a with
  | .unmapped => 2
  | .core c => if spdDenied s c then 1 else if !domainOn s (quadOfPlot s (plotOf c)) || underTest s (quadOfPlot s (plotOf c)) then 5 else 0
  | _ => if adTier a = 2 && !cxlUp s (adOff a) then 5 else 0

/-- The address of the aligned word that holds a byte, and how many words bytes [a, a + len) touch. -/
def wordBase (a : Word) : Word := a - BitVec.ofNat 64 (a.toNat % 8)
def wordCount (a : Word) (len : Nat) : Nat := (a.toNat % 8 + len + 7) / 8

/-- The first status of the words of a range that is not ok.
(DEDUCED: assumption 44) -/
def rangeStatus (s : State) (a : Word) (len : Nat) : Nat :=
  (((List.range (wordCount a len)).map (fun i => wordStatus s (wordBase a + BitVec.ofNat 64 (8 * i)))).find?
    (fun x => decide (x ≠ 0))).getD 0

/-- Core and word of a tier 00 offset. -/
def spdPlace (o : Nat) : Nat × Nat := (o / 262144 % 32768, o % 262144 / 8)

/-- Words of a range, with their poison. -/
def hostWords (s : State) (a : Word) (n : Nat) : State × List PWord :=
  if adTier a = 0 then
    (List.range n).foldl (fun (x : State × List PWord) i =>
      let r := spdRead x.1 (spdPlace (adOff a + 8 * i)).1 (spdPlace (adOff a + 8 * i)).2
      (r.1, x.2 ++ [r.2])) (s, [])
  else memReadWords s a n

/-- Words of bytes, the last one filled with zeros. -/
def packWords : Nat → List Byte → List Word
  | 0, _ => []
  | f + 1, l => if l.isEmpty then [] else BitVec.ofNat 64 (bytesToNat (l.take 8)) :: packWords f (l.drop 8)

/-- The bytes [a, a + len) as words for a packet, and whether any of them is poisoned. -/
def hostRead (s : State) (a : Word) (len : Nat) : State × List Word × Bool :=
  let r := hostWords s (wordBase a) (wordCount a len)
  let l := ((byteMarks r.2).drop (a.toNat % 8)).take len
  (r.1, packWords (len + 1) (l.map (·.1)), l.any (·.2))

/-- Write one byte of a scratchpad, and of its twin (R451). -/
def hostSpdByte (s : State) (o : Nat) (b : Byte) : State :=
  let c := o / 262144 % 32768
  let v : PWord := plain (BitVec.ofNat 64 b.toNat)
  let s := spdWriteIn s c (o % 262144) 1 v
  match pairRole s c with
  | some (false, tw) => spdWriteIn s tw (o % 262144) 1 v
  | _ => s

/-- Write one word of a scratchpad, and of its twin (R451). -/
def hostSpdWord (s : State) (o : Nat) (v : Word) : State :=
  let c := o / 262144 % 32768
  let s := spdWrite s c (o % 262144 / 8) (BitVec.allOnes 64) (plain v)
  match pairRole s c with
  | some (false, tw) => spdWrite s tw (o % 262144 / 8) (BitVec.allOnes 64) (plain v)
  | _ => s

/-- Write bytes of tier 00, 01 or 10. -/
def hostWriteBytes (s : State) (a : Word) (bs : List Byte) : State :=
  if adTier a = 0 then
    if a.toNat % 8 = 0 ∧ bs.length % 8 = 0 then
      (packWords bs.length bs).zipIdx.foldl (fun s x => hostSpdWord s (adOff a + 8 * x.2) x.1) s
    else bs.zipIdx.foldl (fun s x => hostSpdByte s (adOff a + x.2) x.1) s
  else memWriteBytes s a bs

/-- The bytes of the words of a packet. -/
def dataBytes (l : List Word) : List Byte := l.flatMap (fun w => natToBytes w.toNat 8)

/-- A write that is no whole entry: it counts at every ring it touches (R330). -/
def coverPart (s : State) (n off len : Nat) : State :=
  (List.range 8).foldl (fun s r =>
    let b := ringBaseOff s n r
    if !cringEn s n r || decide (off ≥ b + 256 * ringSize s n r) || decide (off + len ≤ b) then s
    else countFn s n 39 28) s

/-- Perform a permitted write. In HBM it may land a command entry; `whole`: it is a whole message (R330).
(DEDUCED: assumption 47) -/
def hostStore (s : State) (n : Nat) (a : Word) (bs : List Byte) (tc : Option Nat) (whole : Bool) : State :=
  let s := hostWriteBytes s a bs
  if adTier a ≠ 1 then s
  else if whole && decide (a.toNat % 8 = 0) && decide (bs.length % 8 = 0) then
    coverWrite s n (adOff a) (packWords bs.length bs) tc
  else coverPart s n (adOff a) bs.length

/-- COMMAND_LAND: a permitted write of a whole entry at index i of ring r of function n, on a KHT TC or not (R317, R330,
R342, R360). -/
def commandLand (n r i : Nat) (entry : List Word) (tc : Option Nat) (s : State) : State :=
  let off := ringBaseOff s n r + 256 * i
  if n ≥ 64 ∨ r ≥ 8 ∨ entry.length ≠ 32 ∨ hostStatus s n none (hbmAddr off) 256 true ≠ 0 then s
  else coverWrite (memWriteWords s (hbmAddr off) (entry.map plain)) n off entry tc

/-- COMMAND_LAND (R330). -/
def execCommandLand (n r i : Nat) (entry : List Word) (tc : Option Nat) (s : State) : Out :=
  .next (commandLand n r i entry tc s)

/-- Bytes [a, a + len) touch a scratchpad that is being cleared (R363). -/
def padBusy (s : State) (a : Word) (len : Nat) : Bool :=
  decide (adTier a = 0) && isLocalDev s (adDev a)
    && (List.range (len / 262144 + 2)).any (fun i =>
      let c := adOff a / 262144 + i
      decide (262144 * c < adOff a + len) && clearing s (c % 32768))

/-! ## KHT operations -/

/-- Change an open transport context. -/
def modTc (s : State) (n t : Nat) (g : Tc → Tc) : State :=
  match findTc s n t with
  | some v => putTc s (g v)
  | none => s

/-- A WRITE: the state and its status. A register takes exactly 8 bytes (R317).
(DEDUCED: assumption 44) -/
def khtStore (s : State) (n t : Nat) (a : Word) (data : List Word) : State × Nat :=
  let len := 8 * data.length
  if len = 0 ∨ len > payLimit s then (s, kBADREQUEST)
  else if fnState s n ≠ 1 then (s, kDISABLED)
  else if adTier a = 3 then
    if !isLocalDev s (adDev a) then (s, 1) else writeReg s (.host n) (adOff a) (data.headD 0#64) len
  else
    let st := hostStatus s n none a len true
    let st := if st = 0 then rangeStatus s a len else st
    if st ≠ 0 then (s, st) else (hostStore s n a (dataBytes data) (some t) true, 0)

/-- Count a READ refused for poison.
(DEDUCED: assumption 44) -/
def poisonOut (s : State) : State := satCsrFld s aHostPortStat 31 16 1

/-- A poisoned READ within a result slot fails the context recorded in the slot's header (R327).
(DEDUCED: assumption 44) -/
def poisonSlot (s : State) (n : Nat) (a : Word) (len : Nat) : State :=
  let base := baseOf (csrGet s (aFn n fnSlotBase))
  let i := (adOff a - base) / slotSize s n
  if adTier a = 1 && decide (base ≤ adOff a) && decide (i < slotCount s n)
      && decide (adOff a + len ≤ base + (i + 1) * slotSize s n) then
    let r := memReadWords s (slotAddr s n i + 24#64) 1
    let w := (r.2.headD noWord).val
    if bits w 63 56 = ctxId s n ∧ bits w 55 48 = ctxGen s n then startRecovery r.1 n 6 else r.1
  else s

/-- The READ_RESP packets of a range, at most the payload limit each; the first failure ends them (R326, R327).
(DEDUCED: assumption 44) -/
def readChunks : Nat → State → Word → Nat → State × List TxPkt × Bool
  | 0, s, _, _ => (s, [], false)
  | f + 1, s, a, left =>
    if left = 0 then (s, [], false)
    else
      let n := min (payLimit s) left
      let st := rangeStatus s a n
      if st ≠ 0 then (s, [txPkt opREADRESP a st []], false)
      else
        let r := hostRead s a n
        if r.2.2 then (r.1, [txPkt opREADRESP a kPOISONED []], true)
        else
          let q := readChunks f r.1 (a + BitVec.ofNat 64 n) (left - n)
          (q.1, txPkt opREADRESP a 0 r.2.1 :: q.2.1, q.2.2)

/-- The answers to a READ.
(DEDUCED: assumption 44) -/
def khtLoad (s : State) (n : Nat) (a : Word) (len : Nat) : State × List TxPkt :=
  let one := fun (st : Nat) => [txPkt opREADRESP a st []]
  if adTier a = 3 then
    if fnState s n ≠ 1 ∧ fnState s n ≠ 2 then (s, one kDISABLED)
    else if !isLocalDev s (adDev a) then (s, one 1)
    else
      let r := readReg s (.host n) (adOff a) len
      (r.1, if r.2.2 = 0 then [txPkt opREADRESP a 0 [r.2.1]] else one r.2.2)
  else if len < 8 ∨ len > 2 ^ 20 then (s, one kBADREQUEST)
  else
    let st := hostStatus s n none a len false
    if st ≠ 0 then (s, one st)
    else
      let r := readChunks (len + 1) s a len
      (if r.2.2 then poisonSlot (poisonOut r.1) n a len else r.1, r.2.1)

/-- Queue the READ_RESP packets of a READ, and remember the PSN of the last. -/
def sendRead (s : State) (n t : Nat) (l : List TxPkt) : State :=
  match findTc s n t with
  | none => s
  | some v =>
    let last := (v.txNext + v.txq.length + l.length - 1) % psnMod
    let r := queueTx s { v with reads := v.reads ++ [last] } l
    putTc r.1 r.2

/-- Perform an ordered operation: the state, and the address and status of an ACK that it asks for. -/
def deliverOp (s : State) (n t : Nat) (h : KhtHdr) (data : List Word) : State × Option (Word × Nat) :=
  match h.op with
  | 6 =>
    let r := khtStore s n t h.addr data
    (r.1, if r.2 = 0 then none else some (h.addr, r.2))
  | 7 =>
    let r := khtLoad s n h.addr h.length
    (sendRead r.1 n t r.2, none)
  | 9 =>
    let ring := bits h.addr 2 0
    let r := if data.length ≠ 32 then (s, kBADREQUEST) else landEntry s n ring data (some t)
    (r.1, if r.2 = 0 then none else some (BitVec.ofNat 64 ring, r.2))
  | 3 => (modTc s n t (fun v => { v with closing := true }), none)
  | _ => (s, none)

/-- Send the ACK that a delivered packet calls for (R324, R331). -/
def ackAfter (s : State) (n t : Nat) (ar : Bool) (x : Option (Word × Nat)) : State :=
  match findTc s n t with
  | none => s
  | some v =>
    if v.state ≠ 0 then s
    else
      let go := fun (a : Word) (st : Nat) => (let r := tcAck s v a st; putTc r.1 r.2)
      match x with
      | some y => go y.1 y.2
      | none => if ar || decide (v.fresh ≥ 16) then go 0#64 0 else s

/-- The held packet with the PSN that is next, when it can be served: at most 16 READs are outstanding. -/
def nextHeld (v : Tc) : Option (HFrame × KhtHdr × List Word) :=
  v.held.findSome? (fun f => match readKht f.body with
    | some (h, data) =>
      if decide (h.psn = v.rxNext) && !(decide (h.op = 7) && decide (v.reads.length ≥ 16)) then some (f, h, data) else none
    | none => none)

/-- A WRITE or READ waits for the clear of a scratchpad that it touches (R363). -/
def opWaits (s : State) (h : KhtHdr) (data : List Word) : Bool :=
  (decide (h.op = 6) && padBusy s h.addr (8 * data.length)) || (decide (h.op = 7) && padBusy s h.addr h.length)

/-- Deliver in PSN order as far as packets have arrived (R324, R326). -/
def deliverHeld (n t : Nat) : Nat → State → State
  | 0, s => s
  | k + 1, s =>
    match findTc s n t with
    | none => s
    | some v =>
      if v.state ≠ 0 then s
      else match nextHeld v with
        | none => s
        | some x =>
          if opWaits s x.2.1 x.2.2 then s
          else
          let s := putTc s { v with
            held := v.held.filter (fun f => decide (f.id ≠ x.1.id))
            rxNext := (v.rxNext + 1) % psnMod
            fresh := v.fresh + 1
            freshAt := if v.fresh = 0 then s.now.toNat else v.freshAt }
          let r := deliverOp s n t x.2.1 x.2.2
          deliverHeld n t k (ackAfter r.1 n t x.2.1.ar r.2)

/-- Deliver what waits, then close if that is due. -/
def serveHeld (s : State) (n t : Nat) : State :=
  match findTc s n t with
  | some v => tryClose (deliverHeld n t v.held.length s) n t
  | none => s

/-- SEED_CLEAR_COMPLETE: what waited for the clear on a TC goes on (R363). -/
def execSeedClearComplete (c : Nat) (s : State) : Out :=
  .next ((seedClearComplete c s).tcs.foldl (fun s v => serveHeld s v.fn v.num) (seedClearComplete c s))

/-- An ordered packet arrives on its TC: one below the window is acknowledged again, one beyond it is discarded, one
after a gap is held and acknowledged at once (R324). -/
def orderedIn (s : State) (v : Tc) (f : HFrame) (h : KhtHdr) : State :=
  let d := psnDist v.rxNext h.psn
  let again := let r := tcAck s v 0#64 0; putTc r.1 r.2
  if d ≥ psnMod / 2 ∨ heldPsn v h.psn then serveHeld again v.fn v.num
  else if d ≥ khtWindow s then s
  else
    let v := { v with held := v.held ++ [f] }
    if d ≠ 0 then
      let r := tcAck s v 0#64 0
      putTc r.1 r.2
    else serveHeld (putTc s v) v.fn v.num

/-- CLOSE (R323). -/
def execClose (id : Nat) (miss : Bool) (s : State) : Out := .next (onTc s id opCLOSE miss orderedIn)

/-- KHT_WRITE (R326). -/
def execKhtWrite (id : Nat) (miss : Bool) (s : State) : Out := .next (onTc s id 6 miss orderedIn)

/-- KHT_READ (R326). -/
def execKhtRead (id : Nat) (miss : Bool) (s : State) : Out := .next (onTc s id 7 miss orderedIn)

/-- SUBMIT (R330). -/
def execSubmit (id : Nat) (miss : Bool) (s : State) : Out := .next (onTc s id 9 miss orderedIn)

/-- KHT_ACK: the acknowledgement, then whatever waited for it (R325, R326). -/
def execKhtAck (id : Nat) (miss : Bool) (s : State) : Out :=
  .next (onTc s id opACK miss (fun s v _ _ => serveHeld s v.fn v.num))

/-! ## RoCEv2 (R328, R329) -/

/-- A packet that answers on a queue pair.
(PRESUMED: assumption 45) -/
def roceOut (s : State) (v : Tc) (op : RoceOp) (psn : Nat) (data : List Word) : State :=
  let q : Roce :=
    { op := op, qpn := v.hostQpn, psn := psn, ackReq := false, icrcOk := true, va := 0#64, rkey := 0, len := 0, data := data }
  sendHost s v.fn (.roce v.fn v.num q)

def nakINVALID : Nat := 1
def nakACCESS : Nat := 2
def nakOPERATIONAL : Nat := 3

/-- A NAK that puts the queue pair into the error state.
(PRESUMED: assumption 45) -/
def roceFail (s : State) (v : Tc) (code psn : Nat) : State :=
  putTc (roceOut s v (.nak code) psn []) { v with state := 2, partWords := [] }

/-- Path MTU of a queue pair in bytes (R322). -/
def pmtuBytes (v : Tc) : Nat := 1024 * 2 ^ v.pmtu

/-- On a packet treated as CE a CNP goes out, one every 50 µs at most (R329).
(PRESUMED: assumption 45) -/
def roceMark (s : State) (v : Tc) (f : HFrame) : State × Tc :=
  let due := match v.cnpAt with
    | some t => decide (s.now.toNat ≥ t + 50000)
    | none => true
  if f.ce && due then (roceOut s v .cnp 0 [], { v with cnpAt := some s.now.toNat }) else (s, v)

/-- The access of an RDMA packet waits for the clear of a scratchpad, and the packet with it (R363). -/
def qpWaits (s : State) (f : HFrame) (r : Roce) : Bool :=
  match findTc s f.fn (r.qpn % 1024), r.op with
  | some v, .write first _ => padBusy s (if first then r.va else v.partAddr) (8 * r.data.length)
  | some _, .readReq => padBusy s r.va r.len
  | _, _ => false

/-- A RoCEv2 packet is served on its queue pair, unless that pair does not exist or is in error; a READ for a function
in the resetting state is refused (R343).
(DEDUCED: assumption 45) -/
def onQp (s : State) (id : Nat) (sel : RoceOp → Bool) (miss : Bool) (go : State → Tc → Roce → State) : State :=
  match findFrame s id with
  | none => s
  | some f =>
    match f.body with
    | .roce r =>
      if !sel r.op || qpWaits s f r then s
      else
        let s := takeFrame s f
        match findTc s f.fn (r.qpn % 1024) with
        | none => s
        | some v =>
          if !v.qp ∨ r.qpn ≠ 0x010000 + 1024 * f.fn + v.num then s
          else if v.state ≠ 0 then
            (if r.op = .readReq ∧ fnState s f.fn = 3 then roceOut s v (.nak 3) r.psn [] else s)
          else
            let s := serve s v.engine miss
            let m := roceMark s v f
            go (putTc m.1 m.2) m.2 r
    | _ => s

/-- A request in PSN order goes on; one ahead receives NAK "PSN sequence error"; a duplicate is acknowledged again.
(PRESUMED: assumption 45) -/
def inOrder (s : State) (v : Tc) (r : Roce) (go : State → State) : State :=
  let d := psnDist v.rxNext r.psn
  if d = 0 then go s
  else if d ≥ psnMod / 2 then roceOut s v .ack ((v.rxNext + psnMod - 1) % psnMod) []
  else roceOut s v (.nak 0) v.rxNext []

/-- Acknowledge a packet that asks for it. -/
def roceAck (s : State) (v : Tc) (r : Roce) : State := if r.ackReq then roceOut s v .ack r.psn [] else s

/-- What landing a SEND gives: the entry landed, ring full, or refused. -/
def sendLanded (s : State) (v : Tc) (r : Roce) (entry : List Word) : State :=
  let x := landEntry s v.fn v.ring entry none
  if x.2 = 0 then
    let v := { v with rxNext := (r.psn + 1) % psnMod, partWords := [] }
    roceAck (putTc x.1 v) v r
  else if x.2 = 8 then
    let v := { v with rxNext := v.partPsn, partWords := [] }
    roceOut (putTc x.1 v) v (.rnr 10) v.partPsn []
  else roceFail x.1 v (if x.2 = kDISABLED then nakOPERATIONAL else nakINVALID) r.psn

/-- A SEND packet: its message is assembled, and lands when it is exactly 256 B. Any other operation code is an invalid
request.
(PRESUMED: assumption 45) -/
def roceSendIn (s : State) (v : Tc) (r : Roce) : State :=
  match r.op with
  | .send first last =>
    inOrder s v r (fun s =>
      let v := if first then { v with partWords := [], partPsn := r.psn } else v
      let ws := v.partWords ++ r.data
      if ws.length > 32 ∨ (last ∧ ws.length ≠ 32) then roceFail s v nakINVALID r.psn
      else if last then sendLanded s v r ws
      else
        let v := { v with rxNext := (r.psn + 1) % psnMod, partWords := ws }
        roceAck (putTc s v) v r)
  | _ => roceFail s v nakINVALID r.psn

def isSendOp : RoceOp → Bool
  | .send _ _ => true
  | .unsupported => true
  | .readResp => true
  | _ => false

/-- ROCE_SEND (R328). -/
def execRoceSend (id : Nat) (miss : Bool) (s : State) : Out := .next (onQp s id isSendOp miss roceSendIn)

/-- The host window that an rkey names (R329). -/
def rkeyWindow (s : State) (n rkey : Nat) : Option Nat :=
  let w := rkey / 2 ^ 24 % 8
  if rkey / 2 ^ 12 % 4096 = 0 ∧ rkey / 2 ^ 27 = 0 ∧ bits (csrGet s (aFn n (fnHwBase w))) 57 46 = rkey % 4096 then some w
  else none

/-- The NAK code that stops an access under an rkey; none when it passes. -/
def rdmaStops (s : State) (n rkey : Nat) (a : Word) (len : Nat) (write : Bool) : Option Nat :=
  match rkeyWindow s n rkey with
  | none => some nakACCESS
  | some w =>
    let st := hostStatus s n (some w) a len write
    let st := if st = 0 then rangeStatus s a len else st
    if st = 0 then none else if st = 1 ∨ st = 2 then some nakACCESS else some nakOPERATIONAL

/-- An RDMA WRITE packet: the first names the address, the rkey and the length of its message.
(PRESUMED: assumption 45) -/
def rdmaWriteIn (s : State) (v : Tc) (r : Roce) : State :=
  match r.op with
  | .write first last =>
    inOrder s v r (fun s =>
      let v := if first then { v with partAddr := r.va, partRkey := r.rkey, partLeft := r.len } else v
      let n := min (8 * r.data.length) (if last then v.partLeft else pmtuBytes v)
      if n > v.partLeft ∨ (last ∧ n ≠ v.partLeft) then roceFail s v nakINVALID r.psn
      else match (if n = 0 then none else rdmaStops s v.fn v.partRkey v.partAddr n true) with
        | some code => roceFail s v code r.psn
        | none =>
          let s := if n = 0 then s
            else hostStore s v.fn v.partAddr ((dataBytes r.data).take n) none (first && last)
          let v := { v with
            rxNext := (r.psn + 1) % psnMod
            partAddr := v.partAddr + BitVec.ofNat 64 n
            partLeft := v.partLeft - n }
          roceAck (putTc s v) v r)
  | _ => s

def isWriteOp : RoceOp → Bool
  | .write _ _ => true
  | _ => false

/-- RDMA_WRITE (R329). -/
def execRdmaWrite (id : Nat) (miss : Bool) (s : State) : Out := .next (onQp s id isWriteOp miss rdmaWriteIn)

/-- The read responses of a range, a path MTU each, from a PSN on; poison ends them with a NAK (R327, R329). -/
def roceChunks (v : Tc) : Nat → State → Word → Nat → Nat → State × Bool
  | 0, s, _, _, _ => (s, false)
  | f + 1, s, a, left, psn =>
    let n := min (pmtuBytes v) left
    let r := hostRead s a n
    if r.2.2 then (r.1, true)
    else
      let s := roceOut r.1 v .readResp psn r.2.1
      if left ≤ n then (s, false) else roceChunks v f s (a + BitVec.ofNat 64 n) (left - n) ((psn + 1) % psnMod)

/-- An RDMA READ request: a repeated one is served again.
(PRESUMED: assumption 45) -/
def rdmaReadIn (s : State) (v : Tc) (r : Roce) : State :=
  let d := psnDist v.rxNext r.psn
  if d ≠ 0 ∧ d < psnMod / 2 then roceOut s v (.nak 0) v.rxNext []
  else match (if r.len = 0 then none else rdmaStops s v.fn r.rkey r.va r.len false) with
    | some code => roceFail s v code r.psn
    | none =>
      let count := max 1 ((r.len + pmtuBytes v - 1) / pmtuBytes v)
      let x := roceChunks v count s r.va r.len r.psn
      if x.2 then roceFail (poisonSlot (poisonOut x.1) v.fn r.va r.len) v nakOPERATIONAL r.psn
      else if d = 0 then putTc x.1 { v with rxNext := (v.rxNext + count) % psnMod } else x.1

def isReadOp : RoceOp → Bool
  | .readReq => true
  | _ => false

/-- RDMA_READ_REQUEST (R329). -/
def execRdmaReadRequest (id : Nat) (miss : Bool) (s : State) : Out := .next (onQp s id isReadOp miss rdmaReadIn)

def isAckOp : RoceOp → Bool
  | .ack => true
  | .nak _ => true
  | .rnr _ => true
  | .cnp => true
  | _ => false

/-- ROCE_ACK: the device is a responder only and keeps no request of its own, so an ACK, a NAK or a CNP changes nothing
but the engine's counts (R328). -/
def execRoceAck (id : Nat) (miss : Bool) (s : State) : Out := .next (onQp s id isAckOp miss (fun s _ _ => s))

end Sys2Proof.Machine
end

