-- ==== Sys2Proof/Machine/Scalar.lean ====
section
/-! DEFINITION. Scalar instructions: register-register and immediate arithmetic, li, lsi, ld, st (R48). -/

namespace Sys2Proof.Machine

/-- s[D] gets a function of s[A] and s[B]; a poisoned operand faults (R25). -/
def aluRR (fn : Word → Word → Word) (w : BitVec 32) (th : Thread) (s : State) (c t : Nat) : Done :=
  let a := rdS th (fA w)
  let b := rdS th (fB w)
  if a.poi || b.poi then poisoned s else doneS s c t (fD w) ⟨fn a.val b.val, false⟩

/-- s[D] gets a function of s[A] and the sign-extended IMM10. -/
def aluRI (fn : Word → Word → Word) (w : BitVec 32) (th : Thread) (s : State) (c t : Nat) : Done :=
  let a := rdS th (fA w)
  if a.poi then poisoned s else doneS s c t (fD w) ⟨fn a.val (fImm10s w), false⟩

/-- The unsigned high 64 bits of a product (mulhu). -/
def mulHigh (a b : Word) : Word := BitVec.ofNat 64 ((a.toNat * b.toNat) >>> 64)

/-- Shifts take their count from bits [5:0] of the second operand (R48). -/
def shlW (a b : Word) : Word := a <<< (b.toNat % 64)
def shrW (a b : Word) : Word := a >>> (b.toNat % 64)
def sarW (a b : Word) : Word := a.sshiftRight (b.toNat % 64)

/-- Signed minimum and maximum. -/
def minS (a b : Word) : Word := if b.slt a then b else a
def maxS (a b : Word) : Word := if a.slt b then b else a

/-- add (R48): s[D] gets s[A] plus s[B]. -/
def execAdd (c t : Nat) (f : Fetch) (s : State) : Out :=
  .next (issue 0x10 .bit0 resRRDAB (aluRR (· + ·)) c t f s)

/-- sub (R48): s[D] gets s[A] minus s[B]. -/
def execSub (c t : Nat) (f : Fetch) (s : State) : Out :=
  .next (issue 0x11 .bit0 resRRDAB (aluRR (· - ·)) c t f s)

/-- mul (R48): s[D] gets the low 64 bits of the product. -/
def execMul (c t : Nat) (f : Fetch) (s : State) : Out :=
  .next (issue 0x12 .bit0 resRRDAB (aluRR (· * ·)) c t f s)

/-- mulhu (R48): s[D] gets the unsigned high 64 bits of the product. -/
def execMulhu (c t : Nat) (f : Fetch) (s : State) : Out :=
  .next (issue 0x13 .bit0 resRRDAB (aluRR mulHigh) c t f s)

/-- and (R48): s[D] gets s[A] and s[B]. -/
def execAnd (c t : Nat) (f : Fetch) (s : State) : Out :=
  .next (issue 0x14 .bit0 resRRDAB (aluRR (· &&& ·)) c t f s)

/-- or (R48): s[D] gets s[A] or s[B]. -/
def execOr (c t : Nat) (f : Fetch) (s : State) : Out :=
  .next (issue 0x15 .bit0 resRRDAB (aluRR (· ||| ·)) c t f s)

/-- xor (R48): s[D] gets s[A] exclusive-or s[B]. -/
def execXor (c t : Nat) (f : Fetch) (s : State) : Out :=
  .next (issue 0x16 .bit0 resRRDAB (aluRR (· ^^^ ·)) c t f s)

/-- shl (R48): s[D] gets s[A] shifted left by s[B][5:0]. -/
def execShl (c t : Nat) (f : Fetch) (s : State) : Out :=
  .next (issue 0x17 .bit0 resRRDAB (aluRR shlW) c t f s)

/-- shr (R48): s[D] gets s[A] shifted right logically by s[B][5:0]. -/
def execShr (c t : Nat) (f : Fetch) (s : State) : Out :=
  .next (issue 0x18 .bit0 resRRDAB (aluRR shrW) c t f s)

/-- sar (R48): s[D] gets s[A] shifted right arithmetically by s[B][5:0]. -/
def execSar (c t : Nat) (f : Fetch) (s : State) : Out :=
  .next (issue 0x19 .bit0 resRRDAB (aluRR sarW) c t f s)

/-- min (R48): s[D] gets the signed minimum. -/
def execMin (c t : Nat) (f : Fetch) (s : State) : Out :=
  .next (issue 0x1A .bit0 resRRDAB (aluRR minS) c t f s)

/-- max (R48): s[D] gets the signed maximum. -/
def execMax (c t : Nat) (f : Fetch) (s : State) : Out :=
  .next (issue 0x1B .bit0 resRRDAB (aluRR maxS) c t f s)

/-- addi (R48): s[D] gets s[A] plus IMM10. -/
def execAddi (c t : Nat) (f : Fetch) (s : State) : Out :=
  .next (issue 0x20 .bit0 resNone (aluRI (· + ·)) c t f s)

/-- andi (R48): s[D] gets s[A] and IMM10. -/
def execAndi (c t : Nat) (f : Fetch) (s : State) : Out :=
  .next (issue 0x21 .bit0 resNone (aluRI (· &&& ·)) c t f s)

/-- ori (R48): s[D] gets s[A] or IMM10. -/
def execOri (c t : Nat) (f : Fetch) (s : State) : Out :=
  .next (issue 0x22 .bit0 resNone (aluRI (· ||| ·)) c t f s)

/-- xori (R48): s[D] gets s[A] exclusive-or IMM10. -/
def execXori (c t : Nat) (f : Fetch) (s : State) : Out :=
  .next (issue 0x23 .bit0 resNone (aluRI (· ^^^ ·)) c t f s)

/-- shli (R48): s[D] gets s[A] shifted left by IMM10[5:0]. -/
def execShli (c t : Nat) (f : Fetch) (s : State) : Out :=
  .next (issue 0x24 .bit0 resShiftI (aluRI shlW) c t f s)

/-- shri (R48): s[D] gets s[A] shifted right logically by IMM10[5:0]. -/
def execShri (c t : Nat) (f : Fetch) (s : State) : Out :=
  .next (issue 0x25 .bit0 resShiftI (aluRI shrW) c t f s)

/-- sari (R48): s[D] gets s[A] shifted right arithmetically by IMM10[5:0]. -/
def execSari (c t : Nat) (f : Fetch) (s : State) : Out :=
  .next (issue 0x26 .bit0 resShiftI (aluRI sarW) c t f s)

/-- s[D] gets the sign-extended IMM15. -/
def liEffect (w : BitVec 32) (_ : Thread) (s : State) (c t : Nat) : Done :=
  doneS s c t (fD w) ⟨fImm15s w, false⟩

/-- li (R48). -/
def execLi (c t : Nat) (f : Fetch) (s : State) : Out :=
  .next (issue 0x27 .bit0 resNone liEffect c t f s)

/-- s[D] gets s[D] shifted left by 15, or IMM15[14:0]; s[D] is an arithmetic operand (R25). -/
def lsiEffect (w : BitVec 32) (th : Thread) (s : State) (c t : Nat) : Done :=
  let d := rdS th (fD w)
  if d.poi then poisoned s
  else doneS s c t (fD w) ⟨(d.val <<< 15) ||| BitVec.ofNat 64 (fImm15 w), false⟩

/-- lsi (R48). -/
def execLsi (c t : Nat) (f : Fetch) (s : State) : Out :=
  .next (issue 0x28 .bit0 resNone lsiEffect c t f s)

/-- The word address of ld and st: s[A] + 8 * IMM10 modulo 262,144, bits [2:0] ignored (R118).
(DEDUCED: assumption 14) -/
def ldstWord (w : BitVec 32) (a : Word) : Nat :=
  ((a + fImm10s w * 8#64).toNat % 262144) / 8

/-- s[D] gets a scratchpad word, poison and all (R24, R141); a poisoned address faults (R25). The instruction waits
under BANK while the thread port serves another access (R123). -/
def ldEffect (w : BitVec 32) (th : Thread) (s : State) (c t : Nat) : Done :=
  let a := rdS th (fA w)
  if !portReady s c then .stall s 4
  else if a.poi then poisoned s
  else
    let s := portServe s c 1
    let r := spdRead s c (ldstWord w a.val)
    doneS r.1 c t (fD w) r.2

/-- ld (R48, R118, R141). -/
def execLd (c t : Nat) (f : Fetch) (s : State) : Out :=
  .next (issue 0x30 .bit0 resNone ldEffect c t f s)

/-- A scratchpad word gets s[D], poison and all (R24, R142); a poisoned address faults (R25). It waits as ld does
(R123). -/
def stEffect (w : BitVec 32) (th : Thread) (s : State) (c _ : Nat) : Done :=
  let a := rdS th (fA w)
  if !portReady s c then .stall s 4
  else if a.poi then poisoned s
  else .next (spdWrite (portServe s c 1) c (ldstWord w a.val) (BitVec.allOnes 64) (rdS th (fD w)))

/-- st (R48, R118, R142). -/
def execSt (c t : Nat) (f : Fetch) (s : State) : Out :=
  .next (issue 0x31 .bit0 resNone stEffect c t f s)

end Sys2Proof.Machine
end

