-- ==== Sys2Proof/Machine/Sideband.lean ====
section
/-! DEFINITION. The management sideband requests of the tray controller that no other file holds: the team record, function
records, STATUS, the event log, retired pages, the dynamic address (R274, R302, R526, R537 to R540). -/

namespace Sys2Proof.Machine

/-! ## Team record (R273 to R275, R461 step 12, R539) -/

/-- A member of the founding team or, where MST_SHADOW names another device as partner, a shadow.
(DESIGN CHOICE: assumption 38) -/
def foundingShadow (s : State) : Bool :=
  bit (csrGet s aMstShadow) 63 && decide (csrFld s aMstShadow 47 32 ≠ ownCoord s)

/-- The membership table that a team record gives: every coordinate of the shape a member, a shadow at its own.
(DESIGN CHOICE: assumption 38) -/
def foundingTable (s : State) : FMap Nat :=
  (allCoords (teamShape s)).foldl (fun m c =>
    fset zeroNat m c (if c ≠ ownCoord s then 1 else if foundingShadow s then 3 else if mRole s = 5 then 2 else 1)) []

/-- The ports of a device with a team record: those that the wiring leaves unpaired report so.
(DESIGN CHOICE: assumption 38) -/
def pairPorts (s : State) : State :=
  (List.range 12).foldl (fun s p =>
    setPortState s p (if teamValid s && (wired (teamShape s) (ownCoord s) p).isNone then 3 else 0)) s

/-- D27 is powered when the module has reached step 12 of its start.
(DESIGN CHOICE: assumption 38) -/
def yokePower (s : State) : Bool :=
  teamValid s && (decide (csrFld s aStwBoot 63 61 = 1) || (match s.stw.start with
    | some x => decide (x.step > 12)
    | none => false))

/-- Membership, role, team table and ports after a write of MST_SHAPE. An isolated device stays isolated unless it
shadows (R294); a port that the ordering code lacks is no live link; who has shown skew or a mismatch stays barred
(R308).
(DESIGN CHOICE: assumption 38) -/
def joinTeam (s : State) : State :=
  let s := pairPorts (setOn s 27 (b2n (yokePower s)))
  if teamValid s then
    let role := if foundingShadow s then 1 else if mRole s = 5 then 5 else 2
    let s := { s with muster := { muster0 with
      table := foundingTable s
      linksDown := ((List.range 12).filter (fun p => !portPresent s.code p)).map (fun p => (ownCoord s, p))
      barred := s.muster.barred } }
    let s := setCsrFld s aMstState 63 28 role
    let s := updateRole s
    let s := { s with team0 := teamTable s, team1 := teamVer0 }
    syncYoke (setCsrFld s aYokeTepoch 63 61 1)
  else
    setCsrFld { s with muster := { muster0 with barred := s.muster.barred }, team0 := teamVer0, team1 := teamVer0 } aYokeTepoch 63 61 0
      |> fun s => csrSet (csrSet s aMstState 0#64) aMstCount 0#64

/-- TEAM_RECORD: busy while the device is in a team or shadows one. -/
def teamRecord (seq : Nat) (w : Word) (s : State) : State :=
  if !sbServed s then s
  else if 1 ≤ mRole s ∧ mRole s ≤ 4 then sbReply s 0x02 seq 3 []
  else sbReply (joinTeam (storeReg s aMstShape w)) 0x02 seq 0 []

/-- TEAM_RECORD (R274, R539). -/
def execTeamRecord (seq : Nat) (w : Word) (s : State) : Out := .next (teamRecord seq w s)

/-! ## Function records (R540) -/

/-- FUNCTION_RECORD: malformed bytes are answered 2; else the status of the record. -/
def functionRecord (seq : Nat) (b : List Byte) (s : State) : State :=
  if !sbServed s then s
  else match parseRecord b with
    | none => sbReply s 0x03 seq 2 []
    | some r =>
      let x := takeRecord s r
      sbReply x.1 0x03 seq x.2 []

/-- FUNCTION_RECORD (R540). -/
def execFunctionRecord (seq : Nat) (b : List Byte) (s : State) : Out := .next (functionRecord seq b s)

/-! ## STATUS, LOG_READ, RETIRED_PAGES (R526, R539) -/

/-- The payload of STATUS: six registers, then the retired page count. -/
def statusBytes (s : State) : List Byte :=
  [aStwBoot, aPwrProfile, aPwrStat, aTestReserve, aMstState, aSecStat].flatMap (fun a =>
    natToBytes (blockView s a).toNat 8) ++ natToBytes s.stw.retired.length 4

/-- STATUS releases ALERT_N. -/
def statusMsg (seq : Nat) (s : State) : State :=
  if !sbServed s then s
  else
    let r := statusBytes s
    sbReply (setPins s (fun p => { p with alert := false, event := false, releasedAt := s.stw.upNs })) 0x06 seq 0 r

/-- STATUS (R526, R539). -/
def execStatus (seq : Nat) (s : State) : Out := .next (statusMsg seq s)

/-- LOG_READ: bytes of the event log, whose format the manual does not give: free values,
whatever the offset.
(DESIGN CHOICE: assumption 68) -/
def logRead (seq len : Nat) (s : State) : State :=
  if !sbServed s then s
  else if len = 0 ∨ len > 248 then sbReply s 0x07 seq 2 []
  else sbReply { s with free := s.free + 1 } 0x07 seq 0 (natToBytes (Config.freeBytes s.free) len)

/-- LOG_READ (R539). -/
def execLogRead (seq _offset len : Nat) (s : State) : Out := .next (logRead seq len s)

/-- An entry of RETIRED_PAGES: [51:48] stack, [31:0] page within the stack. -/
def retiredWord (x : Nat) : Word := put (put 0#64 51 48 (x / 2 ^ 48)) 31 0 x

/-- RETIRED_PAGES: up to 30 entries from an index on. -/
def retiredPages (seq first : Nat) (s : State) : State :=
  if !sbServed s then s
  else sbReply s 0x08 seq 0 (((s.stw.retired.drop first).take 30).flatMap (fun x => natToBytes (retiredWord x).toNat 8))

/-- RETIRED_PAGES (R429, R539). -/
def execRetiredPages (seq first : Nat) (s : State) : Out := .next (retiredPages seq first s)

/-- I3C_ADDRESS_ASSIGN: the dynamic address, by ENTDAA or by SETDASA from 0x3A (R537). -/
def execI3cAddressAssign (addr : Nat) (s : State) : Out :=
  .next (if sbServed s then setPins s (fun p => { p with i3c := addr % 128 }) else s)

end Sys2Proof.Machine
end

