-- ==== Sys2Proof/Machine/Vector.lean ====
section
/-! DEFINITION. Vector and predicate instructions (R46 to R51, R94, R119, R120). -/

namespace Sys2Proof.Machine

/-- v[D] gets a function of the lanes of v[A] and v[B], lane by lane under the guard (R46). A poisoned
word under an enabled lane is used, and faults (R25). -/
def vecRR (fn : BitVec 32 → BitVec 32 → BitVec 32) (w : BitVec 32) (th : Thread) (s : State)
    (c t : Nat) : Done :=
  let m := guardBits th w
  if anyPoi m (rdVp th (fA w)) || anyPoi m (rdVp th (fB w)) then poisoned s
  else
    let a := rdV th (fA w)
    let b := rdV th (fB w)
    .next (thUpd s c t (fun th =>
      putLanes th (fD w) m (fun k => fn (lane a k) (lane b k)) (fun _ => false)))

/-- v[D] gets a function of the lanes of v[A]. -/
def vecR (fn : BitVec 32 → BitVec 32) (w : BitVec 32) (th : Thread) (s : State) (c t : Nat) : Done :=
  let m := guardBits th w
  if anyPoi m (rdVp th (fA w)) then poisoned s
  else
    let a := rdV th (fA w)
    .next (thUpd s c t (fun th => putLanes th (fD w) m (fun k => fn (lane a k)) (fun _ => false)))

/-- v[D] gets v[D] + v[A] * v[B] with one rounding. -/
def vfmaEffect (w : BitVec 32) (th : Thread) (s : State) (c t : Nat) : Done :=
  let m := guardBits th w
  if anyPoi m (rdVp th (fA w)) || anyPoi m (rdVp th (fB w)) || anyPoi m (rdVp th (fD w)) then
    poisoned s
  else
    let a := rdV th (fA w)
    let b := rdV th (fB w)
    let d := rdV th (fD w)
    .next (thUpd s c t (fun th => putLanes th (fD w) m
      (fun k => ffma (lane d k) (lane a k) (lane b k)) (fun _ => false)))

/-- vadd (R48, R49). -/
def execVadd (c t : Nat) (f : Fetch) (s : State) : Out :=
  .next (issue 0x40 .lanes resRRDAB (vecRR fadd) c t f s)

/-- vsub (R48, R49). -/
def execVsub (c t : Nat) (f : Fetch) (s : State) : Out :=
  .next (issue 0x41 .lanes resRRDAB (vecRR fsub) c t f s)

/-- vmul (R48, R49). -/
def execVmul (c t : Nat) (f : Fetch) (s : State) : Out :=
  .next (issue 0x42 .lanes resRRDAB (vecRR fmul) c t f s)

/-- vfma (R48, R49). -/
def execVfma (c t : Nat) (f : Fetch) (s : State) : Out :=
  .next (issue 0x43 .lanes resRRDAB vfmaEffect c t f s)

/-- vmax (R49). -/
def execVmax (c t : Nat) (f : Fetch) (s : State) : Out :=
  .next (issue 0x44 .lanes resRRDAB (vecRR fmax) c t f s)

/-- vmin (R49). -/
def execVmin (c t : Nat) (f : Fetch) (s : State) : Out :=
  .next (issue 0x45 .lanes resRRDAB (vecRR fmin) c t f s)

/-- vexp2 (R50). -/
def execVexp2 (c t : Nat) (f : Fetch) (s : State) : Out :=
  .next (issue 0x46 .lanes resRRDA (vecR fexp2) c t f s)

/-- vrcp (R50). -/
def execVrcp (c t : Nat) (f : Fetch) (s : State) : Out :=
  .next (issue 0x47 .lanes resRRDA (vecR frcp) c t f s)

/-! ## vcvt (R93, R94) -/

/-- Codes of SUB[3:0] that vcvt accepts: 1 to 11. -/
def vcvtLegal (w : BitVec 32) : Bool := decide (1 ≤ bits w 7 4 ∧ bits w 7 4 ≤ 11)

/-- Bits [hi:lo] of a vector. -/
def vecBits (v : Vec) (lo n : Nat) : Nat := (v.toNat >>> lo) % 2 ^ n

/-- The 64-bit words that bits [lo, lo + n) of a vector touch: first and last. -/
def wordsOf (lo n : Nat) : Nat × Nat := (lo / 64, (lo + n - 1) / 64)

/-- Bits [lo, lo + n) of a vector touch a poisoned word. -/
def bitsPoi (p : Byte) (lo n : Nat) : Bool := bit p (wordsOf lo n).1 || bit p (wordsOf lo n).2

/-- From binary32 (SUB[4] = 0): lane k becomes element k of v[D]; bits above 16 elements and elements
of lanes whose guard is false are unchanged. Counts SAT and NANLOST.
(DEDUCED: assumption 17) -/
def vcvtNarrow (code scale : Nat) (w : BitVec 32) (th : Thread) (s : State) (c t : Nat) : Done :=
  let m := guardBits th w
  let a := rdV th (fA w)
  let wd := codeWidth code
  let conv := fun k =>
    let v := ofF32 (lane a k)
    codeEncode code
      (if codeIsMX code then (if scale = 255 then .nan else scaleBy v (127 - (scale : Int))) else v)
  let ks := (List.range 16).filter (fun k => laneOn m k)
  if anyPoi m (rdVp th (fA w)) then poisoned s
  else
    let v := ks.foldl (fun v k => setBits v (wd * k + wd - 1) (wd * k) (conv k).code) (rdV th (fD w))
    -- a word of v[D] is rebuilt from clean elements only when every bit of it is written
    let p := (List.range 8).foldl (fun p j =>
      if (List.range 64).all (fun b =>
          decide (64 * j + b < 16 * wd) && laneOn m ((64 * j + b) / wd)) then setBit p j false else p)
      (rdVp th (fD w))
    let sat := (ks.filter (fun k => (conv k).sat)).length
    let nl := (ks.filter (fun k => (conv k).nanlost)).length
    .next (updCore s c (fun k =>
      updThread (satCfld (satCfld k oMconv 63 32 sat) oMconv 31 0 nl) t (fun th => wrV th (fD w) v p)))

/-- To binary32 (SUB[4] = 1): lane k of v[D] gets the exact value of element k, its sign kept; an MX
element is multiplied by its scale and rounded once. -/
def vcvtWide (code scale : Nat) (w : BitVec 32) (th : Thread) (s : State) (c t : Nat) : Done :=
  let m := guardBits th w
  let a := rdV th (fA w)
  let wd := codeWidth code
  let p := rdVp th (fA w)
  if (List.range 16).any (fun k => laneOn m k && bitsPoi p (wd * k) wd) then poisoned s
  else
    let val := fun k =>
      let v := codeDecode code (vecBits a (wd * k) wd)
      toF32 (if codeIsMX code then (if scale = 255 then .nan else scaleBy v ((scale : Int) - 127))
        else v)
    .next (thUpd s c t (fun th => putLanes th (fD w) m val (fun _ => false)))

/-- vcvt: the scale of an MX code is s[B][7:0], an operand, used even where no lane is enabled; the B field of other codes
is ignored (R94).
(DEDUCED: assumption 76) -/
def vcvtEffect (w : BitVec 32) (th : Thread) (s : State) (c t : Nat) : Done :=
  let code := bits w 7 4
  let b := rdS th (fB w)
  let scale := b.val.toNat % 256
  if codeIsMX code && b.poi then poisoned s
  else if bit w 8 then vcvtWide code scale w th s c t
  else vcvtNarrow code scale w th s c t

/-- vcvt (R94). -/
def execVcvt (c t : Nat) (f : Fetch) (s : State) : Out :=
  .next (issue 0x48 .lanes vcvtLegal vcvtEffect c t f s)

/-! ## Moves and reductions -/

/-- vbc: every enabled lane of v[D] gets s[A][31:0], with its poison (R24). -/
def vbcEffect (w : BitVec 32) (th : Thread) (s : State) (c t : Nat) : Done :=
  let a := rdS th (fA w)
  .next (thUpd s c t (fun th => putLanes th (fD w) (guardBits th w)
    (fun _ => BitVec.ofNat 32 a.val.toNat) (fun _ => a.poi)))

/-- vbc (R48). -/
def execVbc (c t : Nat) (f : Fetch) (s : State) : Out :=
  .next (issue 0x49 .lanes resRRDA vbcEffect c t f s)

/-- vmovs: s[D] gets lane IMM10[3:0] of v[A], zero-extended, with the poison of its word (R24). -/
def vmovsEffect (w : BitVec 32) (th : Thread) (s : State) (c t : Nat) : Done :=
  let k := bits w 7 4
  doneS s c t (fD w) ⟨(lane (rdV th (fA w)) k).zeroExtend 64, lanePoi (rdVp th (fA w)) k⟩

/-- vmovs (R48). -/
def execVmovs (c t : Nat) (f : Fetch) (s : State) : Out :=
  .next (issue 0x4A .bit0 resLane vmovsEffect c t f s)

/-- vins: lane IMM10[3:0] of v[D] gets s[A][31:0], when that lane's guard is true (R46).
(DEDUCED: assumption 18) -/
def vinsEffect (w : BitVec 32) (th : Thread) (s : State) (c t : Nat) : Done :=
  let a := rdS th (fA w)
  let k := bits w 7 4
  let m := guardBits th w &&& BitVec.ofNat 16 (2 ^ k)
  .next (thUpd s c t (fun th => putLanes th (fD w) m
    (fun _ => BitVec.ofNat 32 a.val.toNat) (fun _ => a.poi)))

/-- vins (R48). -/
def execVins (c t : Nat) (f : Fetch) (s : State) : Out :=
  .next (issue 0x4B .lanes resLane vinsEffect c t f s)

/-- s[D] gets the root of the fixed pairwise tree over the 16 lanes of v[A], zero-extended (R51). All
lanes are operands, whatever the guard (R46). -/
def vredEffect (op : BitVec 32 → BitVec 32 → BitVec 32) (w : BitVec 32) (th : Thread) (s : State)
    (c t : Nat) : Done :=
  let a := rdV th (fA w)
  if rdVp th (fA w) ≠ 0#8 then poisoned s
  else doneS s c t (fD w)
    ⟨(treeReduce op 4 ((List.range 16).map (lane a))).zeroExtend 64, false⟩

/-- vredadd (R48, R51). -/
def execVredadd (c t : Nat) (f : Fetch) (s : State) : Out :=
  .next (issue 0x4C .bit0 resRRDA (vredEffect fadd) c t f s)

/-- vredmax (R48, R49, R51). -/
def execVredmax (c t : Nat) (f : Fetch) (s : State) : Out :=
  .next (issue 0x4D .bit0 resRRDA (vredEffect fmax) c t f s)

/-- vmov: the enabled lanes of v[D] get those of v[A], with their poison (R24). -/
def vmovEffect (w : BitVec 32) (th : Thread) (s : State) (c t : Nat) : Done :=
  let a := rdV th (fA w)
  let p := rdVp th (fA w)
  .next (thUpd s c t (fun th => putLanes th (fD w) (guardBits th w) (lane a) (lanePoi p)))

/-- vmov (R48). -/
def execVmov (c t : Nat) (f : Fetch) (s : State) : Out :=
  .next (issue 0x4E .lanes resRRDA vmovEffect c t f s)

/-! ## vld and vst (R119, R120) -/

/-- SUB[2:0] is an address form 0 to 4, SUB[4:3] are not used, and field B is an operand of the strided form only: in
the others it must be zero (R119, R548).
(DEDUCED: assumption 15) -/
def vldLegal (w : BitVec 32) : Bool := decide (fSub w ≤ 4) && (decide (fSub w = 3) || decide (fB w = 0))

/-- The bytes of lane k: a list of (byte address, bytes), the low part first (R119).
(DEDUCED: assumption 15) -/
def laneBytes (form k : Nat) (a b : Word) : List (Nat × Nat) :=
  let x := a.toNat % 262144
  match form with
  | 0 => [((x / 8 * 8 + 4 * k) % 262144, 4)]
  | 1 => [(x / 256 * 256 + (x % 256 / 8 * 8 + 4 * k) % 256, 4)]
  | 2 => [((x / 4 * 4 + 256 * k) % 262144, 4)]
  | 3 => [((x + k * (b.toNat % 262144)) % 262144 / 4 * 4, 4)]
  | _ => [((x / 2 * 2 + 512 * k) % 262144, 2), ((x / 2 * 2 + 512 * k + 256) % 262144, 2)]

/-- Read the parts of one lane: value and poison. -/
def readParts (s : State) (c : Nat) : List (Nat × Nat) → State × Nat × Bool
  | [] => (s, 0, false)
  | (a, n) :: l =>
    let r := spdReadIn s c a n
    let q := readParts r.1 c l
    (q.1, r.2.val.toNat + 2 ^ (8 * n) * q.2.1, r.2.poi || q.2.2)

/-- What one vst stores in a word: the bits it replaces, their value, and those that come from a poisoned lane. -/
structure WordPut where
  w : Nat
  mask : Word
  val : Word
  poi : Word
  deriving DecidableEq, Repr

/-- Add `n` bytes at byte address a to the words of a store: later bytes replace earlier ones (R120). -/
def addPut (a n v : Nat) (poi : Bool) (l : List WordPut) : List WordPut :=
  let a := a % 262144
  let m := BitVec.ofNat 64 ((2 ^ (8 * n) - 1) <<< (8 * (a % 8)))
  let x := BitVec.ofNat 64 ((v % 2 ^ (8 * n)) <<< (8 * (a % 8)))
  let p := if poi then m else 0#64
  if l.any (fun e => decide (e.w = a / 8)) then
    l.map (fun e => if e.w = a / 8 then
      { e with mask := e.mask ||| m, val := (e.val &&& ~~~m) ||| x, poi := (e.poi &&& ~~~m) ||| p } else e)
  else l ++ [{ w := a / 8, mask := m, val := x, poi := p }]

/-- Add the parts of one lane. -/
def addParts (v : Nat) (poi : Bool) : List (Nat × Nat) → List WordPut → List WordPut
  | [], l => l
  | (a, n) :: ps, l => addParts (v / 2 ^ (8 * n)) poi ps (addPut a n v poi l)

/-- The address operands of vld and vst: s[A], and s[B] in the strided form. -/
def vldPoi (w : BitVec 32) (th : Thread) : Bool :=
  (rdS th (fA w)).poi || (decide (fSub w = 3) && (rdS th (fB w)).poi)

/-- Read the enabled lanes, in increasing order; others are not read (R120). -/
def readLanes (s : State) (c form : Nat) (a b : Word) (m : BitVec 16) :
    List Nat → State × List (Nat × Nat × Bool)
  | [] => (s, [])
  | k :: l =>
    if laneOn m k then
      let r := readParts s c (laneBytes form k a b)
      let q := readLanes r.1 c form a b m l
      (q.1, (k, r.2) :: q.2)
    else readLanes s c form a b m l

/-- What was read for lane k. -/
def laneGot (l : List (Nat × Nat × Bool)) (k : Nat) : Nat × Bool :=
  match l.find? (fun e => decide (e.1 = k)) with
  | some e => e.2
  | none => (0, false)

/-- Bank cycles of the enabled lanes (R117, R120). -/
def laneCycles (form : Nat) (a b : Word) (m : BitVec 16) : Nat :=
  bankCycles ((List.range 16).flatMap (fun k =>
    if laneOn m k then (laneBytes form k a b).map (fun p => p.1 / 8) else []))

/-- vld: v[D] gets the enabled lanes' bytes, with their poison. A poisoned address operand faults even where no lane is
enabled: R25 names its use, and R46 guards the lanes' writes only.
(DEDUCED: assumptions 15, 76) -/
def vldEffect (w : BitVec 32) (th : Thread) (s : State) (c t : Nat) : Done :=
  if !portReady s c then .stall s 4
  else if vldPoi w th then poisoned s
  else
    let m := guardBits th w
    let s := portServe s c (laneCycles (fSub w) (rdS th (fA w)).val (rdS th (fB w)).val m)
    let r := readLanes s c (fSub w) (rdS th (fA w)).val (rdS th (fB w)).val m (List.range 16)
    .next (thUpd r.1 c t (fun th => putLanes th (fD w) m
      (fun k => BitVec.ofNat 32 (laneGot r.2 k).1) (fun k => (laneGot r.2 k).2)))

/-- vld (R48, R119, R120). -/
def execVld (c t : Nat) (f : Fetch) (s : State) : Out :=
  .next (issue 0x50 .lanes vldLegal vldEffect c t f s)

/-- The words that a vst writes: the enabled lanes in increasing order, so that the higher-numbered lane's bytes stay
where two lanes address the same bytes (R120). -/
def lanePuts (form : Nat) (a b : Word) (m : BitVec 16) (v : Vec) (p : Byte) : List WordPut :=
  (List.range 16).foldl (fun l k =>
    if laneOn m k then addParts (lane v k).toNat (lanePoi p k) (laneBytes form k a b) l else l) []

/-- Write each word of a store once: a word that is replaced whole is not read, and poison in a byte that stays stores
the marker (R142). -/
def writePuts (s : State) (c : Nat) : List WordPut → State
  | [] => s
  | e :: l => writePuts (spdWrite s c e.w e.mask ⟨e.val, decide (e.poi ≠ 0#64)⟩) c l

/-- vst: the enabled lanes of v[D] are stored, with their poison (R142).
(DEDUCED: assumptions 15, 76) -/
def vstEffect (w : BitVec 32) (th : Thread) (s : State) (c _ : Nat) : Done :=
  let a := (rdS th (fA w)).val
  let b := (rdS th (fB w)).val
  let m := guardBits th w
  if !portReady s c then .stall s 4
  else if vldPoi w th then poisoned s
  else .next (writePuts (portServe s c (laneCycles (fSub w) a b m)) c
    (lanePuts (fSub w) a b m (rdV th (fD w)) (rdVp th (fD w))))

/-- vst (R48, R119, R120). -/
def execVst (c t : Nat) (f : Fetch) (s : State) : Out :=
  .next (issue 0x51 .lanes vldLegal vstEffect c t f s)

/-! ## Predicates -/

def cmpLegal (w : BitVec 32) : Bool := decide (fSub w ≤ 5) && pOk (fD w)
def vcmpLegal (w : BitVec 32) : Bool := decide (fSub w ≤ 6) && pOk (fD w)
def pLegal3 (w : BitVec 32) : Bool := pOk (fD w) && pOk (fA w) && pOk (fB w) && decide (fSub w = 0)
def pLegal2 (w : BitVec 32) : Bool := pOk (fD w) && pOk (fA w) && decide (bits w 13 4 = 0)
def pmovLegal (w : BitVec 32) : Bool := pOk (fD w) && decide (bits w 13 4 = 0)
def pgetLegal (w : BitVec 32) : Bool := pOk (fA w) && decide (bits w 13 4 = 0)

/-- cmp: every bit of p[D] gets the comparison of s[A] with s[B]. -/
def cmpEffect (w : BitVec 32) (th : Thread) (s : State) (c t : Nat) : Done :=
  let a := rdS th (fA w)
  let b := rdS th (fB w)
  if a.poi || b.poi then poisoned s
  else .next (thUpd s c t (fun th => wrP th (fD w) (allBits (cmpS (fSub w) a.val b.val))))

/-- cmp (R48). -/
def execCmp (c t : Nat) (f : Fetch) (s : State) : Out :=
  .next (issue 0x60 .bit0 cmpLegal cmpEffect c t f s)

/-- vcmp: bit k of p[D] gets the comparison of lane k, for the enabled lanes only (R46). -/
def vcmpEffect (w : BitVec 32) (th : Thread) (s : State) (c t : Nat) : Done :=
  let m := guardBits th w
  if anyPoi m (rdVp th (fA w)) || anyPoi m (rdVp th (fB w)) then poisoned s
  else
    let a := rdV th (fA w)
    let b := rdV th (fB w)
    .next (thUpd s c t (fun th => wrP th (fD w)
      (mergeBits (rdP th (fD w)) m (fun k => cmpV (fSub w) (lane a k) (lane b k)))))

/-- vcmp (R48, R49). -/
def execVcmp (c t : Nat) (f : Fetch) (s : State) : Out :=
  .next (issue 0x61 .lanes vcmpLegal vcmpEffect c t f s)

/-- p[D] gets a function of p[A] and p[B]. -/
def predRR (fn : BitVec 16 → BitVec 16 → BitVec 16) (w : BitVec 32) (th : Thread) (s : State)
    (c t : Nat) : Done :=
  .next (thUpd s c t (fun th' => wrP th' (fD w) (fn (rdP th (fA w)) (rdP th (fB w)))))

/-- pand (R48). -/
def execPand (c t : Nat) (f : Fetch) (s : State) : Out :=
  .next (issue 0x62 .bit0 pLegal3 (predRR (· &&& ·)) c t f s)

/-- por (R48). -/
def execPor (c t : Nat) (f : Fetch) (s : State) : Out :=
  .next (issue 0x63 .bit0 pLegal3 (predRR (· ||| ·)) c t f s)

/-- pxor (R48). -/
def execPxor (c t : Nat) (f : Fetch) (s : State) : Out :=
  .next (issue 0x64 .bit0 pLegal3 (predRR (· ^^^ ·)) c t f s)

/-- pnot: p[D] gets the inverse of p[A]. -/
def pnotEffect (w : BitVec 32) (th : Thread) (s : State) (c t : Nat) : Done :=
  .next (thUpd s c t (fun th' => wrP th' (fD w) (~~~ rdP th (fA w))))

/-- pnot (R48). -/
def execPnot (c t : Nat) (f : Fetch) (s : State) : Out :=
  .next (issue 0x65 .bit0 pLegal2 pnotEffect c t f s)

/-- pmov: p[D] gets s[A][15:0]; a poisoned s[A] faults and writes nothing (R25). -/
def pmovEffect (w : BitVec 32) (th : Thread) (s : State) (c t : Nat) : Done :=
  let a := rdS th (fA w)
  if a.poi then poisoned s
  else .next (thUpd s c t (fun th => wrP th (fD w) (BitVec.ofNat 16 a.val.toNat)))

/-- pmov (R48). -/
def execPmov (c t : Nat) (f : Fetch) (s : State) : Out :=
  .next (issue 0x66 .bit0 pmovLegal pmovEffect c t f s)

/-- pget: s[D] gets p[A], zero-extended. -/
def pgetEffect (w : BitVec 32) (th : Thread) (s : State) (c t : Nat) : Done :=
  doneS s c t (fD w) ⟨(rdP th (fA w)).zeroExtend 64, false⟩

/-- pget (R48). -/
def execPget (c t : Nat) (f : Fetch) (s : State) : Out :=
  .next (issue 0x67 .bit0 pgetLegal pgetEffect c t f s)

end Sys2Proof.Machine
end

