-- ==== Sys2Proof/Machine/Dispatch.lean ====
section
/-! DEFINITION. One arm for each command: a call of its meaning. -/

namespace Sys2Proof.Machine

/-- The effect of a command on everything but the queue. -/
def exec (i : Instr) (s : State) : Host.Outcome State Fault Refusal :=
  match i with
  | .nop c t f => Sys2Proof.Machine.execNop c t f s
  | .br c t f => Sys2Proof.Machine.execBr c t f s
  | .jr c t f => Sys2Proof.Machine.execJr c t f s
  | .dbnz c t f => Sys2Proof.Machine.execDbnz c t f s
  | .end_ c t f => Sys2Proof.Machine.execEnd c t f s
  | .trap c t f => Sys2Proof.Machine.execTrap c t f s
  | .add c t f => Sys2Proof.Machine.execAdd c t f s
  | .sub c t f => Sys2Proof.Machine.execSub c t f s
  | .mul c t f => Sys2Proof.Machine.execMul c t f s
  | .mulhu c t f => Sys2Proof.Machine.execMulhu c t f s
  | .and c t f => Sys2Proof.Machine.execAnd c t f s
  | .or c t f => Sys2Proof.Machine.execOr c t f s
  | .xor c t f => Sys2Proof.Machine.execXor c t f s
  | .shl c t f => Sys2Proof.Machine.execShl c t f s
  | .shr c t f => Sys2Proof.Machine.execShr c t f s
  | .sar c t f => Sys2Proof.Machine.execSar c t f s
  | .min c t f => Sys2Proof.Machine.execMin c t f s
  | .max c t f => Sys2Proof.Machine.execMax c t f s
  | .addi c t f => Sys2Proof.Machine.execAddi c t f s
  | .andi c t f => Sys2Proof.Machine.execAndi c t f s
  | .ori c t f => Sys2Proof.Machine.execOri c t f s
  | .xori c t f => Sys2Proof.Machine.execXori c t f s
  | .shli c t f => Sys2Proof.Machine.execShli c t f s
  | .shri c t f => Sys2Proof.Machine.execShri c t f s
  | .sari c t f => Sys2Proof.Machine.execSari c t f s
  | .li c t f => Sys2Proof.Machine.execLi c t f s
  | .lsi c t f => Sys2Proof.Machine.execLsi c t f s
  | .ld c t f => Sys2Proof.Machine.execLd c t f s
  | .st c t f => Sys2Proof.Machine.execSt c t f s
  | .vadd c t f => Sys2Proof.Machine.execVadd c t f s
  | .vsub c t f => Sys2Proof.Machine.execVsub c t f s
  | .vmul c t f => Sys2Proof.Machine.execVmul c t f s
  | .vfma c t f => Sys2Proof.Machine.execVfma c t f s
  | .vmax c t f => Sys2Proof.Machine.execVmax c t f s
  | .vmin c t f => Sys2Proof.Machine.execVmin c t f s
  | .vexp2 c t f => Sys2Proof.Machine.execVexp2 c t f s
  | .vrcp c t f => Sys2Proof.Machine.execVrcp c t f s
  | .vcvt c t f => Sys2Proof.Machine.execVcvt c t f s
  | .vbc c t f => Sys2Proof.Machine.execVbc c t f s
  | .vmovs c t f => Sys2Proof.Machine.execVmovs c t f s
  | .vins c t f => Sys2Proof.Machine.execVins c t f s
  | .vredadd c t f => Sys2Proof.Machine.execVredadd c t f s
  | .vredmax c t f => Sys2Proof.Machine.execVredmax c t f s
  | .vmov c t f => Sys2Proof.Machine.execVmov c t f s
  | .vld c t f => Sys2Proof.Machine.execVld c t f s
  | .vst c t f => Sys2Proof.Machine.execVst c t f s
  | .cmp c t f => Sys2Proof.Machine.execCmp c t f s
  | .vcmp c t f => Sys2Proof.Machine.execVcmp c t f s
  | .pand c t f => Sys2Proof.Machine.execPand c t f s
  | .por c t f => Sys2Proof.Machine.execPor c t f s
  | .pxor c t f => Sys2Proof.Machine.execPxor c t f s
  | .pnot c t f => Sys2Proof.Machine.execPnot c t f s
  | .pmov c t f => Sys2Proof.Machine.execPmov c t f s
  | .pget c t f => Sys2Proof.Machine.execPget c t f s
  | .take c t f => Sys2Proof.Machine.execTake c t f s
  | .put c t f => Sys2Proof.Machine.execPut c t f s
  | .qcnt c t f => Sys2Proof.Machine.execQcnt c t f s
  | .choose c t f => Sys2Proof.Machine.execChoose c t f s
  | .send c t f => Sys2Proof.Machine.execSend c t f s
  | .select c t f => Sys2Proof.Machine.execSelect c t f s
  | .retire c t f => Sys2Proof.Machine.execRetire c t f s
  | .sheaf c t f => Sys2Proof.Machine.execSheaf c t f s
  | .ropen c t f => Sys2Proof.Machine.execRopen c t f s
  | .rclose c t f => Sys2Proof.Machine.execRclose c t f s
  | .tld c t f => Sys2Proof.Machine.execTld c t f s
  | .tst c t f => Sys2Proof.Machine.execTst c t f s
  | .tadd c t f => Sys2Proof.Machine.execTadd c t f s
  | .tatom c t f => Sys2Proof.Machine.execTatom c t f s
  | .twait c t f => Sys2Proof.Machine.execTwait c t f s
  | .tstat c t f => Sys2Proof.Machine.execTstat c t f s
  | .fence c t f => Sys2Proof.Machine.execFence c t f s
  | .mma c t f => Sys2Proof.Machine.execMma c t f s
  | .mdrain c t f => Sys2Proof.Machine.execMdrain c t f s
  | .mwait c t f => Sys2Proof.Machine.execMwait c t f s
  | .mcfg c t f => Sys2Proof.Machine.execMcfg c t f s
  | .csrr c t f => Sys2Proof.Machine.execCsrr c t f s
  | .csrw c t f => Sys2Proof.Machine.execCsrw c t f s
  | .rdtime c t f => Sys2Proof.Machine.execRdtime c t f s
  | .swath c t f => Sys2Proof.Machine.execSwath c t f s
  | .taskFiring c => Sys2Proof.Machine.execTaskFiring c s
  | .taskEnableCheck c n v => Sys2Proof.Machine.execTaskEnableCheck c n v s
  | .faultClear c => Sys2Proof.Machine.execFaultClear c s
  | .stallClear c v => Sys2Proof.Machine.execStallClear c v s
  | .transferRequestInject c t => Sys2Proof.Machine.execTransferRequestInject c t s
  | .requestComplete c tag => Sys2Proof.Machine.execRequestComplete c tag s
  | .mmaStart c => Sys2Proof.Machine.execMmaStart c s
  | .mmaComplete c => Sys2Proof.Machine.execMmaComplete c s
  | .drainStart c => Sys2Proof.Machine.execDrainStart c s
  | .drainComplete c => Sys2Proof.Machine.execDrainComplete c s
  | .scratchpadAccessPromote c prec since => Sys2Proof.Machine.execScratchpadAccessPromote c prec since s
  | .scrubStep c ups => Sys2Proof.Machine.execScrubStep c ups s
  | .regionCfgWrite c n v => Sys2Proof.Machine.execRegionCfgWrite c n v s
  | .messageLanding c => Sys2Proof.Machine.execMessageLanding c s
  | .bounceLanding c => Sys2Proof.Machine.execBounceLanding c s
  | .moverStep c => Sys2Proof.Machine.execMoverStep c s
  | .linkMove c d => Sys2Proof.Machine.execLinkMove c d s
  | .flitArrival c d par sb => Sys2Proof.Machine.execFlitArrival c d par sb s
  | .creditReturn c d sb => Sys2Proof.Machine.execCreditReturn c d sb s
  | .switchRunStart c => Sys2Proof.Machine.execSwitchRunStart c s
  | .scheduleWrite c e v => Sys2Proof.Machine.execScheduleWrite c e v s
  | .intakeStop c => Sys2Proof.Machine.execIntakeStop c s
  | .discardDrain c => Sys2Proof.Machine.execDiscardDrain c s
  | .quiescentDrain n => Sys2Proof.Machine.execQuiescentDrain n s
  | .quiescentDrainTimeout n => Sys2Proof.Machine.execQuiescentDrainTimeout n s
  | .probeSend c task => Sys2Proof.Machine.execProbeSend c task s
  | .probe c pkt => Sys2Proof.Machine.execProbe c pkt s
  | .seamRecalibration g e => Sys2Proof.Machine.execSeamRecalibration g e s
  | .packetHop id hdr pay => Sys2Proof.Machine.execPacketHop id hdr pay s
  | .escapeTimeout id => Sys2Proof.Machine.execEscapeTimeout id s
  | .load id => Sys2Proof.Machine.execLoad id s
  | .store id => Sys2Proof.Machine.execStore id s
  | .addPacket id => Sys2Proof.Machine.execAddPacket id s
  | .swap id => Sys2Proof.Machine.execSwap id s
  | .fetchAdd id => Sys2Proof.Machine.execFetchAdd id s
  | .cas id => Sys2Proof.Machine.execCas id s
  | .message id => Sys2Proof.Machine.execMessage id s
  | .landWaitExpire c => Sys2Proof.Machine.execLandWaitExpire c s
  | .windowHoldTimeout plot id => Sys2Proof.Machine.execWindowHoldTimeout plot id s
  | .orderEntryExpire plot j => Sys2Proof.Machine.execOrderEntryExpire plot j s
  | .loadData id => Sys2Proof.Machine.execLoadData id s
  | .completion id => Sys2Proof.Machine.execCompletion id s
  | .msgAck id => Sys2Proof.Machine.execMsgAck id s
  | .bounce id => Sys2Proof.Machine.execBounce id s
  | .orderEnd id => Sys2Proof.Machine.execOrderEnd id s
  | .trackTimeout c x => Sys2Proof.Machine.execTrackTimeout c x s
  | .sheafPacket id => Sys2Proof.Machine.execSheafPacket id s
  | .combineWaitExpire plot node round => Sys2Proof.Machine.execCombineWaitExpire plot node round s
  | .sheafDone id => Sys2Proof.Machine.execSheafDone id s
  | .epochSwitch id => Sys2Proof.Machine.execEpochSwitch id s
  | .routingChangePlanned v => Sys2Proof.Machine.execRoutingChangePlanned v s
  | .epochDrainTimeout => Sys2Proof.Machine.execEpochDrainTimeout s
  | .routingChangeAbrupt v => Sys2Proof.Machine.execRoutingChangeAbrupt v s
  | .granaryAccept id ups => Sys2Proof.Machine.execGranaryAccept id ups s
  | .granaryFill f id => Sys2Proof.Machine.execGranaryFill f id s
  | .hbmLineDone g j ups => Sys2Proof.Machine.execHbmLineDone g j ups s
  | .hbmPatrolScrub k ups => Sys2Proof.Machine.execHbmPatrolScrub k ups s
  | .rowBusBeat f j => Sys2Proof.Machine.execRowBusBeat f j s
  | .grnInv field v => Sys2Proof.Machine.execGrnInv field v s
  | .grnInvAll field v => Sys2Proof.Machine.execGrnInvAll field v s
  | .cxlResponse p j poi => Sys2Proof.Machine.execCxlResponse p j poi s
  | .cxlTimeout p j => Sys2Proof.Machine.execCxlTimeout p j s
  | .cxlLinkDown p h => Sys2Proof.Machine.execCxlLinkDown p h s
  | .dataFrame p fec ws => Sys2Proof.Machine.execDataFrame p fec ws s
  | .idleFrame p ws => Sys2Proof.Machine.execIdleFrame p ws s
  | .retry p ws => Sys2Proof.Machine.execRetry p ws s
  | .retryRepeat p => Sys2Proof.Machine.execRetryRepeat p s
  | .heartbeat p ws latency => Sys2Proof.Machine.execHeartbeat p ws latency s
  | .heartbeatSend => Sys2Proof.Machine.execHeartbeatSend s
  | .trainId p ws => Sys2Proof.Machine.execTrainId p ws s
  | .linkDown p lostLock => Sys2Proof.Machine.execLinkDown p lostLock s
  | .linkRetrain p => Sys2Proof.Machine.execLinkRetrain p s
  | .remoteTransaction p j => Sys2Proof.Machine.execRemoteTransaction p j s
  | .remoteResponse p j => Sys2Proof.Machine.execRemoteResponse p j s
  | .trackerTimeout p num => Sys2Proof.Machine.execTrackerTimeout p num s
  | .busyResend p num => Sys2Proof.Machine.execBusyResend p num s
  | .releaseSend p => Sys2Proof.Machine.execReleaseSend p s
  | .filterEntryExpire src tseq => Sys2Proof.Machine.execFilterEntryExpire src tseq s
  | .teamEpochFree => Sys2Proof.Machine.execTeamEpochFree s
  | .linkEvent p j => Sys2Proof.Machine.execLinkEvent p j s
  | .heartbeatMiss target => Sys2Proof.Machine.execHeartbeatMiss target s
  | .suspectRepeat target => Sys2Proof.Machine.execSuspectRepeat target s
  | .suspect p j => Sys2Proof.Machine.execSuspect p j s
  | .query p j => Sys2Proof.Machine.execQuery p j s
  | .alive p j => Sys2Proof.Machine.execAlive p j s
  | .lost p j => Sys2Proof.Machine.execLost p j s
  | .confirmTimeout target => Sys2Proof.Machine.execConfirmTimeout target s
  | .commit p j => Sys2Proof.Machine.execCommit p j s
  | .shadowReport p j => Sys2Proof.Machine.execShadowReport p j s
  | .admitRequest p j => Sys2Proof.Machine.execAdmitRequest p j s
  | .remoteSheafContribution id => Sys2Proof.Machine.execRemoteSheafContribution id s
  | .frameReceive fec f => Sys2Proof.Machine.execFrameReceive fec f s
  | .pfcPause port prio on => Sys2Proof.Machine.execPfcPause port prio on s
  | .connect id miss => Sys2Proof.Machine.execConnect id miss s
  | .close id miss => Sys2Proof.Machine.execClose id miss s
  | .closeAck id miss => Sys2Proof.Machine.execCloseAck id miss s
  | .khtAck id miss => Sys2Proof.Machine.execKhtAck id miss s
  | .khtWrite id miss => Sys2Proof.Machine.execKhtWrite id miss s
  | .khtRead id miss => Sys2Proof.Machine.execKhtRead id miss s
  | .submit id miss => Sys2Proof.Machine.execSubmit id miss s
  | .khtReset id miss => Sys2Proof.Machine.execKhtReset id miss s
  | .khtRetransmitTimeout n t psn => Sys2Proof.Machine.execKhtRetransmitTimeout n t psn s
  | .khtAckTimer n t => Sys2Proof.Machine.execKhtAckTimer n t s
  | .tcQuietExpire n t => Sys2Proof.Machine.execTcQuietExpire n t s
  | .roceSend id miss => Sys2Proof.Machine.execRoceSend id miss s
  | .rdmaWrite id miss => Sys2Proof.Machine.execRdmaWrite id miss s
  | .rdmaReadRequest id miss => Sys2Proof.Machine.execRdmaReadRequest id miss s
  | .roceAck id miss => Sys2Proof.Machine.execRoceAck id miss s
  | .commandLand n r j entry tc => Sys2Proof.Machine.execCommandLand n r j entry tc s
  | .commandNop n r => Sys2Proof.Machine.execCommandNop n r s
  | .commandAck n r => Sys2Proof.Machine.execCommandAck n r s
  | .run n r => Sys2Proof.Machine.execRun n r s
  | .seed n r => Sys2Proof.Machine.execSeed n r s
  | .seedAdmitOnly n r => Sys2Proof.Machine.execSeedAdmitOnly n r s
  | .seedEvict n r => Sys2Proof.Machine.execSeedEvict n r s
  | .teardown n r => Sys2Proof.Machine.execTeardown n r s
  | .commandReserved n r => Sys2Proof.Machine.execCommandReserved n r s
  | .dispatchRetry n ser => Sys2Proof.Machine.execDispatchRetry n ser s
  | .fnComplete n who v => Sys2Proof.Machine.execFnComplete n who v s
  | .functionDisable n => Sys2Proof.Machine.execFunctionDisable n s
  | .drainLimitExpire n => Sys2Proof.Machine.execDrainLimitExpire n s
  | .functionEnable n => Sys2Proof.Machine.execFunctionEnable n s
  | .ptpSync port transport domain seq kind t1 err => Sys2Proof.Machine.execPtpSync port transport domain seq kind t1 err s
  | .ppsEdge => Sys2Proof.Machine.execPpsEdge s
  | .timeHoldover ref10Absent => Sys2Proof.Machine.execTimeHoldover ref10Absent s
  | .timeCopyCorrect f => Sys2Proof.Machine.execTimeCopyCorrect f s
  | .timeSet v => Sys2Proof.Machine.execTimeSet v s
  | .swathBoundary => Sys2Proof.Machine.execSwathBoundary s
  | .swathApply v => Sys2Proof.Machine.execSwathApply v s
  | .swathSync id => Sys2Proof.Machine.execSwathSync id s
  | .clean id => Sys2Proof.Machine.execClean id s
  | .member id => Sys2Proof.Machine.execMember id s
  | .switchStart n => Sys2Proof.Machine.execSwitchStart n s
  | .fnSwitch n who v => Sys2Proof.Machine.execFnSwitch n who v s
  | .seedStart id => Sys2Proof.Machine.execSeedStart id s
  | .seedStopTimeout c => Sys2Proof.Machine.execSeedStopTimeout c s
  | .chunkCheck c isRef chunk => Sys2Proof.Machine.execChunkCheck c isRef chunk s
  | .seeded id => Sys2Proof.Machine.execSeeded id s
  | .start id => Sys2Proof.Machine.execStart id s
  | .seedTimeout n => Sys2Proof.Machine.execSeedTimeout n s
  | .contextFail n => Sys2Proof.Machine.execContextFail n s
  | .contextIdQuiet b => Sys2Proof.Machine.execContextIdQuiet b s
  | .frequencyChange fs n sweeps => Sys2Proof.Machine.execFrequencyChange fs n sweeps s
  | .nReqWrite f v => Sys2Proof.Machine.execNReqWrite f v s
  | .thermalSample die hbm => Sys2Proof.Machine.execThermalSample die hbm s
  | .throttleStep f sweeps => Sys2Proof.Machine.execThrottleStep f sweeps s
  | .quadrantOff d v => Sys2Proof.Machine.execQuadrantOff d v s
  | .quadrantReturn d testOk v => Sys2Proof.Machine.execQuadrantReturn d testOk v s
  | .thermalTrip hbm => Sys2Proof.Machine.execThermalTrip hbm s
  | .fieldRailShort f v => Sys2Proof.Machine.execFieldRailShort f v s
  | .cooling seq cls => Sys2Proof.Machine.execCooling seq cls s
  | .coolingTimeout => Sys2Proof.Machine.execCoolingTimeout s
  | .powerSample w sweeps => Sys2Proof.Machine.execPowerSample w sweeps s
  | .dormantEnter sb => Sys2Proof.Machine.execDormantEnter sb s
  | .wake sb us bad defects sweeps links v => Sys2Proof.Machine.execWake sb us bad defects sweeps links v s
  | .rotationStep bad defects v => Sys2Proof.Machine.execRotationStep bad defects v s
  | .idleCheckFlit l sb => Sys2Proof.Machine.execIdleCheckFlit l sb s
  | .plotFailed j tested => Sys2Proof.Machine.execPlotFailed j tested s
  | .rePlacement dead v => Sys2Proof.Machine.execRePlacement dead v s
  | .plotMove => Sys2Proof.Machine.execPlotMove s
  | .moveDrainTimeout => Sys2Proof.Machine.execMoveDrainTimeout s
  | .pairCompare c bad => Sys2Proof.Machine.execPairCompare c bad s
  | .pairTimeout c bad => Sys2Proof.Machine.execPairTimeout c bad s
  | .digestStart n r => Sys2Proof.Machine.execDigestStart n r s
  | .digestComplete n r => Sys2Proof.Machine.execDigestComplete n r s
  | .sweep => Sys2Proof.Machine.execSweep s
  | .privilegedMismatch u => Sys2Proof.Machine.execPrivilegedMismatch u s
  | .wearMeasure q margin trend eol v => Sys2Proof.Machine.execWearMeasure q margin trend eol v s
  | .powerUp vin => Sys2Proof.Machine.execPowerUp vin s
  | .modEnLow => Sys2Proof.Machine.execModEnLow s
  | .resetN high cxlKept => Sys2Proof.Machine.execResetN high cxlKept s
  | .startSequence e => Sys2Proof.Machine.execStartSequence e s
  | .startStepTimeout => Sys2Proof.Machine.execStartStepTimeout s
  | .undervoltageTrip vin => Sys2Proof.Machine.execUndervoltageTrip vin s
  | .overvoltageOff vin => Sys2Proof.Machine.execOvervoltageOff vin s
  | .alertReassert => Sys2Proof.Machine.execAlertReassert s
  | .deviceWarmReset hw cxlKept => Sys2Proof.Machine.execDeviceWarmReset hw cxlKept s
  | .plannedWarmReset e => Sys2Proof.Machine.execPlannedWarmReset e s
  | .warmResetColdStart sb => Sys2Proof.Machine.execWarmResetColdStart sb s
  | .coldStartRequest seq => Sys2Proof.Machine.execColdStartRequest seq s
  | .powerCycle => Sys2Proof.Machine.execPowerCycle s
  | .longFiring c t => Sys2Proof.Machine.execLongFiring c t s
  | .noProgress n => Sys2Proof.Machine.execNoProgress n s
  | .overdueRequest n ser => Sys2Proof.Machine.execOverdueRequest n ser s
  | .sharedBlockHang b => Sys2Proof.Machine.execSharedBlockHang b s
  | .freeze id => Sys2Proof.Machine.execFreeze id s
  | .frozen id => Sys2Proof.Machine.execFrozen id s
  | .freezeTimeout n c => Sys2Proof.Machine.execFreezeTimeout n c s
  | .coreReset id => Sys2Proof.Machine.execCoreReset id s
  | .plotReset id => Sys2Proof.Machine.execPlotReset id s
  | .resetDone id plot unit => Sys2Proof.Machine.execResetDone id plot unit s
  | .glean id => Sys2Proof.Machine.execGlean id s
  | .gleaned id => Sys2Proof.Machine.execGleaned id s
  | .gleanRelease n => Sys2Proof.Machine.execGleanRelease n s
  | .suspectReplay n bad => Sys2Proof.Machine.execSuspectReplay n bad s
  | .suspectReplayVerdict n => Sys2Proof.Machine.execSuspectReplayVerdict n s
  | .bootFetch => Sys2Proof.Machine.execBootFetch s
  | .fetchData offset units nonce data => Sys2Proof.Machine.execFetchData offset units nonce data s
  | .fetchError offset len nonce => Sys2Proof.Machine.execFetchError offset len nonce s
  | .fetchResend offset => Sys2Proof.Machine.execFetchResend offset s
  | .fetchAttemptTimeout => Sys2Proof.Machine.execFetchAttemptTimeout s
  | .bootService r => Sys2Proof.Machine.execBootService r s
  | .firmwareUpdate x => Sys2Proof.Machine.execFirmwareUpdate x s
  | .commitSvn who => Sys2Proof.Machine.execCommitSvn who s
  | .lmsReserve back => Sys2Proof.Machine.execLmsReserve back s
  | .getVersion x seq => Sys2Proof.Machine.execGetVersion x seq s
  | .getCapabilities x seq => Sys2Proof.Machine.execGetCapabilities x seq s
  | .negotiateAlgorithms x seq => Sys2Proof.Machine.execNegotiateAlgorithms x seq s
  | .getDigests x seq => Sys2Proof.Machine.execGetDigests x seq s
  | .getCertificate x seq => Sys2Proof.Machine.execGetCertificate x seq s
  | .challenge x seq => Sys2Proof.Machine.execChallenge x seq s
  | .getMeasurements x seq idx => Sys2Proof.Machine.execGetMeasurements x seq idx s
  | .hssHalfRequest x seq => Sys2Proof.Machine.execHssHalfRequest x seq s
  | .certHssRequest x seq => Sys2Proof.Machine.execCertHssRequest x seq s
  | .debugChallenge sb => Sys2Proof.Machine.execDebugChallenge sb s
  | .debugToken sb b => Sys2Proof.Machine.execDebugToken sb b s
  | .decommission sb b => Sys2Proof.Machine.execDecommission sb b s
  | .teamRecord seq w => Sys2Proof.Machine.execTeamRecord seq w s
  | .functionRecord seq b => Sys2Proof.Machine.execFunctionRecord seq b s
  | .status seq => Sys2Proof.Machine.execStatus seq s
  | .logRead seq offset len => Sys2Proof.Machine.execLogRead seq offset len s
  | .retiredPages seq first => Sys2Proof.Machine.execRetiredPages seq first s
  | .i3cAddressAssign addr => Sys2Proof.Machine.execI3cAddressAssign addr s
  | .rcRead who a size => Sys2Proof.Machine.execRcRead who a size s
  | .registerWrite who a v size => Sys2Proof.Machine.execRegisterWrite who a v size s
  | .cxlLinkRetrain p h => Sys2Proof.Machine.execCxlLinkRetrain p h s
  | .hostLinkChange port up => Sys2Proof.Machine.execHostLinkChange port up s
  | .missingCommitRequest p j => Sys2Proof.Machine.execMissingCommitRequest p j s
  | .vinLoss vin => Sys2Proof.Machine.execVinLoss vin s
  | .debugNonceExpire => Sys2Proof.Machine.execDebugNonceExpire s
  | .nextBottomTreeReady => Sys2Proof.Machine.execNextBottomTreeReady s
  | .profileRecordReplace b => Sys2Proof.Machine.execProfileRecordReplace b s
  | .jtagAccess op => Sys2Proof.Machine.execJtagAccess op s
  | .ptpDelayResp port transport domain seq t4 err => Sys2Proof.Machine.execPtpDelayResp port transport domain seq t4 err s
  | .imageAdmitted n => Sys2Proof.Machine.execImageAdmitted n s
  | .tseqRetire dst tseq => Sys2Proof.Machine.execTseqRetire dst tseq s
  | .seedClearComplete c => Sys2Proof.Machine.execSeedClearComplete c s

end Sys2Proof.Machine
end

