-- ==== Sys2Proof/Machine/Tick.lean ====
section
/-! DEFINITION. One 10 ns cycle of the module reference in which no command waits: device time and its slewing (R393,
R394), the field clocks and their copies of it (R386, R398), BLOCKED (R40), the stall counters (R77), cores that await
their stop (R363), the power-on and holdoff timers (R460, R534). -/

namespace Sys2Proof.Machine

/-- Device time advances by 10 ns, and by 1 ns more or less each time that the slew at SLEW_PPM has gathered 1 ns:
100,000 parts per million of 10 ns.
(DESIGN CHOICE: assumption 6) -/
def tickTime (s : State) : State :=
  let v := s.stw.servo
  let acc := v.acc + (if v.left = 0 then 0 else csrFld s aTimeCfg 31 16)
  if acc < 100000 then setServo { s with now := s.now + 10#64 } (fun x => { x with acc := acc })
  else
    let d : Int := if v.left > 0 then 1 else -1
    setServo { s with now := s.now + BitVec.ofInt 64 (10 + d) } (fun x => { x with acc := acc - 100000, left := v.left - d })

/-- Quarter cycles of field f in 10 ns: N at 25 MHz × N; half of it under the hardware limiter (R417).
(DESIGN CHOICE: assumption 6) -/
def fieldQuarters (s : State) (f : Nat) : Nat :=
  if csrFld s (aClkField f) 54 54 = 0 ∨ csrFld s (aClkField f) 55 55 = 1 ∨ fieldLost s f then 0
  else if s.stw.power.halved then (nCur s f + s.now.toNat / 10 % 2) / 2
  else nCur s f

/-- The field clocks and their copies of device time.
(DESIGN CHOICE: assumption 6) -/
def tickFields (s : State) : State :=
  (List.range 6).foldl (fun s f =>
    let q := fieldQuarters s f
    if q = 0 then s
    else { s with
      qcyc := fset zeroNat s.qcyc f (fget zeroNat s.qcyc f + q)
      copies := fset zeroNat s.copies f (fget zeroNat s.copies f + 10) }) s

/-- Task n is held by its outputs alone (R40). -/
def outputBlocked (k : Core) (n : Nat) : Bool :=
  taskEn k n && decide (taskState k n = 0) && decide (cfld k oState 47 47 = 1) && inputsReady k n && !outputsReady k n

/-- BLOCKED of task n after m cycles.
(DESIGN CHOICE: assumption 6) -/
def tickBlocked (m : Nat) (k : Core) (n : Nat) : Core :=
  if outputBlocked k n then satCfld k (oTaskStat n) 27 0 m
  else if blockedCnt k n = 0 then k
  else setTP (setCfld k (oTaskStat n) 27 0 0) n { getTP k n with sentAt := 0 }

/-- Instructions that the threads of a core have issued since the last tick. -/
def issuedAll (k : Core) : Nat := (List.range 4).foldl (fun a t => a + (getThread k t).issued) 0

/-- The stall counters of thread t after the m cycles from cycle `old` on, in which the core issued `all` instructions
(R77): ISSUE for what the thread issued, IDLE for the cycle in which its firing began and for what no other counter has,
then STOPPED or the cause that holds it. A thread that nothing holds has lost the cycles in which another issued, and has
waited on a latency in the rest.
(DESIGN CHOICE: assumption 6) -/
def tickStalls (m all old : Nat) (k : Core) (t : Nat) : Core :=
  let th := getThread k t
  let i := min th.issued m
  let began := match th.firing with | some f => b2n (decide (old ≤ f.start)) | none => 0
  let rest := m - i - began
  let lost := min (all - th.issued) rest
  let k := wrapCfld k (oStall t 0) 63 0 i
  let k := if th.firing.isNone then k
    else if k.stopped then wrapCfld k (oStall t 2) 63 0 rest
    else if th.cause ≠ 0 then wrapCfld k (oStall t th.cause) 63 0 rest
    else wrapCfld (wrapCfld k (oStall t 11) 63 0 lost) (oStall t 3) 63 0 (rest - lost)
  updThread k t (fun th => { th with issued := 0 })

/-- A core after m of its cycles from cycle `old` on. -/
def tickCore (m old : Nat) (k : Core) : Core :=
  if m = 0 then k
  else (List.range 4).foldl (tickStalls m (issuedAll k) old) ((List.range 16).foldl (tickBlocked m) k)

/-- The cores, each by the cycles its field has counted since state `old`. -/
def tickCores (old s : State) : State :=
  s.cores.foldl (fun s e => updCore s e.1 (tickCore (coreCycles s e.1 - coreCycles old e.1) (coreCycles old e.1))) s

/-- Cores that stop for a seeding or a clean. -/
def tickStops (s : State) : State :=
  s.cores.foldl (fun s e => if ((getCore s e.1).seeding.map (·.step)) = some 1 then stopCheck s e.1 else s) s

/-- The timers that run with power, and the holdoff of the input.
(DESIGN CHOICE: assumption 6) -/
def tickTimers (s : State) : State :=
  let s := setPins s (fun p => { p with holdoff := p.holdoff - 10 })
  if s.pins.pwrgd then setStw s (fun t => { t with upNs := t.upNs + 10 }) else s

/-- One reference cycle. Without power only the holdoff runs.
(DESIGN CHOICE: assumption 6) -/
def tick (s : State) : State :=
  if s.pins.pwrgd then tickStops (tickCores s (ageWaiting (tickFields (tickTime (tickTimers s))))) else tickTimers s

end Sys2Proof.Machine
end

