-- ==== Sys2Proof/Safety.lean ====
section
/-! DEFINITION. What holds of every state that a run can be in: the sparse memories keep their canonical form. -/

namespace Sys2Proof.Machine

/-- A byte memory is in canonical form: addresses strictly rising, no entry that an unlisted address would read as. -/
def Memory.wf (m : FMap Byte) : Bool := fwf zeroByte m

/-- The memories and the tables of registers, cores, plots, functions, ports and slices are in canonical form: equal
contents are equal data. -/
structure State.wf (s : State) : Prop where
  hbm : Memory.wf s.hbm = true
  hbmPoi : fwf noPoi s.hbmPoi = true
  cxl : Memory.wf s.cxl = true
  cxlPoi : fwf noPoi s.cxlPoi = true
  csr : fwf csrReset s.csr = true
  cores : fwf core0 s.cores = true
  plots : fwf plot0 s.plots = true
  funs : fwf fun0 s.funs = true
  yports : fwf yport0 s.yports = true
  slices : fwf slice0 s.slices = true

/-- A step stops neither with a fault nor with a refusal. -/
def State.runs (s : State) : Prop := ∃ s', step s = .next s'

end Sys2Proof.Machine
end

