-- ==== Sys2Proof/Certificates/Slice0/Obligations.lean ====
section
/-! DEFINITION. The statements about the model. First the words they use, then the statements: the block and its reset, the
core instructions family by family, the events family by family, the invariants. A statement about an instruction or an
event answers with the next state or with what it holds; `same…` words say what stays. -/

namespace Sys2Proof.Claim

open Sys2Proof.Machine

/-! ## Words for the core instructions -/

/-- Thread t of core c. -/
def thr (s : State) (c t : Nat) : Thread := getThread (getCore s c) t

/-- Thread t of core c runs firing fi, its issue is not stopped, no ready thread stands before it in the rotation of
R41, its program counter stands at word w, and the fetch finds the word (R26, R33, R41). -/
def At (s : State) (c t : Nat) (f : Fetch) (fi : Firing) (w : BitVec 32) : Prop :=
  t < 4 ∧ (getCore s c).stopped = false ∧ issueTurn (getCore s c) t = true ∧ (thr s c t).firing = some fi
    ∧ fget (fun _ => 0#32) (getCore s c).imem (thr s c t).pc.toNat = w ∧ f ≠ .uncorrectable

/-- The guard of word w holds in bit 0 (R46). -/
def guarded (th : Thread) (w : BitVec 32) : Prop := (guardBits th w).getLsbD 0 = true

/-- The state once the word is fetched: a corrected fetch is counted at the core (R26). -/
def seen (s : State) (c : Nat) (f : Fetch) : State :=
  if f = .corrected then updCore s c (fun k => { k with imemCE := k.imemCE + 1 }) else s

/-- The thread port of core c can take an access (R122, R123). -/
def portFree (s : State) (c : Nat) (f : Fetch) : Prop := portReady (seen s c f) c = true

/-- The state in which the thread port serves an access of n bank cycles, once the word is fetched (R123, R124). -/
def atPort (s : State) (c n : Nat) (f : Fetch) : State := portServe (seen s c f) c n

/-- Thread t of core c has issued: it holds x, its program counter is pc, it waits for nothing, it issued last (R41). All
else is as in s. -/
def issued (s : State) (c t : Nat) (x : Thread) (pc : BitVec 12) : State :=
  updCore s c (fun k => { k with
    threads := fset thread0 k.threads t { x with pc := pc, cause := 0, issued := x.issued + 1 }
    lastIssue := t })

/-- The next word. -/
def pc1 (s : State) (c t : Nat) : BitVec 12 := (thr s c t).pc + 1#12

/-- Thread t of core c does not issue: it waits under a stall cause of R77. All else is as in s. -/
def held (s : State) (c t cause : Nat) : State :=
  updCore s c (fun k => { k with threads := fset thread0 k.threads t { getThread k t with cause := cause } })

/-- Thread t of core c, running a task at pc, has faulted (R75): it counts as issued, and the fault is taken. -/
def faulted (s : State) (c t : Nat) (fi : Firing) (code info : Nat) : State :=
  threadFault (updCore s c (fun k => { k with
    threads := fset thread0 k.threads t { getThread k t with cause := 0, issued := (getThread k t).issued + 1 }
    lastIssue := t })) c t fi.task (thr s c t).pc.toNat code info

/-! ## The scalar instructions (R48) -/

/-- Opcode, command and function of the register-register instructions. -/
def rrTable : List (Nat × (Nat → Nat → Fetch → Instr) × (Word → Word → Word)) :=
  [(0x10, .add, fun a b => a + b), (0x11, .sub, fun a b => a - b), (0x12, .mul, fun a b => a * b),
   (0x13, .mulhu, fun a b => BitVec.ofNat 64 (a.toNat * b.toNat / 2 ^ 64)),
   (0x14, .and, fun a b => a &&& b), (0x15, .or, fun a b => a ||| b), (0x16, .xor, fun a b => a ^^^ b),
   (0x17, .shl, fun a b => a <<< (b.toNat % 64)), (0x18, .shr, fun a b => a >>> (b.toNat % 64)),
   (0x19, .sar, fun a b => BitVec.ofInt 64 (a.toInt >>> (b.toNat % 64))),
   (0x1A, .min, fun a b => if a.toInt ≤ b.toInt then a else b), (0x1B, .max, fun a b => if a.toInt ≤ b.toInt then b else a)]

/-- Opcode, command and function of the immediate instructions; the second operand is the sign-extended IMM10. -/
def riTable : List (Nat × (Nat → Nat → Fetch → Instr) × (Word → Word → Word)) :=
  [(0x20, .addi, fun a b => a + b), (0x21, .andi, fun a b => a &&& b), (0x22, .ori, fun a b => a ||| b),
   (0x23, .xori, fun a b => a ^^^ b)]

/-- Opcode, command and function of the shifts by IMM10[5:0]. -/
def shTable : List (Nat × (Nat → Nat → Fetch → Instr) × (Word → Nat → Word)) :=
  [(0x24, .shli, fun a n => a <<< n), (0x25, .shri, fun a n => a >>> n),
   (0x26, .sari, fun a n => BitVec.ofInt 64 (a.toInt >>> n))]

end Sys2Proof.Claim

open Sys2Proof Sys2Proof.Machine Sys2Proof.Claim

/-- R48: s[D] gets the function of s[A] and s[B]; a write to s0 is discarded (R21), the program counter advances by one, and
nothing else changes. -/
def Sys2Proof.Claim.ScalarTwoRegisterResult : Prop :=
  ∀ e ∈ rrTable, ∀ (s : State) (c t : Nat) (f : Fetch) (fi : Firing) (w : BitVec 32), At s c t f fi w →
    fOp w = e.1 → fSub w = 0 → guarded (thr s c t) w →
    (rdS (thr s c t) (fA w)).poi = false → (rdS (thr s c t) (fB w)).poi = false →
    exec (e.2.1 c t f) s = .next (issued (seen s c f) c t
      (wrS (thr s c t) (fD w) ⟨e.2.2 (rdS (thr s c t) (fA w)).val (rdS (thr s c t) (fB w)).val, false⟩) (pc1 s c t))

/-- R48: s[D] gets the function of s[A] and IMM10; the shifts take IMM10[5:0] and need IMM10[9:6] zero (R548). Nothing else
changes but the program counter. -/
def Sys2Proof.Claim.ScalarImmediateResult : Prop :=
  (∀ e ∈ riTable, ∀ (s : State) (c t : Nat) (f : Fetch) (fi : Firing) (w : BitVec 32), At s c t f fi w →
    fOp w = e.1 → guarded (thr s c t) w → (rdS (thr s c t) (fA w)).poi = false →
    exec (e.2.1 c t f) s = .next (issued (seen s c f) c t
      (wrS (thr s c t) (fD w) ⟨e.2.2 (rdS (thr s c t) (fA w)).val (fImm10s w), false⟩) (pc1 s c t)))
  ∧ (∀ e ∈ shTable, ∀ (s : State) (c t : Nat) (f : Fetch) (fi : Firing) (w : BitVec 32), At s c t f fi w →
    fOp w = e.1 → bits w 13 10 = 0 → guarded (thr s c t) w → (rdS (thr s c t) (fA w)).poi = false →
    exec (e.2.1 c t f) s = .next (issued (seen s c f) c t
      (wrS (thr s c t) (fD w) ⟨e.2.2 (rdS (thr s c t) (fA w)).val (bits w 9 4), false⟩) (pc1 s c t)))

/-- R48: li gives s[D] the sign-extended IMM15; lsi shifts s[D] left by 15 and enters IMM15 below. Nothing else changes but
the program counter. -/
def Sys2Proof.Claim.LoadImmediateResult : Prop :=
  ∀ (s : State) (c t : Nat) (f : Fetch) (fi : Firing) (w : BitVec 32), At s c t f fi w → guarded (thr s c t) w →
    (fOp w = 0x27 → exec (.li c t f) s = .next (issued (seen s c f) c t
      (wrS (thr s c t) (fD w) ⟨(BitVec.ofNat 15 (bits w 18 4)).signExtend 64, false⟩) (pc1 s c t)))
    ∧ (fOp w = 0x28 → (rdS (thr s c t) (fD w)).poi = false → exec (.lsi c t f) s = .next (issued (seen s c f) c t
      (wrS (thr s c t) (fD w) ⟨((rdS (thr s c t) (fD w)).val <<< 15) ||| BitVec.ofNat 64 (bits w 18 4), false⟩)
      (pc1 s c t)))

/-- R21, R48: the scalar instructions with two registers, with an immediate and the load-immediate pair. -/
def Obligations.ScalarResult : Prop := ScalarTwoRegisterResult ∧ ScalarImmediateResult ∧ LoadImmediateResult

namespace Sys2Proof.Claim

/-- The word address of ld and st: (s[A] + 8 * IMM10) mod 262,144 with bits [2:0] ignored (R118). -/
def ldstAt (w : BitVec 32) (a : Word) : Nat := (a + 8#64 * fImm10s w).toNat % 262144 / 8

/-- The target of br and dbnz: pc + IMM15 modulo 4,096 (R21, R48). -/
def target (pc : BitVec 12) (w : BitVec 32) : BitVec 12 := pc + (BitVec.ofNat 15 (bits w 18 4)).setWidth 12

/-- Nothing of core c but its scratchpad, CORE_SPD_ECC and threads' turn changes, and no other core changes. -/
def coreBut (s u : State) (c t : Nat) : Prop :=
  (∀ o, o ≠ oSpdEcc → creg (getCore u c) o = creg (getCore s c) o) ∧ (∀ x, x ≠ t → thr u c x = thr s c x)
    ∧ (getCore u c).queues = (getCore s c).queues ∧ (getCore u c).rings = (getCore s c).rings
    ∧ (getCore u c).imem = (getCore s c).imem ∧ (∀ d, d ≠ c → getCore u d = getCore s d)
    ∧ u.plots = s.plots ∧ u.csr = s.csr ∧ u.hbm = s.hbm ∧ u.cxl = s.cxl ∧ u.net = s.net

/-- Opcode and command of every core instruction of R48. -/
def coreTable : List (Nat × (Nat → Nat → Fetch → Instr)) :=
  [(0x00, .nop), (0x01, .br), (0x02, .jr), (0x03, .dbnz), (0x04, .end_), (0x05, .trap), (0x10, .add), (0x11, .sub),
   (0x12, .mul), (0x13, .mulhu), (0x14, .and), (0x15, .or), (0x16, .xor), (0x17, .shl), (0x18, .shr), (0x19, .sar),
   (0x1A, .min), (0x1B, .max), (0x20, .addi), (0x21, .andi), (0x22, .ori), (0x23, .xori), (0x24, .shli), (0x25, .shri),
   (0x26, .sari), (0x27, .li), (0x28, .lsi), (0x30, .ld), (0x31, .st), (0x40, .vadd), (0x41, .vsub), (0x42, .vmul),
   (0x43, .vfma), (0x44, .vmax), (0x45, .vmin), (0x46, .vexp2), (0x47, .vrcp), (0x48, .vcvt), (0x49, .vbc),
   (0x4A, .vmovs), (0x4B, .vins), (0x4C, .vredadd), (0x4D, .vredmax), (0x4E, .vmov), (0x50, .vld), (0x51, .vst),
   (0x60, .cmp), (0x61, .vcmp), (0x62, .pand), (0x63, .por), (0x64, .pxor), (0x65, .pnot), (0x66, .pmov), (0x67, .pget),
   (0x70, .take), (0x71, .put), (0x72, .qcnt), (0x80, .choose), (0x90, .send), (0x91, .select), (0x92, .retire),
   (0x93, .sheaf), (0x94, .ropen), (0x95, .rclose), (0xA0, .tld), (0xA1, .tst), (0xA2, .tadd), (0xA3, .tatom),
   (0xA4, .twait), (0xA5, .tstat), (0xB0, .fence), (0xC0, .mma), (0xC1, .mdrain), (0xC2, .mwait), (0xC3, .mcfg),
   (0xD0, .csrr), (0xD1, .csrw), (0xD2, .rdtime), (0xD3, .swath)]

end Sys2Proof.Claim

/-- R48, R118: ld gives s[D] the scratchpad word at s[A] + 8 * IMM10 as the scratchpad answers it (its error handling is
ScratchpadWordOutcomes), and st stores s[D] there, poison and all; every other byte of the scratchpad stays, for the words
next to it too, and nothing else of the machine changes but the program counter and the order of waiting accesses. R123: an
access that the thread port cannot take yet waits under BANK. -/
def Obligations.ScalarLoadStoreResult : Prop :=
  ∀ (s : State) (c t : Nat) (f : Fetch) (fi : Firing) (w : BitVec 32), At s c t f fi w → guarded (thr s c t) w →
    (¬ portFree s c f → (fOp w = 0x30 → exec (.ld c t f) s = .next (held (seen s c f) c t 4))
      ∧ (fOp w = 0x31 → exec (.st c t f) s = .next (held (seen s c f) c t 4)))
    ∧ (portFree s c f → (rdS (thr s c t) (fA w)).poi = false →
    (fOp w = 0x30 → exec (.ld c t f) s = .next (issued
      (spdRead (atPort s c 1 f) c (ldstAt w (rdS (thr s c t) (fA w)).val)).1 c t
      (wrS (thr s c t) (fD w) (spdRead (atPort s c 1 f) c (ldstAt w (rdS (thr s c t) (fA w)).val)).2) (pc1 s c t)))
    ∧ (fOp w = 0x31 → ∃ u, exec (.st c t f) s = .next u
      ∧ spdRaw (getCore u c) (ldstAt w (rdS (thr s c t) (fA w)).val)
          = (if (rdS (thr s c t) (fD w)).poi then 0#64 else (rdS (thr s c t) (fD w)).val)
      ∧ fget noPoi (getCore u c).spdPoi (ldstAt w (rdS (thr s c t) (fA w)).val) = (rdS (thr s c t) (fD w)).poi
      ∧ (∀ a, a / 8 ≠ ldstAt w (rdS (thr s c t) (fA w)).val → rdByte (getCore u c).spd a = rdByte (getCore s c).spd a)
      ∧ thr u c t = { thr s c t with pc := pc1 s c t, cause := 0, issued := (thr s c t).issued + 1 }
      ∧ coreBut s u c t))

/-- R141: a scratchpad word without an error reads as stored; one flipped bit is corrected, counted in CE_COUNT and
rewritten; two flipped bits, or one or two of the poison marker, read as poison, become the marker, and are counted in
UE_COUNT, named in LAST_UE and told to the steward; three or more may give any of these outcomes or go unseen. R142: a whole-word write stores the value, or the marker with data zero for poison. -/
def Obligations.ScratchpadWordOutcomes : Prop :=
  ∀ (s : State) (c w : Nat),
    (popcount (fget noFlip (getCore s c).spdFlip w) = 0 →
      spdRead s c w = (s, ⟨spdRaw (getCore s c) w, fget noPoi (getCore s c).spdPoi w⟩))
    ∧ (popcount (fget noFlip (getCore s c).spdFlip w) = 1 → fget noPoi (getCore s c).spdPoi w = false →
      (spdRead s c w).2 = ⟨spdRaw (getCore s c) w, false⟩
      ∧ fget noFlip (getCore (spdRead s c w).1 c).spdFlip w = 0#72
      ∧ spdRaw (getCore (spdRead s c w).1 c) w = spdRaw (getCore s c) w
      ∧ cfld (getCore (spdRead s c w).1 c) oSpdEcc 63 48 = min 65535 (cfld (getCore s c) oSpdEcc 63 48 + 1))
    ∧ ((popcount (fget noFlip (getCore s c).spdFlip w) = 2
        ∨ (popcount (fget noFlip (getCore s c).spdFlip w) = 1 ∧ fget noPoi (getCore s c).spdPoi w = true)) →
      (spdRead s c w).2 = ⟨0#64, true⟩
      ∧ fget noPoi (getCore (spdRead s c w).1 c).spdPoi w = true
      ∧ fget noFlip (getCore (spdRead s c w).1 c).spdFlip w = 0#72
      ∧ cfld (getCore (spdRead s c w).1 c) oSpdEcc 47 32 = min 65535 (cfld (getCore s c) oSpdEcc 47 32 + 1)
      ∧ (w < 32768 → cfld (getCore (spdRead s c w).1 c) oSpdEcc 31 31 = 1
          ∧ cfld (getCore (spdRead s c w).1 c) oSpdEcc 14 0 = w)
      ∧ (spdRead s c w).1.notes = .spdUE c w :: s.notes)
    ∧ (3 ≤ popcount (fget noFlip (getCore s c).spdFlip w) →
      ((spdRead s c w).2 = ⟨0#64, true⟩ ∧ fget noPoi (getCore (spdRead s c w).1 c).spdPoi w = true
        ∧ cfld (getCore (spdRead s c w).1 c) oSpdEcc 47 32 = min 65535 (cfld (getCore s c) oSpdEcc 47 32 + 1)
        ∧ (spdRead s c w).1.notes = .spdUE c w :: s.notes)
      ∨ ((spdRead s c w).2.poi = false ∧ (spdRead s c w).1.notes = s.notes
        ∧ cfld (getCore (spdRead s c w).1 c) oSpdEcc 63 48 = min 65535 (cfld (getCore s c) oSpdEcc 63 48 + 1))
      ∨ (spdRead s c w).1 = { s with free := s.free + 1 })
    ∧ (∀ v : PWord, (spdRead (spdWrite s c w (BitVec.allOnes 64) v) c w).2 = ⟨if v.poi then 0#64 else v.val, v.poi⟩)

/-- R48: nop only advances the program counter; br adds IMM15 to it, modulo 4,096; jr takes s[A][11:0]; dbnz decrements
s[D] and adds IMM15 unless the result is 0. Nothing else changes. -/
def Obligations.ControlFlowResult : Prop :=
  ∀ (s : State) (c t : Nat) (f : Fetch) (fi : Firing) (w : BitVec 32), At s c t f fi w → guarded (thr s c t) w →
    (fOp w = 0x00 → bits w 23 4 = 0 → exec (.nop c t f) s = .next (issued (seen s c f) c t (thr s c t) (pc1 s c t)))
    ∧ (fOp w = 0x01 → fD w = 0 → exec (.br c t f) s =
        .next (issued (seen s c f) c t (thr s c t) (target (thr s c t).pc w)))
    ∧ (fOp w = 0x02 → fD w = 0 → bits w 13 4 = 0 → (rdS (thr s c t) (fA w)).poi = false → exec (.jr c t f) s =
        .next (issued (seen s c f) c t (thr s c t) ((rdS (thr s c t) (fA w)).val.setWidth 12)))
    ∧ (fOp w = 0x03 → (rdS (thr s c t) (fD w)).poi = false → exec (.dbnz c t f) s =
        .next (issued (seen s c f) c t (wrS (thr s c t) (fD w) ⟨(rdS (thr s c t) (fD w)).val - 1#64, false⟩)
          (if (rdS (thr s c t) (fD w)).val - 1#64 = 0#64 then pc1 s c t else target (thr s c t).pc w)))

/-- R38: end, whatever its guard (R47). When the counts taken, selected and put are those of the slots, the firing ends: the
thread runs none, the task is idle, messages it reserved and did not select are released (R549), and the other threads, the
registers and memory of the thread stay; when they are not, the thread faults with a rate error. -/
def Obligations.EndOfFiring : Prop :=
  ∀ (s : State) (c t : Nat) (f : Fetch) (fi : Firing) (w : BitVec 32), At s c t f fi w → fOp w = 0x04 →
    bits w 23 4 = 0 →
    (countsMatch (getCore s c) fi = true → ∃ u, exec (.end_ c t f) s = .next u
      ∧ thr u c t = { thr s c t with firing := none, parts := [], cause := 0, counted := false
                                     issued := (thr s c t).issued + 1 }
      ∧ cfld (getCore u c) (oTaskStat fi.task) 31 30 = 0
      ∧ (∀ r, r < 16 → ringMsgs (getCore u c) r
          = (ringMsgs (getCore s c) r).map (fun m => if m.resv = some t then { m with resv := none } else m))
      ∧ (∀ x, x ≠ t → thr u c x = thr s c x) ∧ (getCore u c).spd = (getCore s c).spd
      ∧ (∀ o, o ≠ oTaskStat fi.task → creg (getCore u c) o = creg (getCore s c) o)
      ∧ (∀ d, d ≠ c → getCore u d = getCore s d))
    ∧ (countsMatch (getCore s c) fi = false → exec (.end_ c t f) s = .next (faulted (seen s c f) c t fi 0x02 0))

/-- R75, R76: trap, whatever its guard (R47), faults its thread with code 0x0B and IMM15: the first fault of a core is
recorded in CORE_FAULT with the code, task, thread, program counter and INFO, a later one only counts in MORE; the task is
faulted, issue and firing stop on all threads, the matrix unit drops its commands (R114), and the steward is told. -/
def Sys2Proof.Claim.SoftwareTrapFaults : Prop :=
  ∀ (s : State) (c t : Nat) (f : Fetch) (fi : Firing) (w : BitVec 32), At s c t f fi w → fOp w = 0x05 → fD w = 0 →
    fi.task < 16 →
    ∃ u, exec (.trap c t f) s = .next u
      ∧ (cfld (getCore s c) oFault 63 63 = 0 → ∀ hi lo v, (hi, lo, v) ∈ ([(63, 63, 1), (55, 48, 0x0B), (47, 44, fi.task),
            (43, 42, t), (41, 30, (thr s c t).pc.toNat), (29, 15, 0), (14, 0, bits w 18 4)] : List (Nat × Nat × Nat)) →
          cfld (getCore u c) oFault hi lo = v)
      ∧ (cfld (getCore s c) oFault 63 63 = 1 → ∀ hi lo v, (hi, lo, v) ∈ ([(63, 30, cfld (getCore s c) oFault 63 30),
            (29, 15, min 32767 (cfld (getCore s c) oFault 29 15 + 1)), (14, 0, cfld (getCore s c) oFault 14 0)]
              : List (Nat × Nat × Nat)) → cfld (getCore u c) oFault hi lo = v)
      ∧ cfld (getCore u c) (oTaskStat fi.task) 31 30 = 3 ∧ (getCore u c).stopped = true
      ∧ (getCore u c).mq = [] ∧ (getCore u c).mma = none ∧ (getCore u c).drain = none
      ∧ .coreFault c 0x0B ∈ u.notes
      ∧ (∀ x, (thr u c x).s = (thr s c x).s ∧ (thr u c x).pc = (thr s c x).pc)
      ∧ (∀ d, d ≠ c → getCore u d = getCore s d)

/-- R47, R548: a word with a reserved opcode faults with "illegal instruction" for every instruction command, whatever its
guard. R26: an uncorrectable fetch faults with "instruction memory error" whatever the word. -/
def Sys2Proof.Claim.IllegalWordAndFetchErrorFault : Prop :=
  ∀ e ∈ coreTable, ∀ (s : State) (c t : Nat) (f : Fetch) (fi : Firing) (w : BitVec 32),
    (At s c t f fi w → opListed (fOp w) = false →
      exec (e.2 c t f) s = .next (faulted (seen s c f) c t fi 0x01 0))
    ∧ (At s c t .clean fi w → exec (e.2 c t .uncorrectable) s = .next (faulted s c t fi 0x0C 0))

/-- R25: a scalar instruction that uses a poisoned register faults with "poison consumed" and writes nothing. -/
def Sys2Proof.Claim.PoisonedScalarOperandFaults : Prop :=
  ∀ (s : State) (c t : Nat) (f : Fetch) (fi : Firing) (w : BitVec 32), At s c t f fi w → guarded (thr s c t) w →
    (∀ e ∈ rrTable, fOp w = e.1 → fSub w = 0 →
      ((rdS (thr s c t) (fA w)).poi = true ∨ (rdS (thr s c t) (fB w)).poi = true) →
      exec (e.2.1 c t f) s = .next (faulted (seen s c f) c t fi 0x05 0))
    ∧ ((rdS (thr s c t) (fA w)).poi = true →
      (∀ e ∈ riTable, fOp w = e.1 → exec (e.2.1 c t f) s = .next (faulted (seen s c f) c t fi 0x05 0))
      ∧ (∀ e ∈ shTable, fOp w = e.1 → bits w 13 10 = 0 → exec (e.2.1 c t f) s = .next (faulted (seen s c f) c t fi 0x05 0))
      ∧ (portFree s c f →
        (fOp w = 0x30 → exec (.ld c t f) s = .next (faulted (seen s c f) c t fi 0x05 0))
        ∧ (fOp w = 0x31 → exec (.st c t f) s = .next (faulted (seen s c f) c t fi 0x05 0)))
      ∧ (fOp w = 0x02 → fD w = 0 → bits w 13 4 = 0 → exec (.jr c t f) s = .next (faulted (seen s c f) c t fi 0x05 0)))
    ∧ ((rdS (thr s c t) (fD w)).poi = true →
      (fOp w = 0x28 → exec (.lsi c t f) s = .next (faulted (seen s c f) c t fi 0x05 0))
      ∧ (fOp w = 0x03 → exec (.dbnz c t f) s = .next (faulted (seen s c f) c t fi 0x05 0)))

/-- R25, R26, R47, R75, R76: what faults a thread: trap, a word that no row lists, a fetch error, a poisoned operand. -/
def Obligations.FiringFaults : Prop := SoftwareTrapFaults ∧ IllegalWordAndFetchErrorFault ∧ PoisonedScalarOperandFaults

namespace Sys2Proof.Claim

/-- Thread x is thread th with the enabled lanes of v[D] replaced by val, and nothing else changed; a 64-bit word is
poisoned when a lane written into it is, or when a lane of it that is kept was (R24, R46). -/
def VecWritten (th x : Thread) (D : Nat) (m : BitVec 16) (val : Nat → BitVec 32) (poi : Nat → Bool) : Prop :=
  x = { th with v := x.v, vp := x.vp }
  ∧ (∀ r, r ≠ D → rdV x r = rdV th r ∧ rdVp x r = rdVp th r)
  ∧ (∀ k, k < 16 → lane (rdV x D) k = if m.getLsbD k then val k else lane (rdV th D) k)
  ∧ (∀ j, j < 8 → bit (rdVp x D) j =
      ((if m.getLsbD (2 * j) then poi (2 * j) else bit (rdVp th D) j)
        || (if m.getLsbD (2 * j + 1) then poi (2 * j + 1) else bit (rdVp th D) j)))

/-- Opcode, command and lane function of the vector instructions with two operands. -/
def vrrTable : List (Nat × (Nat → Nat → Fetch → Instr) × (BitVec 32 → BitVec 32 → BitVec 32)) :=
  [(0x40, .vadd, fadd), (0x41, .vsub, fsub), (0x42, .vmul, fmul), (0x44, .vmax, fmax), (0x45, .vmin, fmin)]

/-- Opcode, command and lane function of the vector instructions with one operand. -/
def vrTable : List (Nat × (Nat → Nat → Fetch → Instr) × (BitVec 32 → BitVec 32)) :=
  [(0x46, .vexp2, fexp2), (0x47, .vrcp, frcp)]

/-- The converted element of lane k in a narrowing vcvt (R93, R94): an MX element is divided by its block scale first. -/
def narrowed (code scale : Nat) (v : Vec) (k : Nat) : Conv :=
  codeEncode code (if codeIsMX code then
    (if scale = 255 then .nan else scaleBy (ofF32 (lane v k)) (127 - (scale : Int))) else ofF32 (lane v k))

/-- The value of element k in a widening vcvt (R94). -/
def widened (code scale : Nat) (v : Vec) (k : Nat) : BitVec 32 :=
  toF32 (if codeIsMX code then
    (if scale = 255 then .nan
      else scaleBy (codeDecode code (bits v (codeWidth code * k + codeWidth code - 1) (codeWidth code * k)))
        ((scale : Int) - 127))
    else codeDecode code (bits v (codeWidth code * k + codeWidth code - 1) (codeWidth code * k)))

end Sys2Proof.Claim

/-- R46, R48, R49, R50: a vector arithmetic instruction gives each enabled lane of v[D] the function of the lanes, and leaves
the other lanes, the other registers and all else as they were. R25: a poisoned word under an enabled lane faults. -/
def Obligations.VectorArithmeticResult : Prop :=
  ∀ (s : State) (c t : Nat) (f : Fetch) (fi : Firing) (w : BitVec 32), At s c t f fi w →
    (∀ e ∈ vrrTable, fOp w = e.1 → fSub w = 0 →
      (anyPoi (guardBits (thr s c t) w) (rdVp (thr s c t) (fA w)) = false →
        anyPoi (guardBits (thr s c t) w) (rdVp (thr s c t) (fB w)) = false →
        ∃ x, exec (e.2.1 c t f) s = .next (issued (seen s c f) c t x (pc1 s c t))
          ∧ VecWritten (thr s c t) x (fD w) (guardBits (thr s c t) w)
            (fun k => e.2.2 (lane (rdV (thr s c t) (fA w)) k) (lane (rdV (thr s c t) (fB w)) k)) (fun _ => false))
      ∧ ((anyPoi (guardBits (thr s c t) w) (rdVp (thr s c t) (fA w)) = true
          ∨ anyPoi (guardBits (thr s c t) w) (rdVp (thr s c t) (fB w)) = true) →
        exec (e.2.1 c t f) s = .next (faulted (seen s c f) c t fi 0x05 0)))
    ∧ (∀ e ∈ vrTable, fOp w = e.1 → bits w 13 4 = 0 →
      (anyPoi (guardBits (thr s c t) w) (rdVp (thr s c t) (fA w)) = false →
        ∃ x, exec (e.2.1 c t f) s = .next (issued (seen s c f) c t x (pc1 s c t))
          ∧ VecWritten (thr s c t) x (fD w) (guardBits (thr s c t) w)
            (fun k => e.2.2 (lane (rdV (thr s c t) (fA w)) k)) (fun _ => false))
      ∧ (anyPoi (guardBits (thr s c t) w) (rdVp (thr s c t) (fA w)) = true →
        exec (e.2.1 c t f) s = .next (faulted (seen s c f) c t fi 0x05 0)))
    ∧ (fOp w = 0x43 → fSub w = 0 →
      (anyPoi (guardBits (thr s c t) w) (rdVp (thr s c t) (fA w)) = false →
        anyPoi (guardBits (thr s c t) w) (rdVp (thr s c t) (fB w)) = false →
        anyPoi (guardBits (thr s c t) w) (rdVp (thr s c t) (fD w)) = false →
        ∃ x, exec (.vfma c t f) s = .next (issued (seen s c f) c t x (pc1 s c t))
          ∧ VecWritten (thr s c t) x (fD w) (guardBits (thr s c t) w)
            (fun k => ffma (lane (rdV (thr s c t) (fD w)) k) (lane (rdV (thr s c t) (fA w)) k)
              (lane (rdV (thr s c t) (fB w)) k)) (fun _ => false)))

/-- R93, R94: vcvt with SUB[4] = 1 gives each enabled lane of v[D] the value of its element, with one rounding after the
scale; with SUB[4] = 0 element k of v[D] gets lane k of v[A] converted, every bit outside the enabled elements stays, and
CORE_MCONV counts the elements that saturate and the infinities and NaNs that a format without them loses. -/
def Obligations.VectorConvertResult : Prop :=
  ∀ (s : State) (c t : Nat) (f : Fetch) (fi : Firing) (w : BitVec 32), At s c t f fi w → fOp w = 0x48 →
    1 ≤ bits w 7 4 → bits w 7 4 ≤ 11 → (codeIsMX (bits w 7 4) = true → (rdS (thr s c t) (fB w)).poi = false) →
    (bit w 8 = true →
      (∀ k, k < 16 → (guardBits (thr s c t) w).getLsbD k = true →
        bitsPoi (rdVp (thr s c t) (fA w)) (codeWidth (bits w 7 4) * k) (codeWidth (bits w 7 4)) = false) →
      ∃ x, exec (.vcvt c t f) s = .next (issued (seen s c f) c t x (pc1 s c t))
        ∧ VecWritten (thr s c t) x (fD w) (guardBits (thr s c t) w)
          (widened (bits w 7 4) ((rdS (thr s c t) (fB w)).val.toNat % 256) (rdV (thr s c t) (fA w))) (fun _ => false))
    ∧ (bit w 8 = false → anyPoi (guardBits (thr s c t) w) (rdVp (thr s c t) (fA w)) = false →
      ∃ x sat lost, exec (.vcvt c t f) s = .next (issued (updCore (seen s c f) c (fun k =>
            satCfld (satCfld k oMconv 63 32 sat) oMconv 31 0 lost)) c t x (pc1 s c t))
        ∧ sat = ((List.range 16).filter (fun k => (guardBits (thr s c t) w).getLsbD k
            && (narrowed (bits w 7 4) ((rdS (thr s c t) (fB w)).val.toNat % 256) (rdV (thr s c t) (fA w)) k).sat)).length
        ∧ lost = ((List.range 16).filter (fun k => (guardBits (thr s c t) w).getLsbD k
            && (narrowed (bits w 7 4) ((rdS (thr s c t) (fB w)).val.toNat % 256) (rdV (thr s c t) (fA w)) k).nanlost)).length
        ∧ x = { thr s c t with v := x.v, vp := x.vp }
        ∧ (∀ r, r ≠ fD w → rdV x r = rdV (thr s c t) r ∧ rdVp x r = rdVp (thr s c t) r)
        ∧ (∀ i, i < 512 → (rdV x (fD w)).getLsbD i =
            if i / codeWidth (bits w 7 4) < 16 ∧ (guardBits (thr s c t) w).getLsbD (i / codeWidth (bits w 7 4)) = true then
              (narrowed (bits w 7 4) ((rdS (thr s c t) (fB w)).val.toNat % 256) (rdV (thr s c t) (fA w))
                (i / codeWidth (bits w 7 4))).code.testBit (i % codeWidth (bits w 7 4))
            else (rdV (thr s c t) (fD w)).getLsbD i))

/-- R24, R48, R51: the vector moves copy lanes and their poison; vmovs and the reductions write a scalar register, the
reductions by the fixed pairwise tree over all 16 lanes. Nothing else changes. -/
def Obligations.VectorMoveAndReduceResult : Prop :=
  ∀ (s : State) (c t : Nat) (f : Fetch) (fi : Firing) (w : BitVec 32), At s c t f fi w →
    (fOp w = 0x49 → bits w 13 4 = 0 → ∃ x, exec (.vbc c t f) s = .next (issued (seen s c f) c t x (pc1 s c t))
      ∧ VecWritten (thr s c t) x (fD w) (guardBits (thr s c t) w)
        (fun _ => (rdS (thr s c t) (fA w)).val.setWidth 32) (fun _ => (rdS (thr s c t) (fA w)).poi))
    ∧ (fOp w = 0x4B → bits w 13 8 = 0 → ∃ x, exec (.vins c t f) s = .next (issued (seen s c f) c t x (pc1 s c t))
      ∧ VecWritten (thr s c t) x (fD w) (guardBits (thr s c t) w &&& BitVec.ofNat 16 (2 ^ bits w 7 4))
        (fun _ => (rdS (thr s c t) (fA w)).val.setWidth 32) (fun _ => (rdS (thr s c t) (fA w)).poi))
    ∧ (fOp w = 0x4E → bits w 13 4 = 0 → ∃ x, exec (.vmov c t f) s = .next (issued (seen s c f) c t x (pc1 s c t))
      ∧ VecWritten (thr s c t) x (fD w) (guardBits (thr s c t) w)
        (fun k => lane (rdV (thr s c t) (fA w)) k) (fun k => bit (rdVp (thr s c t) (fA w)) (k / 2)))
    ∧ (guarded (thr s c t) w →
      (fOp w = 0x4A → bits w 13 8 = 0 → exec (.vmovs c t f) s = .next (issued (seen s c f) c t
        (wrS (thr s c t) (fD w) ⟨(lane (rdV (thr s c t) (fA w)) (bits w 7 4)).setWidth 64,
          bit (rdVp (thr s c t) (fA w)) (bits w 7 4 / 2)⟩) (pc1 s c t)))
      ∧ (bits w 13 4 = 0 → rdVp (thr s c t) (fA w) = 0#8 →
        (fOp w = 0x4C → exec (.vredadd c t f) s = .next (issued (seen s c f) c t
          (wrS (thr s c t) (fD w) ⟨(treeReduce fadd 4 ((List.range 16).map (lane (rdV (thr s c t) (fA w))))).setWidth 64,
            false⟩) (pc1 s c t)))
        ∧ (fOp w = 0x4D → exec (.vredmax c t f) s = .next (issued (seen s c f) c t
          (wrS (thr s c t) (fD w) ⟨(treeReduce fmax 4 ((List.range 16).map (lane (rdV (thr s c t) (fA w))))).setWidth 64,
            false⟩) (pc1 s c t)))))

namespace Sys2Proof.Claim

/-- The enabled lanes whose bytes hold scratchpad byte x, by address form: the byte that the last of them stores there, else
the byte that was there (R119, R120). -/
def storedByte (form : Nat) (a b : Word) (m : BitVec 16) (v : Vec) (old : Byte) (x : Nat) : Byte :=
  (List.range 16).foldl (fun y k =>
    if m.getLsbD k then
      (laneBytes form k a b).foldl (fun (z : Byte × Nat) p =>
        (if p.1 ≤ x ∧ x < p.1 + p.2 then BitVec.ofNat 8 (z.2 / 256 ^ (x - p.1)) else z.1, z.2 / 256 ^ p.2))
        (y, (lane v k).toNat) |>.1
    else y) old

/-- The comparisons of cmp, by SUB (R48). -/
def cmpHolds (sub : Nat) (a b : Word) : Bool :=
  match sub with
  | 0 => decide (a = b)
  | 1 => decide (a ≠ b)
  | 2 => decide (a.toInt < b.toInt)
  | 3 => decide (b.toInt ≤ a.toInt)
  | 4 => decide (a.toNat < b.toNat)
  | _ => decide (b.toNat ≤ a.toNat)

/-- The state in which the thread port serves the enabled lanes of word w (R117, R120, R123). -/
def atLanes (s : State) (c t : Nat) (f : Fetch) (w : BitVec 32) : State :=
  atPort s c (laneCycles (fSub w) (rdS (thr s c t) (fA w)).val (rdS (thr s c t) (fB w)).val (guardBits (thr s c t) w)) f

/-- Every scratchpad word of core c is free of flipped bits and of poison. -/
def cleanPad (s : State) (c : Nat) : Prop :=
  (∀ w, fget noFlip (getCore s c).spdFlip w = 0#72) ∧ ∀ w, fget noPoi (getCore s c).spdPoi w = false

/-- Opcode, command and unused-field rule of the instructions that bit 0 of the guard governs and whose operands are
register fields (R46, R548). -/
def guardTable : List (Nat × (Nat → Nat → Fetch → Instr) × (BitVec 32 → Bool)) :=
  [(0x00, .nop, resRR0), (0x01, .br, resJ0), (0x02, .jr, resRRA), (0x03, .dbnz, resNone), (0x10, .add, resRRDAB),
   (0x11, .sub, resRRDAB), (0x12, .mul, resRRDAB), (0x13, .mulhu, resRRDAB), (0x14, .and, resRRDAB), (0x15, .or, resRRDAB),
   (0x16, .xor, resRRDAB), (0x17, .shl, resRRDAB), (0x18, .shr, resRRDAB), (0x19, .sar, resRRDAB), (0x1A, .min, resRRDAB),
   (0x1B, .max, resRRDAB), (0x20, .addi, resNone), (0x21, .andi, resNone), (0x22, .ori, resNone), (0x23, .xori, resNone),
   (0x24, .shli, resShiftI), (0x25, .shri, resShiftI), (0x26, .sari, resShiftI), (0x27, .li, resNone), (0x28, .lsi, resNone),
   (0x30, .ld, resNone), (0x31, .st, resNone), (0x4A, .vmovs, resLane), (0x4C, .vredadd, resRRDA),
   (0x4D, .vredmax, resRRDA), (0x60, .cmp, cmpLegal), (0x62, .pand, pLegal3), (0x63, .por, pLegal3), (0x64, .pxor, pLegal3),
   (0x65, .pnot, pLegal2), (0x66, .pmov, pmovLegal), (0x67, .pget, pgetLegal), (0x70, .take, takeLegal),
   (0x71, .put, putLegal), (0x72, .qcnt, qcntLegal), (0x90, .send, sendLegal), (0x91, .select, selectLegal),
   (0x92, .retire, resRRA), (0x93, .sheaf, sheafLegal), (0x94, .ropen, resRRA), (0x95, .rclose, resRRA),
   (0xA0, .tld, xferLegal), (0xA1, .tst, xferLegal), (0xA2, .tadd, xferLegal), (0xA3, .tatom, tatomLegal),
   (0xA4, .twait, twaitLegal), (0xA5, .tstat, tstatLegal), (0xB0, .fence, fenceLegal), (0xC0, .mma, mmaLegal),
   (0xC1, .mdrain, mdrainLegal), (0xC2, .mwait, mwaitLegal), (0xC3, .mcfg, resRRA), (0xD0, .csrr, resNone),
   (0xD1, .csrw, resNone), (0xD2, .rdtime, resD), (0xD3, .swath, resD)]

end Sys2Proof.Claim

/-- R119, R120: vld gives each enabled lane of v[D] the bytes at its address of the form in SUB, with their poison; lanes
whose guard is false are neither read nor changed. In a scratchpad without flipped bits or poison a lane holds the four
bytes there, the two-part form its two half-words. Nothing else changes but the order of waiting accesses. The thread port must be free
(R123), and a word whose form has no stride names s0 in B (R548). -/
def Obligations.VectorLoadResult : Prop :=
  ∀ (s : State) (c t : Nat) (f : Fetch) (fi : Firing) (w : BitVec 32), At s c t f fi w → fOp w = 0x50 → fSub w ≤ 4 →
    (fSub w = 3 ∨ fB w = 0) → portFree s c f →
    (rdS (thr s c t) (fA w)).poi = false → (fSub w = 3 → (rdS (thr s c t) (fB w)).poi = false) →
    ∃ u x r, exec (.vld c t f) s = .next (issued u c t x (pc1 s c t))
      ∧ readLanes (atLanes s c t f w) c (fSub w) (rdS (thr s c t) (fA w)).val (rdS (thr s c t) (fB w)).val
          (guardBits (thr s c t) w) (List.range 16) = (u, r)
      ∧ VecWritten (thr s c t) x (fD w) (guardBits (thr s c t) w) (fun k => BitVec.ofNat 32 (laneGot r k).1)
          (fun k => (laneGot r k).2)
      ∧ coreBut s (issued u c t x (pc1 s c t)) c t
      ∧ (cleanPad s c → u = atLanes s c t f w ∧ ∀ k, k < 16 → (guardBits (thr s c t) w).getLsbD k = true →
          laneGot r k = ((laneBytes (fSub w) k (rdS (thr s c t) (fA w)).val (rdS (thr s c t) (fB w)).val).foldr
            (fun p n => rdLE (getCore s c).spd p.1 p.2 + 256 ^ p.2 * n) 0, false))

/-- R119, R120, R142: vst stores the enabled lanes of v[D] in increasing order at their addresses. Every byte outside the
words that hold such an address stays; in a scratchpad without flipped bits or poison, and with v[D] clean, every byte reads
as the last enabled lane that covers it left it. No register of the thread changes. The thread port must be free (R123),
and a word whose form has no stride names s0 in B (R548). -/
def Obligations.VectorStoreResult : Prop :=
  ∀ (s : State) (c t : Nat) (f : Fetch) (fi : Firing) (w : BitVec 32), At s c t f fi w → fOp w = 0x51 → fSub w ≤ 4 →
    (fSub w = 3 ∨ fB w = 0) → portFree s c f →
    (rdS (thr s c t) (fA w)).poi = false → (fSub w = 3 → (rdS (thr s c t) (fB w)).poi = false) →
    ∃ u, exec (.vst c t f) s = .next u
      ∧ thr u c t = { thr s c t with pc := pc1 s c t, cause := 0, issued := (thr s c t).issued + 1 }
      ∧ coreBut s u c t
      ∧ (∀ x, (∀ k, k < 16 → (guardBits (thr s c t) w).getLsbD k = true →
            ∀ p ∈ laneBytes (fSub w) k (rdS (thr s c t) (fA w)).val (rdS (thr s c t) (fB w)).val, x / 8 ≠ p.1 / 8) →
          rdByte (getCore u c).spd x = rdByte (getCore s c).spd x)
      ∧ (cleanPad s c → rdVp (thr s c t) (fD w) = 0#8 → ∀ x, rdByte (getCore u c).spd x
          = storedByte (fSub w) (rdS (thr s c t) (fA w)).val (rdS (thr s c t) (fB w)).val (guardBits (thr s c t) w)
              (rdV (thr s c t) (fD w)) (rdByte (getCore s c).spd x) x)

/-- R48, R49: cmp sets every bit of p[D] to its comparison, vcmp the enabled bits to the comparison of their lanes; pand, por,
pxor, pnot, pmov and pget are the bitwise operations and moves. A write to p0 is discarded (R21). Nothing else changes. -/
def Obligations.CompareAndPredicateResult : Prop :=
  ∀ (s : State) (c t : Nat) (f : Fetch) (fi : Firing) (w : BitVec 32), At s c t f fi w →
    (guarded (thr s c t) w → fD w < 8 →
      (fOp w = 0x60 → fSub w ≤ 5 → (rdS (thr s c t) (fA w)).poi = false → (rdS (thr s c t) (fB w)).poi = false →
        exec (.cmp c t f) s = .next (issued (seen s c f) c t (wrP (thr s c t) (fD w)
          (if cmpHolds (fSub w) (rdS (thr s c t) (fA w)).val (rdS (thr s c t) (fB w)).val then 0xFFFF#16 else 0#16))
          (pc1 s c t)))
      ∧ (fA w < 8 → fB w < 8 → fSub w = 0 →
        (fOp w = 0x62 → exec (.pand c t f) s = .next (issued (seen s c f) c t (wrP (thr s c t) (fD w)
          (rdP (thr s c t) (fA w) &&& rdP (thr s c t) (fB w))) (pc1 s c t)))
        ∧ (fOp w = 0x63 → exec (.por c t f) s = .next (issued (seen s c f) c t (wrP (thr s c t) (fD w)
          (rdP (thr s c t) (fA w) ||| rdP (thr s c t) (fB w))) (pc1 s c t)))
        ∧ (fOp w = 0x64 → exec (.pxor c t f) s = .next (issued (seen s c f) c t (wrP (thr s c t) (fD w)
          (rdP (thr s c t) (fA w) ^^^ rdP (thr s c t) (fB w))) (pc1 s c t))))
      ∧ (bits w 13 4 = 0 →
        (fOp w = 0x65 → fA w < 8 → exec (.pnot c t f) s = .next (issued (seen s c f) c t (wrP (thr s c t) (fD w)
          (~~~ rdP (thr s c t) (fA w))) (pc1 s c t)))
        ∧ (fOp w = 0x66 → (rdS (thr s c t) (fA w)).poi = false → exec (.pmov c t f) s =
          .next (issued (seen s c f) c t (wrP (thr s c t) (fD w) ((rdS (thr s c t) (fA w)).val.setWidth 16))
            (pc1 s c t)))))
    ∧ (guarded (thr s c t) w → fOp w = 0x67 → bits w 13 4 = 0 → fA w < 8 → exec (.pget c t f) s =
        .next (issued (seen s c f) c t (wrS (thr s c t) (fD w) ⟨(rdP (thr s c t) (fA w)).setWidth 64, false⟩) (pc1 s c t)))
    ∧ (fOp w = 0x61 → fSub w ≤ 6 → fD w < 8 →
        anyPoi (guardBits (thr s c t) w) (rdVp (thr s c t) (fA w)) = false →
        anyPoi (guardBits (thr s c t) w) (rdVp (thr s c t) (fB w)) = false →
        ∃ b, exec (.vcmp c t f) s = .next (issued (seen s c f) c t (wrP (thr s c t) (fD w) b) (pc1 s c t))
          ∧ ∀ k, k < 16 → b.getLsbD k = if (guardBits (thr s c t) w).getLsbD k then
              cmpV (fSub w) (lane (rdV (thr s c t) (fA w)) k) (lane (rdV (thr s c t) (fB w)) k)
            else (rdP (thr s c t) (fD w)).getLsbD k)

/-- R46: an instruction that bit 0 of its guard governs has no effect when that bit is 0: the program counter advances by
one, and no register, no memory and no other part of the machine changes. -/
def Obligations.FalseGuardOnlyAdvances : Prop :=
  ∀ e ∈ guardTable, ∀ (s : State) (c t : Nat) (f : Fetch) (fi : Firing) (w : BitVec 32), At s c t f fi w →
    fOp w = e.1 → e.2.2 w = true → (guardBits (thr s c t) w).getLsbD 0 = false →
    exec (e.2.1 c t f) s = .next (issued (seen s c f) c t (thr s c t) (pc1 s c t))

namespace Sys2Proof.Claim

/-- One packet of a type has entered the network, whole and at the L port of some router, and no packet that was in it has
changed (R187). -/
def enters (s u : State) (typ : Nat) : Prop := ∃ q, u.net = s.net ++ [q] ∧ pType q = typ ∧ q.port = 4

/-- Registers of thread t of core c but vector register D and scalar register D stay. -/
def keepsRegs (s u : State) (c t D : Nat) : Prop :=
  (∀ r, r ≠ D → rdS (thr u c t) r = rdS (thr s c t) r ∧ rdV (thr u c t) r = rdV (thr s c t) r
    ∧ rdVp (thr u c t) r = rdVp (thr s c t) r) ∧ (thr u c t).p = (thr s c t).p

/-- The entry at the head of queue q's buffer is its oldest: nothing of it stands in an extension or in the silo. -/
def bufferHead (k : Core) (q : Nat) (e : QEntry) (l : List QEntry) : Prop :=
  (getQueue k q).buf = e :: l ∧ extCount k q = 0 ∧ (getQueue k q).silo = [] ∧ (getQueue k q).siloReading = 0

/-- A list of counts with n more at place i. -/
def plus (l : List Nat) (i n : Nat) : List Nat := (List.range 4).map (fun j => nth l j + if j = i then n else 0)

end Sys2Proof.Claim

/-- R30, R37, R52: take removes the oldest entry of an IN slot's queue, counts it, and delivers it by MODE: lanes 0 to 7 or 8
to 15 of v[D], s[D], four scratchpad words, or nowhere. R53: put appends the entry built by MODE to an OUT slot's queue and
counts it; MODE 3 needs the thread port (R123). R48: qcnt gives s[D] the entries available. R37: a take or put beyond the
slot's count, or on a queue no slot names, faults. The core's other queues, the thread's other registers and the other cores
stay. -/
def Obligations.QueueInstructionResult : Prop :=
  ∀ (s : State) (c t : Nat) (f : Fetch) (fi : Firing) (w : BitVec 32), At s c t f fi w → guarded (thr s c t) w →
    bits w 11 4 = 0 →
    (fOp w = 0x70 → fMode w ≤ 4 → (fMode w = 4 → fD w = 0) →
      (slotOf (getCore s c) (oTaskIn fi.task) (fQn w) = none →
        exec (.take c t f) s = .next (faulted (seen s c f) c t fi 0x03 0))
      ∧ ∀ i n, slotOf (getCore s c) (oTaskIn fi.task) (fQn w) = some (i, n) → qKind (getCore s c) (fQn w) ≠ 4 →
        (n ≤ nth fi.takes i → exec (.take c t f) s = .next (faulted (seen s c f) c t fi 0x02 0))
        ∧ ∀ e l, nth fi.takes i < n → (fMode w = 3 → portFree s c f ∧ (rdS (thr s c t) (fD w)).poi = false) →
          bufferHead (getCore s c) (fQn w) e l → ∃ u, exec (.take c t f) s = .next u
            ∧ (getQueue (getCore u c) (fQn w)).buf = l
            ∧ (∀ q, q ≠ fQn w → getQueue (getCore u c) q = getQueue (getCore s c) q)
            ∧ (thr u c t).firing = some { fi with takes := plus fi.takes i 1 } ∧ (thr u c t).pc = pc1 s c t
            ∧ keepsRegs s u c t (fD w)
            ∧ (fMode w ≠ 2 → (thr u c t).s = (thr s c t).s)
            ∧ (2 ≤ fMode w → (thr u c t).v = (thr s c t).v ∧ (thr u c t).vp = (thr s c t).vp)
            ∧ (fMode w = 0 → rdV (thr u c t) (fD w) = setBits (rdV (thr s c t) (fD w)) 255 0 e.data.toNat
                ∧ rdVp (thr u c t) (fD w) = setBits (rdVp (thr s c t) (fD w)) 3 0 e.poi.toNat)
            ∧ (fMode w = 1 → rdV (thr u c t) (fD w) = setBits (rdV (thr s c t) (fD w)) 511 256 e.data.toNat
                ∧ rdVp (thr u c t) (fD w) = setBits (rdVp (thr s c t) (fD w)) 7 4 e.poi.toNat)
            ∧ (fMode w = 2 → fD w ≠ 0 → rdS (thr u c t) (fD w) = ⟨e.data.setWidth 64, bit e.poi 0⟩)
            ∧ (fMode w = 3 → ∀ x, spdRaw (getCore u c) x
                = (if x / 4 = (rdS (thr s c t) (fD w)).val.toNat % 262144 / 32 then
                    (if bit e.poi (x % 4) then 0#64 else e.data.extractLsb' (64 * (x % 4)) 64) else spdRaw (getCore s c) x)
              ∧ fget noPoi (getCore u c).spdPoi x
                = (if x / 4 = (rdS (thr s c t) (fD w)).val.toNat % 262144 / 32 then bit e.poi (x % 4)
                    else fget noPoi (getCore s c).spdPoi x))
            ∧ (fMode w ≠ 3 → (getCore u c).spd = (getCore s c).spd)
            ∧ (∀ d, d ≠ c → getCore u d = getCore s d))
    ∧ (fOp w = 0x71 → fMode w ≤ 3 →
      (slotOf (getCore s c) (oTaskOut fi.task) (fQn w) = none →
        exec (.put c t f) s = .next (faulted (seen s c f) c t fi 0x03 0))
      ∧ ∀ i n, slotOf (getCore s c) (oTaskOut fi.task) (fQn w) = some (i, n) →
        (n ≤ nth fi.puts i → exec (.put c t f) s = .next (faulted (seen s c f) c t fi 0x02 0))
        ∧ (nth fi.puts i < n → (fMode w = 3 → portFree s c f ∧ (rdS (thr s c t) (fD w)).poi = false) →
          (getQueue (getCore s c) (fQn w)).buf.length < 16 → ∃ u e, exec (.put c t f) s = .next u
            ∧ (getQueue (getCore u c) (fQn w)).buf = (getQueue (getCore s c) (fQn w)).buf ++ [e]
            ∧ (fMode w = 0 → e = getHalf (thr s c t) (fD w) 0) ∧ (fMode w = 1 → e = getHalf (thr s c t) (fD w) 1)
            ∧ (fMode w = 2 → e = ⟨(rdS (thr s c t) (fD w)).val.setWidth 256, if (rdS (thr s c t) (fD w)).poi then 1#4 else 0#4⟩)
            ∧ (fMode w = 3 → e = wordsEntry
                (spdReadWords (atPort s c 1 f) c ((rdS (thr s c t) (fD w)).val.toNat % 262144 / 32 * 4) 4).2)
            ∧ (∀ q, q ≠ fQn w → getQueue (getCore u c) q = getQueue (getCore s c) q)
            ∧ thr u c t = { thr s c t with firing := some { fi with puts := plus fi.puts i 1 }, pc := pc1 s c t, cause := 0,
                                           issued := (thr s c t).issued + 1 }
            ∧ (∀ d, d ≠ c → getCore u d = getCore s d)))
    ∧ (fOp w = 0x72 → fMode w = 0 → exec (.qcnt c t f) s = .next (issued (seen s c f) c t
        (wrS (thr s c t) (fD w) ⟨BitVec.ofNat 64 (available (getCore s c) (fQn w)), false⟩) (pc1 s c t)))

/-- R55: choose takes the token of IN slot 0's queue; bit 0 of it names the queue of IN slot 1 or of IN slot 2 whose entries
move, in order, to the queue of OUT slot 0, while as many entries of the other queue are discarded; n of each, n the COUNT of
IN slot 1. The takes and puts are counted, the token is remembered no longer, and no register changes. The guard is ignored
(R47). -/
def Obligations.ChooseResult : Prop :=
  ∀ (s : State) (c t : Nat) (f : Fetch) (fi : Firing) (w : BitVec 32) (n : Nat) (tok : QEntry) (ct : List QEntry)
    (la ra lb rb : List QEntry), At s c t f fi w → fOp w = 0x80 → bits w 7 4 = 0 →
    chooseNamed (getCore s c) fi.task w = true → n = (slot (getCore s c) (oTaskIn fi.task) 1).2.1 →
    fi.chosen = none → nth fi.takes 0 = 0 → fi.takes = [0, 0, 0, 0] → fi.puts = [0, 0, 0, 0] →
    fQc w ≠ fQa w → fQc w ≠ fQb w → fQa w ≠ fQb w → fQo w ≠ fQa w → fQo w ≠ fQb w → fQo w ≠ fQc w →
    bufferHead (getCore s c) (fQc w) tok ct → bit tok.poi 0 = false →
    (getQueue (getCore s c) (fQa w)).buf = la ++ ra → la.length = n →
    (getQueue (getCore s c) (fQb w)).buf = lb ++ rb → lb.length = n →
    (∀ q ∈ [fQa w, fQb w], extCount (getCore s c) q = 0 ∧ (getQueue (getCore s c) q).silo = []
      ∧ (getQueue (getCore s c) q).siloReading = 0) →
    (getQueue (getCore s c) (fQo w)).buf.length + n ≤ 16 →
    ∃ u, exec (.choose c t f) s = .next u
      ∧ (getQueue (getCore u c) (fQo w)).buf = (getQueue (getCore s c) (fQo w)).buf ++ (if bit tok.data 0 then lb else la)
      ∧ (getQueue (getCore u c) (fQa w)).buf = ra ∧ (getQueue (getCore u c) (fQb w)).buf = rb
      ∧ (getQueue (getCore u c) (fQc w)).buf = ct
      ∧ (thr u c t).firing = some { fi with takes := [1, n, n, 0], puts := [n, 0, 0, 0], chosen := none }
      ∧ (thr u c t).s = (thr s c t).s ∧ (thr u c t).v = (thr s c t).v ∧ (thr u c t).vp = (thr s c t).vp
      ∧ (thr u c t).p = (thr s c t).p
      ∧ (thr u c t).pc = pc1 s c t ∧ (∀ d, d ≠ c → getCore u d = getCore s d)

namespace Sys2Proof.Claim

/-- Only core c has changed. -/
def onlyCore (s u : State) (c : Nat) : Prop :=
  u = { s with cores := u.cores } ∧ ∀ d, d ≠ c → getCore u d = getCore s d

/-- Of core c, only its rings, the pointers of region n, the fetch count and thread t have changed. -/
def onlyRing (s u : State) (c t n : Nat) : Prop :=
  onlyCore s u c
    ∧ getCore u c = { getCore s c with rings := (getCore u c).rings, regs := (getCore u c).regs,
                                       threads := (getCore u c).threads, imemCE := (getCore u c).imemCE, lastIssue := t }
    ∧ (∀ a, a ≠ oRegionPtr n → creg (getCore u c) a = creg (getCore s c) a)
    ∧ (∀ r, r ≠ n → ringMsgs (getCore u c) r = ringMsgs (getCore s c) r)
    ∧ (∀ x, x ≠ t → thr u c x = thr s c x)

/-- The ring that select looks at in place p of its search (R61). -/
def ringAt (w : BitVec 32) (th : Thread) (p : Nat) : Nat := if fSub w = 1 then (th.rot + 1 + p) % 16 else p

/-- Every packet for a core or a plot of a device has a router that is up. -/
def routed (s : State) (dev : Nat) : Prop :=
  ∀ p, pDstDev p = dev → (pDstKind p = 0 ∨ pDstKind p = 3) → destLost s p = false

/-- The L buffer of core c's router takes a packet of n flits on C0, and one on C3 (R57, R187, R356). -/
def roomFor (s : State) (c n : Nat) : Prop :=
  ∀ chan, chan = 0 ∨ chan = 3 → lRoom s (physOf s (plotOf c)) chan false n = true

/-- Parts that follow one another in memory and in the scratchpad, from address a and byte b on, n bytes in all. -/
def chained : Word → Nat → Nat → List Part → Prop
  | _, _, n, [] => n = 0
  | a, b, n, p :: l => p.addr = a ∧ p.spad = b ∧ p.len ≤ n ∧ chained (a + BitVec.ofNat 64 p.len) (b + p.len) (n - p.len) l

/-- Thread t of core c has formed the parts of a transfer and waits for their injection: under "tag wait" when no tag is
free or its queue is at its limit, else under "port wait" (R65, R77). -/
def forming (s : State) (c t : Nat) (ps : List Part) : State :=
  updCore s c (fun k => { k with threads := fset thread0 k.threads t { getThread k t with
    parts := ps
    cause := if freeTag k = none ∨ ∃ p ∈ ps.head?, tqLimit k p.tq ≤ outstanding k p.tq then 5 else 6 } })

end Sys2Proof.Claim

/-- R61: select finds, in its search order over the rings named by s[A], the first ring with a candidate, marks the oldest
candidate selected and returns its descriptor, or returns zero. R62: retire retires the oldest selected message, and the
leading retired messages leave the ring. R137: ropen empties a closed ring and leaves an open one; rclose clears OPEN. On a
ring that does not exist they fault 0x09. Nothing else of the core changes. -/
def Obligations.RingInstructionResult : Prop :=
  ∀ (s : State) (c t : Nat) (f : Fetch) (fi : Firing) (w : BitVec 32), At s c t f fi w → guarded (thr s c t) w →
    (rdS (thr s c t) (fA w)).poi = false →
    (fOp w = 0x91 → fB w = 0 → fSub w ≤ 1 →
      ((∀ n, n < 16 → bit (rdS (thr s c t) (fA w)).val n = true → ringCand (getCore s c) n t = none) →
        exec (.select c t f) s = .next (issued (seen s c f) c t (wrS (thr s c t) (fD w) ⟨0#64, false⟩) (pc1 s c t)))
      ∧ ∀ p n i m, p < 16 → n = ringAt w (thr s c t) p → bit (rdS (thr s c t) (fA w)).val n = true →
        ringCand (getCore s c) n t = some i → (ringMsgs (getCore s c) n)[i]? = some m →
        (∀ p', p' < p → bit (rdS (thr s c t) (fA w)).val (ringAt w (thr s c t) p') = true →
          ringCand (getCore s c) (ringAt w (thr s c t) p') t = none) →
        (∀ j cnt, ringSlot (getCore s c) fi.task n = some (j, cnt) → nth fi.takes j < cnt) →
        ∃ u, exec (.select c t f) s = .next u
          ∧ ringMsgs (getCore u c) n = (ringMsgs (getCore s c) n).set i { m with selected := true, resv := none }
          ∧ thr u c t = { wrS (thr s c t) (fD w) ⟨selDesc (getCore s c) n m, false⟩ with
              firing := some (match ringSlot (getCore s c) fi.task n with
                | some (j, _) => { fi with takes := plus fi.takes j 1 }
                | none => fi)
              rot := if fSub w = 1 then n else (thr s c t).rot
              pc := pc1 s c t, cause := 0, issued := (thr s c t).issued + 1 }
          ∧ onlyRing s u c t n)
    ∧ (resRRA w = true → ringExists (getCore s c) (bits (rdS (thr s c t) (fA w)).val 3 0) = false →
        (fOp w = 0x92 → exec (.retire c t f) s = .next (faulted (seen s c f) c t fi 0x09 0))
        ∧ (fOp w = 0x94 → exec (.ropen c t f) s = .next (faulted (seen s c f) c t fi 0x09 0))
        ∧ (fOp w = 0x95 → exec (.rclose c t f) s = .next (faulted (seen s c f) c t fi 0x09 0)))
    ∧ ∀ n, resRRA w = true → n = bits (rdS (thr s c t) (fA w)).val 3 0 → ringExists (getCore s c) n = true →
      (fOp w = 0x92 →
        ((∀ x ∈ ringMsgs (getCore s c) n, x.selected = true → x.retired = true) →
          exec (.retire c t f) s = .next (faulted (seen s c f) c t fi 0x09 0))
        ∧ ∀ l m r, ringMsgs (getCore s c) n = l ++ m :: r → (∀ x ∈ l, x.selected = true → x.retired = true) →
          m.selected = true → m.retired = false → ∃ u, exec (.retire c t f) s = .next u
            ∧ ringMsgs (getCore u c) n = (l ++ { m with retired := true } :: r).dropWhile (fun x => x.retired)
            ∧ thr u c t = thr (issued s c t (thr s c t) (pc1 s c t)) c t ∧ onlyRing s u c t n)
      ∧ (fOp w = 0x94 → ringOpen (getCore s c) n = true →
        exec (.ropen c t f) s = .next (issued (seen s c f) c t (thr s c t) (pc1 s c t)))
      ∧ (fOp w = 0x94 → ringOpen (getCore s c) n = false → ∃ u, exec (.ropen c t f) s = .next u
          ∧ ringMsgs (getCore u c) n = [] ∧ creg (getCore u c) (oRegionPtr n) = 0x8000000000000000#64
          ∧ thr u c t = thr (issued s c t (thr s c t) (pc1 s c t)) c t ∧ onlyRing s u c t n)
      ∧ (fOp w = 0x95 → ∃ u, exec (.rclose c t f) s = .next u
          ∧ ringMsgs (getCore u c) n = ringMsgs (getCore s c) n
          ∧ creg (getCore u c) (oRegionPtr n) = setBits (creg (getCore s c) (oRegionPtr n)) 63 63 0
          ∧ thr u c t = thr (issued s c t (thr s c t) (pc1 s c t)) c t ∧ onlyRing s u c t n)

/-- R57, R60, R208, R209: send reads LEN words of the scratchpad, sends them as a MESSAGE to the core and ring of s[A] with
the next OSEQ of its stream, OSTART on a stream's first packet, and remembers the send; malformed operands fault 0x09. R219:
sheaf sends the contribution of s[A], s[B] and s[C] and remembers it. Stated where the scratchpad and the L buffer can serve
them (R65, R122, R123), the packet has a route and the core is in no redundant pair (the pair lane is TestsAndMoves).
Registers stay, and so do other cores. -/
def Obligations.SendAndSheafResult : Prop :=
  ∀ (s : State) (c t : Nat) (f : Fetch) (fi : Firing) (w : BitVec 32) (a b d : Word), At s c t f fi w →
    guarded (thr s c t) w → xTq w = 0 → xFlags w = 0 → rdS (thr s c t) (xA w) = ⟨a, false⟩ →
    rdS (thr s c t) (xB w) = ⟨b, false⟩ → rdS (thr s c t) (xC w) = ⟨d, false⟩ →
    (fOp w = 0x90 → portFree s c f →
      (sendOk s a d = false → exec (.send c t f) s = .next (faulted (seen s c f) c t fi 0x09 0))
      ∧ ∀ e, findOrder (getCore s c) (normDev s (bits a 63 48)) (bits a 30 16) (bits a 15 12) = e → sendOk s a d = true →
        ((getCore s c).sends.filter (fun r => decide (r.thread = t))).length < 16 →
        (∀ x, e = some x → x.serial = true → x.unacked = 0) →
        (e = none → (ordersInUse (getCore s c)).length < 16 ∧ ∀ x ∈ (getCore s c).ends,
          ¬ (x.dev = normDev s (bits a 63 48) ∧ x.core = bits a 30 16 ∧ x.ring = bits a 15 12)) →
        roomFor s c (1 + nflitsFor (bits d 6 0)) → pairRole s c = none →
        routed s (bits a 63 48) → ∃ u q, exec (.send c t f) s = .next u ∧ u.net = s.net ++ [q] ∧ q.port = 4
          ∧ pType q = tMESSAGE ∧ pDstDev q = bits a 63 48 ∧ pDstKind q = 0 ∧ pDstId q = bits a 30 16
          ∧ pDstRing q = bits a 15 12 ∧ pTag q = bits d 63 48 ∧ pSrcCore q = c % 32768 ∧ pLen q = bits d 6 0
          ∧ pOseq q = ((e.map (·.next)).getD 0) % 256 ∧ pOstart q = (e.map (·.serial)).getD true
          ∧ q.body = (spdReadWords (atPort s c ((bits d 6 0 + 7) / 8) f) c (b.toNat % 262144 / 8) (bits d 6 0)).2
          ∧ (getCore u c).sends = (getCore s c).sends ++
              [{ thread := t, dev := normDev s (bits a 63 48), core := bits a 30 16, ring := bits a 15 12,
                 oseq := (e.map (·.next)).getD 0, time := s.now.toNat }]
          ∧ thr u c t = thr (issued s c t { thr s c t with counted := false } (pc1 s c t)) c t ∧ (∀ x, x ≠ c → getCore u x = getCore s x))
    ∧ (fOp w = 0x93 → sheafOk a d = true → b.toNat % 8 = 0 →
        (isLocalDev s (bits a 63 48) = true → ∃ n, nodeOf s (plotOf c) (bits a 41 32) = some n
          ∧ (nodeMask s (plotOf c) n).testBit (localBit c) = true) →
        shOutstanding (getCore s c) (normDev s (bits a 63 48)) (bits a 41 32) < 2 → padTurn (seen s c f) c 5 = true →
        injectRoom s (plotOf c) (sheafPacket s c a d (List.replicate (bits d 9 0 / 8) ⟨0#64, false⟩)) = true →
        pairRole s c = none →
        routed s (bits a 63 48) → ∃ u q, exec (.sheaf c t f) s = .next u ∧ u.net = s.net ++ [q] ∧ q.port = 4
          ∧ pType q = tSHEAF ∧ pDstDev q = bits a 63 48 ∧ pShId q = bits a 41 32 ∧ pShRound q = bits a 7 0
          ∧ pShOp q = bits d 20 20 ∧ pShElt q = bits d 17 16 ∧ pShBytes q = bits d 9 0 ∧ pShCount q = 1
          ∧ q.body = (if bits d 17 16 = 1
              then (spdReadWords (padServe (seen s c f) c 5) c (b.toNat % 262144 / 8) (bits d 9 0 / 8)).2.flatMap widenBF
              else (spdReadWords (padServe (seen s c f) c 5) c (b.toNat % 262144 / 8) (bits d 9 0 / 8)).2)
          ∧ (getCore u c).sheafs = (getCore s c).sheafs ++
              [{ dev := normDev s (bits a 63 48), sheaf := bits a 41 32, round := bits a 7 0, thread := t,
                 time := s.now.toNat }]
          ∧ thr u c t = thr (issued s c t (thr s c t) (pc1 s c t)) c t ∧ (∀ x, x ≠ c → getCore u x = getCore s x))

/-- R63, R64, R65: tld, tst, tadd and tatom with well-formed operands form parts that cover the transfer in order, each
inside one 512 B block, and the thread waits for their tags and the port with its pc where it was; malformed operands fault
0x06. R48, R68: twait, tstat and fence. -/
def Obligations.TransferInstructionResult : Prop :=
  ∀ (s : State) (c t : Nat) (f : Fetch) (fi : Firing) (w : BitVec 32) (a b d : Word), At s c t f fi w →
    guarded (thr s c t) w →
    (rdS (thr s c t) (xA w) = ⟨a, false⟩ → rdS (thr s c t) (xB w) = ⟨b, false⟩ → rdS (thr s c t) (xC w) = ⟨d, false⟩ →
      (∀ r ∈ [(0xA0, Instr.tld, 0), (0xA1, Instr.tst, 1)], fOp w = r.1 → xFlags w = 0 →
        (¬ (a.toNat % 8 = 0 ∧ b.toNat % 8 = 0 ∧ bits d 63 13 = 0 ∧ 8 ≤ bits d 12 0 ∧ bits d 12 0 ≤ 4096
            ∧ bits d 12 0 % 8 = 0 ∧ a.toNat % 4096 + bits d 12 0 ≤ 4096) →
          exec (r.2.1 c t f) s = .next (faulted (seen s c f) c t fi 0x06 0))
        ∧ (a.toNat % 8 = 0 → b.toNat % 8 = 0 → bits d 63 13 = 0 → 8 ≤ bits d 12 0 → bits d 12 0 ≤ 4096 →
          bits d 12 0 % 8 = 0 → a.toNat % 4096 + bits d 12 0 ≤ 4096 → (thr s c t).parts = [] → ∃ ps,
            exec (r.2.1 c t f) s = .next (forming (seen s c f) c t ps) ∧ chained a (b.toNat % 262144) (bits d 12 0) ps
            ∧ ∀ p ∈ ps, p.kind = r.2.2 ∧ p.tq = xTq w ∧ 0 < p.len ∧ p.addr.toNat % 512 + p.len ≤ 512
              ∧ p.whole = bits d 12 0))
      ∧ (fOp w = 0xA2 → xFlags w = 0 → a.toNat % 8 = 0 → b.toNat % 8 = 0 → bits d 63 20 = 0 → bits d 15 13 = 0 →
          bits d 19 16 ≤ 3 → 8 ≤ bits d 12 0 → bits d 12 0 % 8 = 0 → a.toNat % 512 + bits d 12 0 ≤ 512 →
          (thr s c t).parts = [] → exec (.tadd c t f) s = .next (forming (seen s c f) c t
            [{ kind := 2, tq := xTq w, addr := a, spad := b.toNat % 262144, len := bits d 12 0, whole := bits d 12 0
               op := bits d 19 16 }])))
    ∧ (rdS (thr s c t) (xA w) = ⟨a, false⟩ → rdS (thr s c t) (xB w) = ⟨b, false⟩ → fOp w = 0xA3 → xC w = 0 → xFlags w ≠ 3 →
        (a.toNat % 8 ≠ 0 ∨ b.toNat % 8 ≠ 0 → exec (.tatom c t f) s = .next (faulted (seen s c f) c t fi 0x06 0))
        ∧ (a.toNat % 8 = 0 → b.toNat % 8 = 0 → (thr s c t).parts = [] → exec (.tatom c t f) s =
          .next (forming (seen s c f) c t
            [{ kind := 3, tq := xTq w, addr := a, spad := b.toNat % 262144, len := 8, whole := 8, op := xFlags w }])))
    ∧ (fOp w = 0xA4 → twaitLegal w = true →
        exec (.twait c t f) s = .next (if outstanding (getCore s c) (bits w 6 4) ≤ bits w 12 7
          then issued (seen s c f) c t (thr s c t) (pc1 s c t) else held (seen s c f) c t 7))
    ∧ (fOp w = 0xB0 → fenceLegal w = true →
        exec (.fence c t f) s = .next (if fencePending (getCore s c) t (bits w 8 4)
          then held (seen s c f) c t 8 else issued (seen s c f) c t (thr s c t) (pc1 s c t)))
    ∧ (fOp w = 0xA5 → tstatLegal w = true → ∃ u, exec (.tstat c t f) s = .next u
        ∧ thr u c t = thr (issued s c t (wrS (thr s c t) (fD w) ⟨setBits (creg (getCore s c) (oTqStat (bits w 6 4))) 5 0
            (outstanding (getCore s c) (bits w 6 4)), false⟩) (pc1 s c t)) c t
        ∧ creg (getCore u c) (oTqStat (bits w 6 4)) = 0#64
        ∧ (∀ o, o ≠ oTqStat (bits w 6 4) → creg (getCore u c) o = creg (getCore s c) o) ∧ onlyCore s u c)

/-- R69 to R73, R79, R90: mma checks its operands (0x07), waits under "matrix busy", checks the tile's owner (0x08) and its
arithmetic (0x07), and enters the queue with the configuration it captures; Z claims the tile. R83, R102, R105: mdrain needs
the owner and well-formed operands, waits while the queue is full, and marks the tile draining. R48: mwait waits for its
tile. R90: mcfg writes CORE_MCFG; a reserved bit faults 0x07. Nothing else changes. -/
def Sys2Proof.Claim.MatrixInstructionResult : Prop :=
  ∀ (s : State) (c t : Nat) (f : Fetch) (fi : Firing) (w : BitVec 32) (a b d : Word), At s c t f fi w →
    guarded (thr s c t) w →
    (rdS (thr s c t) (xA w) = ⟨a, false⟩ → rdS (thr s c t) (xB w) = ⟨b, false⟩ → rdS (thr s c t) (xC w) = ⟨d, false⟩ →
      fOp w = 0xC0 → mmaLegal w = true →
      ((fmtOk d && opOk false a (mFmtA d) (mK d) && opOk true b (mFmtB d) (mK d)
          && scalesOk d (creg (getCore s c) oMcfg)) = false →
        exec (.mma c t f) s = .next (faulted (seen s c f) c t fi 0x07 0))
      ∧ ((fmtOk d && opOk false a (mFmtA d) (mK d) && opOk true b (mFmtB d) (mK d)
          && scalesOk d (creg (getCore s c) oMcfg)) = true →
        ((getCore s c).mq.length ≥ 2 ∨ (getTile (getCore s c) (bit w 6)).draining = true →
          exec (.mma c t f) s = .next (held (seen s c f) c t 9))
        ∧ ((getCore s c).mq.length < 2 → (getTile (getCore s c) (bit w 6)).draining = false →
          (bit w 4 = true → ∀ x, (getTile (getCore s c) (bit w 6)).owner = some x → x ≠ t →
            exec (.mma c t f) s = .next (held (seen s c f) c t 9))
          ∧ (bit w 4 = false → (getTile (getCore s c) (bit w 6)).owner ≠ some t →
            exec (.mma c t f) s = .next (faulted (seen s c f) c t fi 0x08 0))
          ∧ (bit w 4 = false → (getTile (getCore s c) (bit w 6)).owner = some t →
            (getTile (getCore s c) (bit w 6)).int8 ≠ decide (mFmtA d = 10) →
            exec (.mma c t f) s = .next (faulted (seen s c f) c t fi 0x07 0))
          ∧ (bit w 4 = false ∧ (getTile (getCore s c) (bit w 6)).owner = some t
                ∧ (getTile (getCore s c) (bit w 6)).int8 = decide (mFmtA d = 10)
              ∨ bit w 4 = true ∧ ((getTile (getCore s c) (bit w 6)).owner = none
                ∨ (getTile (getCore s c) (bit w 6)).owner = some t) →
            exec (.mma c t f) s = .next (issued (updCore (seen s c f) c (fun k =>
              { setTile k (bit w 6) { getTile k (bit w 6) with owner := some t, int8 := decide (mFmtA d = 10) } with
                mq := k.mq ++ [{ drain := false, tileB := bit w 6, z := bit w 4, thread := t, task := fi.task,
                                 pc := (thr s c t).pc.toNat, a := a, b := b, c := d, cfg := creg k oMcfg }] }))
              c t (thr s c t) (pc1 s c t))))))
    ∧ (rdS (thr s c t) (xA w) = ⟨a, false⟩ → rdS (thr s c t) (xB w) = ⟨b, false⟩ →
      (bit b 13 = true → rdS (thr s c t) (xC w) = ⟨d, false⟩) → fOp w = 0xC1 → mdrainLegal w = true →
      ((getTile (getCore s c) (bit w 6)).owner ≠ some t →
        exec (.mdrain c t f) s = .next (faulted (seen s c f) c t fi 0x08 0))
      ∧ ((getTile (getCore s c) (bit w 6)).owner = some t →
        (drainOk (getTile (getCore s c) (bit w 6)).int8 a b = false →
          exec (.mdrain c t f) s = .next (faulted (seen s c f) c t fi 0x07 0))
        ∧ (drainOk (getTile (getCore s c) (bit w 6)).int8 a b = true →
          ((getCore s c).mq.length ≥ 2 → exec (.mdrain c t f) s = .next (held (seen s c f) c t 9))
          ∧ ((getCore s c).mq.length < 2 → exec (.mdrain c t f) s = .next (issued (updCore (seen s c f) c (fun k =>
              { setTile k (bit w 6) { getTile k (bit w 6) with draining := true } with
                mq := k.mq ++ [{ drain := true, tileB := bit w 6, z := false, thread := t, task := fi.task,
                                 pc := (thr s c t).pc.toNat, a := a, b := b,
                                 c := if bit b 13 then d else BitVec.allOnes 64, cfg := 0#64 }] }))
              c t (thr s c t) (pc1 s c t))))))
    ∧ (fOp w = 0xC2 → mwaitLegal w = true → exec (.mwait c t f) s = .next
        (if tileBusy (getCore s c) (bit w 4) then held (seen s c f) c t 9
          else issued (seen s c f) c t (thr s c t) (pc1 s c t)))
    ∧ (fOp w = 0xC3 → resRRA w = true → rdS (thr s c t) (fA w) = ⟨a, false⟩ → exec (.mcfg c t f) s = .next
        (if bits a 63 62 ≠ 0 ∨ bits a 31 2 ≠ 0 then faulted (seen s c f) c t fi 0x07 0
          else issued (updCore (seen s c f) c (fun k => setCreg k oMcfg a)) c t (thr s c t) (pc1 s c t)))

/-- Core c once its multiply engine is free: it runs no multiply, or the cycles of the one it runs are over, whose results
complete later (R80, R81). -/
def Sys2Proof.Claim.engineFree (s : State) (c : Nat) (k : Core) : Prop :=
  (getCore s c).mma = none ∧ k = getCore s c
  ∨ ∃ r, (getCore s c).mma = some r ∧ (getCore s c).mmaTail = none
      ∧ r.start + 1024 * mK r.cmd.c / codeRate (mFmtA r.cmd.c) ≤ coreCycles s c
      ∧ k = { getCore s c with mma := none, mmaTail := some r }

/-- The rows of an operand of mma as they lie in core c's scratchpad (R86, R87). -/
def Sys2Proof.Claim.operandRows (s : State) (c : Nat) (isB : Bool) (d : Word) (code kk : Nat) : List Nat :=
  (readRows s c (dAddr d) (dPitch d) (rowBytes code (opShape isB (dTr d) kk).2) (opShape isB (dTr d) kk).1).2.1

/-- R80 to R82, R86 to R92, R95 to R99, R102: the command at the head of the matrix queue starts on its engine when the
engine is free and no command that has not completed works on its tile; a multiply gives each of its 1,024 elements the
chunk sums of the products of its row and column, from zero or from the tile. A multiply that completes leaves its results in
the tile; a drain releases the tile with its contents undefined (a free value stands for them). Queue, registers of the
threads and other cores stay. -/
def Sys2Proof.Claim.MatrixEnginesRun : Prop :=
  ∀ (s : State) (c : Nat),
    (∀ m l k, engineFree s c k → k.mq = m :: l → m.drain = false →
      (∀ r, k.mmaTail = some r → r.cmd.tileB ≠ m.tileB) → (∀ r, k.drain = some r → r.cmd.tileB ≠ m.tileB) →
      padTurn s c 2 = true → cleanPad s c → ∃ res, exec (.mmaStart c) s =
        .next (updCore (padServe (setCore s c { k with mq := l }) c 2) c (fun k =>
          { k with mma := some { cmd := m, result := res, start := coreCycles s c } }))
        ∧ ∀ e, e < 1024 → codeIsMX (mFmtA m.c) = false → fget zeroPair res e =
          mmaElement (if m.z then zeroPair e else tileEl (getTile (getCore s c) m.tileB) e) (chunkLen m.cfg false)
            (opLine false (dTr m.a) (mFmtA m.c) (mK m.c) (operandRows s c false m.a (mFmtA m.c) (mK m.c)) 0 (e / 32))
            (opLine true (dTr m.b) (mFmtB m.c) (mK m.c) (operandRows s c true m.b (mFmtB m.c) (mK m.c)) 0 (e % 32)))
    ∧ (∀ r, (getCore s c).mmaTail = some r → exec (.mmaComplete c) s = .next (setCore s c
        (setTile { getCore s c with mmaTail := none } r.cmd.tileB
          { getTile (getCore s c) r.cmd.tileB with el := r.result, undef := none })))
    ∧ (∀ r, (getCore s c).mmaTail = none → (getCore s c).mma = some r → exec (.mmaComplete c) s = .next (setCore s c
        (setTile { getCore s c with mma := none } r.cmd.tileB
          { getTile (getCore s c) r.cmd.tileB with el := r.result, undef := none })))
    ∧ (∀ m l, (getCore s c).mq = m :: l → m.drain = true → (getCore s c).drain = none →
      (∀ r, (getCore s c).mma = some r ∨ (getCore s c).mmaTail = some r → r.cmd.tileB ≠ m.tileB) →
      exec (.drainStart c) s =
        .next (setCore s c { getCore s c with mq := l, drain := some { cmd := m, start := coreCycles s c } }))
    ∧ (∀ r, (getCore s c).drain = some r → ∃ u n, exec (.drainComplete c) s = .next u ∧ (getCore u c).drain = none
        ∧ (getTile (getCore u c) r.cmd.tileB).owner = none ∧ (getTile (getCore u c) r.cmd.tileB).undef = some n
        ∧ getTile (getCore u c) (!r.cmd.tileB) = getTile (getCore s c) (!r.cmd.tileB)
        ∧ (getCore u c).mq = (getCore s c).mq ∧ (getCore u c).mma = (getCore s c).mma
        ∧ (getCore u c).mmaTail = (getCore s c).mmaTail
        ∧ (getCore u c).threads = (getCore s c).threads ∧ (∀ x, x ≠ c → getCore u x = getCore s x))

/-- R48, R12, R516: csrr gives s[D] the register of the own window and clears its clearing fields; csrw writes
CORE_TQ_LIMIT, each limit forced into 1 to 32, or CORE_STALL_CLR, and any other offset faults 0x0A. R398: rdtime gives the
field's copy of device time. swath gives the current swath. Nothing else changes. -/
def Obligations.SystemInstructionResult : Prop :=
  ∀ (s : State) (c t : Nat) (f : Fetch) (fi : Firing) (w : BitVec 32), At s c t f fi w → guarded (thr s c t) w →
    (∀ a, rdS (thr s c t) (fA w) = ⟨a, false⟩ →
      (fOp w = 0xD0 → exec (.csrr c t f) s = .next (issued
        (updCore (seen s c f) c (fun k => setCreg k (csrOffset w a) (creg k (csrOffset w a) &&& ~~~ coreRc (csrOffset w a))))
        c t (wrS (thr s c t) (fD w) ⟨coreView (seen s c f) c (csrOffset w a), false⟩) (pc1 s c t)))
      ∧ (fOp w = 0xD1 → csrOffset w a ≠ oTqLimit → csrOffset w a ≠ oStallClr →
          exec (.csrw c t f) s = .next (faulted (seen s c f) c t fi 0x0A 0))
      ∧ ∀ v, fOp w = 0xD1 → rdS (thr s c t) (fD w) = ⟨v, false⟩ →
        (csrOffset w a = oTqLimit → ∃ u, exec (.csrw c t f) s = .next (issued u c t (thr s c t) (pc1 s c t))
          ∧ (∀ k, k < 8 → cfld (getCore u c) oTqLimit (6 * k + 5) (6 * k) = max 1 (min 32 (bits v (6 * k + 5) (6 * k))))
          ∧ u = updCore (seen s c f) c (fun k => setCreg k oTqLimit (creg (getCore u c) oTqLimit)))
        ∧ (csrOffset w a = oStallClr → exec (.csrw c t f) s =
            .next (issued (clearStalls (seen s c f) c (bits v 3 0)) c t (thr (clearStalls (seen s c f) c (bits v 3 0)) c t)
              (pc1 s c t))))
    ∧ (fOp w = 0xD2 → resD w = true → exec (.rdtime c t f) s = .next (issued (seen s c f) c t (wrS (thr s c t) (fD w)
        ⟨BitVec.ofNat 64 (fget zeroNat s.copies (fieldOf (physOf s (plotOf c)))), false⟩) (pc1 s c t)))
    ∧ (fOp w = 0xD3 → resD w = true → exec (.swath c t f) s = .next (issued (seen s c f) c t (wrS (thr s c t) (fD w)
        ⟨BitVec.ofNat 64 s.swathNow, false⟩) (pc1 s c t)))

namespace Sys2Proof.Claim

/-- Packet p has number id and stands at its destination router on this device. -/
def stands (s : State) (id : Nat) (p : Packet) : Prop :=
  findPkt s id = some p ∧ isLocalDev s (pDstDev p) = true ∧ arrived s p = true

end Sys2Proof.Claim

/-- R65, R245, R246: the next part of a transfer takes the lowest free tag and leaves as a request packet for its address,
or, outside the core's windows, is answered "denied" with no packet; the last part ends the instruction. Without a tag, or
at the queue's limit, the thread waits under "tag wait"; for the router's L buffer or the control tier, under "port wait".
The packet is stated for a tier other than 11 and a core in no redundant pair. -/
def Sys2Proof.Claim.TransferInjection : Prop :=
  ∀ (s : State) (c t : Nat) (fi : Firing) (p : Part) (l : List Part), (thr s c t).firing = some fi →
    (getCore s c).stopped = false → (thr s c t).parts = p :: l →
    (freeTag (getCore s c) = none → exec (.transferRequestInject c t) s = .next (held s c t 5))
    ∧ ∀ tag, freeTag (getCore s c) = some tag →
      (tqLimit (getCore s c) p.tq ≤ outstanding (getCore s c) p.tq →
        exec (.transferRequestInject c t) s = .next (held s c t 5))
      ∧ (outstanding (getCore s c) p.tq < tqLimit (getCore s c) p.tq →
        (adTier p.addr = 3 ∧ tier11Busy (getCore s c) t = true ∨ partRoom s c t tag p = false →
          exec (.transferRequestInject c t) s = .next (held s c t 6))
        ∧ (¬ (adTier p.addr = 3 ∧ tier11Busy (getCore s c) t = true) → partRoom s c t tag p = true →
          (0 < sendWords p.kind p.op p.len → padTurn s c 5 = true) →
          ∃ u r, exec (.transferRequestInject c t) s = .next u ∧ (getCore u c).reqs = (getCore s c).reqs ++ [r]
            ∧ r.tag = tag ∧ (∀ q ∈ (getCore s c).reqs, q.tag ≠ tag) ∧ r.kind = p.kind ∧ r.thread = t ∧ r.tq = p.tq
            ∧ r.addr = p.addr ∧ r.spad = p.spad ∧ r.len = p.len ∧ r.time = s.now.toNat
            ∧ (windowFor s (getCore s c) p.addr p.len p.kind = none → r.status = some 1 ∧ u.net = s.net)
            ∧ (∀ g, windowFor s (getCore s c) p.addr p.len p.kind = some g → adTier p.addr ≠ 3 →
                targetOf s p.addr ≠ .unmapped → pairRole s c = none →
                (∀ x : Req, x.addr = p.addr → destLost s (startPacket s (plotOf c) (reqPacket s c x)) = false) →
                r.status = none ∧ ∃ q, u.net = s.net ++ [q] ∧ q.port = 4 ∧ q.at_ = physOf s (plotOf c)
                  ∧ pType q = kindType p.kind p.op ∧ q.w2 = p.addr ∧ pReqTag q = tag ∧ q.gran = g ∧ q.body = r.data)
            ∧ (l = [] → thr u c t = { thr s c t with parts := [], pc := pc1 s c t, cause := 0,
                                                     issued := (thr s c t).issued + 1 })
            ∧ (l ≠ [] → thr u c t = { thr s c t with parts := l })
            ∧ (∀ x, x ≠ c → getCore u x = getCore s x)))

/-- R66, R67, R207: an answer that reaches the requesting core frees the tag of the request it names: old values of atomics
go to the scratchpad, and load data once every word has arrived, an error status is counted in CORE_TQ_STAT. A request
answered at its core completes with that status. Stated for a core in no redundant pair, and for answers that are current. -/
def Sys2Proof.Claim.TransferCompletion : Prop :=
  ∀ (s : State) (c tag : Nat) (r : Req), reqOf (getCore s c) tag = some r → r.kind < 4 →
    (∀ st, r.status = some st → st ≠ 0 → exec (.requestComplete c tag) s =
      .next (updCore s c (fun k => countErr (dropReq k tag) r.tq st)))
    ∧ (∀ b l, r.status = none → r.kind = 0 → (getCore s c).landBuf = b :: l → b.tag = tag → b.seed = false →
        padTurn s c 3 = true →
        (∀ ws, ws.length = r.len / 8 → (∀ i, i < r.len / 8 → gotWord (addBeat r.got b) i = ws[i]?) →
          ∃ u, exec (.requestComplete c tag) s = .next u
          ∧ (getCore u c).landBuf = l ∧ reqOf (getCore u c) tag = none
          ∧ (getCore u c).spd = (getCore (spdWriteWords s c (r.spad / 8) ws) c).spd
          ∧ (getCore u c).threads = (getCore s c).threads ∧ (∀ x, x ≠ c → getCore u x = getCore s x))
        ∧ (∀ i, i < r.len / 8 → gotWord (addBeat r.got b) i = none → ∃ u, exec (.requestComplete c tag) s = .next u
          ∧ (getCore u c).landBuf = l ∧ reqOf (getCore u c) tag = some { r with got := addBeat r.got b }
          ∧ (getCore u c).spd = (getCore s c).spd ∧ (getCore u c).threads = (getCore s c).threads
          ∧ (∀ x, x ≠ c → getCore u x = getCore s x)))
    ∧ ∀ id p, stands s id p → pDstKind p = 0 → pDstId p = c → pReqTag p = tag → pairCurrent s c p = true → p.orig = 0 →
      r.addr = p.w2 → r.status = none → r.tries = p.origArg → s.pairTags = [] →
      (pType p = tCOMPLETION → pStatus p ≠ 0 → exec (.completion id) s =
        .next (updCore (dropPkt s id) c (fun k => countErr (dropReq k tag) r.tq (pStatus p))))
      ∧ (pType p = tCOMPLETION → pStatus p = 0 → (r.kind = 1 ∨ r.kind = 2) → exec (.completion id) s =
        .next (updCore (dropPkt s id) c (fun k => dropReq k tag)))
      ∧ (pType p = tCOMPLETION → pStatus p = 0 → r.kind = 3 → exec (.completion id) s = .next (spdWriteWords
          (updCore (dropPkt s id) c (fun k => dropReq k tag)) c (r.spad / 8) p.body))
      ∧ (pType p = tLOADDATA → pStatus p = 0 → r.kind = 0 → exec (.loadData id) s = .next (spdWriteWords
          (updCore (dropPkt s id) c (fun k => dropReq k tag)) c (r.spad / 8) p.body))

/-- R69 to R73, R79 to R82, R102: the matrix commands at issue and at the engines. -/
def Obligations.MatrixResult : Prop := MatrixInstructionResult ∧ MatrixEnginesRun

/-- R65 to R67, R207, R245, R246: a transfer leaves part by part, and its answers complete it. -/
def Obligations.TransferResult : Prop := TransferInjection ∧ TransferCompletion

/-! ## Events of a core: tasks, faults, scratchpad -/

/-- R23, R33, R35: of the candidates the task of highest priority fires, on the lowest free thread it may run on, its pc at
ENTRY and s31 the new firing number and the task; without one nothing happens. R31: a write that enables a task which fails
the check leaves it disabled and records "bad task". R40: a task that fires has BLOCKED zero. R75, R77: a clear of the fault
record, and of the stall counters of the threads named. -/
def Obligations.TaskEvents : Prop :=
  ∀ (s : State) (c : Nat),
    ((cfld (getCore s c) oState 47 47 = 0 ∨ (getCore s c).stopped = true ∨ chooseTask (getCore s c) = none) →
      exec (.taskFiring c) s = .next s)
    ∧ (∀ n, chooseTask (getCore s c) = some n → n < 16 ∧ isCandidate (getCore s c) n = true
        ∧ (∀ m, m < 16 → isCandidate (getCore s c) m = true →
            cfld (getCore s c) (oTaskCfg m) 60 59 ≤ cfld (getCore s c) (oTaskCfg n) 60 59)
        ∧ (cfld (getCore s c) oState 47 47 = 1 → (getCore s c).stopped = false → ∃ u t, exec (.taskFiring c) s = .next u
            ∧ freeThread (getCore s c) n = some t
            ∧ (thr u c t).firing = some { task := n, start := coreCycles s c, takes := [0, 0, 0, 0], puts := [0, 0, 0, 0],
                                          chosen := none }
            ∧ (thr u c t).pc = BitVec.ofNat 12 (cfld (getCore s c) (oTaskCfg n) 43 32)
            ∧ rdS (thr u c t) 31 = ⟨BitVec.ofNat 64 (2 ^ 32 * cfld (getCore u c) (oTaskStat n) 63 32 + n), false⟩
            ∧ cfld (getCore u c) (oTaskStat n) 63 32 = (cfld (getCore s c) (oTaskStat n) 63 32 + 1) % 2 ^ 32
            ∧ cfld (getCore u c) (oTaskStat n) 31 30 = 2 ∧ cfld (getCore u c) (oTaskStat n) 29 28 = t
            ∧ cfld (getCore u c) (oTaskStat n) 27 0 = 0
            ∧ (∀ x, x ≠ t → thr u c x = thr s c x) ∧ (∀ o, o ≠ oTaskStat n → creg (getCore u c) o = creg (getCore s c) o)
            ∧ (getCore u c).lastFired = n ∧ (getCore u c).spd = (getCore s c).spd
            ∧ (getCore u c).queues = (getCore s c).queues ∧ onlyCore s u c))
    ∧ (∀ n v, n < 16 → ∃ u, exec (.taskEnableCheck c n v) s = .next u ∧ onlyCore s u c
        ∧ (bit v 63 = false ∨ taskOk (setCreg (getCore s c) (oTaskCfg n) (v &&& taskCfgMask)) n = true →
            creg (getCore u c) (oTaskCfg n) = v &&& taskCfgMask
            ∧ ∀ o, o ≠ oTaskCfg n → creg (getCore u c) o = creg (getCore s c) o)
        ∧ (bit v 63 = true → taskOk (setCreg (getCore s c) (oTaskCfg n) (v &&& taskCfgMask)) n = false →
            cfld (getCore u c) (oTaskCfg n) 63 63 = 0
            ∧ (cfld (getCore s c) oFault 63 63 = 0 → cfld (getCore u c) oFault 63 63 = 1
                ∧ cfld (getCore u c) oFault 55 48 = 0x04 ∧ cfld (getCore u c) oFault 47 44 = n)))
    ∧ (∃ u, exec (.faultClear c) s = .next u ∧ creg (getCore u c) oFault = 0#64
        ∧ (∀ o, o ≠ oFault → creg (getCore u c) o = creg (getCore s c) o) ∧ (getCore u c).threads = (getCore s c).threads
        ∧ (getCore u c).stopped = (getCore s c).stopped ∧ onlyCore s u c)
    ∧ (∀ v, ∃ u, exec (.stallClear c v) s = .next u ∧ onlyCore s u c
        ∧ (∀ t i, t < 4 → i < 16 → creg (getCore u c) (oStall t i) =
            if (bits v 3 0).testBit t then 0#64 else creg (getCore s c) (oStall t i))
        ∧ (∀ t, t < 4 → (bits v 3 0).testBit t = true → fget zeroNat (getCore u c).stallBase t = coreCycles s c))

/-- R122: an access that has waited 32 cycles is promoted. R143: scrubbing reads one line every INTERVAL cycles, then moves
to the next, and counts a pass at the end. R128: a region descriptor is stored with its pointers, wrap bits and OPEN zero and
its ring empty; one of the reserved USE, or that leaves the scratchpad, is left disabled and sets CFG_REJECT. -/
def Obligations.ScratchpadEvents : Prop :=
  ∀ (s : State) (c : Nat),
    (∀ prec since, 2 ≤ prec → prec ≤ 7 → accessWaits s c prec = true → since + 32 ≤ coreCycles s c → ∃ u,
        exec (.scratchpadAccessPromote c prec since) s = .next u ∧ (since, prec) ∈ (getCore u c).promoted
        ∧ (since, prec) ∉ (getCore u c).waiting ∧ (∀ x ∈ (getCore s c).promoted, x ∈ (getCore u c).promoted)
        ∧ (getCore u c).regs = (getCore s c).regs ∧ onlyCore s u c)
    ∧ (∀ prec since, 2 ≤ prec → prec ≤ 7 → accessWaits s c prec = true → since ≤ coreCycles s c →
        coreCycles s c < since + 32 → (since, prec) ∉ (getCore s c).waiting → exec (.scratchpadAccessPromote c prec since) s =
          .next (setCore s c { getCore s c with waiting := (getCore s c).waiting ++ [(since, prec)] }))
    ∧ (cleanPad s c → padTurn s c 7 = true → cfld (getCore s c) oSpdScrub 63 63 = 1 →
        (getCore s c).scrubAt + cfld (getCore s c) oSpdScrub 15 0 ≤ coreCycles s c → ∃ u,
          exec (.scrubStep c []) s = .next u
          ∧ cfld (getCore u c) oSpdScrub 25 16 = (cfld (getCore s c) oSpdScrub 25 16 + 1) % 1024
          ∧ cfld (getCore u c) oSpdScrub 47 32 = (cfld (getCore s c) oSpdScrub 47 32
              + if cfld (getCore s c) oSpdScrub 25 16 = 1023 then 1 else 0) % 65536
          ∧ (getCore u c).scrubAt = coreCycles s c ∧ (getCore u c).spd = (getCore s c).spd
          ∧ (∀ o, o ≠ oSpdScrub → creg (getCore u c) o = creg (getCore s c) o) ∧ onlyCore s u c)
    ∧ (∀ n v, n < 16 → ∃ u, exec (.regionCfgWrite c n v) s = .next u ∧ onlyCore s u c
        ∧ creg (getCore u c) (oRegionPtr n) = 0#64 ∧ ringMsgs (getCore u c) n = []
        ∧ (∀ r, r ≠ n → ringMsgs (getCore u c) r = ringMsgs (getCore s c) r)
        ∧ (bit v 63 = false → creg (getCore u c) (oRegion n) = v &&& regionMask)
        ∧ (bit v 63 = true → bits v 62 61 = 0 → bits v 14 0 + bits v 46 32 + 1 ≤ 32768 → 2 ≤ bits v 46 32 + 1 →
            creg (getCore u c) (oRegion n) = v &&& regionMask)
        ∧ (bit v 63 = true → (bits v 62 61 = 3 ∨ 32768 < bits v 14 0 + bits v 46 32 + 1) →
            cfld (getCore u c) (oRegion n) 63 63 = 0 ∧ cfld (getCore u c) oSpdStat 63 63 = 1))

/-! ## Messages on their way, and at the landing stage -/

/-- R210 to R214, R216, R218, R377: at its router a MESSAGE that starts a stream, or carries the OSEQ its stream expects,
passes to landing; one out of its turn is held in the window; the entry notes the arrival. ORDER_END is answered; only its
plot's table changes. A current MSG_ACK releases its send; a current BOUNCE is counted and
waits at the bounce stage. Stated for cores in no redundant pair. -/
def Obligations.MessageArrival : Prop :=
  ∀ (s : State) (id : Nat) (p : Packet), stands s id p →
    (pType p = tMESSAGE → p.orig = 0 → pairRole s (pDstId p) = none →
      (pOstart p = true → streamOf (getPlot s (plotOf (pDstId p))).rcv p = none →
        (getPlot s (plotOf (pDstId p))).rcv.length < 64 → ∃ u e, exec (.message id) s = .next u
          ∧ (getCore u (pDstId p)).land = (getCore s (pDstId p)).land ++
              [{ pkt := p, since := coreCycles s (pDstId p), serial := false, waited := false }]
          ∧ (getPlot u (plotOf (pDstId p))).rcv = (getPlot s (plotOf (pDstId p))).rcv ++ [e]
          ∧ e.expect = pOseq p ∧ e.active = 1 ∧ u.net = s.net.filter (fun q => decide (q.id ≠ id))
          ∧ (∀ x, x ≠ pDstId p → getCore u x = getCore s x))
      ∧ (∀ e, pOstart p = false → streamOf (getPlot s (plotOf (pDstId p))).rcv p = some e → pOseq p = e.expect →
        exec (.message id) s = .next (updCore (dropPkt (setPlot s (plotOf (pDstId p)) (putStream
            (getPlot s (plotOf (pDstId p))) p (some { e with last := s.now.toNat }))) id) (pDstId p) (fun k => { k with
          land := k.land ++ [{ pkt := p, since := coreCycles s (pDstId p), serial := false, waited := false }] })))
      ∧ (∀ e, pOstart p = false → streamOf (getPlot s (plotOf (pDstId p))).rcv p = some e → pOseq p ≠ e.expect →
        (getPlot s (plotOf (pDstId p))).window.length < 16 → ∃ u, exec (.message id) s = .next u
          ∧ (getPlot u (plotOf (pDstId p))).window = (getPlot s (plotOf (pDstId p))).window ++ [{ pkt := p, time := s.now.toNat }]
          ∧ (getPlot u (plotOf (pDstId p))).rcv
              = (putStream (getPlot s (plotOf (pDstId p))) p (some { e with last := s.now.toNat })).rcv
          ∧ u.net = s.net.filter (fun q => decide (q.id ≠ p.id)) ∧ u.cores = s.cores))
    ∧ (pType p = tORDEREND → routed s (pSrcDev p) → ∃ u q, exec (.orderEnd id) s = .next u
        ∧ u.net = s.net.filter (fun x => decide (x.id ≠ id)) ++ [q] ∧ pType q = tCOMPLETION ∧ pDstId q = pSrcCore p
        ∧ u.cores = s.cores ∧ ∀ j, j ≠ plotOf (pDstId p) → getPlot u j = getPlot s j)
    ∧ (pType p = tMSGACK → pGen p = coreGen (getCore s (pDstId p)) → pCtx p = coreCtx (getCore s (pDstId p)) →
        pairRole s (pDstId p) = none → ∀ r l, (getCore s (pDstId p)).sends = r :: l → r.thread = pThread p →
        r.dev = normDev s (pSrcDev p) → r.core = p.origArg / 16 → r.ring = p.origArg % 16 → r.oseq = pOseq p →
        ∃ u, exec (.msgAck id) s = .next u ∧ (getCore u (pDstId p)).sends = l
          ∧ (∀ e, findOrder (getCore s (pDstId p)) r.dev r.core r.ring = some e → 1 < e.unacked →
              u.net = s.net.filter (fun x => decide (x.id ≠ id)))
          ∧ (getCore u (pDstId p)).threads = (getCore s (pDstId p)).threads
          ∧ (∀ x, x ≠ pDstId p → getCore u x = getCore s x))
    ∧ (pType p = tBOUNCE → pGen p = coreGen (getCore s (pDstId p)) → pCtx p = coreCtx (getCore s (pDstId p)) → ∃ u,
        exec (.bounce id) s = .next u ∧ (getCore u (pDstId p)).bounces = (getCore s (pDstId p)).bounces ++
            [{ pkt := p, since := coreCycles s (pDstId p), serial := false, waited := false }]
        ∧ cfld (getCore u (pDstId p)) oMsgErr 63 48 = min 65535 (cfld (getCore s (pDstId p)) oMsgErr 63 48 + 1)
        ∧ u = { s with net := s.net.filter (fun x => decide (x.id ≠ id)), cores := u.cores }
        ∧ (∀ x, x ≠ pDstId p → getCore u x = getCore s x))

/-- R211, R214: a held packet whose hold has lasted TRACK_TO passes to landing, its stream goes on after it, and the OSEQs
skipped are counted; an entry of whose stream no packet is held and that has been idle twice as long is freed. -/
def Obligations.OrderTimers : Prop :=
  ∀ (s : State) (j : Nat),
    (∀ h l id, (getPlot s j).window = h :: l → h.pkt.id = id → plotOf (pDstId h.pkt) = j → h.time + trackTo s j ≤ s.now.toNat →
      ∀ e, streamOf (getPlot s j).rcv h.pkt = some e → ∃ u, exec (.windowHoldTimeout j id) s = .next u
        ∧ (getPlot u j).window = l.filter (fun x => decide (x.pkt.id ≠ id))
        ∧ (getCore u (pDstId h.pkt)).land = (getCore s (pDstId h.pkt)).land ++
            [{ pkt := h.pkt, since := coreCycles s (pDstId h.pkt), serial := false, waited := false }]
        ∧ streamOf (getPlot u j).rcv h.pkt = some { e with expect := (pOseq h.pkt + 1) % 256 }
        ∧ pfld (getPlot u j) oPlotOrder 15 0
            = min 65535 (pfld (getPlot s j) oPlotOrder 15 0 + (pOseq h.pkt + 256 - e.expect) % 256)
        ∧ u.net = s.net ∧ (∀ x, x ≠ pDstId h.pkt → getCore u x = getCore s x))
    ∧ (∀ i e, (getPlot s j).rcv[i]? = some e → e.last + 2 * trackTo s j ≤ s.now.toNat →
        (∀ h ∈ (getPlot s j).window, streamOf [e] h.pkt = none) →
      exec (.orderEntryExpire j i) s = .next (setPlot s j { getPlot s j with rcv := (getPlot s j).rcv.eraseIdx i }))

/-- R133, R215, R218: the message at the head of the landing stage lands in its ring when every check passes and free words
suffice, and is acknowledged; it waits when they do not, and bounces "ring full" once it has waited LAND_WAIT; it bounces for
the first check that fails. Stated for messages of cores, with no seed under way and no held packet at the plot. -/
def Sys2Proof.Claim.MessageLandingResult : Prop :=
  ∀ (s : State) (c : Nat) (l : Land) (r : List Land), (getCore s c).land = l :: r → l.pkt.orig = 0 → l.serial = false →
    pDstId l.pkt = c → (∀ n, (getFun s n).seed = none) → (getPlot s (plotOf c)).window = [] → routed s (pSrcDev l.pkt) →
    (landChecks s c l.pkt = none →
      (pLen l.pkt + 1 ≤ freeWords (getCore s c) (pDstRing l.pkt) → ∃ u q, exec (.messageLanding c) s = .next u
        ∧ ringMsgs (getCore u c) (pDstRing l.pkt) = ringMsgs (getCore s c) (pDstRing l.pkt) ++
            [{ off := cfld (getCore s c) (oRegionPtr (pDstRing l.pkt)) 46 32, n := l.pkt.body.length + 1, len := pLen l.pkt,
               tag := pTag l.pkt, selected := false, retired := false, resv := none }]
        ∧ (getCore u c).land = r ∧ u.net = s.net ++ [q] ∧ pType q = tMSGACK ∧ pDstId q = pSrcCore l.pkt
        ∧ pOseq q = pOseq l.pkt ∧ pThread q = pThread l.pkt ∧ (getCore u c).threads = (getCore s c).threads
        ∧ (∀ x, x ≠ c → getCore u x = getCore s x))
      ∧ (freeWords (getCore s c) (pDstRing l.pkt) < pLen l.pkt + 1 →
        (l.waited = false → exec (.messageLanding c) s = .next (setCore s c { getCore s c with
            land := { l with waited := true, since := coreCycles s c } :: r }))
        ∧ (l.waited = true → exec (.messageLanding c) s = .next s)
        ∧ (l.waited = true → l.since + pfld (getPlot s (plotOf c)) oPlotCtl 63 48 * 64 ≤ coreCycles s c → ∃ u q,
            exec (.landWaitExpire c) s = .next u ∧ (getCore u c).land = r ∧ u.net = s.net ++ [q] ∧ pType q = tBOUNCE
            ∧ pReason q = 5 ∧ pDstId q = pSrcCore l.pkt ∧ q.body = l.pkt.body
            ∧ (getCore u c).rings = (getCore s c).rings ∧ (∀ x, x ≠ c → getCore u x = getCore s x))))
    ∧ (∀ reason, landChecks s c l.pkt = some reason → reason < 16 → ∃ u q, exec (.messageLanding c) s = .next u
        ∧ (getCore u c).land = r ∧ u.net = s.net ++ [q] ∧ pType q = tBOUNCE ∧ pReason q = reason
        ∧ pDstId q = pSrcCore l.pkt ∧ q.body = l.pkt.body
        ∧ cfld (getCore u c) oMsgErr 47 32 = min 65535 (cfld (getCore s c) oMsgErr 47 32 + 1)
        ∧ (getCore u c).rings = (getCore s c).rings ∧ (∀ x, x ≠ c → getCore u x = getCore s x))

/-- R133, R135, R218: a bounce at the head of its stage lands in the bounce ring, as a message of its words and two more.
Without a bounce ring it is discarded and counted in SPD_STAT. R207: a plain load or store whose timer has run out is
re-issued, twice, when the L buffer has room; after that, and every other request at once, it completes "unreachable"; a send
is then taken as done and counted, a contribution and an ORDER_END as done. -/
def Sys2Proof.Claim.BounceLandingAndTimers : Prop :=
  ∀ (s : State) (c : Nat),
    (∀ l r, (getCore s c).bounces = l :: r → (∀ e, findOrder (getCore s c) (normDev s (bits l.pkt.w2 63 48))
        (bits l.pkt.w2 30 16) (bits l.pkt.w2 15 12) = some e → 1 < e.unacked) →
      (bounceRing (getCore s c) = none → ∃ u, exec (.bounceLanding c) s = .next u ∧ (getCore u c).bounces = r
        ∧ cfld (getCore u c) oSpdStat 15 0 = min 65535 (cfld (getCore s c) oSpdStat 15 0 + 1)
        ∧ (getCore u c).rings = (getCore s c).rings ∧ u.net = s.net ∧ (∀ x, x ≠ c → getCore u x = getCore s x))
      ∧ (∀ n, bounceRing (getCore s c) = some n → pLen l.pkt + 2 ≤ regSize (getCore s c) n →
          pLen l.pkt + 2 ≤ freeWords (getCore s c) n → ∃ u, exec (.bounceLanding c) s = .next u
            ∧ (getCore u c).bounces = r ∧ u.net = s.net
            ∧ ringMsgs (getCore u c) n = ringMsgs (getCore s c) n ++
                [{ off := cfld (getCore s c) (oRegionPtr n) 46 32, n := l.pkt.body.length + 2, len := pLen l.pkt,
                   tag := pTag l.pkt, selected := false, retired := false, resv := none }]
            ∧ (∀ x, x ≠ c → getCore u x = getCore s x)))
    ∧ (∀ tag r, reqOf (getCore s c) tag = some r → r.tag = tag → r.status = none → timedOut s c (adDev r.addr) r.time = true →
        (2 ≤ r.tries ∨ 2 ≤ r.kind) → r.kind < 4 → s.pairTags = [] →
        exec (.trackTimeout c (.req tag)) s = .next (updCore s c (fun k => countErr (dropReq k tag) r.tq 5)))
    ∧ (∀ tag r, reqOf (getCore s c) tag = some r → r.tag = tag → r.status = none → timedOut s c (adDev r.addr) r.time = true →
        r.tries < 2 → r.kind < 2 →
        injectRoom s (plotOf c) (reqPacket s c { r with tries := r.tries + 1, time := s.now.toNat, got := [] }) = true → ∃ u,
          exec (.trackTimeout c (.req tag)) s = .next u
          ∧ reqOf (getCore u c) tag = some { r with tries := r.tries + 1, time := s.now.toNat, got := [] }
          ∧ (getCore u c).threads = (getCore s c).threads ∧ (∀ x, x ≠ c → getCore u x = getCore s x))
    ∧ (∀ i r, (getCore s c).sheafs[i]? = some r → timedOut s c r.dev r.time = true →
        exec (.trackTimeout c (.sheaf i)) s = .next (setCore s c { getCore s c with sheafs := (getCore s c).sheafs.eraseIdx i }))
    ∧ (∀ i r, (getCore s c).ends[i]? = some r → timedOut s c r.dev r.time = true →
        exec (.trackTimeout c (.orderEnd i)) s = .next (setCore s c { getCore s c with ends := (getCore s c).ends.eraseIdx i }))
    ∧ (∀ i r, (getCore s c).sends[i]? = some r → timedOut s c r.dev r.time = true →
        (∀ e, findOrder (getCore s c) r.dev r.core r.ring = some e → 1 < e.unacked) → ∃ u,
          exec (.trackTimeout c (.send i)) s = .next u
          ∧ cfld (getCore u c) oMsgErr 31 16 = min 65535 (cfld (getCore s c) oMsgErr 31 16 + 1)
          ∧ (getCore u c).sends.length + 1 = (getCore s c).sends.length ∧ u.net = s.net
          ∧ (∀ x, x ≠ c → getCore u x = getCore s x))

/-- R133, R135, R211 to R218: messages and bounces land, wait, are turned back or dropped. -/
def Obligations.MessageEndResult : Prop := MessageLandingResult ∧ BounceLandingAndTimers

/-! ## Sheaf reduction -/

namespace Sys2Proof.Claim

/-- The network without packet id. -/
def less (s : State) (id : Nat) : List Packet := s.net.filter (fun q => decide (q.id ≠ id))

/-- Only plot j and the network have changed. -/
def onlyPlot (s u : State) (j : Nat) : Prop :=
  u = { s with plots := u.plots, net := u.net, nextId := u.nextId } ∧ ∀ i, i ≠ j → getPlot u i = getPlot s i

/-- What an ordered node holds of a round once a contribution has come: its place among the parts, in increasing order,
and whether the parts differ in BYTES, element type or OP. -/
def withPart (x : ShRound) (p : ShPart) : ShRound :=
  { x with parts := insertPart p x.parts
           mismatch := x.mismatch || (match x.parts with | q :: _ => decide (q.shape ≠ p.shape) | [] => false) }

/-- The fold of a round's parts, in their order: every word poisoned when they differ. -/
def roundSum (x : ShRound) : List PWord :=
  foldParts (bits (match x.parts with | p :: _ => p.shape | [] => 0#64) 44 43)
    (bits (match x.parts with | p :: _ => p.shape | [] => 0#64) 45 45) x.mismatch x.parts

end Sys2Proof.Claim

/-- R221, R223, R225, R226: an ordered node keeps a contribution of a round it accepts until every contribution and child
is held, then folds them in their order; the root delivers the sum as a message to the target ring, another node sends it to
its parent with the COUNT summed. Contributions that differ count one MISMATCH. A round not accepted is discarded, counted
and answered at once. R222: what a free node holds is forwarded when COMBINE_WAIT has passed. R224: a SHEAF_DONE completes
the core's contribution. R297: a remote contribution joins the round at the root. -/
def Obligations.SheafCombining : Prop :=
  ∀ (s : State),
    (∀ id p j n, stands s id p → pType p = tSHEAF → pSrcDev p = ownDev s → plotAt s p.at_ = some j →
      nodeOf s j (pShId p) = some n → nodeFree s j n = false → p.id = id →
      (roundOk (getNode s j n) (pShRound p) = false → p.orig ≠ 4 → routed s (pSrcDev p) → ∃ u q,
        exec (.sheafPacket id) s = .next u ∧ u.net = less s id ++ [q] ∧ pType q = tSHEAFDONE ∧ pDstId q = pSrcCore p
        ∧ pShRound q = pShRound p ∧ onlyPlot s u j ∧ (getPlot u j).nodes = (getPlot s j).nodes
        ∧ pfld (getPlot u j) oSheafStat 31 16 = min 65535 (pfld (getPlot s j) oSheafStat 31 16 + 1))
      ∧ (roundOk (getNode s j n) (pShRound p) = true →
        ∀ x y, x = (findRound (getNode s j n) (pShRound p)).getD (emptyRound (pShRound p) p.w1) →
        y = withPart x { who := partWho s j n p x, count := pShCount p, data := p.body, shape := shShape p.w2 } →
        (orderedComplete s j n y = false → ∃ u, exec (.sheafPacket id) s = .next u ∧ u.net = less s id
          ∧ getNode u j n = putRound (getNode s j n) y ∧ onlyPlot s u j
          ∧ pfld (getPlot u j) oSheafStat 31 16 = min 65535 (pfld (getPlot s j) oSheafStat 31 16 +
              if y.mismatch = true ∧ x.mismatch = false then 1 else 0))
        ∧ (orderedComplete s j n y = true → y.mismatch = false → y.remotes.length ≤ 64 → routed s 0xFFFF →
          (nodeRoot s j n = false → ∃ u q, exec (.sheafPacket id) s = .next u ∧ u.net = less s id ++ [q]
            ∧ pType q = tSHEAF ∧ pDstId q = nodeTarget s j n ∧ pShRound q = y.round % 256 ∧ q.body = roundSum y
            ∧ pShCount q = partsCount y.parts % 32768 ∧ findRound (getNode u j n) y.round = none ∧ onlyPlot s u j)
          ∧ (nodeRoot s j n = true → bits (y.parts.headD { who := 0, count := 0, data := [], shape := 0#64 }).shape 42 33 ≠ 0 →
            ∃ u q, exec (.sheafPacket id) s = .next u ∧ u.net = less s id ++ [q]
            ∧ pType q = tMESSAGE ∧ pDstId q = nodeTarget s j n ∧ pDstRing q = nodeRing s j n
            ∧ q.body = resultWords (y.parts.headD { who := 0, count := 0, data := [], shape := 0#64 }).shape (roundSum y)
            ∧ pfld (getPlot u j) oSheafStat 63 48 = (pfld (getPlot s j) oSheafStat 63 48 + 1) % 65536 ∧ onlyPlot s u j))))
    ∧ (∀ j n r x p l t, findRound (getNode s j n) r = some x → x.since = some t → x.parts = p :: l → x.mismatch = false →
      t + pfld (getPlot s j) oPlotCtl 39 32 ≤ cycles s (fieldOf (physOf s j)) → routed s 0xFFFF → ∃ u q,
        exec (.combineWaitExpire j n r) s = .next u ∧ u.net = s.net ++ [q] ∧ pType q = tSHEAF ∧ q.body = p.data
        ∧ pShRound q = r % 256 ∧ pShCount q = p.count % 32768 ∧ findRound (getNode u j n) r = none ∧ onlyPlot s u j)
    ∧ (∀ id p, stands s id p → pType p = tSHEAFDONE → pDstKind p = 0 → pairCurrent s (pDstId p) p = true →
      exec (.sheafDone id) s = .next (updCore (dropPkt s id) (pDstId p) (fun k => { k with
        sheafs := k.sheafs.eraseP (fun r => decide (r.dev = if isLocalDev s (pSrcDev p) then 0xFFFF else pSrcDev p)
          && decide (r.sheaf = pShId p) && decide (r.round = pShRound p)) })))
    ∧ (∀ id p n b, stands s id p → pType p = tSHEAF → p.yk ≠ 0 → nodeOf s (pDstId p) (pShId p) = some n →
      s.inbound.find? (fun x => decide (x.id + 1 = p.yk)) = some b → nodeRoot s (pDstId p) n = true →
      nodeFree s (pDstId p) n = false → roundLate (getNode s (pDstId p) n) (pShRound p) = false →
      roundOk (getNode s (pDstId p) n) (pShRound p) = true → sheafDigest p = b.txn.digest →
      ∀ x y, x = (findRound (getNode s (pDstId p) n) (pShRound p)).getD (emptyRound (pShRound p) p.w1) →
      x.remotes.length < 64 →
      y = withPart { x with remotes := x.remotes ++ [p] }
            { who := remoteWho s p, count := pShCount p, data := p.body, shape := shShape p.w2 } →
      orderedComplete s (pDstId p) n y = false → ∃ u, exec (.remoteSheafContribution id) s = .next u ∧ u.net = less s id
        ∧ getNode u (pDstId p) n = putRound (getNode s (pDstId p) n) y ∧ onlyPlot s u (pDstId p))

/-! ## The furrow network -/

/-- R146, R159: a link whose entry can move takes the oldest entry of its source, holds it as a flit, uses one credit of its
target and counts the move; otherwise nothing happens. R148, R149, R161: a flit reaches its target queue or pass-through
register, words of bad parity poisoned; without a free slot it is discarded and OVERFLOW set; with an uncorrectable sideband it is
discarded and SIDEBAND set. R160: a credit returns, and is lost with its cycle when the sideband is uncorrectable. R158: RUN
starts when the schedule passes its check; the table is not written while RUN is set. R153, R389, R390: a seam group whose
margin falls below 7 taps waits for the next boundary; a held group whose sweep finds a window is in use again, its capture
phase in the middle of the window, and the recalibration counts. -/
def Sys2Proof.Claim.FurrowLinkResult : Prop :=
  ∀ (s : State) (c d : Nat),
    ((4 ≤ d ∨ canMove s c d = false) → exec (.linkMove c d) s = .next s)
    ∧ (d < 4 → canMove s c d = true → ∀ src dst w, sched (getCore s c) (getLink (getCore s c) d).ptr = w → schSrc w d = src →
        schDst w d = dst → ∀ e l, (src < 16 ∧ bufferHead (getCore s c) src e l ∨
          16 ≤ src ∧ getPass (getCore s c) (src - 16) = e :: l) → ∃ u, exec (.linkMove c d) s = .next u
        ∧ (getLink (getCore u c) d).flit = some ⟨e, dst⟩
        ∧ fget zeroNat (getLink (getCore u c) d).used dst = fget zeroNat (getLink (getCore s c) d).used dst + 1
        ∧ (getLink (getCore u c) d).moves = (if (getLink (getCore s c) d).moves = bits w 55 48 then 0
            else (getLink (getCore s c) d).moves + 1)
        ∧ cfld (getCore u c) oFurFlits 63 32 = (cfld (getCore s c) oFurFlits 63 32 + 1) % 2 ^ 32
        ∧ (src < 16 → (getQueue (getCore u c) src).buf = l) ∧ (16 ≤ src → getPass (getCore u c) (src - 16) = l)
        ∧ (getCore u c).threads = (getCore s c).threads ∧ (∀ x, x ≠ c → getCore u x = getCore s x))
    ∧ (∀ f n par sb, (getLink (getCore s c) d).flit = some f → neighbour s c d = some n →
        (sb = .uncorrectable → ∃ u, exec (.flitArrival c d par sb) s = .next u ∧ (getLink (getCore u c) d).flit = none
          ∧ cfld (getCore u n) oFurStat 61 61 = 1 ∧ (getCore u n).queues = (getCore s n).queues
          ∧ (getCore u n).pass = (getCore s n).pass ∧ (∀ x, x ≠ c → x ≠ n → getCore u x = getCore s x))
        ∧ (sb = .clean → cfld (getCore s n) oFurCtl 63 63 = 1 → ∃ u, exec (.flitArrival c d par sb) s = .next u
          ∧ (getLink (getCore u c) d).flit = none ∧ (∀ x, x ≠ c → x ≠ n → getCore u x = getCore s x)
          ∧ (f.dst < 16 → qKind (getCore s n) f.dst = 1 → (getQueue (getCore s n) f.dst).buf.length < 16 →
              (getQueue (getCore u n) f.dst).buf = (getQueue (getCore s n) f.dst).buf ++
                [{ f.entry with poi := f.entry.poi ||| par }]
              ∧ cfld (getCore u n) oFurFlits 31 0 = (cfld (getCore s n) oFurFlits 31 0 + 1) % 2 ^ 32)
          ∧ (16 ≤ f.dst → (getPass (getCore s n) (f.dst - 16)).length < 4 →
              getPass (getCore u n) (f.dst - 16) = getPass (getCore s n) (f.dst - 16) ++
                [{ f.entry with poi := f.entry.poi ||| par }])
          ∧ (16 ≤ f.dst → 4 ≤ (getPass (getCore s n) (f.dst - 16)).length → cfld (getCore u n) oFurStat 59 59 = 1
              ∧ (getCore u n).pass = (getCore s n).pass)))
    ∧ (∀ n g l sb, neighbour s c d = some n → (getLink (getCore s n) (opposite d)).cret = g :: l → ∃ u,
        exec (.creditReturn c d sb) s = .next u ∧ (∀ x, x ≠ c → x ≠ n → getCore u x = getCore s x)
        ∧ (sb ≠ .uncorrectable → (getLink (getCore u n) (opposite d)).cret = l
          ∧ fget zeroNat (getLink (getCore u c) d).used g = fget zeroNat (getLink (getCore s c) d).used g - 1)
        ∧ (sb = .uncorrectable → (getLink (getCore u n) (opposite d)).cret = []
          ∧ (getLink (getCore u c) d).used = (getLink (getCore s c) d).used ∧ cfld (getCore u c) oFurStat 61 61 = 1))
    ∧ (cfld (getCore s c) oFurCtl 63 63 = 0 → ∃ u, exec (.switchRunStart c) s = .next u ∧ onlyCore s u c
        ∧ cfld (getCore u c) oFurCtl 63 63 = (schedOk s c).toNat
        ∧ (schedOk s c = true → ∀ x, x < 4 → (getLink (getCore u c) x).moves = 0)
        ∧ (schedOk s c = false → cfld (getCore u c) oFurStat 60 60 = 1 ∧ (getCore u c).links = (getCore s c).links))
    ∧ (∀ e v, e < 256 → ∃ u, exec (.scheduleWrite c e v) s = .next u ∧ onlyCore s u c
        ∧ (cfld (getCore s c) oFurCtl 63 63 = 0 → sched (getCore u c) e = v &&& schedMask
            ∧ ∀ o, o ≠ oFurSched e → creg (getCore u c) o = creg (getCore s c) o)
        ∧ (cfld (getCore s c) oFurCtl 63 63 = 1 → cfld (getCore u c) oFurStat 60 60 = 1
            ∧ ∀ o, o ≠ oFurStat → creg (getCore u c) o = creg (getCore s c) o))
    ∧ (∀ g, g < 126 → (∀ lo hi, (getCal s g).hi ≠ 0 → (getCal s g).due = 0 → ∃ u,
          exec (.seamRecalibration g (.monitor lo hi)) s = .next u ∧ u.seams = s.seams ∧ u.cores = s.cores
          ∧ (getCal u g).lo = min lo (getCal s g).phase ∧ (getCal u g).hi = max hi (getCal s g).phase
          ∧ (getCal u g).phase = (getCal s g).phase
          ∧ (getCal u g).due = if (getCal s g).phase - min lo (getCal s g).phase < 7
              ∨ max hi (getCal s g).phase - (getCal s g).phase < 7 then 1 + s.swathNow else 0)
        ∧ (∀ x b, fget zeroNat s.seams g = 3 → (getCal s g).heldAt + 64 * 48 ≤ cycles s (seamFields g).1 →
          sweepWindow (sweepTry x 0) = some b → ∃ u, exec (.seamRecalibration g (.swept x)) s = .next u
          ∧ fget zeroNat u.seams g = 0 ∧ (getCal u g).lo = b.1 ∧ (getCal u g).hi = b.2
          ∧ (getCal u g).phase = (b.1 + b.2) / 2 ∧ u.cores = s.cores
          ∧ csrFld u aClkSeam 63 48 = min 65535 (csrFld s aClkSeam 63 48 + 1)))

/-- R174: the mover moves the oldest entry of a spilled queue's buffer to the TAIL of its extension, and does nothing when no
queue has something to move. R168 to R172: a task blocked for a further threshold is counted as sending a probe, under its
next number; a probe that returns to its blocked origin turns the first OUT queue that lacks room, and has an extension of 16
entries, to SPILL. R182, R183, R185: a drain stops intake, and after its limit it discards; a discard drain stops the core,
abandons its firings and empties its queues. -/
def Sys2Proof.Claim.FurrowProbesAndDrains : Prop :=
  ∀ (s : State) (c : Nat),
    ((∀ q, q < 16 → moverActs s c q = false) → exec (.moverStep c) s = .next s)
    ∧ (∀ e l, (∀ q, q ≠ 0 → q < 16 → moverActs s c q = false) → moverPost s c 0 = 1 → (getQueue (getCore s c) 0).buf = e :: l →
        qKind (getCore s c) 0 ≠ 1 → ∃ u, exec (.moverStep c) s = .next u ∧ (getQueue (getCore u c) 0).buf = l
        ∧ cfld (getCore u c) (oFurQspill 0) 63 32 = (cfld (getCore s c) (oFurQspill 0) 63 32 + 1) % 2 ^ 32
        ∧ (∀ i x, (entryWords e)[i]? = some x → spdRaw (getCore u c) ((regBase (getCore s c) (qExt (getCore s c) 0)
            + cfld (getCore s c) (oRegionPtr (qExt (getCore s c) 0)) 46 32 + i) % 32768) = if x.poi then 0#64 else x.val)
        ∧ u.net = s.net ∧ (∀ x, x ≠ c → getCore u x = getCore s x))
    ∧ (∀ n, n < 16 → cfld (getCore s c) oFurCtl 60 60 = 1 →
        (getTP (getCore s c) n).sentAt < blockedCnt (getCore s c) n / threshold (getCore s c) → ∃ u,
        exec (.probeSend c n) s = .next u
        ∧ (getTP (getCore u c) n).sentAt = blockedCnt (getCore s c) n / threshold (getCore s c)
        ∧ (getTP (getCore u c) n).seq = ((getTP (getCore s c) n).seq + 1) % 256
        ∧ cfld (getCore u c) oFurProbe 63 48 = min 65535 (cfld (getCore s c) oFurProbe 63 48 + 1)
        ∧ (∀ x, x ≠ c → getCore u x = getCore s x))
    ∧ (∀ id p, stands s id p → pType p = tPROBE → pDstId p = c → exec (.probe c (some id)) s = .next (updCore (dropPkt s id) c
        (fun k => storeProbe k { core := bits p.w2 46 32, task := bits p.w2 31 28, seq := bits p.w2 27 20,
                                 hops := bits p.w2 19 13, queue := bits p.w2 12 9, side := bits p.w2 8 8 })))
    ∧ (∀ p l n q, (getCore s c).probes = p :: l → probeTask (getCore s c) p.queue p.side = some n → p.core = c → p.task = n →
        threshold (getCore s c) ≤ blockedCnt (getCore s c) n → spillChoice (getCore s c) n = some q →
        (getQueue (getCore s c) q).spill = false → ∃ u, exec (.probe c none) s = .next u
        ∧ (getQueue (getCore u c) q).spill = true ∧ (getCore u c).probes = l
        ∧ cfld (getCore u c) (oFurQspill q) 15 0 = min 65535 (cfld (getCore s c) (oFurQspill q) 15 0 + 1)
        ∧ cfld (getCore u c) oFurProbe 31 16 = min 65535 (cfld (getCore s c) oFurProbe 31 16 + 1) ∧ onlyCore s u c)
    ∧ exec (.intakeStop c) s = .next (updCore s c (fun k => setCfld k oFurCtl 62 62 1))
    ∧ (∃ u, exec (.discardDrain c) s = .next u ∧ cfld (getCore u c) oState 47 47 = 0 ∧ cfld (getCore u c) oFurCtl 63 63 = 0
        ∧ (∀ t, t < 4 → (thr u c t).firing = none) ∧ (∀ q, q < 16 → (getQueue (getCore u c) q).buf = [])
        ∧ (getCore u c).pass = [] ∧ u.net = s.net ∧ (∀ x, x ≠ c → getCore u x = getCore s x))
    ∧ (∀ n, (getFun s n).teardown = none →
        ((fget drain0 s.drains n).active = false → ∃ u, exec (.quiescentDrain n) s = .next u
          ∧ fget drain0 u.drains n = { active := true, start := s.now.toNat, prev := none, done := false }
          ∧ (∀ x, x ∈ partCores s n → cfld (getCore u x) oFurCtl 62 62 = 1)
          ∧ (∀ x, x ∉ partCores s n → getCore u x = getCore s x))
        ∧ ((fget drain0 s.drains n).active = true → s.now.toNat < (fget drain0 s.drains n).start + 200000 →
          exec (.quiescentDrainTimeout n) s = .next s)
        ∧ ((fget drain0 s.drains n).active = true → (fget drain0 s.drains n).start + 200000 ≤ s.now.toNat →
          s.stw.move = none → ∃ u, exec (.quiescentDrainTimeout n) s = .next u
          ∧ (fget drain0 u.drains n).active = false ∧ (∀ x, x ∈ partCores s n → cfld (getCore u x) oState 47 47 = 0)
          ∧ (∀ x, x ∉ partCores s n → getCore u x = getCore s x)))

/-- R146 to R185: the links, the probes, the mover and the drains of the furrow. -/
def Obligations.FurrowResult : Prop := FurrowLinkResult ∧ FurrowProbesAndDrains

/-! ## The drove network: hops, escape and epochs -/

/-- Packet q is ready for the output of router x toward y (R187, R196). -/
def Sys2Proof.Claim.readyAt (s : State) (x y : Nat) (q : Packet) : Prop :=
  q ∈ s.net ∧ q.at_ = x ∧ readyFor s q = some y

/-- R189, R195, R200: a packet whose turn it is moves to the next router; one that the next router's buffer has no room for,
or whose turn it is not, waits. R196: of the packets ready for an output a C2 packet goes first; else, where no channel has
waited 16 cycles, one of the highest channel in the order C3, C1, C0. R188: a header with an uncorrectable error is discarded
and counted, a payload word is poisoned. R201: a C0 or C1 packet without a live productive direction, or one that has waited
ESC_WAIT, moves to C3 and sets ESC when the C3 buffer has room. -/
def Sys2Proof.Claim.PacketHopResult : Prop :=
  (∀ (s : State) (id : Nat) (p : Packet) (d : Nat), findPkt s id = some p → destRouter s p = some d → p.at_ ≠ d →
    p.port < 5 → keptHere s p = false →
    (∀ y, nextRouter s p d = some y →
      (arbPick s p.at_ y ≠ some id → ∀ hdr pay, exec (.packetHop id hdr pay) s = .next s)
      ∧ (bufRoom s y (portFrom p.at_ y) p.chan p.headland (flitsOf p) = false → (∀ q ∈ s.net, q.id = id → q = p) →
        ∀ hdr pay, exec (.packetHop id hdr pay) s = .next s)
      ∧ (arbPick s p.at_ y = some id → headerOk p = true →
        (∃ u, exec (.packetHop id [] []) s = .next u ∧ u.cores = s.cores ∧ u.notes = s.notes
          ∧ u.net = s.net.map (fun x => if x.id = id then
              { p with at_ := y, port := portFrom p.at_ y, since := cycles s (fieldOf y) } else x))
        ∧ (∀ i, i < p.body.length → pNflits p ≠ 0 → ∃ u, exec (.packetHop id [] [(i, .uncorrectable)]) s = .next u
          ∧ u.cores = s.cores
          ∧ u.net = s.net.map (fun x => if x.id = id then
              { p with at_ := y, port := portFrom p.at_ y, since := cycles s (fieldOf y)
                       body := p.body.set i { p.body.getD i noWord with poi := true } } else x))
        ∧ (∀ j k, plotAt s y = some j → k < 8 → ∃ u, exec (.packetHop id [(k, .uncorrectable)] []) s = .next u
          ∧ u.net = less s id
          ∧ pfld (getPlot u j) oRouteStat 31 16 = min 65535 (pfld (getPlot s j) oRouteStat 31 16 + 1)
          ∧ u.notes = .hdrDrop j :: s.notes ∧ u.cores = s.cores)))
    ∧ (bufRoom s p.at_ p.port 3 false (flitsOf p) = true → p.chan ≤ 1 →
      (nextRouter s p d = none → ∃ u, exec (.packetHop id [] []) s = .next u ∧ u.cores = s.cores
          ∧ u.net = s.net.map (fun q => if q.id = id then { q with w0 := setBits q.w0 25 25 1, chan := 3 } else q))
      ∧ (p.since + escWait s p.at_ ≤ cycles s (fieldOf p.at_) → ∃ u, exec (.escapeTimeout id) s = .next u
          ∧ u.cores = s.cores ∧ u.net = s.net.map (fun q => if q.id = id then
              { q with w0 := setBits q.w0 25 25 1, chan := 3 } else q)))
    ∧ (cycles s (fieldOf p.at_) < p.since + escWait s p.at_ → exec (.escapeTimeout id) s = .next s))
  ∧ ∀ (s : State) (x y : Nat) (q : Packet), readyAt s x y q →
    (q.chan = 2 → ∃ w, readyAt s x y w ∧ w.chan = 2 ∧ arbPick s x y = some w.id)
    ∧ ((q.chan = 0 ∨ q.chan = 1 ∨ q.chan = 3) → (∀ w, readyAt s x y w → w.chan ≠ 2
        ∧ starved s (fget arb0 s.arb (outKey x y)) x w = false) →
      ∃ w, readyAt s x y w ∧ q.chan ≤ w.chan ∧ arbPick s x y = some w.id)

/-- Slot e of u holds version v, with the yoke ports of the team table in force (R199), and with v's headland tree where its
parents form one (R202). -/
def Sys2Proof.Claim.newVersion (s u : State) (e : Nat) (v : RouteVer) : Prop :=
  verOf u e = { v with valid := true, team := teamVer s (injTepoch s), parent := (verOf u e).parent }
    ∧ (treeOk s v = true → (verOf u e).parent = v.parent)

/-- R204 to R206: EPOCH_SWITCH sets the injection epoch of the edge unit or plot that it reaches. A planned change stores the new
version in the free slot and sends EPOCH_SWITCH to every plot that injects; once every point has switched and no packet of the
old epoch is left, it is complete. A planned change that has not drained in 1 ms, and an abrupt change, make every point inject
under the new epoch at once and end; no abrupt change starts while a change is in progress. The timeout and the abrupt change
are stated where no message of the host or of a sheaf root is on its way. -/
def Sys2Proof.Claim.RoutingChange : Prop :=
  ∀ (s : State),
    (∀ id p, stands s id p → pType p = tEPOCHSWITCH →
      (pDstKind p = 3 → exec (.epochSwitch id) s = .next (updPlot (dropPkt s id) (pDstId p)
          (fun pl => setPfld pl oPlotEpoch 63 63 (bits p.w2 0 0))))
      ∧ (pDstKind p = 2 → exec (.epochSwitch id) s = .next { dropPkt s id with
          edgeEpoch := fset zeroNat s.edgeEpoch (pDstId p) (bits p.w2 0 0) })
      ∧ (pDstKind p = 1 → exec (.epochSwitch id) s = .next { dropPkt s id with
          edgeEpoch := fset zeroNat s.edgeEpoch (18 + pDstId p) (bits p.w2 0 0) }))
    ∧ (∀ v x, s.chg.step = 0 → s.chg.epoch ≤ 1 → fget zeroNat s.edgeEpoch 17 = s.chg.epoch →
        edgeRouter (verOf s s.chg.epoch) 17 = some x → ∃ u, exec (.routingChangePlanned v) s = .next u
        ∧ u.chg = { step := 1, epoch := 1 - s.chg.epoch, time := s.now.toNat }
        ∧ newVersion s u (1 - s.chg.epoch) v ∧ verOf u s.chg.epoch = verOf s s.chg.epoch
        ∧ u.cores = s.cores ∧ u.plots = s.plots ∧ (∀ q ∈ s.net, q ∈ u.net)
        ∧ (∀ j, j < numPlots s → plotInjects s j = true → ∃ q ∈ u.net, pType q = tEPOCHSWITCH ∧ pDstKind q = 3
            ∧ pDstId q = j ∧ bits q.w2 0 0 = 1 - s.chg.epoch ∧ q.at_ = x))
    ∧ (∀ v, s.chg.step ≠ 0 → s.chg.epoch ≤ 1 → allSwitched s = true → (∀ p ∈ s.net, pEpoch p = s.chg.epoch) → ∃ u,
        exec (.routingChangePlanned v) s = .next u ∧ u.chg.step = 0 ∧ (verOf u (1 - s.chg.epoch)).valid = false
        ∧ verOf u s.chg.epoch = verOf s s.chg.epoch ∧ u.net = s.net ∧ u.cores = s.cores)
    ∧ ((∀ p ∈ s.net, pType p = tMESSAGE → p.orig = 0) →
      (s.chg.step = 1 → s.chg.epoch ≤ 1 → s.chg.time + 1000000 ≤ s.now.toNat → ∃ u, exec .epochDrainTimeout s = .next u
        ∧ u.chg.step = 0 ∧ (∀ j, j < numPlots s → injEpoch u j = s.chg.epoch)
        ∧ (∀ e, e < 24 → fget zeroNat u.edgeEpoch e = s.chg.epoch) ∧ verOf u s.chg.epoch = verOf s s.chg.epoch)
      ∧ (∀ v, s.chg.epoch ≤ 1 → s.chg.step ≠ 0 → exec (.routingChangeAbrupt v) s = .next s)
      ∧ (∀ v, s.chg.epoch ≤ 1 → s.chg.step = 0 → ∃ u, exec (.routingChangeAbrupt v) s = .next u ∧ u.chg.step = 0
        ∧ u.chg.epoch = 1 - s.chg.epoch ∧ newVersion s u (1 - s.chg.epoch) v
        ∧ (∀ j, j < numPlots s → injEpoch u j = 1 - s.chg.epoch)
        ∧ (∀ e, e < 24 → fget zeroNat u.edgeEpoch e = 1 - s.chg.epoch)))

/-- R188 to R206: packets move hop by hop; routing changes by epoch. -/
def Obligations.DroveResult : Prop := PacketHopResult ∧ RoutingChange

/-! ## Requests at scratchpads, the granary and HBM -/

namespace Sys2Proof.Claim

/-- The request commands and their packet types. -/
def requestTable : List (Nat × (Nat → Instr)) :=
  [(1, .load), (2, .store), (3, .addPacket), (4, .swap), (5, .fetchAdd), (6, .cas)]

end Sys2Proof.Claim

/-- R258, R259, R264: a request at a scratchpad reads or writes its words and is answered: a load with its data, a store or add
with status 0, an atomic with the old word. R249: at its home slice a load of a line not held starts a fetch; a returned fetch
serves the loads that wait for it and its line is kept. R235, R237: a group performs a job of its queue; a fetch returns the
eight sectors, a whole sector is replaced. R238: patrol scrubbing reads the next sector when it is due. R253: lines are
dropped. R255, R256: beats move toward the field row of their core and land in its buffer, stale ones are discarded. -/
def Obligations.RequestsAndMemory : Prop :=
  ∀ (s : State),
    (∀ id p typ cmd, (typ, cmd) ∈ requestTable → stands s id p → pType p = typ → pDstKind p = 0 → adTier p.w2 = 0 →
      spdDenied s (pDstId p) = false → clearing s (pDstId p) = false → pairRole s (pDstId p) = none → routed s (pSrcDev p) → cleanPad s (pDstId p) →
      ∀ c w, c = pDstId p → w = adOff p.w2 / 8 % 32768 → ∃ u q, exec (cmd id) s = .next u
        ∧ u.net = less s id ++ [q] ∧ pDstId q = pSrcCore p ∧ bits q.w3 15 7 = bits p.w3 15 7 ∧ pStatus q = 0
        ∧ (∀ x, x ≠ c → getCore u x = getCore s x) ∧ (getCore u c).threads = (getCore s c).threads
        ∧ (typ = 1 → pType q = tLOADDATA ∧ q.body = (spdReadWords s c w (pReqWords p)).2
            ∧ (getCore u c).spd = (getCore s c).spd)
        ∧ (typ = 2 → pType q = tCOMPLETION ∧ (getCore u c).spd = (getCore (spdWriteWords s c w (p.body.take (pReqWords p))) c).spd)
        ∧ (typ = 3 → pType q = tCOMPLETION ∧ (getCore u c).spd = (getCore (spdWriteWords s c w (List.zipWith
            (taddPW (bits p.w3 19 16)) (spdReadWords s c w (pReqWords p)).2 p.body)) c).spd)
        ∧ (∀ m, 4 ≤ typ → (spdReadWords s c w 1).2 = [m] → pType q = tCOMPLETION ∧ q.body = [m]
          ∧ (∀ x, typ = 4 → p.body = [x] → (getCore u c).spd = (getCore (spdWriteWords s c w [x]) c).spd)
          ∧ (∀ x, typ = 5 → p.body = [x] → m.poi = false → x.poi = false →
              (getCore u c).spd = (getCore (spdWriteWords s c w [⟨m.val + x.val, false⟩]) c).spd)
          ∧ (∀ a x, typ = 6 → p.body = [a, x] → m.poi = false → a.poi = false → m.val ≠ a.val →
              (getCore u c).spd = (getCore s c).spd)
          ∧ (∀ a x, typ = 6 → p.body = [a, x] → m.poi = false → a.poi = false → m.val = a.val → x ≠ m →
              (getCore u c).spd = (getCore (spdWriteWords s c w [x]) c).spd)))
    ∧ (∀ id p k off n, stands s id p → pType p = tLOAD → pDstKind p = 1 → adTier p.w2 = 1 → isLocalDev s (adDev p.w2) = true →
        piecesOf s 3 p.w2 (pReqWords p) = [(k, off, n)] → lineAt s (pDstId p) k = none → openFill s (pDstId p) k = none →
        keyRemote k = false → keyTier k = 1 → p.yk = 0 → (hbmJobs s (groupOf s k)).length < 512 → ∃ u fl,
        exec (.granaryAccept id []) s = .next u ∧ u.net = less s id
        ∧ (getSlice u (pDstId p)).fills = (getSlice s (pDstId p)).fills ++ [fl] ∧ fl.addr = k ∧ fl.result = none
        ∧ (∃ j, hbmJobs u (groupOf s k) = hbmJobs s (groupOf s k) ++ [j] ∧ j.addr = k ∧ j.fill = some fl.id)
        ∧ csrFld u (aGrnStat (pDstId p)) 31 0 = (csrFld s (aGrnStat (pDstId p)) 31 0 + 1) % 2 ^ 32 ∧ u.cores = s.cores)
    ∧ (∀ f id x ws p off n m, (getSlice s f).fills.find? (fun y => decide (y.id = id)) = some x → x.result = some (0, ws) →
        x.ops = [.load p off n (some m)] → x.fresh = false → x.stale = false → p.yk = 0 → lineAt s f x.addr = none → pairRole s (pSrcCore p) = none →
        m &&& poweredWays s f = 1 → (∀ y ∈ (getSlice s f).lines, lineSet s y.addr ≠ lineSet s x.addr) → ∃ u b,
        exec (.granaryFill f id) s = .next u ∧ (getSlice u f).beats = (getSlice s f).beats ++ [b] ∧ b.core = pSrcCore p
        ∧ b.tag = pReqTag p ∧ b.words = lineWords ws off n ∧ lineAt u f x.addr = some { addr := x.addr, way := 0, data := ws, flips := [] }
        ∧ u = { s with slices := u.slices, blockDone := u.blockDone })
    ∧ (∀ g i j, jobReady (hbmJobs s g) i = some j → (∀ e, fget zeroNat s.hbmErr e = 0) →
        (∀ p id, j.op = .load p 0 32 none → j.fill = some id → ∃ u, exec (.hbmLineDone g i []) s = .next u
          ∧ hbmJobs u g = (hbmJobs s g).eraseIdx i ∧ (∀ f y, f < 6 → y ∈ (getSlice u f).fills → y.id = id →
              y.result = some (0, (List.range 8).flatMap (fun q => sectorRaw s (keyOff j.addr / 32 + q))))
          ∧ u = { s with hbmQ := u.hbmQ, slices := u.slices, blockDone := u.blockDone })
        ∧ (∀ q ws, q < 8 → j.op = .store (4 * q) ws → ws.length = 4 → exec (.hbmLineDone g i []) s =
            .next (sectorStore (setHbmJobs (blockServed s (64 + g)) g ((hbmJobs s g).eraseIdx i)) (keyOff j.addr / 32 + q) ws)))
    ∧ (∀ k, k < 12 → k % 6 < hbmN s → csrFld s (aHbmScrub k) 63 63 = 1 →
        hbmJobs s (4 * k + sectorTier s k (fget zeroNat s.scrubPos k) / 256 % 16 % 4) = [] →
        fget zeroNat s.scrubPos k + 1 < stackSectors → csrFld s aPwrDomain (24 + k / 6) (24 + k / 6) = 1 →
        scrubDue s k ≤ s.stw.upNs → (∀ e, fget zeroNat s.hbmErr e = 0) → exec (.hbmPatrolScrub k []) s =
          .next { s with scrubPos := fset zeroNat s.scrubPos k (fget zeroNat s.scrubPos k + 1) })
    ∧ (∀ f i b, (getSlice s f).beats[i]? = some b → nextSlice s f b.core ≠ f → exec (.rowBusBeat f i) s =
        .next (updSlice (updSlice s f (fun v => { v with beats := v.beats.eraseIdx i })) (nextSlice s f b.core)
          (fun v => { v with beats := v.beats ++ [b] })))
    ∧ (∀ f i b, (getSlice s f).beats[i]? = some b → b.seed = false → nextSlice s f b.core = f →
        (∀ r, b.ctx = coreCtx (getCore s b.core) → b.gen = coreGen (getCore s b.core) → reqOf (getCore s b.core) b.tag = some r →
          r.addr.toNat = b.addr → r.status = none → r.tries = b.issue → landUsed (getCore s b.core) ≤ 768 → exec (.rowBusBeat f i) s = .next (updCore
            (updSlice s f (fun v => { v with beats := v.beats.eraseIdx i })) b.core (fun k => { k with landBuf := k.landBuf ++ [b] })))
        ∧ (∀ n, b.gen ≠ coreGen (getCore s b.core) → fnOfCore s b.core = some n → exec (.rowBusBeat f i) s = .next (satCsrFld
            (updSlice s f (fun v => { v with beats := v.beats.eraseIdx i })) (aFn n fnCtxStat) 15 0 1)))
    ∧ (∀ fld v f, f < 6 → ∃ u, exec (.grnInv fld v) s = .next u ∧ u = { s with slices := u.slices }
        ∧ (getSlice u f).lines = (getSlice s f).lines.filter (fun l =>
            !(decide (lineKey s (BitVec.ofNat 64 (bits v 63 12 * 4096)) ≤ l.addr)
              && decide (l.addr < lineKey s (BitVec.ofNat 64 (bits v 63 12 * 4096)) + 16 * (bits v 11 0 + 1)))))
    ∧ (∀ fld v f, f < 6 → bit v 0 = true → ∃ u, exec (.grnInvAll fld v) s = .next u ∧ u = { s with slices := u.slices }
        ∧ (getSlice u f).lines = (getSlice s f).lines.filter (fun l => !keyRemote l.addr))

/-! ## CXL accesses -/

/-- R242: a CXL port performs the job its device answers: a fetch returns the line, granules returned as poison stand for
poisoned words and count in POISON_IN; a store is performed. R243: a job not answered in 100 µs ends "unreachable" and counts, a
write among them is done or not; a link that goes down ends every job of its half; a retrained link with memory behind it is up. -/
def Obligations.CxlAccesses : Prop :=
  ∀ (s : State),
    (∀ p i j, jobReady (cxlJobs s p) i = some j → cxlUp s (keyOff j.addr) = true →
      (∀ poi id q x y z, j.op = .load q x y z → j.fill = some id → (∀ g, fget noPoi s.cxlPoi g = false) → ∃ u,
        exec (.cxlResponse p i poi) s = .next u ∧ cxlJobs u p = (cxlJobs s p).eraseIdx i
        ∧ (∀ f fl, f < 6 → fl ∈ (getSlice u f).fills → fl.id = id → fl.result = some (0, (List.range 32).map (fun w =>
            if poi.contains (w / 8) then noWord
            else ⟨BitVec.ofNat 64 (rdLE s.cxl (keyOff j.addr + 8 * w) 8), false⟩)))
        ∧ csrFld u (aCxlErr (keyOff j.addr / 2 ^ 40)) 63 48 =
            min 65535 (csrFld s (aCxlErr (keyOff j.addr / 2 ^ 40)) 63 48 + ((List.range 4).filter poi.contains).length)
        ∧ u = { s with cxlQ := u.cxlQ, slices := u.slices, csr := u.csr, blockDone := u.blockDone })
      ∧ (∀ off ws, j.op = .store off ws → j.resp = false → exec (.cxlResponse p i []) s =
          .next (cxlLineWrite (setCxlJobs (blockServed s (8 + p)) p ((cxlJobs s p).eraseIdx i)) (keyOff j.addr) off ws)))
    ∧ (∀ p i j, (cxlJobs s p)[i]? = some j → j.time + 100000 ≤ s.now.toNat → ∃ u, exec (.cxlTimeout p i) s = .next u
        ∧ csrFld u (aCxlErr p) 47 32 = min 65535 (csrFld s (aCxlErr p) 47 32 + 1) ∧ u.cores = s.cores
        ∧ (∀ id, j.fill = some id → cxlJobs u p = (cxlJobs s p).eraseIdx i ∧ u.cxl = s.cxl
            ∧ (∀ f fl, f < 6 → fl ∈ (getSlice u f).fills → fl.id = id → fl.result = some (stUNREACH, [])))
        ∧ (∀ off ws, j.fill = none → j.op = .store off ws → j.resp = false → cxlJobs u p = (cxlJobs s p).eraseIdx i
            ∧ (u.cxl = s.cxl ∨ u.cxl = (cxlLineWrite s (keyOff j.addr) off ws).cxl)))
    ∧ (∀ p h, h < 2 → csrFld s (aCxlStat p) (63 - h) (63 - h) = 1 → ∃ u, exec (.cxlLinkDown p h) s = .next u
        ∧ csrFld u (aCxlStat p) (63 - h) (63 - h) = 0
        ∧ csrFld u (aCxlErr p) 31 16 = min 65535 (csrFld s (aCxlErr p) 31 16 + 1)
        ∧ (cxlJobs u p).map (·.addr) = ((cxlJobs s p).filter (fun j => decide (cxlHalf s (keyOff j.addr) ≠ h))).map (·.addr)
        ∧ u.cores = s.cores)
    ∧ (∀ p h, p < 4 → h < 2 → csrFld s (aCxlStat p) 61 60 = 1 ∨ csrFld s (aCxlStat p) 61 60 = 0 ∧ h = 0 →
        csrFld s (aCxlStat p) (9 + 10 * h) (10 * h) ≠ 0 → csrFld s aPwrDomain 28 28 = 1 →
        exec (.cxlLinkRetrain p h) s = .next (setCsrFld s (aCxlStat p) (63 - h) (63 - h) 1))

/-! ## The yoke's frames, links and heartbeats -/

namespace Sys2Proof.Claim

/-- Port p has taken in a good frame header: frames acknowledged up to ACK are dropped, credits of each VC return, the time is
kept (R268, R270). -/
def headerTaken (s u : State) (p : Nat) (h : FrameHdr) : Prop :=
  (getPort u p).unacked = (getPort s p).unacked.filter (fun f => decide ((h.ack + 4096 - f.fseq) % 4096 ≥ 512))
  ∧ (∀ vc, vc < 6 → fget zeroNat (getPort u p).used vc = fget zeroNat (getPort s p).used vc - h.credit.getD vc 0 % 16)
  ∧ (getPort u p).lastGood = s.now.toNat

/-- Transaction t has been sent on port q, each of its slots in a data frame, or waits there for room (R269, R270). -/
def goesOut (u : State) (q : Nat) (t : Txn) : Prop :=
  t ∈ (getPort u q).txq ∨ ∀ x ∈ slotList t, ∃ f, Emit.yoke q (dataWords f) ∈ u.outs ∧ x ∈ f.slots

end Sys2Proof.Claim

/-- R268, R269: on a port that is up with nothing to send, a data frame with the expected FSEQ is taken whole, its header
counts, its slots join the receive buffer; one with a bad CRC or another FSEQ is not, and the first is answered with RETRY;
an idle frame brings its header; RETRY has the frames from its FSEQ sent again in order; 1 µs later it is repeated. -/
def Sys2Proof.Claim.YokeFrames : Prop :=
  ∀ (s : State) (p : Nat), portUp s p = true → (getPort s p).txq = [] →
    (∀ fec ws f, readFrame ws = .data f → f.fseq = (getPort s p).rxNext → ∃ u, exec (.dataFrame p fec ws) s = .next u
        ∧ headerTaken s u p f.hdr
        ∧ (getPort u p).rxNext = ((getPort s p).rxNext + 1) % 4096 ∧ (getPort u p).retryAt = none
        ∧ (getPort u p).rx = (f.slots.foldl takeSlot (getPort s p)).rx
        ∧ (getPort u p).parts = (f.slots.foldl takeSlot (getPort s p)).parts
        ∧ u = { satCsrFld s (aYokeErr p) 31 16 fec with yports := u.yports })
    ∧ (∀ fec ws, readFrame ws = .bad ∨ (∃ f, readFrame ws = .data f ∧ f.fseq ≠ (getPort s p).rxNext) → ∃ u,
        exec (.dataFrame p fec ws) s = .next u
        ∧ (getPort u p).rxNext = (getPort s p).rxNext ∧ (getPort u p).rx = (getPort s p).rx
        ∧ (getPort u p).unacked = (getPort s p).unacked ∧ csrFld u (aYokeErr p) 31 16 = min 65535 (csrFld s (aYokeErr p) 31 16 + fec)
        ∧ csrFld u (aYokeErr p) 63 48 = min 65535 (csrFld s (aYokeErr p) 63 48 + if readFrame ws = .bad then 1 else 0)
        ∧ (if (getPort s p).retryAt.isSome then u.outs = s.outs else
            ∃ h, u.outs = .yoke p (controlWords h 1 (getPort s p).rxNext []) :: s.outs
              ∧ h.ack = ((getPort s p).rxNext + 4095) % 4096)
        ∧ u = { s with yports := u.yports, csr := u.csr, outs := u.outs })
    ∧ (∀ ws h, readFrame ws = .idle h → ∃ u, exec (.idleFrame p ws) s = .next u ∧ headerTaken s u p h
        ∧ (getPort u p).rx = (getPort s p).rx ∧ u = { s with yports := u.yports })
    ∧ (∀ ws h n, readFrame ws = .retry h n → ∃ u, exec (.retry p ws) s = .next u ∧ headerTaken s u p h
        ∧ u.outs = ((getPort u p).unacked.filter (fun f => decide ((f.fseq + 4096 - n) % 4096 < 512))).reverse.map
            (fun f => .yoke p (dataWords f)) ++ s.outs
        ∧ csrFld u (aYokeErr p) 47 32 = min 65535 (csrFld s (aYokeErr p) 47 32 + 1)
        ∧ (getPort u p).retryRow = (if (getPort s p).retrySeq = n then (getPort s p).retryRow + 1 else 1)
        ∧ u = { s with yports := u.yports, csr := u.csr, outs := u.outs })
    ∧ (∀ t, (getPort s p).retryAt = some t → t + 1000 ≤ s.now.toNat → ∃ u h, exec (.retryRepeat p) s = .next u
        ∧ u.outs = .yoke p (controlWords h 1 (getPort s p).rxNext []) :: s.outs ∧ (getPort u p).retryAt = some s.now.toNat
        ∧ u = { s with yports := u.yports, outs := u.outs })
    ∧ (∀ t, (getPort s p).retryAt = some t → s.now.toNat < t + 1000 → exec (.retryRepeat p) s = .next s)

/-- R290, R291, R289: a HEARTBEAT is kept with its time and present-fields mask; a device more than 50 µs off is barred and
reported; a shadow's first one enters it in the table. Every HB_US each up port sends one. R271, R272: TRAIN_ID from the
expected device brings the port up, from another fences it; a port that lost lock goes down, its link is recorded as down;
a port that is not up trains again every 100 ms unless it is fenced. -/
def Sys2Proof.Claim.HeartbeatsAndTraining : Prop :=
  ∀ (s : State),
    (∀ p ws h coord role ep sw fields lat (time : Word), readFrame ws = .heartbeat h coord role ep time sw fields →
        portUp s p = true → (getPort s p).txq = [] → ∃ u,
        exec (.heartbeat p ws lat) s = .next u ∧ headerTaken s u p h
        ∧ (getPort u p).hbIn = some s.now.toNat ∧ (getPort u p).rx = (getPort s p).rx
        ∧ fget zeroNat u.muster.masks coord = fields + 1
        ∧ (s.now.toNat ≤ time.toNat + lat + 50000 → time.toNat + lat ≤ s.now.toNat + 50000 → u.muster.barred = s.muster.barred)
        ∧ (s.now.toNat + 50000 < time.toNat + lat ∨ time.toNat + lat + 50000 < s.now.toNat →
          coord ∈ u.muster.barred ∧ Note.other 289 coord ∈ u.notes)
        ∧ (role ≠ 1 → u.muster.table = s.muster.table)
        ∧ (role = 1 → memberState s coord = 0 ∨ memberState s coord = 2 → memberState u coord = 3)
        ∧ u = { s with yports := u.yports, muster := u.muster, notes := u.notes })
    ∧ (∃ u, exec .heartbeatSend s = .next u ∧ u = { s with yports := u.yports, outs := u.outs }
        ∧ (∀ e ∈ s.outs, e ∈ u.outs) ∧ (∀ p, p < 12 → portUp s p = true →
          (getPort s p).hbOut + csrFld s aMstTiming 63 48 * 1000 ≤ s.now.toNat → (getPort u p).hbOut = s.now.toNat
          ∧ ∃ h, Emit.yoke p (controlWords h 2 0 [packFields [(15, 0, ownCoord s), (19, 16, mRole s)],
              BitVec.ofNat 64 (mEpoch s), s.now, BitVec.ofNat 64 s.swathNow, BitVec.ofNat 64 (fieldMask s)]) ∈ u.outs))
    ∧ (∀ p ws h coord port shape, readFrame ws = .trainId h coord port shape → csrFld s (aYokeStat p) 63 62 = 1 → p < 12 →
        (wired (teamShape s) (ownCoord s) p = some coord → port = peerPort p → bits shape 63 48 = csrFld s aMstShape 63 48 →
          coord < 65536 → ∃ u, exec (.trainId p ws) s = .next u ∧ csrFld u (aYokeStat p) 63 62 = 2
          ∧ csrFld u (aYokeStat p) 59 44 = coord ∧ (ownCoord s, p) ∉ u.muster.linksDown ∧ u.cores = s.cores)
        ∧ (¬ (wired (teamShape s) (ownCoord s) p = some coord ∧ port = peerPort p
              ∧ bits shape 63 48 = csrFld s aMstShape 63 48) → ∃ u, exec (.trainId p ws) s = .next u
          ∧ csrFld u (aYokeStat p) 63 62 = 0 ∧ csrFld u (aYokeStat p) 61 61 = 1 ∧ coord ∈ u.muster.barred
          ∧ u.notes = .other 272 p :: s.notes ∧ u = { s with csr := u.csr, muster := u.muster, notes := u.notes }))
    ∧ (∀ p, portUp s p = true → p < 12 → ∃ u, exec (.linkDown p true) s = .next u ∧ csrFld u (aYokeStat p) 63 62 = 0
        ∧ csrFld u (aYokeErr p) 15 0 = min 65535 (csrFld s (aYokeErr p) 15 0 + 1) ∧ (ownCoord s, p) ∈ u.muster.linksDown
        ∧ (getPort u p).unacked = [] ∧ (getPort u p).downAt = s.now.toNat ∧ u.cores = s.cores)
    ∧ (∀ p n, teamValid s = true → csrFld s aPwrDomain 27 27 = 1 → portPresent s.code p = true → p < 12 →
        wired (teamShape s) (ownCoord s) p = some n → csrFld s (aYokeStat p) 63 62 ≤ 1 → csrFld s (aYokeStat p) 61 61 = 0 →
        (getPort s p).downAt = 0 ∨ (getPort s p).downAt + 100000000 ≤ s.now.toNat → ∃ u h, exec (.linkRetrain p) s = .next u
        ∧ u.outs = .yoke p (controlWords h 3 0 [packFields [(15, 0, ownCoord s), (19, 16, p)], csrGet s aMstShape]) :: s.outs
        ∧ csrFld u (aYokeStat p) 63 62 = 1
        ∧ (getPort u p).downAt = s.now.toNat ∧ u = { s with csr := u.csr, yports := u.yports, outs := u.outs })

/-- R268, R269, R289 to R291: frames, heartbeats and training of a port. -/
def Obligations.YokeLinkResult : Prop := YokeFrames ∧ HeartbeatsAndTraining

/-! ## Transactions between devices -/

namespace Sys2Proof.Claim

/-- Transaction t stands at place i of port p's receive buffer and has reached its device in time; it carries no release and
this device is no partner of a shadow. -/
def reachedHere (s : State) (p i : Nat) (t : Txn) : Prop :=
  rxAt s p i = some t ∧ t.muster = none ∧ aged s t = false ∧ t.dst = ownCoord s ∧ t.rel = [] ∧ t.mirror = false
    ∧ s.muster.shadow = none ∧ shadowing s = false ∧ isShadow s = false

end Sys2Proof.Claim

/-- R280, R276: an aged transaction is discarded and counted; one for another device goes on when the next buffer has room, and
waits else. R283, R284, R288: a permitted request is injected here under this device, to be answered; a denied one is answered
"denied"; one that is being performed is only counted; releases free filter entries. A response ends its tracker, load data
goes to the row bus; one that no tracker expects is counted; "busy" lets it be sent again 10 µs later. -/
def Sys2Proof.Claim.YokeTransactions : Prop :=
  ∀ (s : State) (p i : Nat) (t : Txn),
    (rxAt s p i = some t → t.muster = none →
      (aged s t = true → exec (.remoteTransaction p i) s = .next (satCsrFld (rxTake s p i t) aYokeDup 15 0 1))
      ∧ (∀ q vc ep, aged s t = false → t.dst ≠ ownCoord s → transitRoute s p t = some (q, vc, ep) →
        (txRoom s q vc (txnSlots t) = false → exec (.remoteTransaction p i) s = .next s)
        ∧ (txRoom s q vc (txnSlots t) = true → ∃ u, exec (.remoteTransaction p i) s = .next u
          ∧ goesOut u q { t with vc := vc, tepoch := ep, hops := t.hops + 1 }
          ∧ (getPort u p).rx = (getPort s p).rx.eraseIdx i ∧ u.cores = s.cores ∧ u.net = s.net)))
    ∧ (reachedHere s p i t → t.resp = false → dormantNow s = false → ∀ k, t.pkt = some k →
      (∀ x, t.ni = false → isRequest (pType k) = true → windowsPass s k = true → localTarget s k.w2 ≠ .unmapped →
        headerOk (localPacket s t k s.nextId) = true → edgeRoom s p { k with chan := typeChan (pType k) k.w2 } = true →
        edgeRouter (verOf s (fget zeroNat s.edgeEpoch (p + 1))) (p + 1) = some x → ∃ u q,
        exec (.remoteTransaction p i) s = .next u ∧ u.net = s.net ++ [q] ∧ q.at_ = x ∧ q.w2 = k.w2 ∧ pType q = pType k
        ∧ q.body = k.body ∧ q.yk = s.nextId + 1 ∧ u.inbound = s.inbound ++ [{ id := s.nextId, port := p, txn := t }]
        ∧ (getPort u p).rx = (getPort s p).rx.eraseIdx i ∧ u.cores = s.cores)
      ∧ (∀ q vc, t.ni = false → isRequest (pType k) = true → windowsPass s k = false →
        edgeRoom s p { k with chan := typeChan (pType k) k.w2 } = true →
        teamRoute s (teamVer s (injTepoch s)) t.src 2 true true = some (q, vc) → ∃ u r a,
        exec (.remoteTransaction p i) s = .next u ∧ u.net = s.net ∧ u.cores = s.cores ∧ goesOut u q r ∧ r.resp = true
        ∧ r.dst = t.src ∧ r.tracker = t.tracker ∧ r.pkt = some a ∧ pStatus a = stDENIED)
      ∧ (∀ o, t.ni = true → filterView s t = (1, o) →
        exec (.remoteTransaction p i) s = .next (satCsrFld (rxTake s p i t) aYokeDup 47 32 1)))
    ∧ (reachedHere s p i t → t.resp = false → t.pkt = none → exec (.remoteTransaction p i) s = .next (rxTake s p i t))
    ∧ (reachedHere s p i t → t.resp = true →
      (matchTracker s t = none → exec (.remoteResponse p i) s = .next (satCsrFld (rxTake s p i t) (aYokeTrack t.port) 15 0 1))
      ∧ (∀ x k q, matchTracker s t = some x → t.busy = false → t.pkt = some q → x.pkt = k → x.txn.ni = false → k.orig ≠ 8 →
        pType k = tLOAD → pType q = tLOADDATA → s.pairTags = [] → ∃ u, exec (.remoteResponse p i) s = .next u
        ∧ (getPort u t.port).trackers = (getPort s t.port).trackers.filter (fun y => decide (y.num ≠ x.num))
        ∧ (getSlice u (portField t.port)).beats = (getSlice s (portField t.port)).beats
            ++ mkBeats (pSrcCore k) (pReqTag k) (pCtx k) (pGen k) k.w2.toNat k.origArg 64 0 (q.body.take (pReqWords k))
        ∧ u = { s with yports := u.yports, slices := u.slices, blockDone := u.blockDone })
      ∧ (∀ x, matchTracker s t = some x → t.busy = true → ∃ u, exec (.remoteResponse p i) s = .next u
        ∧ (getPort u t.port).trackers = (getPort s t.port).trackers.map (fun y =>
            if y.num = x.num then { y with busyAt := some (s.now.toNat + 10000) } else y)
        ∧ u = { s with yports := u.yports }))

/-- R287: a tracker whose time is out sends again with COPY, or, when its copies are spent or its device is down, ends
"unreachable"; a busy answer has it sent again; releases wait 20 µs and then go alone. R288, R286: filter entries expire, a
finished operation's sequence is retired 2 ms after its first sending. R278: the old table slot is freed, and a table that
waited for it is loaded. -/
def Sys2Proof.Claim.TrackersAndReleases : Prop :=
  ∀ (s : State),
    (∀ p n x, trackerOf s p n = some x → x.deadline ≤ s.now.toNat →
      ((remoteStatus s x.txn.dst).isSome = true ∨ csrFld s aYokeCtl 47 44 < x.sent → ∃ u,
        exec (.trackerTimeout p n) s = .next u ∧ csrFld u (aYokeTrack p) 63 48 = min 65535 (csrFld s (aYokeTrack p) 63 48 + 1)
        ∧ csrFld u (aYokeTrack p) 31 16 = min 65535 (csrFld s (aYokeTrack p) 31 16 + 1)
        ∧ (getPort u p).trackers = (getPort s p).trackers.filter (fun y => decide (y.num ≠ x.num)) ∧ u.cores = s.cores)
      ∧ (remoteStatus s x.txn.dst = none → x.sent ≤ csrFld s aYokeCtl 47 44 → isShadow s = false → ∀ q vc,
        teamRoute s (teamVer s (injTepoch s)) x.txn.dst 0 false true = some (q, vc) → ∃ u r,
        exec (.trackerTimeout p n) s = .next u ∧ csrFld u (aYokeTrack p) 47 32 = min 65535 (csrFld s (aYokeTrack p) 47 32 + 1)
        ∧ goesOut u q { x.txn with copy := true, tepoch := injTepoch s, vc := vc, rel := r }
        ∧ (getPort u p).trackers = (getPort s p).trackers.map (fun z => if z.num = x.num then { x with
            sent := x.sent + 1, deadline := s.now.toNat + trackUs s * 1000, busyAt := none } else z) ∧ u.cores = s.cores))
    ∧ (∀ p n x t q vc, trackerOf s p n = some x → x.busyAt = some t → t ≤ s.now.toNat → isShadow s = false →
        teamRoute s (teamVer s (injTepoch s)) x.txn.dst 0 false true = some (q, vc) → ∃ u r,
        exec (.busyResend p n) s = .next u ∧ goesOut u q { x.txn with tepoch := injTepoch s, vc := vc, rel := r }
        ∧ u.cores = s.cores)
    ∧ (∀ p r q vc, (getPort s p).releases.find? (fun r => decide (s.now.toNat ≥ r.time + 20000)) = some r →
        teamRoute s (teamVer s (injTepoch s)) r.dst 0 false true = some (q, vc) → ∃ u t,
        exec (.releaseSend p) s = .next u ∧ goesOut u q t ∧ t.dst = r.dst ∧ t.pkt = none
        ∧ t.rel = (((getPort s p).releases.filter (fun x => decide (x.dst = r.dst))).take 9).map (fun x => (x.tseq, x.hold))
        ∧ u.cores = s.cores)
    ∧ (∀ src n, exec (.filterEntryExpire src n) s = .next { s with filter := s.filter.filter (fun e =>
        !(decide (e.src = src) && decide (e.tseq = n) && decide (s.now.toNat > e.first + 2100000))) })
    ∧ (∀ d n, exec (.tseqRetire d n) s = .next (if (fget pair0 s.pairTab (linIdx (teamShape s) d)).live.any (fun x =>
          decide (x.1 = n) && x.2.2 && decide (s.now.toNat > x.2.1 + 2000000)) then
        { s with pairTab := fupd pair0 s.pairTab (linIdx (teamShape s) d) (fun e => { e with
            live := e.live.filter (fun x => decide (x.1 ≠ n)) }) } else s))
    ∧ (∀ e, injTepoch s = 1 - e → e ≤ 1 → (teamVer s e).valid = true → csrFld s aYokeTepoch (61 + e) (61 + e) = 1 →
        oldTxns s = 0 ∨ s.teamTime + 1000000 ≤ s.now.toNat →
        (s.muster.late = true → ∃ u, exec .teamEpochFree s = .next u ∧ teamVer u e = teamTable s ∧ injTepoch u = e
          ∧ teamVer u (1 - e) = teamVer s (1 - e) ∧ u.muster.late = false ∧ u.cores = s.cores)
        ∧ (s.muster.late = false → ∃ u, exec .teamEpochFree s = .next u ∧ teamVer u e = teamVer0 ∧ teamVer u (1 - e) = teamVer s (1 - e) ∧ csrFld u aYokeTepoch (61 + e) (61 + e) = 0
        ∧ csrFld u aYokeTepoch 47 32 = (csrFld s aYokeTepoch 47 32 + 1) % 65536
        ∧ u = { s with csr := u.csr, team0 := u.team0, team1 := u.team1 }))

/-- R276, R280, R283 to R288: transactions on their way, at their destination, and their trackers. -/
def Obligations.YokeTrafficResult : Prop := YokeTransactions ∧ TrackersAndReleases

/-! ## The muster -/

namespace Sys2Proof.Claim

/-- Muster message m stands in transaction t at place i of port p's receive buffer, and is in time (R280). -/
def musterAt (s : State) (p i : Nat) (t : Txn) (m : MusterMsg) : Prop :=
  rxAt s p i = some t ∧ t.muster = some m ∧ aged s t = false

/-- A command that takes in the muster message at place i of port p. -/
def musterCommand (e : Instr) (p i : Nat) : Prop :=
  e ∈ [Instr.linkEvent p i, .suspect p i, .query p i, .alive p i, .lost p i, .commit p i, .missingCommitRequest p i,
    .shadowReport p i, .admitRequest p i]

/-- A muster message for device d leaves on port q. -/
def sends (u : State) (q d : Nat) (m : MusterMsg) : Prop := ∃ x, goesOut u q x ∧ x.muster = some m ∧ x.dst = d

/-- The way of a new message to device d (R276). -/
def way (s : State) (d : Nat) : Option Nat := (teamRoute s (teamVer s (injTepoch s)) d 0 false true).map (·.1)

/-- This device may commit: it is not isolated, and reaches more than half of the members (R294). -/
def mayCommit (s : State) : Prop := mRole s ≠ 5 ∧ (2 ≤ mRole s ∧ mRole s ≤ 4 → (teamMembers s).length < 2 * reached s)

/-- A change of device d has been committed: the epoch has gone up by one, d stands as v in the table (R293). -/
def committed (s u : State) (d v : Nat) : Prop :=
  mEpoch u = (mEpoch s + 1) % 2 ^ 32 ∧ memberState u d = v ∧ (∀ x, x ≠ d → memberState u x = memberState s x)
    ∧ u.cores = s.cores

end Sys2Proof.Claim

/-- R290: a link event is recorded and passed on over every other up link, once. R291: a silent member neighbour is suspected,
the suspicion goes to the leader and again every 1 ms. R292: the leader asks the suspect's neighbours; one asked answers ALIVE
or LOST; LOST from all, or no ALIVE in CONFIRM_US, commits member-down. R293: the next COMMIT is applied, a later one is held
and what is missing asked for; the asker gets it. R304, R305: a report is compared by DIGEST_SEL; a shadow without skew is
admitted. R280: a message that has aged is discarded and counted. -/
def Obligations.MusterProtocol : Prop :=
  ∀ (s : State),
    (∀ e p i t, musterCommand e p i → rxAt s p i = some t → t.muster.isSome = true → aged s t = true →
        exec e s = .next (satCsrFld (rxTake s p i t) aYokeDup 15 0 1)) ∧
    (∀ p i t orig seq rep port up, musterAt s p i t (.linkEvent orig seq rep port up) →
      ((orig, seq) ∈ s.muster.seen → exec (.linkEvent p i) s = .next (rxTake s p i t))
      ∧ ((orig, seq) ∉ s.muster.seen → ∃ u, exec (.linkEvent p i) s = .next u ∧ (orig, seq) ∈ u.muster.seen
        ∧ ((rep, port) ∈ u.muster.linksDown ↔ up = false) ∧ u.cores = s.cores
        ∧ (∀ q, q < 12 → q ≠ p → portUp s q = true → ∃ d, sends u q d (.linkEvent orig seq rep port up))))
    ∧ (∀ d q target, suspectTo s target = d → d ≠ ownCoord s → way s d = some q →
      (teamValid s = true → memberState s target = 1 → portsTo s target ≠ [] → (∀ x ∈ s.muster.suspects, x.1 ≠ target) →
        heardFrom s target (csrFld s aMstTiming 63 48 * csrFld s aMstTiming 47 44 * 1000) = false → ∃ u,
        exec (.heartbeatMiss target) s = .next u ∧ u.muster = { s.muster with suspects := (target, s.now.toNat) :: s.muster.suspects }
        ∧ sends u q d (.suspect (ownCoord s) target (mEpoch s)) ∧ u.cores = s.cores)
      ∧ (∀ x, s.muster.suspects.find? (fun x => decide (x.1 = target)) = some x → x.2 + 1000000 ≤ s.now.toNat → ∃ u,
        exec (.suspectRepeat target) s = .next u ∧ sends u q d (.suspect (ownCoord s) target (mEpoch s)) ∧ u.cores = s.cores
        ∧ u.muster = { s.muster with suspects := s.muster.suspects.map (fun y =>
            if y.1 = target then (target, s.now.toNat) else y) }))
    ∧ (∀ p i t r target ep, musterAt s p i t (.suspect r target ep) →
      (∀ q, t.dst ≠ ownCoord s → way s t.dst = some q → ∃ u, exec (.suspect p i) s = .next u
        ∧ sends u q t.dst (.suspect r target ep) ∧ u.muster = s.muster ∧ u.cores = s.cores)
      ∧ (t.dst = ownCoord s → leader s = ownCoord s ∨ target = leader s ∧ deputy s = some (ownCoord s) →
        ep = mEpoch s → memberState s target = 1 → (∀ x ∈ s.muster.queries, x.target ≠ target) → ownCoord s ∉ memberNeighbours s target → ∃ u,
        exec (.suspect p i) s = .next u ∧ u.cores = s.cores ∧ u.muster = { s.muster with queries := s.muster.queries ++ [{
          target := target, time := s.now.toNat, asked := memberNeighbours s target, lost := [], alive := false }] }
        ∧ (∀ n l q, memberNeighbours s target = n :: l → way s n = some q → sends u q n (.query (ownCoord s) target ep))))
    ∧ (∀ p i t l target ep q, musterAt s p i t (.query l target ep) → t.dst = ownCoord s → way s l = some q → ∃ u,
        exec (.query p i) s = .next u ∧ u.muster = s.muster ∧ u.cores = s.cores
        ∧ sends u q l (if heardFrom s target 300000 then .alive (ownCoord s) target ep else .lost (ownCoord s) target ep))
    ∧ (∀ p i t d target ep, t.dst = ownCoord s → ep = mEpoch s →
      (musterAt s p i t (.alive d target ep) → exec (.alive p i) s = .next (setQueries (rxTake s p i t)
          (s.muster.queries.map (fun q => if q.target = target then { q with alive := true } else q))))
      ∧ (∀ x, musterAt s p i t (.lost d target ep) → s.muster.queries = [x] → x.target = target → target ≠ ownCoord s →
        (∀ n, n ∈ x.asked → n ∉ x.lost → n ≠ d → exec (.lost p i) s = .next (setQueries (rxTake s p i t)
            [{ x with lost := (d :: x.lost).eraseDups }]))
        ∧ ((∀ n ∈ x.asked, n = d ∨ n ∈ x.lost) → x.alive = false → mayCommit s → ∃ u, exec (.lost p i) s = .next u
          ∧ committed s u target 2)))
    ∧ (∀ target x, s.muster.queries.find? (fun q => decide (q.target = target)) = some x → x.alive = false →
        x.time + csrFld s aMstTiming 31 16 * 1000 ≤ s.now.toNat → mayCommit s → target ≠ ownCoord s → ∃ u,
        exec (.confirmTimeout target) s = .next u ∧ committed s u target 2)
    ∧ (∀ p i t orig seq kind target ep act, musterAt s p i t (.commit orig seq kind target ep act) →
      ((orig, seq) ∈ s.muster.seen → exec (.commit p i) s = .next (rxTake s p i t))
      ∧ ((orig, seq) ∉ s.muster.seen → s.muster.held = [] → target ≠ ownCoord s → ep < 2 ^ 32 →
        (ep = mEpoch s + 1 → ∃ u, exec (.commit p i) s = .next u ∧ committed s u target (if kind = 1 then 2 else 1))
        ∧ (ep ≠ mEpoch s + 1 → ∃ u, exec (.commit p i) s = .next u ∧ mEpoch u = mEpoch s ∧ u.cores = s.cores
          ∧ u.muster.held = [{ orig := orig, seq := seq, kind := kind, target := target, mepoch := ep, act := act }]
          ∧ ∃ d, sends u p d (.missing (ownCoord s) (mEpoch s)))))
    ∧ (∀ p i t asker ep, musterAt s p i t (.missing asker ep) → ∃ u, exec (.missingCommitRequest p i) s = .next u
        ∧ (∀ c ∈ s.muster.log, ep < c.mepoch → sends u p asker (.commit c.orig c.seq c.kind c.target c.mepoch c.act))
        ∧ u.muster = s.muster ∧ u.cores = s.cores)
    ∧ (∀ p i t swath out start w sel, musterAt s p i t (.shadowReport swath out start w) → t.dst = ownCoord s →
        csrFld s aMstShadow 63 63 = 1 → csrFld s aMstShadow 62 61 = sel → csrFld s aMstShadow 47 32 = ownCoord s →
        swath ≤ s.muster.lastSwath → sel = 0 ∨ (weightOf s start).isSome = true → ∀ same : Bool,
        (same = true ↔ (sel = 1 ∨ swath = s.muster.lastSwath ∧ out = s.muster.lastDigest)
          ∧ (sel = 0 ∨ weightOf s start = some w)) →
        (same = true → csrFld s aMstShadow 15 0 + 1 < csrFld s aMstShadow 31 16 →
          ∃ u, exec (.shadowReport p i) s = .next u ∧ csrFld u aMstShadow 15 0 = csrFld s aMstShadow 15 0 + 1
          ∧ u.muster.shadow = some t.src ∧ u.cores = s.cores ∧ u.notes = s.notes)
        ∧ (same = false → ∃ u, exec (.shadowReport p i) s = .next u
          ∧ csrFld u aMstShadow 15 0 = 0 ∧ csrFld u aMstShadowErr 63 48 = min 65535 (csrFld s aMstShadowErr 63 48 + 1)
          ∧ csrFld u aMstShadowErr 47 0 = swath % 2 ^ 48 ∧ u.notes = .other 304 t.src :: s.notes ∧ u.cores = s.cores))
    ∧ (∀ p i t d par, musterAt s p i t (.admitAsk d par) → t.dst = ownCoord s → leader s = ownCoord s →
        (d ∈ s.muster.barred → ∃ u, exec (.admitRequest p i) s = .next u ∧ u = { rxTake s p i t with muster := u.muster }
          ∧ memberState u d = if memberState s d = 1 then 1 else 3)
        ∧ (d ∉ s.muster.barred → memberState s d ≠ 1 → mayCommit s → ∃ u, exec (.admitRequest p i) s = .next u
          ∧ committed s u d 1))

/-! ## The host port -/

namespace Sys2Proof.Claim

/-- KHT packet h with its data waits as frame `id` for open connection v; it brings no congestion mark and ends no round
trip, and v owes and awaits nothing; the function's priority is not paused. -/
def khtFor (s : State) (id : Nat) (f : HFrame) (h : KhtHdr) (data : List Word) (v : Tc) : Prop :=
  findFrame s id = some f ∧ readKht f.body = some (h, data) ∧ findTc s f.fn h.dtc = some v ∧ v.state = 0 ∧ v.qp = false
    ∧ v.closing = false ∧ v.txq = [] ∧ v.held = [] ∧ v.engine < 4 ∧ f.ce = false ∧ h.ece = false ∧ h.ackpsn = v.roundEnd
    ∧ h.sack = 0#64 ∧ fget zeroNat s.hostPaused (prioKey (fnNetPort s f.fn) (fnPrio s f.fn)) = 0

/-- The packet has been taken by its engine and has set the window that the peer grants. -/
def tookKht (s : State) (f : HFrame) (h : KhtHdr) (v : Tc) (miss : Bool) : State :=
  putTc (serve (takeFrame s f) v.engine miss) { v with peerWin := h.window }

/-- The connection after packet h has been delivered in order (R324). -/
def oneOn (s : State) (h : KhtHdr) (v : Tc) : Tc :=
  { v with
    peerWin := h.window
    rxNext := (v.rxNext + 1) % 2 ^ 24
    fresh := v.fresh + 1
    freshAt := if v.fresh = 0 then s.now.toNat else v.freshAt }

/-- A KHT packet of header e and data d has left for connection t of function n (R319). -/
def khtSent (u : State) (n t : Nat) (e : KhtHdr) (d : List Word) : Prop :=
  ∃ g, Emit.host g (.kht n t (khtHdrWords e ++ d)) ∈ u.outs

/-- An ACK with a next expected PSN, a status and an address has left for connection v. -/
def acked (u : State) (v : Tc) (next status : Nat) (a : Word) : Prop :=
  ∃ e, khtSent u v.fn v.num e [] ∧ e.op = 5 ∧ e.dtc = v.hostTc ∧ e.ackpsn = next ∧ e.status = status ∧ e.addr = a

/-- Word k of core c's scratchpad, aligned address a, outside a pair. -/
def spdAt (s : State) (a : Word) (c k : Nat) : Prop :=
  adTier a = 0 ∧ a.toNat % 8 = 0 ∧ spdPlace (adOff a) = (c, k) ∧ pairRole s c = none

/-- That word holds w, error-free and not poisoned, and nothing else of the cores has changed. -/
def wordWritten (s u : State) (c k : Nat) (w : Word) : Prop :=
  getCore u c = spdStore (getCore s c) k ⟨w, false⟩ ∧ ∀ d, d ≠ c → getCore u d = getCore s d

end Sys2Proof.Claim

/-- R310, R311: a frame with FEC errors is lost and counted, one for no function, a fragment, one with IP options or above the
MTU is dropped and counted, a good one enters the ingress buffer with its mark. R309, R312: link changes and pauses. R322, R323: CONNECT opens a TC or answers RESET. R324: a
packet after a gap is held and acknowledged at once; one in order is delivered. R325: an ACK retires what it acknowledges.
R326, R327: WRITE stores, READ answers with the data. R330: SUBMIT lands an entry. R323 to R325: CLOSE, RESET and the timers. -/
def Obligations.HostConnections : Prop :=
  ∀ (s : State),
    (∀ fec f n, f.port < 8 → f.prio < 8 → bit (csrGet s aHostPortStat) (56 + f.port) = true →
      (fec ≠ 0 → exec (.frameReceive fec f) s = .next (satCsrFld s aHostPortStat 47 32 fec))
      ∧ (∀ udp ws, fec = 0 → f.body = .kht udp ws →
        (frameFn s f = none ∨ f.odd = true ∨ csrFld s aHostPortCfg 15 0 < f.ipLen →
          exec (.frameReceive fec f) s = .next (satCsrFld s aHostPortStat 15 0 1))
        ∧ (frameFn s f = some n → f.odd = false → f.ipLen ≤ csrFld s aHostPortCfg 15 0 → bodyOk s f.body = true →
          portServes s n f.body = true → bit (csrGet s aHostPfc) (56 + f.prio) = false →
          heldBytes s f.port f.prio + f.len ≤ 16 * 1024 * 1024 / (8 * portCount s) → exec (.frameReceive fec f) s = .next
            { s with
              ingress := s.ingress ++ [{ f with id := s.nextId, fn := n, ce := f.ce ||
                (f.ect && decide (heldBytes s f.port f.prio > csrFld s aHostPfc 15 0 * 1024)), time := s.now.toNat }]
              nextId := s.nextId + 1 })))
    ∧ (∀ port prio, port < 8 → prio < 8 →
      exec (.pfcPause port prio true) s = .next { s with hostPaused := fset zeroNat s.hostPaused (8 * port + prio) 1 }
      ∧ ∃ u, exec (.pfcPause port prio false) s = .next u ∧ fget zeroNat u.hostPaused (8 * port + prio) = 0 ∧ u.tcs = s.tcs
        ∧ ∀ g b, .host g b ∈ s.hostHeld →
          (8 * g.port + g.prio = 8 * port + prio → .host g b ∈ u.outs ∧ .host g b ∉ u.hostHeld)
          ∧ (8 * g.port + g.prio ≠ 8 * port + prio → .host g b ∈ u.hostHeld))
    ∧ (∀ port up, port < portCount s → s.stw.hostMode ≤ 3 → ∃ u, exec (.hostLinkChange port up) s = .next u
        ∧ csrFld u aHostPortStat (56 + port) (56 + port) = (if up then 1 else 0) ∧ u = { s with csr := u.csr })
    ∧ (∀ id miss f h w0 w1 l, findFrame s id = some f → readKht f.body = some (h, w0 :: w1 :: l) → h.op = 1 → bit w1 63 = false →
        fget zeroNat s.hostPaused (prioKey (fnNetPort s f.fn) (fnPrio s f.fn)) = 0 →
        (∀ v ∈ s.tcs, v.fn = f.fn → v.state = 0 → v.hostTc = bits w0 63 48 → v.startPsn ≠ bits w0 47 24) →
        (∀ t, fnState s f.fn = 1 → bits w1 59 58 ≠ 3 → freeTc s f.fn = some t → ∃ u v e d,
          exec (.connect id miss) s = .next u ∧ u.tcs = s.tcs ++ [v] ∧ v.fn = f.fn ∧ v.num = t ∧ v.hostTc = bits w0 63 48
          ∧ v.state = 0 ∧ v.qp = false ∧ v.rxNext = bits w0 47 24 ∧ v.peerWin = bits w0 15 0 ∧ v.txNext = 0
          ∧ khtSent u f.fn t e d ∧ e.op = 2 ∧ e.dtc = v.hostTc ∧ e.ackpsn = v.rxNext ∧ bits (d.getD 2 0#64) 15 0 = t % 65536
          ∧ u.cores = s.cores)
        ∧ (fnState s f.fn ≠ 1 → ∃ u e, exec (.connect id miss) s = .next u ∧ u.tcs = s.tcs ∧ u.cores = s.cores
          ∧ khtSent u f.fn 0 e [] ∧ e.op = 11 ∧ e.dtc = 0))
    ∧ (∀ x id miss f h data, x ∈ [(3, Instr.close id miss), (5, Instr.khtAck id miss), (6, Instr.khtWrite id miss),
          (7, Instr.khtRead id miss), (9, Instr.submit id miss)] → findFrame s id = some f → readKht f.body = some (h, data) →
        h.op = x.1 → findTc s f.fn h.dtc = none →
        fget zeroNat s.hostPaused (prioKey (fnNetPort s f.fn) (fnPrio s f.fn)) = 0 → ∃ u e, exec x.2 s = .next u
        ∧ khtSent u f.fn 0 e [] ∧ e.op = 11 ∧ e.dtc = 0 ∧ u.tcs = s.tcs ∧ u.cores = s.cores)
    ∧ (∀ id miss f h data v, khtFor s id f h data v → v.unacked = [] → v.reads = [] →
      (∀ x, x ∈ [(3, Instr.close id miss), (6, Instr.khtWrite id miss), (7, Instr.khtRead id miss), (9, Instr.submit id miss)] →
        h.op = x.1 → 0 < psnDist v.rxNext h.psn → psnDist v.rxNext h.psn < khtWindow s →
        ∃ u, exec x.2 s = .next u ∧ findTc u f.fn h.dtc = some { v with peerWin := h.window, held := [f], fresh := 0, ece := false }
          ∧ acked u v v.rxNext 0 0#64 ∧ u.cores = s.cores)
      ∧ (h.psn = v.rxNext → 0 < khtWindow s →
        (h.op = 3 → ∃ u e, exec (.close id miss) s = .next u ∧ khtSent u f.fn h.dtc e [] ∧ e.op = 4 ∧ u.cores = s.cores
          ∧ ∃ w, findTc u f.fn h.dtc = some w ∧ w.state = 1 ∧ w.quietAt = s.now.toNat)
        ∧ (∀ c k w, h.op = 6 → data = [w] → spdAt s h.addr c k → padBusy s h.addr 8 = false → 8 ≤ payLimit s → fnState s f.fn = 1 →
          hostStatus (tookKht s f h v miss) f.fn none h.addr 8 true = 0 → rangeStatus (tookKht s f h v miss) h.addr 8 = 0 →
          ∃ u, exec (.khtWrite id miss) s = .next u ∧ wordWritten s u c k w
            ∧ ((h.ar || decide (15 ≤ v.fresh)) = true → acked u v ((v.rxNext + 1) % 2 ^ 24) 0 0#64)
            ∧ ((h.ar || decide (15 ≤ v.fresh)) = false → findTc u f.fn h.dtc = some (oneOn s h v)))
        ∧ (∀ st, h.op = 6 → data.length ≠ 0 → 8 * data.length ≤ payLimit s → fnState s f.fn = 1 → adTier h.addr ≠ 3 →
          padBusy s h.addr (8 * data.length) = false →
          hostStatus (tookKht s f h v miss) f.fn none h.addr (8 * data.length) true = st → st ≠ 0 → ∃ u,
          exec (.khtWrite id miss) s = .next u ∧ u.cores = s.cores ∧ acked u v ((v.rxNext + 1) % 2 ^ 24) st h.addr)
        ∧ (∀ c k w, h.op = 7 → h.length = 8 → spdAt s h.addr c k → padBusy s h.addr 8 = false → 8 ≤ payLimit s → 0 < h.window → 0 < v.cwnd →
          hostStatus (tookKht s f h v miss) f.fn none h.addr 8 false = 0 → rangeStatus (tookKht s f h v miss) h.addr 8 = 0 →
          popcount (fget noFlip (getCore s c).spdFlip k) = 0 → spdRaw (getCore s c) k = w → fget noPoi (getCore s c).spdPoi k = false → ∃ u e, exec (.khtRead id miss) s = .next u
            ∧ khtSent u f.fn h.dtc e [w] ∧ e.op = 8 ∧ e.psn = v.txNext ∧ e.addr = h.addr ∧ e.status = 0 ∧ u.cores = s.cores)
        ∧ (h.op = 9 → data.length = 32 → fnState s f.fn = 1 → cringEn s f.fn (bits h.addr 2 0) = true →
          (landedOf s f.fn (bits h.addr 2 0)).length < ringSize s f.fn (bits h.addr 2 0) → ∃ u, exec (.submit id miss) s = .next u
            ∧ landedOf u f.fn (bits h.addr 2 0) = landedOf s f.fn (bits h.addr 2 0) ++
              [{ idx := ringTail s f.fn (bits h.addr 2 0), tc := some h.dtc, time := s.now.toNat }]
            ∧ ringTail u f.fn (bits h.addr 2 0) =
              (ringTail s f.fn (bits h.addr 2 0) + 1) % ringSize s f.fn (bits h.addr 2 0) % 65536
            ∧ u.cores = s.cores)
        ∧ (h.op = 9 → data.length = 32 → fnState s f.fn = 1 → cringEn s f.fn (bits h.addr 2 0) = true →
          ringSize s f.fn (bits h.addr 2 0) ≤ (landedOf s f.fn (bits h.addr 2 0)).length → ∃ u, exec (.submit id miss) s = .next u
            ∧ u.funs = s.funs ∧ acked u v ((v.rxNext + 1) % 2 ^ 24) 8 (BitVec.ofNat 64 (bits h.addr 2 0)) ∧ u.cores = s.cores)))
    ∧ (∀ id miss f h data v x, khtFor s id f h data v → x ∈ [(4, Instr.closeAck id miss), (5, Instr.khtAck id miss)] → h.op = x.1 →
        ∃ u, exec x.2 s = .next u ∧ u.cores = s.cores ∧ u.outs = (takeFrame s f).outs ∧ findTc u f.fn h.dtc = some { v with
          peerWin := h.window
          unacked := v.unacked.filter (fun y => decide (psnDist h.ackpsn y.psn < 2 ^ 23))
          reads := v.reads.filter (fun y => decide (psnDist h.ackpsn y < 2 ^ 23)) })
    ∧ (∀ id miss f h data v, khtFor s id f h data v → h.op = 11 → ∃ u, exec (.khtReset id miss) s = .next u ∧ u.cores = s.cores
        ∧ findTc u f.fn h.dtc = some { v with
            state := 1, held := [], reads := [], txq := [], unacked := [], fresh := 0, quietAt := s.now.toNat })
    ∧ (∀ n t v, findTc s n t = some v → fget zeroNat s.hostPaused (prioKey (fnNetPort s n) (fnPrio s n)) = 0 →
      (∀ psn x, v.state = 0 → v.unacked.find? (fun x => decide (x.psn = psn)) = some x →
        x.time + 1000 * csrFld s aHostKht 63 48 ≤ s.now.toNat →
        (x.tries < csrFld s aHostKht 47 44 → ∃ u e w, exec (.khtRetransmitTimeout n t psn) s = .next u ∧ khtSent u n t e x.data
          ∧ e.op = x.op ∧ e.psn = psn ∧ findTc u n t = some w ∧ w.state = 0 ∧ u.cores = s.cores
          ∧ { x with tries := x.tries + 1, time := s.now.toNat, fast := false } ∈ w.unacked)
        ∧ (csrFld s aHostKht 47 44 ≤ x.tries → ∃ u e w, exec (.khtRetransmitTimeout n t psn) s = .next u ∧ khtSent u n t e []
          ∧ e.op = 11 ∧ e.dtc = v.hostTc ∧ findTc u n t = some w ∧ w.state = 1 ∧ w.unacked = [] ∧ u.cores = s.cores))
      ∧ (v.state = 0 → v.qp = false → v.fresh ≠ 0 → v.freshAt + 2000 ≤ s.now.toNat → ∃ u, exec (.khtAckTimer n t) s = .next u
        ∧ acked u v v.rxNext 0 0#64 ∧ findTc u n t = some { v with fresh := 0, ece := false } ∧ u.cores = s.cores)
      ∧ (v.state = 1 ∨ v.state = 2 ∧ v.closing = true → v.quietAt + 1000 * csrFld s aHostKht 15 0 ≤ s.now.toNat → ∃ u,
        exec (.tcQuietExpire n t) s = .next u ∧ findTc u n t = none ∧ u = { s with tcs := u.tcs, funs := u.funs }
        ∧ (t < 1024 → ∀ r ∈ (getFun u n).reqs, r.tc ≠ some t ∧ r.dup ≠ some t)
        ∧ ∀ m y, (m ≠ n ∨ y ≠ t) → findTc u m y = findTc s m y))

/-! ## RoCEv2 -/

namespace Sys2Proof.Claim

/-- RoCEv2 packet r waits as frame `id` for queue pair v, which is not in error; the packet bears no CE mark and waits for no
scratchpad that is being cleared. -/
def roceFor (s : State) (id : Nat) (f : HFrame) (r : Roce) (v : Tc) : Prop :=
  findFrame s id = some f ∧ f.body = .roce r ∧ qpWaits s f r = false ∧ findTc s f.fn (r.qpn % 1024) = some v ∧ v.qp = true ∧ v.state = 0
    ∧ r.qpn = 0x010000 + 1024 * f.fn + v.num ∧ v.engine < 4 ∧ f.ce = false
    ∧ fget zeroNat s.hostPaused (prioKey (fnNetPort s f.fn) (fnPrio s f.fn)) = 0

/-- The packet has been taken by its engine. -/
def tookRoce (s : State) (f : HFrame) (v : Tc) (miss : Bool) : State := putTc (serve (takeFrame s f) v.engine miss) v

/-- A RoCEv2 packet with an operation, a PSN and data has left for the peer of queue pair v. -/
def roceSent (u : State) (v : Tc) (op : RoceOp) (psn : Nat) (data : List Word) : Prop :=
  ∃ g q, .host g (.roce v.fn v.num q) ∈ u.outs ∧ q.op = op ∧ q.qpn = v.hostQpn ∧ q.psn = psn ∧ q.data = data

end Sys2Proof.Claim

/-- R328: SEND packets are assembled in PSN order into one 256-byte entry, which lands on the pair's ring; a full ring gives
RNR NAK, a message of another length NAK "invalid request"; a packet ahead of its turn gives NAK "PSN sequence error", one
repeated is acknowledged again; a received ACK changes nothing. R329: RDMA WRITE and READ pass the rkey and the host
window; refused they give a NAK and put the pair in error; permitted they store the word, or return it. -/
def Obligations.RoceOperations : Prop :=
  ∀ (s : State) (id : Nat) (miss : Bool) (f : HFrame) (r : Roce) (v : Tc), roceFor s id f r v →
    (∀ e, e ∈ [(RoceOp.send true true, Instr.roceSend id miss), (RoceOp.write true true, Instr.rdmaWrite id miss),
        (RoceOp.readReq, Instr.rdmaReadRequest id miss)] → r.op = e.1 →
      (0 < psnDist v.rxNext r.psn → psnDist v.rxNext r.psn < 2 ^ 23 → ∃ u, exec e.2 s = .next u ∧ u.cores = s.cores
        ∧ roceSent u v (.nak 0) v.rxNext [] ∧ findTc u f.fn v.num = some v)
      ∧ (r.op ≠ .readReq → 2 ^ 23 ≤ psnDist v.rxNext r.psn → ∃ u, exec e.2 s = .next u ∧ u.cores = s.cores
        ∧ roceSent u v .ack ((v.rxNext + 2 ^ 24 - 1) % 2 ^ 24) [] ∧ findTc u f.fn v.num = some v))
    ∧ (r.psn = v.rxNext →
      (r.op = .send true false → r.data.length ≤ 32 → ∃ u, exec (.roceSend id miss) s = .next u ∧ u.cores = s.cores
        ∧ findTc u f.fn v.num = some { v with rxNext := (r.psn + 1) % 2 ^ 24, partWords := r.data, partPsn := r.psn }
        ∧ (r.ackReq = true → roceSent u v .ack r.psn []))
      ∧ (r.op = .send false true → (v.partWords ++ r.data).length = 32 → fnState s f.fn = 1 → cringEn s f.fn v.ring = true →
        ((landedOf s f.fn v.ring).length < ringSize s f.fn v.ring → ∃ u, exec (.roceSend id miss) s = .next u
          ∧ landedOf u f.fn v.ring = landedOf s f.fn v.ring ++
            [{ idx := ringTail s f.fn v.ring, tc := none, time := s.now.toNat }]
          ∧ findTc u f.fn v.num = some { v with rxNext := (r.psn + 1) % 2 ^ 24, partWords := [] } ∧ u.cores = s.cores)
        ∧ (ringSize s f.fn v.ring ≤ (landedOf s f.fn v.ring).length → ∃ u t, exec (.roceSend id miss) s = .next u
          ∧ u.funs = s.funs ∧ roceSent u v (.rnr t) v.partPsn [] ∧ u.cores = s.cores
          ∧ findTc u f.fn v.num = some { v with rxNext := v.partPsn, partWords := [] }))
      ∧ (r.op = .send false true → (v.partWords ++ r.data).length ≠ 32 → ∃ u, exec (.roceSend id miss) s = .next u
        ∧ u.funs = s.funs ∧ roceSent u v (.nak 1) r.psn [] ∧ findTc u f.fn v.num = some { v with state := 2, partWords := [] }
        ∧ u.cores = s.cores)
      ∧ (r.op = .write true true → r.len = 8 →
        (∀ c k w, r.data = [w] → spdAt s r.va c k → rdmaStops (tookRoce s f v miss) f.fn r.rkey r.va 8 true = none → ∃ u,
          exec (.rdmaWrite id miss) s = .next u ∧ wordWritten s u c k w ∧ (r.ackReq = true → roceSent u v .ack r.psn []))
        ∧ (∀ code, r.data.length = 1 → rdmaStops (tookRoce s f v miss) f.fn r.rkey r.va 8 true = some code → ∃ u w,
          exec (.rdmaWrite id miss) s = .next u ∧ u.cores = s.cores ∧ roceSent u v (.nak code) r.psn []
          ∧ findTc u f.fn v.num = some w ∧ w.state = 2))
      ∧ (r.op = .readReq → r.len = 8 →
        (∀ c k, spdAt s r.va c k → rdmaStops (tookRoce s f v miss) f.fn r.rkey r.va 8 false = none →
          popcount (fget noFlip (getCore s c).spdFlip k) = 0 → fget noPoi (getCore s c).spdPoi k = false → ∃ u,
          exec (.rdmaReadRequest id miss) s = .next u ∧ u.cores = s.cores
          ∧ roceSent u v .readResp r.psn [spdRaw (getCore s c) k]
          ∧ findTc u f.fn v.num = some { v with rxNext := (v.rxNext + 1) % 2 ^ 24 })
        ∧ (∀ code, rdmaStops (tookRoce s f v miss) f.fn r.rkey r.va 8 false = some code → ∃ u,
          exec (.rdmaReadRequest id miss) s = .next u ∧ u.cores = s.cores ∧ roceSent u v (.nak code) r.psn []
          ∧ findTc u f.fn v.num = some { v with state := 2, partWords := [] })))
    ∧ (isAckOp r.op = true → exec (.roceAck id miss) s = .next (tookRoce s f v miss)
      ∧ findTc (tookRoce s f v miss) f.fn v.num = some v ∧ (tookRoce s f v miss).cores = s.cores)

/-! ## Commands of a function -/

namespace Sys2Proof.Claim

/-- Entry e, which landed as x, heads ring r of enabled function n. s1 is the state once it has been read. It has a request
ID, no slot and no deadline, and the place of its replay record is free (R334, R335). -/
def offered (s s1 : State) (n r : Nat) (x : Landed) (e : List PWord) : Prop :=
  fnState s n = 1 ∧ r < 8 ∧ headEntry s n r = some (x, s1, e) ∧ ecReqId e ≠ 0 ∧ ecSlot e = 0xFFFF ∧ ecDeadline e = 0
    ∧ bit ((memReadWords s1 (recAddr s1 n (ecReqId e)) 4).2.getD 1 noWord).val 63 = false

/-- TC t of function n is open and may send at once, and the function is not in quarantine. -/
def noticeTo (s : State) (n t : Nat) : Prop :=
  (getFun s n).replay = none ∧ fget zeroNat s.hostPaused (prioKey (fnNetPort s n) (fnPrio s n)) = 0 ∧ 0 < khtWindow s
    ∧ ∃ v, findTc s n t = some v ∧ v.state = 0 ∧ v.qp = false ∧ v.unacked = [] ∧ v.txq = [] ∧ 0 < v.peerWin ∧ 0 < v.cwnd

/-- A NOTICE with the record of a request that took no slot has left on TC t. -/
def noticed (u : State) (n t reqId st acc done_ : Nat) : Prop :=
  ∃ h, khtSent u n t h (recWords reqId st 0xFFFF 0 acc done_) ∧ h.op = 10

/-- The head entry of ring r has been taken in: HEAD has moved on, and the accepted commands have been counted. -/
def consumed (s u : State) (n r : Nat) : Prop :=
  ringHead u n r = (ringHead s n r + 1) % ringSize s n r % 65536 ∧ landedOf u n r = (landedOf s n r).tail
    ∧ csrFld u (aFn n fnCmds) 63 32 = (csrFld s (aFn n fnCmds) 63 32 + 1) % 2 ^ 32 ∧ u.cores = s.cores

/-- It has been completed with a status as well. -/
def answered (s u : State) (n r : Nat) (e : List PWord) (t st : Nat) : Prop :=
  consumed s u n r ∧ csrFld u (aFn n fnCmds) 31 0 = (csrFld s (aFn n fnCmds) 31 0 + 1) % 2 ^ 32
    ∧ (getFun u n).reqs = (getFun s n).reqs ∧ noticed u n t (ecReqId e) st s.now.toNat s.now.toNat

/-- It waits as the request q. -/
def pendingAs (s u : State) (n r : Nat) (q : HReq) : Prop :=
  consumed s u n r ∧ (getFun u n).reqs = (getFun s n).reqs ++ [q]

/-- The request that intake makes of entry e. -/
def newReq (s : State) (n r : Nat) (x : Landed) (e : List PWord) : HReq :=
  { ser := freshSer s n, reqId := ecReqId e, op := ecOp e, slot := 0xFFFF, ring := r, idx := x.idx, tc := x.tc, dup := none,
    deadline := 0, entry := e, landTime := x.time, accepted := s.now.toNat, disp := 0, dispAt := 0, lastTry := 0, order := 0,
    mtch := 0 }

/-- The list entry that a SEED names holds its very image (R359). -/
def holdsImage (s : State) (n : Nat) (e : List PWord) : Prop :=
  ∃ x ∈ (getFun s n).imgs, x.1 = (admOf 0 e).list ∧ sameImg (admOf 0 e) x.2 = true

/-- The switch that a SEED asks for takes its place in the queue (R370). -/
def seedSwitch (s : State) (n : Nat) (e : List PWord) (admitting : Bool) : Switch :=
  { list := (admOf 0 e).list, act := (admOf 0 e).act, cmd := some (freshSer s n), carry := none, admitting := admitting }

end Sys2Proof.Claim

/-- R330: an entry that covers its place at TAIL lands, any other host write to a ring is counted. R333, R335: NOP completes, ACK
frees the slot it names, a reserved code completes "bad command". R336, R375: RUN is dispatched to the running context, queues
a switch when there is none, completes "context failed" in a failed one. R359, R360, R370: SEED takes its place in the queue of
switches and begins an admission unless its image is held, a full queue refuses it; ADMIT_ONLY begins an admission or
completes; EVICT drops the image. R376: TEARDOWN without a context completes. -/
def Obligations.HostCommands : Prop :=
  ∀ (s : State) (n r : Nat),
    (∀ i entry tc, n < 64 → r < 8 → entry.length = 32 → fnState s n = 1 → cringEn s n r = true →
      (∀ q, q < 8 → q ≠ r → cringEn s n q = true → ringBaseOff s n q + 256 * ringSize s n q ≤ ringBaseOff s n r + 256 * i
        ∨ ringBaseOff s n r + 256 * i + 256 ≤ ringBaseOff s n q) → i < ringSize s n r →
      hostStatus s n none (hbmAddr (ringBaseOff s n r + 256 * i)) 256 true = 0 →
      (i = ringTail s n r → (landedOf s n r).length < ringSize s n r → bits (entry.getD 0 0#64) 63 63 = ringPhase s n r → ∃ u,
        exec (.commandLand n r i entry tc) s = .next u ∧ u.cores = s.cores
        ∧ landedOf u n r = landedOf s n r ++ [{ idx := i, tc := tc, time := s.now.toNat }]
        ∧ ringTail u n r = (i + 1) % ringSize s n r % 65536
        ∧ csrFld u (aFn n fnCount) 39 28 = csrFld s (aFn n fnCount) 39 28)
      ∧ (i ≠ ringTail s n r → ∃ u, exec (.commandLand n r i entry tc) s = .next u ∧ u.cores = s.cores ∧ u.funs = s.funs
        ∧ ringTail u n r = ringTail s n r
        ∧ csrFld u (aFn n fnCount) 39 28 = min 4095 (csrFld s (aFn n fnCount) 39 28 + 1)))
    ∧ (∀ s1 x e t, offered s s1 n r x e → x.tc = some t → noticeTo s n t →
      (∀ c, c ∈ [(ecOp e = 1, Instr.commandNop n r, 2), (ecOp e = 0 ∨ 5 < ecOp e, Instr.commandReserved n r, 8)] → c.1 →
        ackList e = [] → ∃ u, exec c.2.1 s = .next u ∧ answered s u n r e t c.2.2)
      ∧ (∀ i g, ecOp e = 2 → ackList e = [(i, g)] → i < slotCount s n → slotState s n i = 2 →
        (slotGen (memReadWords s1 (recAddr s1 n (ecReqId e)) 4).1 n i).2 = g → ∃ u,
        exec (.commandAck n r) s = .next u ∧ answered s u n r e t 2 ∧ slotState u n i = 0)
      ∧ (ackList e = [] →
        (∀ c, c ∈ [(refBad e true = true, 8), (refBad e true = false ∧ ctxState s n = 5, 5),
            (refBad e true = false ∧ ctxState s n = 2 ∧ runMatch s n e = none, 8)] → c.1 → ecOp e = 4 → ∃ u,
          exec (.run n r) s = .next u ∧ answered s u n r e t c.2)
        ∧ (∀ l i, ecOp e = 4 → refBad e true = false → runMatch s n e = some (l, i) →
          (∀ z, ctxState s n = 2 → edgeRouter (verOf s (fget zeroNat s.edgeEpoch 0)) 0 = some z → ∃ u q p,
            exec (.run n r) s = .next u ∧ pendingAs s u n r q ∧ q.ser = freshSer s n ∧ q.entry = e ∧ q.disp = 1
            ∧ q.dispAt = s.now.toNat ∧ q.mtch = 16 * (match curImg s n with | some j => b2n (refNames e j) | none => 0) + l
            ∧ p ∈ u.net ∧ p.at_ = z ∧ p.body = dispWords n q ∧ pType p = tMESSAGE)
          ∧ (ctxState s n = 0 → (getFun s n).switches = [] → ∃ u, exec (.run n r) s = .next u
            ∧ pendingAs s u n r { newReq s n r x e with mtch := l }
            ∧ (getFun u n).switches = [{ list := l, act := 0, cmd := none, carry := some (freshSer s n), admitting := false }]))
        ∧ (ecOp e = 3 → refBad e false = false → (getFun s n).barred ≠ some (ecWord e 5).toNat →
          (bit (ecWord e 7) 63 = false → bit (ecWord e 7) 62 = false → ((getFun s n).switches.length < 4 →
            (¬ holdsImage s n e → ∃ u, exec (.seed n r) s = .next u ∧ pendingAs s u n r (newReq s n r x e)
              ∧ (getFun u n).adms = (getFun s n).adms ++ [admOf (freshSer s n) e]
              ∧ (getFun u n).switches = (getFun s n).switches ++ [seedSwitch s n e true])
            ∧ (holdsImage s n e → (∀ y ∈ (getFun s n).switches, y.cmd ≠ some (freshSer s n)) → ∃ u,
              exec (.seed n r) s = .next u ∧ pendingAs s u n r (newReq s n r x e)
              ∧ (getFun u n).switches = (getFun s n).switches ++ [seedSwitch s n e false]))
            ∧ (4 ≤ (getFun s n).switches.length → ∃ u, exec (.seed n r) s = .next u ∧ answered s u n r e t 8
              ∧ csrFld u (aFn n fnSeedStat) 61 55 = 16 ∧ (getFun u n).switches = (getFun s n).switches))
          ∧ (bit (ecWord e 7) 63 = true → bit (ecWord e 7) 62 = false →
            (holdsImage s n e → ∃ u, exec (.seedAdmitOnly n r) s = .next u ∧ answered s u n r e t 2)
            ∧ (¬ holdsImage s n e → ∃ u, exec (.seedAdmitOnly n r) s = .next u ∧ pendingAs s u n r (newReq s n r x e)
              ∧ (getFun u n).adms = (getFun s n).adms ++ [admOf (freshSer s n) e]))
          ∧ (bit (ecWord e 7) 62 = true → ¬ (ctxState s n ≠ 0 ∧ ctxList s n = bits (ecWord e 7) 51 48) → ∃ u,
            exec (.seedEvict n r) s = .next u ∧ answered s u n r e t 2 ∧ imgAt (getFun u n) (bits (ecWord e 7) 51 48) = none
            ∧ csrGet u (aFn n (fnImg (bits (ecWord e 7) 51 48))) = 0#64))
        ∧ (ecOp e = 5 → ctxState s n = 0 → ∃ u, exec (.teardown n r) s = .next u ∧ answered s u n r e t 2)))

/-! ## A function's life -/

/-- R339, R340: a valid FN_COMPLETE completes the request of its slot and counts it; one that fails a check writes nothing but
its count, and one from a stranger nothing at all. R336: a dispatch that bounced is sent again 10 microseconds after its last
try, and one not landed in 1 ms ends. R342: disabling empties every ring into "function disabled" and starts the drain; at its
limit the requests end, every TC is quiet or in error, the rings close, the context ends and the partition's plots are reset. R343:
enabling starts the rings, slots and requests afresh. -/
def Obligations.FunctionLife : Prop :=
  ∀ (s : State) (n : Nat), n < 64 →
    (∀ who v, sourceOk s n who = true → ((getFun s n).replay = none ∨ who = .steward) →
      (∀ r, (getFun s n).reqs.find? (fun r => decide (r.slot = bits v 55 40) && decide (r.slot ≠ 0xFFFF)) = some r →
        statusOk who (bits v 63 56) = true → slotState s n (bits v 55 40) = 1 →
        bits v 23 0 + 64 ≤ slotSize s n → findReq s n r.ser = some r → ∃ u, exec (.fnComplete n who v) s = .next u
          ∧ slotState u n (bits v 55 40) = 2
          ∧ (getFun u n).reqs = (getFun s n).reqs.filter (fun y => decide (y.ser ≠ r.ser)) ∧ u.cores = s.cores
          ∧ csrFld u (aFn n fnCmds) 31 0 = (csrFld s (aFn n fnCmds) 31 0 + 1) % 2 ^ 32)
      ∧ (statusOk who (bits v 63 56) = false ∨ slotState s n (bits v 55 40) ≠ 1 ∨ slotSize s n < bits v 23 0 + 64 →
          exec (.fnComplete n who v) s = .next (countFn s n 27 16)))
    ∧ (∀ who v, sourceOk s n who = false → exec (.fnComplete n who v) s = .next s)
    ∧ (∀ ser r, findReq s n ser = some r →
      ((r.disp = 1 ∨ r.disp = 3) → r.dispAt + 1000000 ≤ s.now.toNat → (getFun s n).seed = none → ∃ u,
        exec (.dispatchRetry n ser) s = .next u ∧ u.cores = s.cores
        ∧ (getFun u n).reqs = (getFun s n).reqs.filter (fun y => decide (y.ser ≠ ser))
        ∧ ∀ t, r.slot = 0xFFFF → r.tc = some t → r.dup = none → noticeTo s n t →
          noticed u n t r.reqId 0x0A r.accepted s.now.toNat)
      ∧ (r.disp = 3 → s.now.toNat < r.dispAt + 1000000 → r.lastTry + 10000 ≤ s.now.toNat → ∃ u q,
        exec (.dispatchRetry n ser) s = .next u ∧ findReq u n ser = some q ∧ q.disp = 1 ∧ q.dispAt = r.dispAt
        ∧ q.lastTry = s.now.toNat ∧ q.entry = r.entry ∧ u.cores = s.cores)
      ∧ (r.disp = 3 → s.now.toNat < r.dispAt + 1000000 → s.now.toNat < r.lastTry + 10000 →
        exec (.dispatchRetry n ser) s = .next s))
    ∧ (fnState s n = 1 → ∃ u, exec (.functionDisable n) s = .next u ∧ fnState u n = 2
        ∧ csrFld u (aFn n fnCtl) 63 63 = 0 ∧ (getFun u n).drainAt = s.now.toNat ∧ (∀ r, r < 8 → landedOf u n r = [])
        ∧ u.cores = s.cores)
    ∧ (fnState s n = 2 → (getFun s n).drainAt + csrFld s (aFn n fnCtl) 47 32 * 1000000 ≤ s.now.toNat → ∃ u,
        exec (.drainLimitExpire n) s = .next u ∧ fnState u n = (if partPlots s n = [] then 0 else 3)
        ∧ (getFun u n).reqs = [] ∧ (getFun u n).slots = [] ∧ (getFun u n).landed = [] ∧ ctxState u n = 0
        ∧ (∀ v ∈ u.tcs, v.fn = n → v.state ≠ 0 ∧ (v.qp = true → v.state = 2)) ∧ (∀ r, r < 8 → cringEn u n r = false)
        ∧ (getFun u n).resets = partPlots s n ∧ (getFun u n).fnReset = true)
    ∧ (fnState s n = 2 → s.now.toNat < (getFun s n).drainAt + csrFld s (aFn n fnCtl) 47 32 * 1000000 →
        exec (.drainLimitExpire n) s = .next s)
    ∧ (fnState s n = 0 → ∃ u, exec (.functionEnable n) s = .next u ∧ fnState u n = 1
        ∧ csrFld u (aFn n fnCtl) 63 63 = 1 ∧ (getFun u n).reqs = [] ∧ u.cores = s.cores
        ∧ (∀ i, slotState u n i = 0) ∧ ∀ r, r < 8 → landedOf u n r = [] ∧ ringHead u n r = 0 ∧ ringTail u n r = 0
          ∧ ringPhase u n r = 0)

/-! ## Device time and swaths -/

namespace Sys2Proof.Claim

/-- Only device time, its copies and servo, the block registers and the swath number have changed. -/
def onlyClock (s u : State) : Prop :=
  u = { s with now := u.now, csr := u.csr, copies := u.copies, stw := { s.stw with servo := u.stw.servo },
               swathNow := u.swathNow, swA := u.swA, swT := u.swT }

/-- Every field copy of device time reads as the master (R398). -/
def copied (u : State) : Prop := ∀ f, f < 6 → fget zeroNat u.copies f = u.now.toNat

/-- An offset of device time from its source has been measured under SRC 1 or 2 (R394, R395): beyond STEP_US device time
steps, else the servo slews it away; 16 measurements in a row below 100 ns lock the servo. -/
def measured (s u : State) (off : Int) : Prop :=
  onlyClock s u ∧ csrFld u aTimeStat 31 0 = (BitVec.ofInt 32 off).toNat
    ∧ (1000 * csrFld s aTimeCfg 47 32 < off.natAbs → u.now = s.now - BitVec.ofInt 64 off ∧ copied u ∧ servoState u = 1
        ∧ csrFld u aTimeStat 47 32 = min 65535 (csrFld s aTimeStat 47 32 + 1) ∧ u.stw.servo.good = 0
        ∧ u.stw.servo.left = 0)
    ∧ (off.natAbs ≤ 1000 * csrFld s aTimeCfg 47 32 → u.now = s.now ∧ u.copies = s.copies ∧ u.stw.servo.left = -off
        ∧ u.stw.servo.good = (if off.natAbs < 100 then s.stw.servo.good + 1 else 0)
        ∧ ((servoState s = 0 ∨ servoState s = 3) → servoState u = 1)
        ∧ (servoState s = 1 → 15 ≤ s.stw.servo.good → off.natAbs < 100 → servoState u = 2 ∧ csrFld u aTimeStat 63 63 = 1)
        ∧ (servoState s = 2 → servoState u = 2))

/-- p is the SYNC packet with a number and a code, and has arrived (R362). -/
def synced (s : State) (id code : Nat) (p : Packet) : Prop := syncIn s id code = some p

/-- A SYNC packet with a code and an argument is on its way to unit `dst`: a core (kind 0), an edge port (2), a plot (3). -/
def syncSent (u : State) (kind dst code arg : Nat) : Prop :=
  ∃ q ∈ u.net, pType q = tSYNC ∧ pDstKind q = kind ∧ pDstId q = dst ∧ q.w2 = syncWord code arg

/-- A notice of function n's controller is on its way to its anchor (R385). -/
def noticeSent (s u : State) (n tag : Nat) (w0 w1 : Word) : Prop :=
  ∃ q ∈ u.net, pType q = tMESSAGE ∧ pTag q = tag ∧ pDstKind q = 0 ∧ pDstId q = anchorOf s n ∧ q.body = [plain w0, plain w1]

end Sys2Proof.Claim

/-- R394 to R398: a measurement from PTP or PPS steps device time or slews it; a missing source leaves the servo in holdover;
TIME_SET is a step; a copy never decreases. R344: PTP messages of the port's clock alone count, a two-step Sync waits for its
Follow_Up, a Delay_Req follows a Sync, the path delay is half the round trip. R529: an edge of REF1PPS counts within 10 µs of
a second after the last one, or after 1.5 s. -/
def Sys2Proof.Claim.DeviceTime : Prop :=
  ∀ s : State,
    (∀ port transport domain seq kind a b, ptpHere s port transport domain = false →
      exec (.ptpSync port transport domain seq kind a b) s = .next s
      ∧ exec (.ptpDelayResp port transport domain seq a b) s = .next s)
    ∧ (∀ port transport domain seq kind t1 err, ptpHere s port transport domain = true →
      (kind = 1 → exec (.ptpSync port transport domain seq kind t1 err) s = .next (setServo s (fun x => { x with
          t2 := timestamp s.now err, syncSeq := some seq })))
      ∧ (2 < kind ∨ kind = 2 ∧ s.stw.servo.syncSeq ≠ some seq →
          exec (.ptpSync port transport domain seq kind t1 err) s = .next s)
      ∧ (∀ t2, kind = 0 ∧ t2 = timestamp s.now err ∨ kind = 2 ∧ s.stw.servo.syncSeq = some seq ∧ t2 = s.stw.servo.t2 → ∃ u,
        exec (.ptpSync port transport domain seq kind t1 err) s = .next u ∧ u.stw.servo.t1 = t1
        ∧ u.stw.servo.t2 = t2 + (u.now - s.now) ∧ u.stw.servo.dreq = some (s.stw.servo.reqSeq, u.now)
        ∧ (∃ mac, u.outs = .delayReq port transport domain mac s.stw.servo.reqSeq :: s.outs)
        ∧ csrFld u aHostPtpStat 31 0 = (BitVec.ofInt 32 ((t2 - t1).toInt - csrFld s aHostPtpStat 47 32)).toNat
        ∧ csrFld u aHostPtpStat 63 61 = (if servoState u = 2 then 3 else if servoState u = 3 then 1 else 2)
        ∧ (timeSrc s = 1 → measured s { u with outs := s.outs } ((t2 - t1).toInt - csrFld s aHostPtpStat 47 32))
        ∧ (timeSrc s ≠ 1 → u.now = s.now ∧ csrGet u aTimeStat = csrGet s aTimeStat))
      ∧ (∀ t3 t4, s.stw.servo.dreq = some (seq, t3) → exec (.ptpDelayResp port transport domain seq t4 err) s =
          .next (setCsrFld (setServo s (fun x => { x with dreq := none })) aHostPtpStat 47 32
            (min 65535 (((s.stw.servo.t2 - s.stw.servo.t1).toInt + (t4 - timestamp t3 err).toInt) / 2).toNat)))
      ∧ (∀ t4, (∀ q, s.stw.servo.dreq = some q → q.1 ≠ seq) →
          exec (.ptpDelayResp port transport domain seq t4 err) s = .next s))
    ∧ (timeSrc s = 2 → s.stw.servo.ppsSet = true → edgeAccepted s = true → ∃ u, exec .ppsEdge s = .next u
        ∧ measured s u (s.now - csrGet s aTimePpsSec * 1000000000#64).toInt
        ∧ csrGet u aTimePpsSec = csrGet s aTimePpsSec + 1#64)
    ∧ (∀ t, s.stw.servo.ppsAt = some t → (s.now - t).toInt < 1500000000 →
        (s.now - t).toInt < 999990000 ∨ 1000010000 < (s.now - t).toInt → exec .ppsEdge s = .next s)
    ∧ (timeSrc s ≠ 2 ∨ s.stw.servo.ppsSet = false → exec .ppsEdge s = .next s)
    ∧ (∀ x, servoState s = 2 → (timeSrc s = 1 ∧ 3000000000 ≤ s.now.toNat - s.stw.servo.lastAt
          ∨ timeSrc s = 2 ∧ (1500000000 ≤ s.now.toNat - s.stw.servo.lastAt ∨ x = true)) → ∃ u,
        exec (.timeHoldover x) s = .next u ∧ onlyClock s u ∧ servoState u = 3 ∧ csrFld u aHostPtpStat 63 61 = 1
        ∧ u.now = s.now ∧ csrFld u aTimeStat 63 63 = csrFld s aTimeStat 63 63 ∧ u.stw.servo.good = 0
        ∧ u.stw.servo.left = 0)
    ∧ (∀ x, servoState s ≠ 2 → exec (.timeHoldover x) s = .next s)
    ∧ (∀ f, f < 6 → exec (.timeCopyCorrect f) s =
        .next { s with copies := fset zeroNat s.copies f (max (fget zeroNat s.copies f) s.now.toNat) })
    ∧ (∀ v, ∃ u, exec (.timeSet v) s = .next u ∧ onlyClock s u ∧ u.now = v ∧ copied u ∧ u.stw.servo.good = 0
        ∧ u.stw.servo.left = 0 ∧ csrFld u aTimeStat 47 32 = min 65535 (csrFld s aTimeStat 47 32 + 1)
        ∧ csrFld u aTimeStat 63 63 = (if timeSrc s = 0 then 1 else csrFld s aTimeStat 63 63)
        ∧ (timeSrc s = 1 ∨ timeSrc s = 2 → servoState u = 1)
        ∧ (timeSrc s = 0 → csrFld s aTimeStat 63 63 = 0 → u.swathNow = v.toNat / swathPeriod s
            ∧ csrGet u aSwathStart = BitVec.ofNat 64 (v.toNat / swathPeriod s * swathPeriod s)))

/-- R379 to R383: at a boundary that is due the swath number goes up by one, SWATH_START records device time, a period change
set for that swath takes effect, the running contexts' requests whose deadline lay in the swath that ends are gone, and every
controller hears of it; a boundary not due does nothing. R380: SWATH_APPLY takes a past swath as the next. R385: the controller's
notices land at the anchor when the image asks, and a change of members waits while its context seeds. -/
def Sys2Proof.Claim.SwathEvents : Prop :=
  ∀ s : State,
    (boundaryDue s = false → exec .swathBoundary s = .next s)
    ∧ (boundaryDue s = true → ∃ u, exec .swathBoundary s = .next u ∧ u.swathNow = s.swathNow + 1
        ∧ csrGet u aSwathStart = s.now ∧ u.now = s.now ∧ u.cores = s.cores
        ∧ (csrGet s aSwathApply = BitVec.ofNat 64 (s.swathNow + 1) → s.swathNow + 1 < 2 ^ 64 →
            csrGet u aSwathApply = 0#64 ∧ csrFld u aSwathCfg 19 0 = csrFld s aSwathCfg 51 32 ∧ u.swA = s.swathNow + 1
            ∧ u.swT = s.swT + (s.swathNow + 1 - s.swA) * swathPeriod s)
        ∧ ((csrGet s aSwathApply).toNat ≠ s.swathNow + 1 →
            csrGet u aSwathApply = csrGet s aSwathApply ∧ csrGet u aSwathCfg = csrGet s aSwathCfg ∧ u.swA = s.swA
            ∧ u.swT = s.swT)
        ∧ (∀ n, n ∈ partFns s → ctxState s n = 2 →
            (∀ q ∈ (getFun u n).reqs, q ∈ (getFun s n).reqs)
            ∧ (∀ q ∈ (getFun u n).reqs, isRun q = true → q.deadline ≠ 0 → swathOf s q.deadline ≠ s.swathNow)
            ∧ ((∀ q ∈ runsOf s n, q.deadline ≠ 0 → swathOf s q.deadline ≠ s.swathNow) → ctxState u n = 2))
        ∧ (∀ z, edgeRouter (verOf s (fget zeroNat s.edgeEpoch 17)) 17 = some z → ∀ n, n ∈ partFns s →
            syncSent u 3 (anchorPlot s n) scSWATH (s.swathNow + 1)))
    ∧ (∀ v, exec (.swathApply v) s = .next (csrSet s aSwathApply
        (if v = 0#64 then 0#64 else if v.toNat ≤ s.swathNow then BitVec.ofNat 64 (s.swathNow + 1) else v)))
    ∧ (∀ id p n, fnOfPlot s (pDstId p) = some n →
      (synced s id scSWATH p → ∀ i, curImg s n = some i →
        (i.notify = false → exec (.swathSync id) s = .next (dropPkt s id))
        ∧ (i.notify = true → routed s 0xFFFF → ∃ u, exec (.swathSync id) s = .next u ∧ u.cores = s.cores
          ∧ noticeSent s u n ntSWATH (BitVec.ofNat 64 (syncArg p 47 0)) (boundaryTime s (syncArg p 47 0))
          ∧ ∀ x, x ≠ id → findPkt s x ≠ none → findPkt u x = findPkt s x))
      ∧ (synced s id scMEMBER p →
        (ctxState s n = 0 → exec (.member id) s = .next (dropPkt s id))
        ∧ (ctxState s n = 1 → exec (.member id) s = .next (updFun (dropPkt s id) n (fun f => { f with
            memberNotes := f.memberNotes ++ [(BitVec.ofNat 64 (syncArg p 31 0), csrGet s aMstEvent)] })))
        ∧ (1 < ctxState s n → routed s 0xFFFF → ∃ u, exec (.member id) s = .next u ∧ u.cores = s.cores
          ∧ noticeSent s u n ntMEMBER (BitVec.ofNat 64 (syncArg p 31 0)) (csrGet s aMstEvent))))

/-- R379 to R383, R393 to R398: device time and the swaths that it numbers. -/
def Obligations.TimeAndSwaths : Prop := DeviceTime ∧ SwathEvents

/-! ## Seeding and cleaning at a core -/

namespace Sys2Proof.Claim

/-- Core c has ended its old work for a new pair: nothing runs or waits in it, its registers are at reset, its code and its
scratchpad are still those of before, and the clear of the scratchpad has begun (R363 steps 2 to 5). -/
def freshCore (s u : State) (c ctx gen : Nat) : Prop :=
  coreCtx (getCore u c) = ctx ∧ coreGen (getCore u c) = gen ∧ coreRunning (getCore u c) = false
    ∧ (getCore u c).threads = [] ∧ (getCore u c).queues = [] ∧ (getCore u c).rings = [] ∧ (getCore u c).reqs = []
    ∧ (getCore u c).imem = (getCore s c).imem
    ∧ (∀ o, o ∈ [oFault, oTqLimit, oMcfg, oMconv, oFurCtl, oFurStat, oSpdEcc, oSpdStat, oMsgCnt, oMsgErr, oOrder] →
        creg (getCore u c) o = coreReset o)
    ∧ (∀ n, n < 16 → creg (getCore u c) (oTaskCfg n) = 0#64 ∧ creg (getCore u c) (oQ n) = 0#64
        ∧ creg (getCore u c) (oRegion n) = 0#64)
    ∧ creg (getCore u c) oSeat = creg (getCore s c) oSeat
    ∧ ∃ w, (getCore u c).seeding = some w ∧ w.step = 2 ∧ w.cleared = false ∧ w.clearAt = coreCycles s c

end Sys2Proof.Claim

/-- No packet of the host waits on a connection, and none is closing. -/
def Sys2Proof.Claim.noneHeld (s : State) : Prop := ∀ v ∈ s.tcs, v.held = [] ∧ v.closing = false

/-- R363: at SEED_START a busy core stops issuing and waits; an idle one takes the new pair afresh at once, and so does one that
has not stopped after 32,000 cycles; after 1,024 cycles its scratchpad reads zero. R364, R365: a chunk that passes its check
waits for its turn, one that fails is fetched again, up to 8 times, then the core reports failure. R366: START of its own pair sets
the core running. R382: CLEAN gives an idle core the new generation, empty queues and RUN, its scratchpad kept. -/
def Obligations.SeedingAtCores : Prop :=
  ∀ (s : State) (c : Nat),
    (∀ id p, pDstId p = c →
      (synced s id scSEEDSTART p →
        (coreIdle (getCore s c) = false → ∃ u w, exec (.seedStart id) s = .next u ∧ coreRunning (getCore u c) = false
          ∧ (getCore u c).seeding = some w ∧ w.step = 1 ∧ w.clean = false ∧ w.ctx = syncArg p 47 40
          ∧ w.gen = syncArg p 55 48 ∧ w.chunks = syncArg p 39 34 + 1 ∧ w.base = 4096 * syncArg p 33 0
          ∧ (getCore u c).threads = (getCore s c).threads ∧ (∀ x, x ≠ c → getCore u x = getCore s x))
        ∧ (coreIdle (getCore s c) = true → ∃ u, exec (.seedStart id) s = .next u
          ∧ freshCore s u c (syncArg p 47 40) (syncArg p 55 48) ∧ (getCore u c).spd = (getCore s c).spd
          ∧ (∀ x, x ≠ c → getCore u x = getCore s x)))
      ∧ (synced s id scSTART p →
        (coreCtx (getCore s c) = syncArg p 47 40 → coreGen (getCore s c) = syncArg p 55 48 → exec (.start id) s =
          .next (setCore (dropPkt s id) c { setCfld (getCore s c) oState 47 47 1 with seeding := none }))
        ∧ (coreCtx (getCore s c) ≠ syncArg p 47 40 ∨ coreGen (getCore s c) ≠ syncArg p 55 48 →
          exec (.start id) s = .next (dropPkt s id)))
      ∧ (synced s id scCLEAN p →
        (coreIdle (getCore s c) = false → ∃ u w, exec (.clean id) s = .next u ∧ coreRunning (getCore u c) = false
          ∧ (getCore u c).seeding = some w ∧ w.step = 1 ∧ w.clean = true ∧ w.gen = syncArg p 55 48
          ∧ (getCore u c).threads = (getCore s c).threads ∧ (∀ x, x ≠ c → getCore u x = getCore s x))
        ∧ (∀ n, fnOfCore s c = some n → coreIdle (getCore s c) = true → ∃ u, exec (.clean id) s = .next u
          ∧ coreCtx (getCore u c) = ctxId s n ∧ coreGen (getCore u c) = syncArg p 55 48
          ∧ coreRunning (getCore u c) = true ∧ (getCore u c).seeding = none ∧ (getCore u c).spd = (getCore s c).spd
          ∧ (getCore u c).imem = (getCore s c).imem ∧ (∀ q, (getQueue (getCore u c) q).buf = [])
          ∧ (∀ x, x ≠ c → getCore u x = getCore s x))))
    ∧ (∀ v, (getCore s c).seeding = some v → v.step = 1 → v.clean = false → coreIdle (getCore s c) = false →
      (v.cycle + 32000 ≤ coreCycles s c → ∃ u, exec (.seedStopTimeout c) s = .next u
        ∧ freshCore s u c (v.ctx % 256) (v.gen % 256) ∧ (∀ x, x ≠ c → getCore u x = getCore s x))
      ∧ (coreCycles s c < v.cycle + 32000 → exec (.seedStopTimeout c) s = .next s))
    ∧ (∀ v, (getCore s c).seeding = some v → v.step = 2 → v.clean = false → v.cleared = false →
      (noneHeld s → coreCycles s c < v.clearAt + 1024 → exec (.seedClearComplete c) s = .next s)
      ∧ (noneHeld s → v.clearAt + 1024 ≤ coreCycles s c → v.passed.find? (fun x => decide (x.1 = v.parse)) = none → v.parse < v.chunks →
          exec (.seedClearComplete c) s = .next (updCore s c (fun k =>
            { k with spd := [], spdPoi := [], spdFlip := [], seeding := some { v with cleared := true } })))
      ∧ (∀ isRef chunk fe i k, v.fetches.find? (fun f => decide (f.isRef = isRef) && decide (f.chunk = chunk)) = some fe →
          seedImg s c = some (i, k) →
        (chunkError (getCore s c) fe = false → chunkWords (getCore s c) fe = none →
          exec (.chunkCheck c isRef chunk) s = .next s)
        ∧ (chunkError (getCore s c) fe = true
            ∨ (∃ ws, chunkWords (getCore s c) fe = some ws ∧ chunkGood i k fe ws = false) → ∀ n, fnOfCore s c = some n →
          (fe.attempts < 8 → ∃ u w, exec (.chunkCheck c isRef chunk) s = .next u ∧ (getCore u c).seeding = some w
            ∧ { fe with attempts := fe.attempts + 1, time := s.now.toNat, tries := 0 } ∈ w.fetches
            ∧ w.passed = v.passed
            ∧ csrFld u (aFn n fnCtxStat) 63 48 = min 65535 (csrFld s (aFn n fnCtxStat) 63 48 + 1)
            ∧ (∀ x, x ≠ c → getCore u x = getCore s x))
          ∧ (8 ≤ fe.attempts → routed s 0xFFFF → ∃ u w, exec (.chunkCheck c isRef chunk) s = .next u
            ∧ (getCore u c).seeding = some w ∧ w.step = 3 ∧ w.fetches = [] ∧ w.passed = []
            ∧ syncSent u 3 (anchorPlot s n) scSEEDED (2 ^ 55 + rCHUNK * 2 ^ 48 + c)
            ∧ (∀ x, x ≠ c → getCore u x = getCore s x)))
        ∧ (∀ ws, chunkError (getCore s c) fe = false → chunkWords (getCore s c) fe = some ws → chunkGood i k fe ws = true →
            isRef = false → ∃ u w, exec (.chunkCheck c isRef chunk) s = .next u ∧ (getCore u c).seeding = some w
          ∧ w.passed = v.passed ++ [(chunk, (ws.flatMap (fun w => natToBytes w.val.toNat 8)).take 4064)]
          ∧ fe ∉ w.fetches ∧ (getCore u c).spd = (getCore s c).spd ∧ (∀ x, x ≠ c → getCore u x = getCore s x))))

/-! ## Admissions, switches and the controller -/

namespace Sys2Proof.Claim

/-- The switch that a write of FN_SWITCH asks for (R369). -/
def askedSwitch (s : State) (n : Nat) (v : Word) : Switch :=
  { list := bits v 51 48, act := 0, cmd := none, carry := if bit v 62 then lastDispatched s n else none, admitting := false }

/-- The context of function n is in recovery for a cause: it is counted, and every core is sent FREEZE (R472, R475). -/
def recovering (s u : State) (n cause : Nat) : Prop :=
  (∃ r, (getFun u n).recov = some r ∧ r.cause = cause ∧ r.step = 1 ∧ r.time = s.now.toNat)
    ∧ csrFld u (aFn n fnRecov) 55 48 = cause ∧ csrFld u (aFn n fnRecov) 15 0 = min 65535 (csrFld s (aFn n fnRecov) 15 0 + 1)
    ∧ (routed s 0xFFFF → ∀ c ∈ partCores s n, syncSent u 0 c scFREEZE (cause * 2 ^ 48))

/-- A seeding of function n has failed with a reason at a core (R367). -/
def seedFailed (s u : State) (n core reason : Nat) : Prop :=
  csrFld u (aFn n fnSeedStat) 63 62 = 3 ∧ csrFld u (aFn n fnSeedStat) 61 55 = reason
    ∧ csrFld u (aFn n fnSeedStat) 46 32 = core ∧ (getFun u n).seed = none ∧ ctxState u n = ctxState s n
    ∧ ((getFun s n).recov = none → ctxState s n ≠ 0 → ctxState s n ≠ 5 → recovering s u n 7)

end Sys2Proof.Claim

/-- R359: the oldest admission ends in a refusal, its reason shown and its switch gone, or its image enters the list and its
switch may start. R368,
R370: the oldest switch starts when it is due: one that cannot start says why and leaves the context; else the context seeds
under the next pair, with SEED_START to every core. R369: FN_SWITCH queues a switch and starts it when due. R366: SEEDED is
gathered, a failure or 10 ms ends the seeding, the last report sends START. R374: a retired ID that nothing carries returns. -/
def Obligations.SwitchesAndSeeding : Prop :=
  ∀ (s : State) (n : Nat), n < 64 →
    (∀ a rest, (getFun s n).adms = a :: rest → ∀ r b w,
      readImage (updFun s n (fun f => { f with adms := rest })) a.base = (r, b, w) →
      (∀ x, x ≠ 0 → (refuseImage r n a b w = x ∨ refuseImage r n a b w = 0 ∧ refusePlace r n a (le b 0x18 8) = x) →
        ∃ u, exec (.imageAdmitted n) s = .next u ∧ (getFun u n).adms = rest ∧ (getFun u n).imgs = (getFun s n).imgs
          ∧ csrFld u (aFn n fnSeedStat) 61 55 = x % 128
          ∧ (getFun u n).switches = (getFun s n).switches.filter (fun y => decide (y.cmd ≠ some a.ser))
          ∧ findReq u n a.ser = none ∧ u.cores = s.cores)
      ∧ (refuseImage r n a b w = 0 → refusePlace r n a (le b 0x18 8) = 0 → ∃ u,
        exec (.imageAdmitted n) s = .next u ∧ (getFun u n).adms = rest ∧ u.cores = s.cores
          ∧ (getFun u n).imgs = (getFun s n).imgs.filter (fun e => decide (e.1 ≠ a.list)) ++ [(a.list, imgOf a b)]
          ∧ (a.list < 16 → csrGet u (aFn n (fnImg a.list)) = put (put 0#64 63 63 1) 45 12 (a.base / 4096))
          ∧ (a.only = true → findReq u n a.ser = none ∧ (getFun u n).switches = (getFun s n).switches)
          ∧ (a.only = false → (getFun u n).switches = (getFun s n).switches.map (fun y =>
              if y.cmd = some a.ser then { y with admitting := false } else y))))
    ∧ (∀ sw rest, (getFun s n).switches = sw :: rest →
      (switchDue s n sw = false → exec (.switchStart n) s = .next s)
      ∧ (switchDue s n sw = true → (getFun s n).narrowed = none → ∀ x, x ≠ 0 → x < 128 →
          switchReason s n (imgAt (getFun s n) sw.list) = x → ∃ u, exec (.switchStart n) s = .next u
          ∧ (getFun u n).switches = rest ∧ csrFld u (aFn n fnSeedStat) 63 62 = 3 ∧ csrFld u (aFn n fnSeedStat) 61 55 = x
          ∧ ctxState u n = ctxState s n ∧ ctxId u n = ctxId s n ∧ ctxGen u n = ctxGen s n ∧ u.cores = s.cores)
      ∧ (switchDue s n sw = true → (getFun s n).narrowed = none → switchReason s n (imgAt (getFun s n) sw.list) = 0 →
          ∀ i w, imgAt (getFun s n) sw.list = some i → sw.list < 16 → nextPair s n = some w → ∃ u,
          exec (.switchStart n) s = .next u ∧ (getFun u n).switches = rest ∧ ctxState u n = 1 ∧ ctxList u n = sw.list
          ∧ ctxId u n = ctxId w n ∧ ctxGen u n = ctxGen w n ∧ csrFld u (aFn n fnSeedStat) 63 62 = 1
          ∧ (∀ q ∈ (getFun u n).reqs, isRun q = true → q.disp = 0 ∨ some q.ser = sw.carry)
          ∧ (∃ v, (getFun u n).seed = some v ∧ v.clean = false ∧ v.list = sw.list ∧ v.cmd = sw.cmd ∧ v.carry = sw.carry
              ∧ v.reported = [] ∧ v.time = s.now.toNat)
          ∧ (∀ c ∈ partCores s n, bits (creg (getCore u c) oSeat) 14 0 = c % 32768
              ∧ bits (creg (getCore u c) oSeat) 53 48 = n ∧ bits (creg (getCore u c) oSeat) 47 42 = (i.pw - 1) % 64)
          ∧ (routed s 0xFFFF → ∀ c ∈ partCores s n, syncSent u 0 c scSEEDSTART (ctxGen u n * 2 ^ 48 + ctxId u n * 2 ^ 40
              + (i.chunks - 1) * 2 ^ 34 + (i.base + i.seedOff) / 4096))))
    ∧ (∀ who v,
      (who ≠ .steward → (sourceOk s n who = false ∨ ctxState s n ≠ 2 ∨ (getFun s n).switches ≠ [] ∨ (getFun s n).recov ≠ none) →
        exec (.fnSwitch n who v) s = .next s)
      ∧ (who = .steward ∨ (sourceOk s n who = true ∧ ctxState s n = 2 ∧ (getFun s n).switches = [] ∧ (getFun s n).recov = none) →
        (bit v 63 = false → exec (.fnSwitch n who v) s = .next s)
        ∧ (bit v 63 = true → ∃ u, exec (.fnSwitch n who v) s = .next u
            ∧ exec (.switchStart n) (queueSwitch s n (askedSwitch s n v)) = .next u)))
    ∧ (∀ id p v, synced s id scSEEDED p → fnOfPlot s (pDstId p) = some n → (getFun s n).seed = some v → v.clean = false →
      syncArg p 14 0 ∉ v.reported →
      (syncArg p 55 55 = 1 → ∃ u, exec (.seeded id) s = .next u
        ∧ seedFailed s u n (syncArg p 14 0) (syncArg p 54 48))
      ∧ (syncArg p 55 55 = 0 →
        (v.reported.length + 1 < (partCores s n).length → exec (.seeded id) s = .next (updFun (dropPkt s id) n (fun f =>
            { f with seed := some { v with reported := syncArg p 14 0 :: v.reported } })))
        ∧ ((partCores s n).length ≤ v.reported.length + 1 → v.failed = none → v.written = true → v.carry = none → ∃ u,
          exec (.seeded id) s = .next u ∧ ctxState u n = 2 ∧ (getFun u n).seed = none ∧ (getFun u n).memberNotes = []
          ∧ csrFld u (aFn n fnSeedStat) 63 62 = 2 ∧ u.cores = s.cores ∧ (∀ x, v.cmd = some x → findReq u n x = none)
          ∧ (routed s 0xFFFF → ∀ c ∈ partCores s n, syncSent u 0 c scSTART (ctxGen s n * 2 ^ 48 + ctxId s n * 2 ^ 40)))))
    ∧ (∀ v, (getFun s n).seed = some v → v.clean = false → v.reported.length < (partCores s n).length →
      (s.now.toNat < v.time + 10000000 → exec (.seedTimeout n) s = .next s)
      ∧ (v.time + 10000000 ≤ s.now.toNat → ∃ u, exec (.seedTimeout n) s = .next u ∧ seedFailed s u n 0 rSEEDTIME))
    ∧ (∀ b, (fget zeroNat s.ctxIds b = 2 → idBusy s b = false → ∃ u, exec (.contextIdQuiet b) s = .next u
          ∧ fget zeroNat u.ctxIds b = 0 ∧ (∀ x, x ≠ b → fget zeroNat u.ctxIds x = fget zeroNat s.ctxIds x)
          ∧ (∀ f, f < 64 → b ≠ 0 → (getFun u f).siloUsed ≠ b) ∧ u.cores = s.cores)
        ∧ (fget zeroNat s.ctxIds b ≠ 2 ∨ idBusy s b = true → exec (.contextIdQuiet b) s = .next s))

/-! ## Recovery of a context -/

namespace Sys2Proof.Claim

/-- No recovery of function n is under way and its context can fail. -/
def sound (s : State) (n : Nat) : Prop := (getFun s n).recov = none ∧ ctxState s n ≠ 0 ∧ ctxState s n ≠ 5

/-- The recovery r with core c among those that have frozen. -/
def withFrozen (r : Recovery) (c : Nat) : Recovery :=
  { r with frozen := r.frozen ++ (if r.frozen.contains c then [] else [c])
           missed := r.missed.filter (fun m => decide (m.1 ≠ c)) }

end Sys2Proof.Claim

/-- R470: a firing past its limit, HANG_MS without progress, and a request past REQ_MS begin a recovery of the context; earlier they
do nothing. R472, R473: FREEZE stops a core, keeps its state block and is answered FROZEN; a core that is late is reset; with the
last core the glean begins when one is set up, else the recovery goes on. R474: a plot that has gleaned reports, the last report
makes the record valid; releasing it clears that. R378, R475: a reported failure begins the recovery; when the glean is done the
context is failed, its RUNs end, its cores get the next pair and stop, and AUTO queues a switch to its image. -/
def Obligations.RecoveryOfContexts : Prop :=
  ∀ (s : State) (n : Nat), n < 64 →
    (∀ c t fi, (getThread (getCore s c) t).firing = some fi → fnOfCore s c = some n → ctxState s n = 2 →
      (fi.start + 2 ^ csrFld s aStwHangCfg 63 59 ≤ coreCycles s c → sound s n → ∃ u, exec (.longFiring c t) s = .next u
        ∧ recovering s u n 2 ∧ u.now = s.now)
      ∧ (coreCycles s c < fi.start + 2 ^ csrFld s aStwHangCfg 63 59 → exec (.longFiring c t) s = .next s))
    ∧ ((ctxState s n = 2 ∧ (∃ r ∈ runsOf s n, r.disp ≠ 0) ∧ anyProgress s n = false) →
      ((getFun s n).progressAt + csrFld s aStwHangCfg 47 32 * 1000000 ≤ s.now.toNat → sound s n → ∃ u,
        exec (.noProgress n) s = .next u ∧ recovering s u n 3)
      ∧ (s.now.toNat < (getFun s n).progressAt + csrFld s aStwHangCfg 47 32 * 1000000 →
        exec (.noProgress n) s = .next s))
    ∧ (anyProgress s n = true → ∃ u, exec (.noProgress n) s = .next u ∧ anyProgress u n = false
        ∧ (getFun u n).progressAt = s.now.toNat ∧ u.cores = s.cores ∧ u.net = s.net)
    ∧ (∀ ser r, findReq s n ser = some r → ctxState s n = 2 → r.disp ≠ 0 → r.deadline = 0 →
      (r.dispAt + csrFld s aStwHangCfg 31 16 * 1000000 ≤ s.now.toNat → sound s n → ∃ u,
        exec (.overdueRequest n ser) s = .next u ∧ recovering s u n 4)
      ∧ (s.now.toNat < r.dispAt + csrFld s aStwHangCfg 31 16 * 1000000 → exec (.overdueRequest n ser) s = .next s))
    ∧ (∀ id p, synced s id scFREEZE p → fnOfCore s (pDstId p) = some n → ∃ u, exec (.freeze id) s = .next u
        ∧ (getCore u (pDstId p)).stopped = true ∧ (getCore u (pDstId p)).latch = some (stateBlock s (pDstId p))
        ∧ (getCore u (pDstId p)).seeding = none ∧ (getCore u (pDstId p)).mq = [] ∧ (getCore u (pDstId p)).mma = none
        ∧ (∀ t, t < 4 → (getThread (getCore u (pDstId p)) t).firing = none)
        ∧ (∀ x, x ≠ pDstId p → getCore u x = getCore s x)
        ∧ (routed s 0xFFFF → syncSent u 3 (anchorPlot s n) scFROZEN (pDstId p)))
    ∧ (∀ id p r, synced s id scFROZEN p → fnOfPlot s (pDstId p) = some n → (getFun s n).recov = some r → r.step = 1 →
      ((∃ c ∈ partCores s n, c ∉ (withFrozen r (syncArg p 14 0)).frozen) → exec (.frozen id) s =
          .next (updFun (dropPkt s id) n (fun f => { f with recov := some (withFrozen r (syncArg p 14 0)) })))
      ∧ ((∀ c ∈ partCores s n, c ∈ (withFrozen r (syncArg p 14 0)).frozen) →
        (csrFld s (aFn n fnGleanCfg) 63 63 = 0 → exec (.frozen id) s =
          .next (updFun (dropPkt s id) n (fun f => { f with recov := some { withFrozen r (syncArg p 14 0) with step := 3 } })))
        ∧ (csrFld s (aFn n fnGleanCfg) 63 63 = 1 → csrFld s (aFn n fnGleanCfg) 60 60 = 1 →
            csrFld s (aFn n fnGleanStat) 63 63 = 1 → ∃ u, exec (.frozen id) s = .next u
          ∧ (getFun u n).recov = some { withFrozen r (syncArg p 14 0) with step := 3 }
          ∧ csrFld u (aFn n fnGleanStat) 47 32 = min 65535 (csrFld s (aFn n fnGleanStat) 47 32 + 1)
          ∧ csrFld u (aFn n fnGleanStat) 63 63 = 1)
        ∧ (csrFld s (aFn n fnGleanCfg) 63 63 = 1 →
            (csrFld s (aFn n fnGleanCfg) 60 60 = 0 ∨ csrFld s (aFn n fnGleanStat) 63 63 = 0) → ∃ u,
          exec (.frozen id) s = .next u ∧ (getFun u n).recov = some { withFrozen r (syncArg p 14 0) with step := 2 }
          ∧ csrFld u (aFn n fnGleanStat) 63 63 = 0 ∧ u.cores = s.cores
          ∧ (routed s 0xFFFF → ∀ j ∈ partPlots s n, syncSent u 3 j scGLEAN
              (gleanMode s n * 2 ^ 54 + gleanKib s n * 2 ^ 45 + gleanAddr s n (coreAt j 0) / 4096)))))
    ∧ (∀ c r, (getFun s n).recov = some r → r.step = 1 → fnOfCore s c = some n → c ∉ r.frozen → r.missed = [] → r.plots = [] →
      (r.time + csrFld s aStwHangCfg 15 8 * 1000 ≤ s.now.toNat → ∃ u, exec (.freezeTimeout n c) s = .next u
        ∧ (getFun u n).recov = some { r with missed := [(c, s.now.toNat)] }
        ∧ csrFld u aStwLadder 51 40 = min 4095 (csrFld s aStwLadder 51 40 + 1) ∧ u.cores = s.cores
        ∧ ∀ z, edgeRouter (verOf s (fget zeroNat s.edgeEpoch 17)) 17 = some z → syncSent u 0 c scCORERESET c)
      ∧ (s.now.toNat < r.time + csrFld s aStwHangCfg 15 8 * 1000 → exec (.freezeTimeout n c) s = .next s))
    ∧ (∀ id p, synced s id scGLEAN p → fnOfPlot s (pDstId p) = some n → syncArg p 55 54 = 0 → ∃ u t,
        exec (.glean id) s = .next u ∧ u.cores = s.cores
        ∧ (t = 0 ↔ ∀ b, b < 16 → syncArg p 33 0 * 4096 + (b / 4 * partWide s n + b % 4) * 4096
            + 8 * (gleanEntry s (coreAt (pDstId p) b) 0 0).length ≤ gleanEnd s n (gleanBase s n))
        ∧ (routed s 0xFFFF → syncSent u 3 (anchorPlot s n) scGLEANED (t * 2 ^ 55 + pDstId p)))
    ∧ (∀ id p r, synced s id scGLEANED p → fnOfPlot s (pDstId p) = some n → (getFun s n).recov = some r → r.step = 2 →
        syncArg p 10 0 ∉ r.gleaned →
      (r.gleaned.length + 1 < (partPlots s n).length → ∃ u q, exec (.gleaned id) s = .next u ∧ (getFun u n).recov = some q
        ∧ q.step = 2 ∧ q.gleaned = syncArg p 10 0 :: r.gleaned ∧ u.csr = s.csr)
      ∧ ((partPlots s n).length ≤ r.gleaned.length + 1 → ∃ u q, exec (.gleaned id) s = .next u ∧ (getFun u n).recov = some q
        ∧ q.step = 3 ∧ csrFld u (aFn n fnGleanStat) 63 63 = 1 ∧ csrFld u (aFn n fnGleanStat) 55 48 = r.cause % 256
        ∧ csrFld u (aFn n fnGleanStat) 14 0 = (partCores s n).length % 32768
        ∧ csrFld u (aFn n fnGleanStat) 31 16 =
            ((partCores s n).filter (fun c => (getCore s c).latch.isNone)).length % 65536 ∧ u.cores = s.cores))
    ∧ exec (.gleanRelease n) s = .next (setCsrFld s (aFn n fnGleanStat) 63 63 0)
    ∧ ((getFun s n).recov = none → s.notes.reverse.findSome? (noteCause s n) = none → exec (.contextFail n) s = .next s)
    ∧ (∀ x, sound s n → s.notes.reverse.findSome? (noteCause s n) = some x → ∃ u, exec (.contextFail n) s = .next u
        ∧ recovering s u n x.1)
    ∧ (∀ r w, (getFun s n).recov = some r → r.step = 3 → (getFun s n).replay = none → (getFun s n).partResetAt = none →
        (getFun s n).failTimes.length < 2 → (∀ e ∈ s.funs, e.1 ≠ n → e.2.causes = []) → nextPair s n = some w → ∃ u,
        exec (.contextFail n) s = .next u ∧ ctxState u n = 5 ∧ (getFun u n).recov = none ∧ (getFun u n).seed = none
        ∧ runsOf u n = [] ∧ ctxId u n = ctxId w n ∧ ctxGen u n = ctxGen w n ∧ csrFld u (aFn n fnRecov) 63 61 = 0
        ∧ (∀ c ∈ partCores s n, coreCtx (getCore u c) = ctxId u n ∧ coreGen (getCore u c) = ctxGen u n
            ∧ coreRunning (getCore u c) = false)
        ∧ (csrFld s (aFn n fnCtx) 44 44 = 0 → (getFun u n).switches = (getFun s n).switches)
        ∧ (csrFld s (aFn n fnCtx) 44 44 = 1 → (getFun s n).switches.length < 4 → (getFun u n).switches =
            (getFun s n).switches ++ [{ list := ctxList s n, act := 0, cmd := none, carry := none, admitting := false }]))

/-! ## Resets, teardown and replay -/

namespace Sys2Proof.Claim

/-- The steward's edge port can be reached (R547). -/
def stewardUp (s : State) : Prop := ∀ e, ∃ z, edgeRouter (verOf s e) 17 = some z ∧ routerUp (verOf s e) z = true

/-- Core c has been reset (R466). -/
def coreCleared (u : State) (c : Nat) : Prop :=
  coreCtx (getCore u c) = 0 ∧ coreGen (getCore u c) = 0 ∧ coreRunning (getCore u c) = false ∧ (getCore u c).threads = []
    ∧ (getCore u c).stopped = false ∧ (getCore u c).seeding = none ∧ (getCore u c).landBuf = [] ∧ (getCore u c).reqs = []
    ∧ (getCore u c).mq = [] ∧ (getCore u c).mma = none ∧ (getCore u c).drain = none ∧ (getCore u c).pass = []
    ∧ (getCore u c).lastIssue = 3 ∧ (getCore u c).lastFired = 15
    ∧ (∀ q, q < 16 → (getQueue (getCore u c) q).buf = []) ∧ cfld (getCore u c) oFurCtl 63 63 = 0
    ∧ ∀ n, n < 16 → taskState (getCore u c) n = 0

/-- The context of function n is gone: its ID is retired, its cores bear the next generation of the old pair and are stopped,
no RUN waits (R376). -/
def contextGone (s u : State) (n : Nat) : Prop :=
  ctxState u n = 0 ∧ ctxId u n = 0 ∧ ctxGen u n = 0 ∧ (getFun u n).seed = none ∧ (getFun u n).recov = none ∧ runsOf u n = []
    ∧ (ctxId s n ≠ 0 → fget zeroNat u.ctxIds (ctxId s n) = 2)
    ∧ (∀ c ∈ partCores s n, coreCtx (getCore u c) = ctxId s n ∧ coreGen (getCore u c) = (ctxGen s n + 1) % 256
        ∧ coreRunning (getCore u c) = false)

/-- A queued switch to the image that function n had (R378). -/
def sameImage (s : State) (n : Nat) : Switch :=
  { list := ctxList s n, act := 0, cmd := none, carry := none, admitting := false }

end Sys2Proof.Claim

/-- R466, R467: a core reset and a plot reset clear the core, or the plot's sixteen cores and its tables, and are answered. R471,
R479: an answer counts the core as frozen; one that is late, 20 µs, gets its plot reset; a partition reset's plots read zero, and
with the last a function reset has ended. R469, R470: a shared block that hangs is reset and counted. R376: TEARDOWN ends a running
context at once, or drains it first. R477, R478: a suspect that passes its tests is switched in quarantine, and its record's
messages land once it runs; the verdict is "image" at the second recurrence, "not reproduced" after 100 ms. -/
def Obligations.ResetsAndReplay : Prop :=
  ∀ (s : State),
    (∀ id p, synced s id scCORERESET p → ∃ u, exec (.coreReset id) s = .next u ∧ coreCleared u (pDstId p)
        ∧ (∀ x, x ≠ pDstId p → getCore u x = getCore s x) ∧ (stewardUp s → syncSent u 2 17 scRESETDONE (pDstId p)))
    ∧ (∀ id p, synced s id scPLOTRESET p → ∃ u, exec (.plotReset id) s = .next u
        ∧ (∀ b, b < 16 → coreCleared u (coreAt (syncArg p 10 0) b)) ∧ (getPlot u (syncArg p 10 0)).rcv = []
        ∧ (getPlot u (syncArg p 10 0)).window = [] ∧ (getPlot u (syncArg p 10 0)).overlay = []
        ∧ (stewardUp s → syncSent u 2 17 scRESETDONE (2 ^ 15 + syncArg p 10 0)))
    ∧ (∀ id p n r plot unit, synced s id scRESETDONE p → syncArg p 15 15 = 0 → fnOfCore s (syncArg p 14 0) = some n →
        (getFun s n).recov = some r → r.step = 1 → (∃ t, (syncArg p 14 0, t) ∈ r.missed) →
        (∃ c ∈ partCores s n, c ∉ (withFrozen r (syncArg p 14 0)).frozen) → exec (.resetDone (some id) plot unit) s =
          .next (updFun (dropPkt s id) n (fun f => { f with recov := some (withFrozen r (syncArg p 14 0)) })))
    ∧ (∀ id p n plot unit, n < 64 → synced s id scRESETDONE p → syncArg p 15 15 = 1 → fnOfPlot s (syncArg p 14 0) = some n →
        (getFun s n).recov = none → syncArg p 14 0 ∈ (getFun s n).resets → ∃ u,
        exec (.resetDone (some id) plot unit) s = .next u
        ∧ (∀ b, b < 16 → (getCore u (coreAt (syncArg p 14 0) b)).spd = []
            ∧ (getCore u (coreAt (syncArg p 14 0) b)).spdPoi = [])
        ∧ (getFun u n).resets = (getFun s n).resets.filter (fun x => decide (x ≠ syncArg p 14 0))
        ∧ ((getFun u n).resets ≠ [] → fnState u n = fnState s n ∧ u.tcs = s.tcs)
        ∧ ((getFun u n).resets = [] → (getFun s n).fnReset = true → fnState u n = 0 ∧ u.tcs = s.tcs)
        ∧ ((getFun u n).resets = [] → (getFun s n).fnReset = false → (getFun s n).switches.length < 4 →
            (getFun u n).switches = (getFun s n).switches ++ [sameImage s n]))
    ∧ (∀ c n r t, fnOfCore s c = some n → (getFun s n).recov = some r → r.missed = [(c, t)] → r.plots = [] →
        (t + 20000 ≤ s.now.toNat → ∃ u, exec (.resetDone none false c) s = .next u
          ∧ (getFun u n).recov = some { r with missed := [], plots := [(plotOf c, s.now.toNat)] }
          ∧ csrFld u aStwLadder 39 28 = min 4095 (csrFld s aStwLadder 39 28 + 1) ∧ u.cores = s.cores
          ∧ ∀ z, edgeRouter (verOf s (fget zeroNat s.edgeEpoch 17)) 17 = some z → syncSent u 3 (plotOf c) scPLOTRESET (plotOf c))
        ∧ (s.now.toNat < t + 20000 → exec (.resetDone none false c) s = .next s))
    ∧ (∀ b, (blockHangs s b = false → exec (.sharedBlockHang b) s = .next s)
        ∧ (blockHangs s b = true → ∃ u, exec (.sharedBlockHang b) s = .next u
          ∧ csrFld u aStwLadder 15 4 = min 4095 (csrFld s aStwLadder 15 4 + 1)
          ∧ (∀ f, b = .slice f → (getSlice u f).lines = [] ∧ (getSlice u f).fills = [])
          ∧ (∀ e, b = .engine e → (∀ v ∈ u.tcs, v.engine ≠ e) ∧ (∀ v ∈ s.tcs, v.engine ≠ e →
              (∀ w ∈ s.tcs, w.fn = v.fn → w.num = v.num → w = v) → v ∈ u.tcs) ∧ u.cores = s.cores)))
    ∧ (∀ s1 n r x e t, n < 64 → offered s s1 n r x e → x.tc = some t → noticeTo s n t → ackList e = [] → ecOp e = 5 →
        ctxState s n = 2 →
      (bit (ecWord e 8) 0 = false → ∃ u, exec (.teardown n r) s = .next u ∧ contextGone s u n
        ∧ findReq u n (freshSer s n) = none ∧ ringHead u n r = (ringHead s n r + 1) % ringSize s n r % 65536)
      ∧ (bit (ecWord e 8) 0 = true → (fget drain0 s.drains n).active = false → ∃ u, exec (.teardown n r) s = .next u
        ∧ ctxState u n = 4 ∧ (getFun u n).teardown = some (freshSer s n) ∧ (fget drain0 u.drains n).active = true
        ∧ (∀ c ∈ partCores s n, cfld (getCore u c) oFurCtl 62 62 = 1)
        ∧ ringHead u n r = (ringHead s n r + 1) % ringSize s n r % 65536))
    ∧ (∀ n r, n < 64 → (getFun s n).replay = some r →
      (∀ bad, csrFld s (aFn n fnRecov) 63 61 = 4 → ctxState s n = 2 → ∃ u, exec (.suspectReplay n bad) s = .next u
        ∧ (getFun u n).replay = some { r with msgs := [] } ∧ u.cores = s.cores
        ∧ (routed s 0xFFFF → ∀ m ∈ r.msgs, ∃ q ∈ u.net, pType q = tMESSAGE ∧ pDstKind q = 0 ∧ pDstId q = anchorOf s n
            ∧ pCtx q = ctxId s n ∧ pGen q = ctxGen s n ∧ q.body = m))
      ∧ (∀ bad, csrFld s (aFn n fnRecov) 63 61 ≠ 4 → nextSuspect s n = false → exec (.suspectReplay n bad) s = .next s)
      ∧ (∀ bad, nextSuspect s n = true →
        ((∃ j ∈ bad, inPart s n j = true) → ∃ u, exec (.suspectReplay n bad) s = .next u ∧ (getFun u n).replay = none
          ∧ csrFld u (aFn n fnRecov) 60 58 = 3 ∧ csrFld u (aFn n fnRecov) 63 61 = 0
          ∧ (∀ j ∈ bad, inPart s n j = true → .other 441 j ∈ u.notes)
          ∧ (csrFld s (aFn n fnCtx) 44 44 = 1 → (getFun s n).switches.length < 4 →
            (getFun u n).switches = (getFun s n).switches ++ [sameImage s n]))
        ∧ ((∀ j ∈ bad, inPart s n j = false) → ∃ u q, exec (.suspectReplay n bad) s = .next u ∧ (getFun u n).replay = some q
          ∧ q.time = s.now.toNat ∧ q.msgs = gleanMsgs s n ∧ q.cause = r.cause ∧ csrFld u (aFn n fnRecov) 63 61 = 4))
      ∧ (csrFld s (aFn n fnRecov) 63 61 ≠ 4 → exec (.suspectReplayVerdict n) s = .next s)
      ∧ (csrFld s (aFn n fnRecov) 63 61 = 4 →
        (ctxState s n = 5 → r.seen = 1 → exec (.suspectReplayVerdict n) s = .next (setCsrFld s (aFn n fnRecov) 63 61 3))
        ∧ (ctxState s n = 5 → 2 ≤ r.seen → ∃ u, exec (.suspectReplayVerdict n) s = .next u ∧ (getFun u n).replay = none
          ∧ csrFld u (aFn n fnRecov) 60 58 = 1 ∧ csrFld u (aFn n fnRecov) 63 61 = 2
          ∧ (getFun u n).barred = (curImg s n).map (fun i => i.serial) ∧ u.cores = s.cores)
        ∧ (ctxState s n ≠ 5 → s.now.toNat < r.time + 100000000 → exec (.suspectReplayVerdict n) s = .next s)
        ∧ (ctxState s n ≠ 5 → r.time + 100000000 ≤ s.now.toNat → r.three = false → ∃ u,
          exec (.suspectReplayVerdict n) s = .next u ∧ ctxState u n = 5 ∧ (getFun u n).replay = none
          ∧ csrFld u (aFn n fnRecov) 60 58 = 2 ∧ csrFld u (aFn n fnRecov) 63 61 = 0
          ∧ (∀ c ∈ partCores s n, coreRunning (getCore u c) = false)
          ∧ (csrFld s (aFn n fnCtx) 44 44 = 1 → (getFun s n).switches.length < 4 →
            (getFun u n).switches = (getFun s n).switches ++ [sameImage s n]))))

/-! ## Clocks, profiles and heat -/

namespace Sys2Proof.Claim

/-- The effective profile is p, and no present field runs above its limit (R387, R413, R415). -/
def profiled (u : State) (p : Nat) : Prop :=
  csrFld u aPwrProfile 55 52 = p ∧ ceilingW u = ceilingOf p ∧ ∀ f, f < 6 → fieldLost u f = false → nCur u f ≤ nMax u f

/-- The lower of the record's and the declared profile, A when either is absent (R413). -/
def effective (r d : Nat) : Nat := if r = 0 ∨ d = 0 then 1 else min r d

/-- The module has tripped for a cause: D00 to D28 are off, nothing runs, the pins say so (R409, R535). -/
def tripped (u : State) (cause : Nat) : Prop :=
  u.stw.trip = true ∧ csrFld u aPwrStat 7 0 = cause ∧ csrGet u aPwrDomain = 0x20000000#64 ∧ u.cores = [] ∧ u.plots = []
    ∧ u.net = [] ∧ u.tcs = [] ∧ u.pins.alert = true ∧ (u.pins.thermtrip = true ↔ cause = 1 ∨ cause = 2)

/-- Every field of a list runs at n (R399). -/
def clockedAt (s u : State) (fs : List Nat) (n : Nat) : Prop :=
  (∀ f ∈ fs, nCur u f = n) ∧ (∀ f, f < 6 → f ∉ fs → nCur u f = nCur s f)

/-- Every seam lane group at the edge of these fields is in use where its sides agree, its phase in the middle of the window of all
64 taps, and fenced where they differ; one fenced for a failure stays so (R151, R156, R389). -/
def seamsFollow (s u : State) (fs : List Nat) : Prop :=
  ∀ g, g < 126 → ((seamFields g).1 ∈ fs ∨ (seamFields g).2 ∈ fs) → fget zeroNat s.seams g ≠ 1 → fget zeroNat s.seams g ≠ 4 →
    (nCur u (seamFields g).1 = nCur u (seamFields g).2 → fget zeroNat u.seams g = 0 ∧ (getCal u g).phase = 31)
    ∧ (nCur u (seamFields g).1 ≠ nCur u (seamFields g).2 → fget zeroNat u.seams g = 2)

end Sys2Proof.Claim

/-- R399: a permitted change sets N of the listed fields and reloads the copies of device time, and where the sweeps find every tap
correct the seams follow it and no context stops; any other does nothing; N_REQ stores
the nearer bound. R413, R414: a lower cooling class, or a higher one declared twice 1 s apart, and a profile record that fits, set
the effective profile and its limits; an absent declaration counts as none after 5 s. R404, R409: a thermal sample records the
temperatures; 110 °C fails no context while no powered quadrant shows it; 115 °C, or 105 °C in a stack, trips the module. R404: a hot
set steps down and counts, a cool one steps up. R416, R417: a power sample records the mean, and a second one above 1.15 times the
ceiling halves the clocks. -/
def Obligations.ClocksAndHeat : Prop :=
  ∀ (s : State),
    (∀ fs n sweeps, (changeOk s fs n && stopFits s) = false → exec (.frequencyChange fs n sweeps) s = .next s)
    ∧ (∀ fs n sweeps, changeOk s fs n = true → stopFits s = true → ∃ u, exec (.frequencyChange fs n sweeps) s = .next u
        ∧ clockedAt s u fs n ∧ copied u ∧ u.now = s.now
        ∧ (sweeps = [] → u.cores = s.cores ∧ u.funs = s.funs ∧ seamsFollow s u fs))
    ∧ (∀ f v, f < 6 → exec (.nReqWrite f v) s =
        .next (setCsrFld s (aClkField f) 7 0 (max 16 (min (nMax s f) (bits v 7 0)))))
    ∧ (∀ seq c, sbServed s = true →
      (c = 0 ∨ 4 < c → ∃ u pl, exec (.cooling seq c) s = .next u ∧ u = { s with outs := .sideband 1 seq 2 pl :: s.outs })
      ∧ (1 ≤ c → c ≤ 4 →
        (c ≤ csrFld s aPwrProfile 47 44 → ∃ u pl, exec (.cooling seq c) s = .next u ∧ csrFld u aPwrProfile 47 44 = c
          ∧ profiled u (effective (csrFld s aPwrProfile 51 48) c) ∧ .sideband 1 seq 0 pl ∈ u.outs ∧ u.cores = s.cores)
        ∧ (csrFld s aPwrProfile 47 44 < c → s.stw.cooling.higher = none → ∃ u pl, exec (.cooling seq c) s = .next u
          ∧ u.csr = s.csr ∧ u.stw.cooling = { last := s.now.toNat, higher := some (c, s.now.toNat) }
          ∧ .sideband 1 seq 0 pl ∈ u.outs ∧ u.cores = s.cores)
        ∧ (∀ t, csrFld s aPwrProfile 47 44 < c → s.stw.cooling.higher = some (c, t) → t + 1000000000 ≤ s.now.toNat → ∃ u pl,
          exec (.cooling seq c) s = .next u ∧ csrFld u aPwrProfile 47 44 = c ∧ .sideband 1 seq 0 pl ∈ u.outs
          ∧ profiled u (effective (csrFld s aPwrProfile 51 48) c) ∧ u.cores = s.cores)))
    ∧ (csrFld s aPwrProfile 47 44 ≠ 0 → s.stw.cooling.last + 5000000000 ≤ s.now.toNat → ∃ u,
        exec .coolingTimeout s = .next u ∧ csrFld u aPwrProfile 47 44 = 0 ∧ profiled u 1 ∧ u.cores = s.cores)
    ∧ (csrFld s aPwrProfile 47 44 = 0 ∨ s.now.toNat < s.stw.cooling.last + 5000000000 → exec .coolingTimeout s = .next s)
    ∧ (∀ b, fwBusy s = true → exec (.profileRecordReplace b) s = .next s)
    ∧ (∀ b, fwBusy s = false →
      (profileFits s b = true → ∃ u, exec (.profileRecordReplace b) s = .next u ∧ u.stw.profile = b
        ∧ csrFld u aPwrProfile 51 48 = le b 10 1 ∧ profiled u (effective (le b 10 1) (csrFld s aPwrProfile 47 44)))
      ∧ (profileFits s b = false → ∃ u, exec (.profileRecordReplace b) s = .next u ∧ u.stw.profile = []
        ∧ csrFld u aPwrProfile 51 48 = 0 ∧ profiled u 1
        ∧ csrFld u aSecVerify 47 32 = min 65535 (csrFld s aSecVerify 47 32 + 1)))
    ∧ (∀ die hbm, s.stw.trip = false →
      ((∀ d, d < 24 → die.getD d 0 < 110) → (∀ k, k < 12 → hbm.getD k 0 < 105) → ∃ u d, exec (.thermalSample die hbm) s = .next u
        ∧ u.cores = s.cores ∧ u.funs = s.funs ∧ u.stw.trip = false ∧ (∀ e, e < 24 → thermOf u e = die.getD e 0)
        ∧ d < 24 ∧ csrFld u aPwrTherm 63 56 = die.getD d 0 ∧ csrFld u aPwrTherm 55 51 = d
        ∧ (∀ e, e < 24 → die.getD e 0 ≤ die.getD d 0))
      ∧ ((∃ d, d < 24 ∧ 115 ≤ die.getD d 0) → ∃ u, exec (.thermalSample die hbm) s = .next u ∧ tripped u 1)
      ∧ ((∀ d, d < 24 → die.getD d 0 < 115) → (∃ k, k < 12 ∧ 105 ≤ hbm.getD k 0) → ∃ u,
        exec (.thermalSample die hbm) s = .next u ∧ tripped u 2))
    ∧ (∀ hbm, (s.stw.trip = false → ∃ u, exec (.thermalTrip hbm) s = .next u ∧ tripped u (if hbm then 2 else 1))
        ∧ (s.stw.trip = true → exec (.thermalTrip hbm) s = .next s))
    ∧ (∀ f sweeps, f < 6 → stopFits s = true → offRunning s (clockSet s f) = false →
        (∀ g ∈ clockSet s f, fget zeroNat s.stw.therm.stepAt g = 0) →
      ((∃ d ∈ poweredQuads s (clockSet s f), csrFld s aPwrTherm 47 40 ≤ thermOf s d) →
        (changeOk s (clockSet s f) (nCur s f - 1) = true → ∃ u, exec (.throttleStep f sweeps) s = .next u
          ∧ clockedAt s u (clockSet s f) (nCur s f - 1) ∧ copied u
          ∧ csrFld u aPwrStat 31 16 = min 65535 (csrFld s aPwrStat 31 16 + 1)
          ∧ ∀ g ∈ clockSet s f, fget zeroNat u.stw.therm.stepAt g = 1 + s.now.toNat)
        ∧ (changeOk s (clockSet s f) (nCur s f - 1) = false → exec (.throttleStep f sweeps) s = .next s))
      ∧ ((∀ d ∈ poweredQuads s (clockSet s f), thermOf s d < csrFld s aPwrTherm 47 40
            ∧ heldFor s.now.toNat (fget zeroNat s.stw.therm.lowAt d) 100000000 = true) →
          changeOk s (clockSet s f) (nCur s f + 1) = true → ∃ u, exec (.throttleStep f sweeps) s = .next u
          ∧ clockedAt s u (clockSet s f) (nCur s f + 1) ∧ csrFld u aPwrStat 31 16 = csrFld s aPwrStat 31 16))
    ∧ (∀ w sweeps, ∃ u, exec (.powerSample w sweeps) s = .next u ∧ u.stw.power.samples = (w :: s.stw.power.samples).take 100
        ∧ csrFld u aPwrProfile 15 0 = min 65535 (((w :: s.stw.power.samples).take 100).foldl (· + ·) 0
            / ((w :: s.stw.power.samples).take 100).length)
        ∧ (115 * ceilingW s < 100 * w → 1 ≤ s.stw.power.overs → s.stw.power.halved = false → u.stw.power.halved = true
            ∧ csrFld u aPwrStat 47 32 = min 65535 (csrFld s aPwrStat 47 32 + 1))
        ∧ (100 * w ≤ 115 * ceilingW s → s.stw.power.halved = false → u.stw.power.halved = false)
        ∧ (s.stw.power.halved = true → w ≤ ceilingW s → s.stw.power.overAt + 1000000 ≤ s.now.toNat →
            u.stw.power.halved = false))

/-! ## Quadrants, fields and the dormant state -/

namespace Sys2Proof.Claim

/-- The cores, plots and packets of quadrant d are gone, and nothing else of theirs has changed (R403). -/
def quadGone (s u : State) (d : Nat) : Prop :=
  (∀ c, quadOfPlot s (plotOf c) = d → getCore u c = core0 0) ∧ (∀ c, quadOfPlot s (plotOf c) ≠ d → getCore u c = getCore s c)
    ∧ (∀ j, quadOfPlot s j = d → getPlot u j = plot0 0) ∧ (∀ j, quadOfPlot s j ≠ d → getPlot u j = getPlot s j)
    ∧ ∀ p ∈ s.net, (p ∈ u.net ↔ quadOf p.at_ ≠ d ∨ isAttach p.at_ = true)

/-- A change to another routing version has begun, with its time (R205). -/
def changing (s u : State) : Prop := u.chg = { step := 1, epoch := 1 - s.chg.epoch, time := s.now.toNat }

/-- The answer to a POWER request that came over the sideband. -/
def powered (u : State) (sb : Option Nat) (status : Nat) : Prop := ∀ q, sb = some q → .sideband 5 q status [] ∈ u.outs

/-- Quadrant d is off for heat and has cooled long enough to come back, and the limit of tests at once leaves room (R408,
R425). -/
def mayReturn (s : State) (d : Nat) : Prop :=
  quadSeq s d = none ∧ d < 24 ∧ domainOn s d = false ∧ csrFld s aPwrDomain (32 + d) (32 + d) = 1
    ∧ heldFor s.now.toNat (fget zeroNat s.stw.therm.coolAt d) 100000000 = true ∧ s.stw.trip = false
    ∧ fieldLost s (d / 4) = false ∧ testRoom s = true ∧ csrFld s aPwrDormant 61 59 = 0
    ∧ ∃ x, x < 1764 ∧ quadOf x = d ∧ plotBad s x = false

end Sys2Proof.Claim

/-- R405: a powered quadrant at OFF_C begins its sequence and is counted; from the next swath on it drains or narrows the functions
on it, then suspends them in a routing change, then is fenced and off, and what it held is gone. R407, R408: one that has cooled
is powered for its tests when the limit of R425 leaves room; it comes back through a routing change when they pass, and is off
and recorded failed else; then its fences are released and no function stays suspended for it. R411: a rail short
loses the field once. R418 to R420: the dormant state is entered when no context is left, and refused and counted else; WAKE powers
the domains, D28 where a link trained, and loads a routing version. -/
def Obligations.QuadrantsAndSleep : Prop :=
  ∀ (s : State),
    (∀ d v, quadSeq s d = none →
      (d < 24 → domainOn s d = true → csrFld s aPwrTherm 39 32 ≤ thermOf s d → s.stw.trip = false → ∃ u q,
        exec (.quadrantOff d v) s = .next u ∧ u.stw.quads = s.stw.quads ++ [q] ∧ q.dom = d ∧ q.off = true ∧ q.step = 1
        ∧ q.swath = s.swathNow ∧ csrFld u aPwrTherm 23 8 = min 65535 (csrFld s aPwrTherm 23 8 + 1) ∧ u.cores = s.cores)
      ∧ (24 ≤ d ∨ domainOn s d = false ∨ thermOf s d < csrFld s aPwrTherm 39 32 →
        exec (.quadrantOff d v) s = .next s))
    ∧ (∀ d v q, d < 24 → quadSeq s d = some q → q.off = true →
      (q.step = 1 → (q.swath < s.swathNow ∨ 110 ≤ thermOf s d) → ∃ u x, exec (.quadrantOff d v) s = .next u
        ∧ quadSeq u d = some x ∧ x.step = 2 ∧ x.off = true
        ∧ ((∀ n ∈ fnsOfQuad s d, (getFun s n).fallback = 0xFF) → ∀ n ∈ fnsOfQuad s d, ctxState s n = 2 →
            (fget drain0 s.drains n).active = false → (fget drain0 u.drains n).active = true))
      ∧ (q.step = 1 → s.swathNow ≤ q.swath → thermOf s d < 110 → exec (.quadrantOff d v) s = .next s)
      ∧ (q.step = 2 → s.stw.quads = [q] → s.chg.step = 0 → (∀ n ∈ fnsOfQuad s d, quadDrained s n = true) → ∃ u x,
        exec (.quadrantOff d v) s = .next u ∧ quadSeq u d = some x ∧ x.step = 3 ∧ changing s u
        ∧ ∀ n ∈ fnsOfQuad s d, d ∈ (getFun u n).suspended ∧ (ctxState s n = 2 → ctxState u n = 3))
      ∧ (q.step = 3 → s.chg.step = 0 → ∃ u, exec (.quadrantOff d v) s = .next u ∧ quadGone s u d ∧ domainOn u d = false
        ∧ csrFld u aPwrDomain (32 + d) (32 + d) = 1 ∧ quadSeq u d = none ∧ u.funs = s.funs)
      ∧ (2 ≤ q.step → s.chg.step ≠ 0 → exec (.quadrantOff d v) s = .next s))
    ∧ (∀ d ok v, mayReturn s d → ∃ u, exec (.quadrantReturn d ok v) s = .next u ∧ domainOn u d = true
      ∧ u.stw.quads = s.stw.quads ++ [{ dom := d, off := false, step := 0, swath := 0 }] ∧ u.chg = s.chg ∧ u.cores = s.cores)
    ∧ (∀ d ok v, quadSeq s d = none → testRoom s = false → exec (.quadrantReturn d ok v) s = .next s)
    ∧ (∀ d v ok q, d < 24 → quadSeq s d = some q → q.off = false →
      (q.step = 0 →
        (∃ u, exec (.quadrantReturn d false v) s = .next u ∧ domainOn u d = false ∧ u.cores = s.cores ∧ quadSeq u d = none
          ∧ ∀ x, x < 1764 → quadOf x = d → plotBad u x = true)
        ∧ (s.chg.step ≠ 0 → exec (.quadrantReturn d true v) s = .next s)
        ∧ (s.chg.step = 0 → ∃ u x, exec (.quadrantReturn d true v) s = .next u ∧ domainOn u d = true ∧ changing s u
          ∧ quadSeq u d = some x ∧ x.off = false ∧ x.step = 1 ∧ u.cores = s.cores))
      ∧ (q.step = 1 → s.chg.step ≠ 0 → exec (.quadrantReturn d ok v) s = .next s)
      ∧ (q.step = 1 → s.chg.step = 0 → ∃ u x, exec (.quadrantReturn d ok v) s = .next u ∧ quadSeq u d = some x ∧ x.step = 2
        ∧ x.swath = s.swathNow ∧ csrFld u aPwrDomain (32 + d) (32 + d) = 0
        ∧ ∀ n, n < 64 → d ∉ (getFun u n).suspended)
      ∧ (2 ≤ q.step → s.swathNow ≤ q.swath → exec (.quadrantReturn d ok v) s = .next s)
      ∧ (2 ≤ q.step → q.swath < s.swathNow → (∀ n, n < 64 → (getFun s n).narrowed = none) → ∃ u,
        exec (.quadrantReturn d ok v) s = .next u ∧ quadSeq u d = none ∧ u.funs = s.funs ∧ u.cores = s.cores))
    ∧ (∀ f v, (6 ≤ f ∨ fieldLost s f = true → exec (.fieldRailShort f v) s = .next s)
        ∧ (f < 6 → fieldLost s f = false → ∃ u, exec (.fieldRailShort f v) s = .next u ∧ fieldLost u f = true
          ∧ csrFld u (aClkField f) 56 56 = 1 ∧ (∀ j ∈ fieldPlots s f, j ∈ u.lost) ∧ .other 411 f ∈ u.notes
          ∧ (∀ q, q < 4 → domainOn u (4 * f + q) = false) ∧ u.pins.alert = true ∧ u.chg.epoch = 1 - s.chg.epoch))
    ∧ (∀ sb, (dormantOk s = false → ∃ u, exec (.dormantEnter sb) s = .next u ∧ powered u sb 1 ∧ u.cores = s.cores
          ∧ csrFld u aPwrDormant 47 32 = min 65535 (csrFld s aPwrDormant 47 32 + 1)
          ∧ csrFld u aPwrDormant 61 59 = csrFld s aPwrDormant 61 59)
        ∧ (dormantOk s = true → ∃ u, exec (.dormantEnter sb) s = .next u ∧ powered u sb 0
          ∧ csrFld u aPwrDormant 61 59 = 2 ∧ (∀ d, d < 26 → domainOn u d = false)
          ∧ (∀ d, d < 24 → ∀ c, quadOfPlot s (plotOf c) = d → getCore u c = core0 0) ∧ u.hbm = s.hbm ∧ u.funs = s.funs
          ∧ (∀ f, f < 6 → nCur u f = 0 ∧ csrFld u (aClkField f) 55 54 = 2)))
    ∧ (∀ sb us bad defects sweeps links v, (csrFld s aPwrDormant 61 59 = 2 ∨ csrFld s aPwrDormant 61 59 = 3 → ∃ u,
          exec (.wake sb us bad defects sweeps links v) s = .next u ∧ powered u sb 0 ∧ csrFld u aPwrDormant 61 59 = 0
          ∧ csrFld u aPwrDormant 31 0 = us % 2 ^ 32 ∧ domainOn u 24 = true ∧ domainOn u 25 = true
          ∧ domainOn u 28 = links.any (fun x => x.up0 || x.up1)
          ∧ (∀ f, f < 6 → fieldLost s f = false → nCur u f = nMax u f) ∧ copied u
          ∧ (verOf u s.chg.epoch).valid = true)
        ∧ (csrFld s aPwrDormant 61 59 ≠ 2 → csrFld s aPwrDormant 61 59 ≠ 3 → ∃ u, exec (.wake sb us bad defects sweeps links v) s = .next u
          ∧ powered u sb 1 ∧ u.csr = s.csr ∧ u.cores = s.cores ∧ u.stw = s.stw))

/-! ## Power, starts and device resets -/

namespace Sys2Proof.Claim

/-- What every loss of the regulators does (R534): nothing runs, PWRGD and the outputs are low, only the power-on clock's
count, the incarnation, lost fields, fuses, boot flash and CXL memory stay. -/
def unpowered (s u : State) : Prop :=
  u.cores = [] ∧ u.plots = [] ∧ u.net = [] ∧ u.tcs = [] ∧ u.funs = [] ∧ u.hbm = [] ∧ u.cxl = s.cxl ∧ u.pins.pwrgd = false
    ∧ u.pins.alert = false ∧ u.pins.thermtrip = false ∧ u.pins.i3c = 0 ∧ u.sec = secKept s.sec ∧ u.stw = stwKept s.stw
    ∧ (∀ a, a ≠ aStwBoot → a ≠ aPwrStat → (∀ f, f < 6 → a ≠ aClkField f) → csrGet u a = csrReset a)
    ∧ (∀ f, f < 6 → csrGet u (aClkField f) = csrGet s (aClkField f) &&& 0x0100000000000000#64)
    ∧ csrFld u aStwBoot 31 0 = csrFld s aStwBoot 31 0 ∧ csrFld u aStwBoot 58 56 = csrFld s aStwBoot 58 56

/-- A register that a device warm reset retains (R466), in whole or in part. -/
def retained (a : Nat) : Prop :=
  a = aStwBoot ∨ a = aStwStartCfg ∨ a = aStwLadder ∨ a = aPwrStat ∨ (∃ k, k < 12 ∧ a = aHbmStat k)
    ∨ (∃ f, f < 6 ∧ a = aClkField f)
    ∨ ∃ n, n < 64 ∧ (a = aFn n fnGleanStat ∨ a = aFn n fnRecov)

/-- D00 to D28 have been reset (R466). With `start` the start that ends the reset has begun. -/
def warmed (s u : State) (start : Bool) : Prop :=
  u.cores = [] ∧ u.plots = [] ∧ u.net = [] ∧ u.tcs = [] ∧ u.ingress = [] ∧ u.hbm = s.hbm ∧ u.hbmPoi = s.hbmPoi
    ∧ u.sec = secKept s.sec ∧ u.stw.mapA = s.stw.mapA ∧ u.stw.mapB = s.stw.mapB ∧ u.stw.records = s.stw.records
    ∧ csrFld u aStwLadder 3 0 = min 15 (csrFld s aStwLadder 3 0 + 1)
    ∧ csrFld u aStwBoot 31 0 = (csrFld s aStwBoot 31 0 + (if start then 1 else 0)) % 2 ^ 32
    ∧ csrFld u aStwBoot 63 61 = (if start then 0 else 2)
    ∧ (start = true → u.stw.trip = false ∧ ∃ x, u.stw.start = some x ∧ x.step = 2 ∧ x.began = s.stw.upNs)

/-- Function n waits as a suspect for its replay, its context failed and its images kept (R477). -/
def suspected (s u : State) (n cause : Nat) : Prop :=
  ctxState u n = 5 ∧ csrFld u (aFn n fnRecov) 63 61 = 3 ∧ (getFun u n).imgs = (getFun s n).imgs
    ∧ ∃ r, (getFun u n).replay = some r ∧ r.cause = cause

/-- A start has failed (R462, R463): the next is cold; the third within 24 hours leads to the service state. Without a record of an
admin function nothing more is configured, and only D29, and D26 in the service state, have power. -/
def startFailed (s u : State) : Prop :=
  u.pins.alert = true
    ∧ (2 ≤ csrFld s aStwBoot 58 56 → (∃ x y l, s.stw.failAt = x :: y :: l ∧ s.stw.upNs < x + oneDay ∧ s.stw.upNs < y + oneDay) →
        csrFld u aStwBoot 63 61 = 3)
    ∧ (csrFld s aStwBoot 58 56 < 2 → csrFld u aStwBoot 63 61 = 2 ∧ domainOn u 26 = false)
    ∧ ((csrFld s aStwBoot 58 56 < 2 ∨ ∀ r ∈ s.stw.records, r.flags.testBit 3 = false) →
        u.stw.start = none ∧ u.stw.coldNext = true ∧ csrFld u aStwBoot 58 56 = min 3 (csrFld s aStwBoot 58 56 + 1)
          ∧ u.cores = [] ∧ u.net = [] ∧ ∀ d, d < 26 → domainOn u d = false)

/-- The start in progress has come to a step. -/
def steppedTo (s u : State) (x : Start) (k : Nat) : Prop :=
  u.stw.start = some { x with step := k, stepAt := s.stw.upNs }

end Sys2Proof.Claim

/-- R460, R461: a start begins once power, pins and trips allow it, and goes through its steps in order, each with its effect; at the
end the module is ready. R462, R463: a step that fails or is late fails the start. R466, R477: a device warm reset keeps what is
retained, and makes suspects of the running contexts unless hardware is to blame. R468: a planned one ends the requests first,
freezes, then resets. -/
def Sys2Proof.Claim.StartsAndWarmResets : Prop :=
  ∀ (s : State),
    (s.stw.start = none →
      (s.pins.pwrgd = true → s.pins.resetN = true → 40000 ≤ s.pins.vin → s.pins.vin ≤ 60000 → csrFld s aStwBoot 63 61 ≠ 1 →
        csrFld s aStwBoot 63 61 ≠ 3 → tripCleared s = true → ∃ u x, exec (.startSequence .begin_) s = .next u
        ∧ u.stw.start = some x ∧ x.step = 2 ∧ (x.kind = 0 ↔ coldDue s = true) ∧ csrFld u aStwBoot 63 61 = 0
        ∧ csrFld u aStwBoot 31 0 = (csrFld s aStwBoot 31 0 + 1) % 2 ^ 32 ∧ csrFld u aStwBoot 60 59 = x.kind
        ∧ u.stw.trip = false ∧ u.cores = s.cores ∧ u.hbm = s.hbm)
      ∧ (s.pins.pwrgd = false ∨ s.pins.resetN = false ∨ csrFld s aStwBoot 63 61 = 1 ∨ csrFld s aStwBoot 63 61 = 3 →
          exec (.startSequence .begin_) s = .next s)
      ∧ exec .startStepTimeout s = .next s)
    ∧ (∀ x, s.stw.start = some x →
      (∀ p d, x.step = 2 → (s.sec.fwValid = false → exec (.startSequence (.firmware p d)) s = .next s)
        ∧ (s.sec.fwValid = true → ∃ u, exec (.startSequence (.firmware p d)) s = .next u ∧ steppedTo s u x 3
          ∧ u.sec.profKeys = p.take 8 ∧ u.sec.debugKeys = d.take 8
          ∧ u.sec.alias_ = true ∧ u.sec.runDigest = s.sec.fwDigest ∧ u.sec.boot = none
          ∧ csrFld u aSecStat 47 40 = s.sec.fwSvn % 256 ∧ csrFld u aSecStat 39 32 = s.sec.fuseSvn % 256))
      ∧ (x.step = 3 → ∃ u, exec (.startSequence .records) s = .next u ∧ steppedTo s u x 5 ∧ domainOn u 26 = true
          ∧ u.stw.hostMode = recordMode s
          ∧ profiled u (effective (if profileFits s s.stw.profile then le s.stw.profile 10 1 else 0)
              (csrFld s aPwrProfile 47 44)))
      ∧ (x.step = 5 → (∃ u, exec (.startSequence (.stacks true)) s = .next u ∧ steppedTo s u x 6 ∧ domainOn u 24 = true
            ∧ domainOn u 25 = true)
          ∧ ∃ u, exec (.startSequence (.stacks false)) s = .next u ∧ startFailed s u)
      ∧ (∀ l bad seams, x.step = 6 → ∃ u, exec (.startSequence (.fields l bad seams)) s = .next u ∧ steppedTo s u x 9
          ∧ (∀ f, f < 6 → fieldLost s f = false → nCur u f = nMax u f) ∧ copied u
          ∧ ∀ p ∈ bad, p.1 < 1764 → plotBad u p.1 = true ∧ (p.2 = 3 → rowRetired u (p.1 / 42) = true))
      ∧ (∀ v, x.step = 9 → ∃ u, exec (.startSequence (.routing v)) s = .next u ∧ steppedTo s u x 10
          ∧ u.place = (arrangement s).1 ∧ u.ver0.valid = true ∧ u.ver0.place = (arrangement s).1 ∧ u.ver0.fenced = v.fenced
          ∧ u.chg = { step := 0, epoch := 0, time := 0 } ∧ (∀ j ∈ (arrangement s).2, j ∈ u.lost))
      ∧ (∀ l pages, x.step = 10 → ∃ u, exec (.startSequence (.memory l pages)) s = .next u ∧ steppedTo s u x 11
          ∧ (x.kind = 0 → u.hbm = [] ∧ u.hbmPoi = []) ∧ (x.kind ≠ 0 → s.hbmRepair = [] → u.hbm = s.hbm ∧ u.hbmPoi = s.hbmPoi)
          ∧ u.hbmRepair = [] ∧ (∀ y ∈ s.hbmRepair, x.kind ≠ 0 →
            (∀ z, (z ∈ pages ∨ z ∈ s.stw.retired) → tierPage s z ≠ y / 128) → fget noPoi u.hbmPoi y = false)
          ∧ ∀ p ∈ pages, p ∈ u.stw.retired)
      ∧ (∀ l, x.step = 11 → ∃ u, exec (.startSequence (.cxl l)) s = .next u ∧ steppedTo s u x 12
          ∧ domainOn u 28 = l.any (fun y => y.up0 || y.up1)
          ∧ (∀ y ∈ l, y.port < 4 → s.code ≠ 1 → y.up0 = false → .other 240 (2 * y.port) ∈ u.notes)
          ∧ (x.kind = 0 → u.cxl = [] ∧ u.cxlPoi = []) ∧ (x.kind ≠ 0 → u.cxl = s.cxl ∧ u.cxlPoi = s.cxlPoi))
      ∧ (x.step = 12 → ∃ u, exec (.startSequence .yoke) s = .next u ∧ steppedTo s u x 13
          ∧ (teamValid s = true → domainOn u 27 = true))
      ∧ (x.step = 13 → ∃ u, exec (.startSequence .ready) s = .next u ∧ u.stw.start = none ∧ u.stw.coldNext = false
          ∧ csrFld u aStwBoot 63 61 = 1 ∧ csrFld u aStwBoot 58 56 = 0 ∧ u.stw.failAt = []
          ∧ csrFld u aStwBoot 47 32 = min 65535 ((s.stw.upNs - x.began) / 1000000000))
      ∧ (x.stepAt + 4 * stepTimeNs x.kind x.step < s.stw.upNs → (x.step ≠ 2 ∨ s.sec.fwValid = true) → ∃ u,
          exec .startStepTimeout s = .next u ∧ startFailed s u)
      ∧ (s.stw.upNs ≤ x.stepAt + 4 * stepTimeNs x.kind x.step → exec .startStepTimeout s = .next s))
    ∧ (∀ hw kept, (s.pins.pwrgd = false ∨ tripCleared s = false → exec (.deviceWarmReset hw kept) s = .next s)
      ∧ (s.pins.pwrgd = true → s.stw.trip = false → ∃ u, exec (.deviceWarmReset hw kept) s = .next u
        ∧ warmed s u s.pins.resetN ∧ u.cxl = (if kept then s.cxl else [])
        ∧ (hw = true → u.funs = [] ∧ ∀ a, ¬ retained a → csrGet u a = csrReset a)
        ∧ (hw = false → ∀ n, n < 64 → ctxState s n = 2 → suspected s u n 8)))
    ∧ (∀ sb e cold, (e = .plannedWarmReset (.ask sb) ∧ cold = false ∨ e = .warmResetColdStart sb ∧ cold = true) →
        s.pins.pwrgd = true →
      (csrFld s aStwBoot 63 61 ≠ 1 ∨ tripCleared s = false → ∃ u, exec e s = .next u ∧ powered u sb 1 ∧ u.csr = s.csr
        ∧ u.funs = s.funs)
      ∧ (csrFld s aStwBoot 63 61 = 1 → tripCleared s = true → ∃ u, exec e s = .next u ∧ powered u sb 0
        ∧ csrFld u aStwBoot 63 61 = 2 ∧ u.stw.plan = 1 ∧ u.stw.coldNext = (s.stw.coldNext || cold) ∧ u.cores = s.cores
        ∧ ∀ n, n < 64 → (getFun u n).reqs = []))
    ∧ (s.stw.plan = 1 → ∃ u, exec (.plannedWarmReset .freeze) s = .next u ∧ u.stw.plan = 2
        ∧ ∀ n, n < 64 → ctxState s n = 2 → (getFun s n).recov = none → recovering s u n 8)
    ∧ (∀ kept, (s.stw.plan ≠ 2 ∨ (∃ n r, n < 64 ∧ (getFun s n).recov = some r ∧ r.step ≠ 3) →
          exec (.plannedWarmReset (.reset kept)) s = .next s)
        ∧ (s.stw.plan = 2 → (∀ n r, n < 64 → (getFun s n).recov = some r → r.step = 3) → s.stw.trip = false → ∃ u,
          exec (.plannedWarmReset (.reset kept)) s = .next u ∧ warmed s u s.pins.resetN ∧ u.funs = []))
    ∧ (∀ seq, s.pins.pwrgd = true →
      (csrFld s aStwBoot 63 61 ≠ 3 → ∃ u, exec (.coldStartRequest seq) s = .next u
        ∧ u = { s with outs := .sideband 5 seq 1 [] :: s.outs })
      ∧ (csrFld s aStwBoot 63 61 = 3 → ∃ u x, exec (.coldStartRequest seq) s = .next u ∧ .sideband 5 seq 0 [] ∈ u.outs
        ∧ u.stw.start = some x ∧ x.kind = 0 ∧ x.step = 2 ∧ csrFld u aStwBoot 63 61 = 0))

/-- R533: power comes up when the input is in range and no timer holds the regulators off. R534, R531: MOD_EN low, an overvoltage
and the loss of the input take everything down. R535: an undervoltage trips a powered module. R533: RESET_N low is a warm reset.
R526: ALERT_N is asserted again 1 s after a STATUS released it. R479: a power cycle asks the tray controller. R456: a mismatch of a
privileged unit is counted, and answered as the unit allows. -/
def Sys2Proof.Claim.PowerInputAndPins : Prop :=
  ∀ (s : State),
    (∀ vin, (40000 ≤ vin → vin ≤ 60000 → s.pins.holdoff = 0 → ∃ u, exec (.powerUp vin) s = .next u ∧ u = { s with pins := u.pins }
          ∧ u.pins.pwrgd = true ∧ u.pins.vin = vin ∧ u.pins.modEn = true)
        ∧ (vin < 40000 ∨ 60000 < vin ∨ s.pins.holdoff ≠ 0 → ∃ u, exec (.powerUp vin) s = .next u
          ∧ u = { s with pins := u.pins } ∧ u.pins.pwrgd = s.pins.pwrgd ∧ u.pins.vin = vin))
    ∧ (∃ u, exec .modEnLow s = .next u ∧ unpowered s u ∧ u.pins.modEn = false ∧ u.pins.holdoff = 30000000000)
    ∧ (∀ vin, (62000 < vin → ∃ u, exec (.overvoltageOff vin) s = .next u ∧ unpowered s u ∧ u.pins.holdoff = 1000000000
            ∧ u.pins.vin = vin)
        ∧ (vin ≤ 62000 → exec (.overvoltageOff vin) s = .next s))
    ∧ (∀ vin, (vin < 36000 → ∃ u, exec (.vinLoss vin) s = .next u ∧ unpowered s u ∧ u.pins.vin = vin)
        ∧ (36000 ≤ vin → exec (.vinLoss vin) s = .next s))
    ∧ (∀ vin, (vin < 40000 → s.pins.pwrgd = true → s.stw.trip = false → (∃ d, d < 29 ∧ domainOn s d = true) → ∃ u,
            exec (.undervoltageTrip vin) s = .next u ∧ tripped u 3 ∧ u.pins.vin = vin ∧ u.hbm = s.hbm)
        ∧ (40000 ≤ vin ∨ s.pins.pwrgd = false → ∃ u, exec (.undervoltageTrip vin) s = .next u ∧ u = { s with pins := u.pins }
          ∧ u.pins = { s.pins with vin := vin }))
    ∧ (∀ kept, (s.pins.pwrgd = true → ∃ u, exec (.resetN false kept) s = .next u ∧ warmed s u false
            ∧ u.pins.resetN = false ∧ u.stw.start = none)
        ∧ exec (.resetN true kept) s = .next { s with pins := { s.pins with resetN := true } })
    ∧ (s.pins.pwrgd = true → (s.pins.event = true ∨ s.pins.request = true) → s.pins.alert = false →
      (s.pins.releasedAt + 1000000000 ≤ s.stw.upNs →
        exec .alertReassert s = .next { s with pins := { s.pins with alert := true } })
      ∧ (s.stw.upNs < s.pins.releasedAt + 1000000000 → exec .alertReassert s = .next s))
    ∧ (s.pins.pwrgd = true → ∃ u, exec .powerCycle s = .next u ∧ u.pins = { s.pins with request := true, alert := true }
        ∧ u.outs = .sideband 11 0 0 [] :: s.outs ∧ u.csr = s.csr ∧ u.cores = s.cores)
    ∧ (∀ b, s.stw.pair < 2 → s.stw.pairsBad = 0 → ∃ u, exec (.privilegedMismatch (.steward b)) s = .next u
        ∧ csrFld u aTestPriv 59 48 = min 4095 (csrFld s aTestPriv 59 48 + 1) ∧ u.stw.pair = 1 - s.stw.pair
        ∧ u.stw.pairsBad = (if b then 2 ^ s.stw.pair else 0) ∧ u.cores = s.cores)
    ∧ (s.stw.pair < 2 → s.stw.pairsBad = 2 ^ (1 - s.stw.pair) → s.pins.pwrgd = true → s.stw.trip = false → ∃ u,
        exec (.privilegedMismatch (.steward true)) s = .next u ∧ warmed s u s.pins.resetN)
    ∧ (exec (.privilegedMismatch (.security false)) s = .next (satCsrFld s aTestPriv 47 36 1)
        ∧ (s.pins.pwrgd = true → s.stw.trip = false → ∃ u, exec (.privilegedMismatch (.security true)) s = .next u
          ∧ warmed s u s.pins.resetN ∧ u.funs = []))
    ∧ exec (.privilegedMismatch .muster) s = .next (satCsrFld s aTestPriv 35 24 1)
    ∧ (exec (.privilegedMismatch (.route true)) s = .next (satCsrFld s aTestPriv 23 12 1)
        ∧ (s.pins.pwrgd = true → s.stw.trip = false → ∃ u, exec (.privilegedMismatch (.route false)) s = .next u
          ∧ warmed s u s.pins.resetN ∧ u.funs = []))
    ∧ (∀ j n round i x p l, findRound (getNode s j n) round = some x → x.parts = p :: l → ∃ u,
        exec (.privilegedMismatch (.adder j n round i)) s = .next u
        ∧ csrFld u aTestPriv 11 0 = min 4095 (csrFld s aTestPriv 11 0 + 1)
        ∧ findRound (getNode u j n) round = some { x with parts := { p with data := p.data.set i noWord } :: l }
        ∧ (j, s.now.toNat) ∈ u.stw.adders ∧ u.cores = s.cores)

/-- R460 to R468, R531 to R535: starts, warm resets, the input and the pins. -/
def Obligations.StartsAndPower : Prop := StartsAndWarmResets ∧ PowerInputAndPins

/-! ## Self-test, repair, moves, pairs and digests -/

namespace Sys2Proof.Claim

/-- A move of logical plots has begun: a rotation (0) or a re-placement (1), with its time; the running functions it touches
drain (R437). -/
def moving (s u : State) (kind : Nat) (bare : List Nat) : Prop :=
  ∃ m, u.stw.move = some m ∧ m.kind = kind ∧ m.step = 1 ∧ m.time = s.now.toNat ∧ m.bare = bare ∧ m.fns = fnsMoving s m.moves
    ∧ (∀ n ∈ m.fns, (fget drain0 s.drains n).active = false → (fget drain0 u.drains n).active = true
        ∧ ∀ c ∈ partCores s n, cfld (getCore u c) oFurCtl 62 62 = 1)

/-- A redundant pair with primary c and twin d of function n, whose oldest waiting packets are a and b (R450, R451). -/
def paired (s : State) (n c d : Nat) (a b : PairPkt) : Prop :=
  pairRole s c = some (false, d) ∧ fnOfCore s c = some n ∧ pairHead s c = some a ∧ pairHead s d = some b

/-- The pair has failed: the packets are gone, the context recovers, the event is recorded against a plot whose tests passed
(R452). -/
def pairFailed (s u : State) (n : Nat) (a b : PairPkt) : Prop :=
  a ∉ u.pairQ ∧ b ∉ u.pairQ ∧ (∀ x ∈ s.pairQ, x ≠ a → x ≠ b → x ∈ u.pairQ) ∧ (sound s n → recovering s u n 0)
    ∧ csrFld u aTestFail 63 56 = 13 ∧ csrFld u aTestFail 39 38 = 2

end Sys2Proof.Claim

/-- R441: a plot that a test or the reports name failed is recorded, waits for its place, and its context recovers. R430, R435:
a row whose relay path has failed is retired, and lost where no row takes its place. R437 to R440, R442, R443: a re-placement or a
rotation step begins a move, which drains, changes the routing, then puts its plots in place and resumes; a drain that lasts 200 µs
abandons a rotation, or goes on without a copy. R446 to R449: a rotation step comes no sooner than it is due, and records the idle
plots that fail. R447: an idle check counts what it finds. R451, R452: equal packets of a pair leave as one; unequal or late ones fail
the pair. R453: a digest starts and ends with the CRC-64 of its region. R458, R459: a measured margin below 15 ps derates the
field. -/
def Obligations.TestsAndMoves : Prop :=
  ∀ (s : State),
    (∀ j tested,
      (plotOk s j = true → j ∉ s.stw.toPlace → (tested.isSome = true ∨ plotSuspect s j = true) → ∃ u,
        exec (.plotFailed j tested) s = .next u ∧ plotBad u (physOf s j) = true ∧ u.stw.toPlace = s.stw.toPlace ++ [j]
        ∧ u.pins.alert = true ∧ .other 441 j ∉ u.notes ∧ (∀ k, tested = some k → csrFld u aTestFail 63 56 = k % 256)
        ∧ (∀ n, fnOfPlot s j = some n → sound s n → recovering s u n 0))
      ∧ (plotOk s j = false ∨ j ∈ s.stw.toPlace ∨ (tested = none ∧ plotSuspect s j = false) →
        exec (.plotFailed j tested) s = .next s))
    ∧ (∀ bad defects v, (rotationDue s = false → exec (.rotationStep bad defects v) s = .next s)
      ∧ (rotationDue s = true → rotationHeld s = true → ∃ u, exec (.rotationStep bad defects v) s = .next u ∧ u.cores = s.cores
        ∧ u.stw.rotSwath = s.swathNow ∧ u.stw.rotTime = s.now.toNat ∧ u.stw.sweep = s.stw.sweep - 1
        ∧ u.stw.move = s.stw.move ∧ ∀ x ∈ bad, logicalAt s x.1 = none → plotBad u x.1 = true))
    ∧ (∀ v, rotationDue s = true → rotationHeld s = false →
        (∀ r, r < physRows s → rowUsed s r = true → healthySkips s r ≠ []) → ∃ u, exec (.rotationStep [] [] v) s = .next u
        ∧ moving s u 0 [] ∧ u.stw.rotSwath = s.swathNow ∧ u.stw.rotTime = s.now.toNat ∧ csrFld u aTestRotStat 5 0 = 0)
    ∧ exec .sweep s = .next { s with stw := { s.stw with sweep := 83 } }
    ∧ (∀ j l v x k, s.stw.toPlace = j :: l → physOf s j = x →
      (s.stw.move ≠ none ∨ s.chg.step ≠ 0 ∨ s.stw.quads ≠ [] → exec (.rePlacement false v) s = .next s)
      ∧ (s.stw.move = none → s.chg.step = 0 → s.stw.quads = [] →
          x / 42 ∉ relayRows s → nearest (x % 42) ((healthySkips s (x / 42)).filter (fun c => placeOk s (42 * (x / 42) + c))) = some k →
          oneSet s (rowMoves s (x / 42) (x % 42) k) = true → ∃ u, exec (.rePlacement false v) s = .next u
          ∧ moving s u 1 [j] ∧ u.stw.toPlace = s.stw.toPlace ∧ u.place = s.place))
    ∧ (∀ v, s.stw.toPlace = [] → relayRows s = [] → exec (.rePlacement false v) s = .next s)
    ∧ (∀ v r l, s.stw.toPlace = [] → relayRows s = r :: l → placeReady s = true →
      (freeRows s = [] → ∃ u, exec (.rePlacement false v) s = .next u ∧ rowRetired u r = true ∧ u.place = s.place
        ∧ (∀ c j, c < 42 → logicalAt s (42 * r + c) = some j → j ∈ u.lost)
        ∧ ∀ n, n < 64 → (∃ c j, c < 42 ∧ logicalAt s (42 * r + c) = some j ∧ inPart s n j = true) → sound s n →
            ∃ x, (getFun u n).recov = some x ∧ x.cause = 0 ∧ x.step = 1)
      ∧ (∀ k, nearest r (freeRows s) = some k → oneSet s (retireMoves s r k) = true → ∃ u,
        exec (.rePlacement false v) s = .next u ∧ rowRetired u r = true ∧ moving s u 1 [] ∧ u.place = s.place))
    ∧ (∀ m, s.stw.move = some m →
      (m.step = 1 → (m.fns.all (fun n => decide (ctxState s n ≠ 2) || (fget drain0 s.drains n).done)) = true →
        (∀ x ∈ m.moves, x.1 ∈ m.bare ∨ ∀ b, b < 16 → coreStill (getCore s (coreAt x.1 b)) = true) → s.chg.step = 0 → ∃ u,
        exec .plotMove s = .next u ∧ u.stw.move = some { m with step := 2 } ∧ changing s u ∧ u.place = s.place)
      ∧ (m.step = 1 → (∃ n ∈ m.fns, ctxState s n = 2 ∧ (fget drain0 s.drains n).done = false) →
          exec .plotMove s = .next s)
      ∧ (m.step = 2 → s.chg.step = 0 → ∃ u, exec .plotMove s = .next u ∧ u.stw.move = none ∧ u.place = m.ver.place
        ∧ (m.kind = 0 → csrFld u aTestRotStat 63 32 = (csrFld s aTestRotStat 63 32 + 1) % 2 ^ 32)
        ∧ (m.kind = 1 → csrFld u aTestReserve 15 0 = (csrFld s aTestReserve 15 0 + 1) % 65536
            ∧ u.stw.toPlace = s.stw.toPlace.filter (fun j => decide (some j ≠ m.bare.head?)))
        ∧ (∀ n ∈ m.fns, n < 64 → ctxState s n = 2 → ∀ c ∈ partCores s n, cfld (getCore u c) oState 47 47 = 1
            ∧ cfld (getCore u c) oFurCtl 62 62 = 0 ∧ (cfld (getCore u c) oFurCtl 63 63 = 1 ↔ c ∈ m.ran)))
      ∧ (m.step = 2 → s.chg.step ≠ 0 → exec .plotMove s = .next s)
      ∧ (m.step = 1 → (∃ n ∈ m.fns, ctxState s n = 2 ∧ (fget drain0 s.drains n).done = false) →
        (s.now.toNat < m.time + 200000 → exec .moveDrainTimeout s = .next s)
        ∧ (m.time + 200000 ≤ s.now.toNat → m.kind = 0 → ∃ u, exec .moveDrainTimeout s = .next u ∧ u.stw.move = none
          ∧ csrFld u aTestRotStat 31 16 = min 65535 (csrFld s aTestRotStat 31 16 + 1) ∧ u.place = s.place)
        ∧ (m.time + 200000 ≤ s.now.toNat → m.kind = 1 → ∃ u x, exec .moveDrainTimeout s = .next u ∧ u.stw.move = some x
          ∧ x.moves = m.moves ∧ x.step = 1 ∧ (∀ n ∈ x.fns, n ∈ m.fns ∧ (ctxState s n ≠ 2 ∨ (fget drain0 s.drains n).done = true))
          ∧ ∀ n ∈ m.fns, n < 64 → ctxState s n = 2 → (fget drain0 s.drains n).done = false →
              (∀ y ∈ m.moves, inPart s n y.1 = true → y.1 ∈ x.bare) ∧ (sound s n → recovering s u n 0))))
    ∧ (∀ c d n, neighbour s c d = some n → (getLink (getCore s c) d).flit = none →
        exec (.idleCheckFlit (.furrow c d) .clean) s = .next s
        ∧ exec (.idleCheckFlit (.furrow c d) .corrected) s = .next (updCore s n (fun k => satCfld k oFurStat 31 16 1))
        ∧ ∃ u, exec (.idleCheckFlit (.furrow c d) .uncorrectable) s = .next u ∧ cfld (getCore u n) oFurStat 61 61 = 1
          ∧ (∀ x, x ≠ n → getCore u x = getCore s x))
    ∧ (∀ x y j, portFrom x y < 4 → plotAt s y = some j → ∃ u, exec (.idleCheckFlit (.drove x y) .uncorrectable) s = .next u
        ∧ pfld (getPlot u j) oRouteStat 31 16 = min 65535 (pfld (getPlot s j) oRouteStat 31 16 + 1)
        ∧ u.notes = .hdrDrop j :: s.notes ∧ u.net = s.net)
    ∧ (∀ n c d a b bad, n < 64 → paired s n c d a b →
      (pairWords a.pkt = pairWords b.pkt → ∃ u, exec (.pairCompare c bad) s = .next u
        ∧ u.pairQ = s.pairQ.filter (fun x => decide (x ≠ a) && decide (x ≠ b)) ∧ u.cores = s.cores ∧ u.funs = s.funs
        ∧ (isRequest (pType a.pkt) = true → (c, pReqTag a.pkt, pReqTag b.pkt) ∈ u.pairTags)
        ∧ ((∀ e, destLost s { a.pkt with w0 := setBits a.pkt.w0 26 26 e } = false) → ∃ q ∈ u.net,
            q.w1 = a.pkt.w1 ∧ q.w2 = a.pkt.w2 ∧ q.w3 = a.pkt.w3 ∧ q.body = a.pkt.body))
      ∧ (pairWords a.pkt ≠ pairWords b.pkt → (∀ x ∈ bad, x.1 ≠ plotOf c ∧ x.1 ≠ plotOf d) → ∃ u, exec (.pairCompare c bad) s = .next u
        ∧ pairFailed s u n a b ∧ csrFld u (aFn n fnPair) 31 16 = min 65535 (csrFld s (aFn n fnPair) 31 16 + 1))
      ∧ (∀ k, pairWords a.pkt ≠ pairWords b.pkt → (plotOf c, k) ∈ bad → ∃ u, exec (.pairCompare c bad) s = .next u
        ∧ plotBad u (physOf s (plotOf c)) = true ∧ plotOf c ∈ u.stw.toPlace)
      ∧ (a.since + csrFld s (aFn n fnPair) 47 32 * 1024 < coreCycles s a.core → (∀ x ∈ bad, x.1 ≠ plotOf c ∧ x.1 ≠ plotOf d) → ∃ u,
        exec (.pairTimeout c bad) s = .next u ∧ pairFailed s u n a b
        ∧ csrFld u (aFn n fnPair) 15 0 = min 65535 (csrFld s (aFn n fnPair) 15 0 + 1))
      ∧ (coreCycles s a.core ≤ a.since + csrFld s (aFn n fnPair) 47 32 * 1024 →
          coreCycles s b.core ≤ b.since + csrFld s (aFn n fnPair) 47 32 * 1024 → exec (.pairTimeout c bad) s = .next s))
    ∧ (∀ n r, n < 64 → r < 8 →
      (bit (csrGet s (aFn n (fnDigCfg r))) 63 = true →
        s.swathNow % max 1 (bits (csrGet s (aFn n (fnDigCfg r))) 61 46) = 0 →
        (∀ d ∈ s.digs, d.fn = n → d.region = r → d.swath ≠ s.swathNow) →
        (csrFld s (aFn n (fnDigStat r)) 62 62 = 1 →
          exec (.digestStart n r) s = .next (setCsrFld s (aFn n (fnDigStat r)) 60 60 1))
        ∧ (csrFld s (aFn n (fnDigStat r)) 62 62 = 0 → ∃ u, exec (.digestStart n r) s = .next u
          ∧ { swath := s.swathNow, fn := n, region := r, value := none } ∈ u.digs
          ∧ csrFld u (aFn n (fnDigStat r)) 62 62 = 1 ∧ u.cores = s.cores))
      ∧ (bit (csrGet s (aFn n (fnDigCfg r))) 63 = false → exec (.digestStart n r) s = .next s)
      ∧ (∀ d x, s.digs.find? (fun d => decide (d.fn = n) && decide (d.region = r) && d.value.isNone) = some d →
          memReadBytes s (tierAddr (bit (csrGet s (aFn n (fnDigCfg r))) 62) (baseOf (csrGet s (aFn n (fnDigCfg r)))))
            (4096 * (csrFld s (aFn n (fnDigSize r)) 23 0 + 1)) = x → ∃ u, exec (.digestComplete n r) s = .next u
        ∧ csrFld u (aFn n (fnDigStat r)) 62 62 = 0 ∧ csrFld u (aFn n (fnDigStat r)) 47 0 = d.swath % 2 ^ 48
        ∧ (csrFld u (aFn n (fnDigStat r)) 63 63 = 1 ↔ x.2.2 = false)
        ∧ (csrFld u (aFn n (fnDigStat r)) 61 61 = 1 ↔ x.2.2 = true)
        ∧ (x.2.2 = false → csrGet u (aFn n (fnDigValue r)) = crc64 0#64 x.2.1
            ∧ { d with value := some (crc64 0#64 x.2.1) } ∈ u.digs)))
    ∧ (∀ q margin trend eol v, quadPresent s q = true → ∃ u, exec (.wearMeasure q margin trend eol v) s = .next u
        ∧ csrFld u (aTestWear q) 63 48 = margin.toNat ∧ csrFld u (aTestWear q) 47 32 = trend.toNat
        ∧ csrFld u (aTestWear q) 31 16 = eol.toNat
        ∧ (15 ≤ margin.toInt → csrFld u (aTestWear q) 15 8 = csrFld s (aTestWear q) 15 8 ∧ u.cores = s.cores)
        ∧ (margin.toInt < 15 → fget zeroNat s.stw.fused (q / 4)
            + ((List.range 4).foldl (fun a i => a + csrFld s (aTestWear (4 * (q / 4) + i)) 15 8) 0) < 48 →
            csrFld u (aTestWear q) 15 8 = csrFld s (aTestWear q) 15 8 + 1 ∧ u.pins.alert = true)
        ∧ (margin.toInt < 15 → fieldLost s (q / 4) = false → 48 ≤ fget zeroNat s.stw.fused (q / 4)
            + ((List.range 4).foldl (fun a i => a + csrFld s (aTestWear (4 * (q / 4) + i)) 15 8) 0) →
            fieldLost u (q / 4) = true))

/-! ## Boot fetch, firmware update, LMS leaves -/

namespace Sys2Proof.Claim

/-- The boot ROM has asked for the boot service record: ALERT_N is low, the request waits at the tray controller. -/
def askedService (s u : State) : Prop :=
  u.pins.request = true ∧ u.pins.alert = true ∧ u.outs = .sideband 4 0 0 [] :: s.outs ∧ u.csr = s.csr ∧ u.cores = s.cores
    ∧ ∃ b, u.sec.boot = some b ∧ b.step = 1 ∧ b.next = 0 ∧ b.total = none ∧ b.out = [] ∧ b.progressAt = s.stw.upNs

/-- The attempt b has ended: it is reported, nothing is outstanding, the retry's 10 s run. -/
def attemptOver (s u : State) (b : BootFetch) : Prop :=
  u.pins.event = true ∧ u.pins.alert = true ∧ u.outs = s.outs ∧ u.sec.flash = s.sec.flash ∧ u.sec.fwValid = s.sec.fwValid
    ∧ u.sec.boot = some { b with step := 3, out := [], progressAt := s.stw.upNs }

/-- SEC_FWUPD reports a state and an error. -/
def fwReports (u : State) (st err : Nat) : Prop := csrFld u aSecFwupd 61 59 = st ∧ csrFld u aSecFwupd 55 48 = err

/-- The reservation log has taken one slot more; the sector of 2,048 slots that the ring comes to was erased first (R494, R495). -/
def ringTakes (s u : State) (r : Option LmsRec) : Prop :=
  u.sec.logNext = (s.sec.logNext + 1) % 131072 ∧ (s.sec.logNext % 2048 ≠ 0 → u.sec.log = r :: s.sec.log)
    ∧ (s.sec.logNext % 2048 = 0 → u.sec.log = r :: s.sec.log.take 129024)

end Sys2Proof.Claim

/-- R488, R489, R541: the boot ROM asks for the boot service record when no image verifies, asks for the image in pieces of the
length the record's MTU gives, at most 16 outstanding, takes the data that fits a request of the attempt, sends a request again
after 100 ms, ends the attempt at an error, a useless record or 60 s without progress, retries 10 s later, and installs an image
that verifies. -/
def Obligations.BootFetch : Prop :=
  ∀ (s : State),
    (s.sec.boot = none →
      (fetchWanted s = true → ∃ u, exec .bootFetch s = .next u ∧ askedService s u)
      ∧ (fetchWanted s = false → exec .bootFetch s = .next s))
    ∧ (∀ r, s.sec.boot = none → exec (.bootService r) s = .next s)
    ∧ (∀ o n w d, s.sec.boot = none → exec (.fetchData o n w d) s = .next s ∧ exec (.fetchError o n w) s = .next s
        ∧ exec (.fetchResend o) s = .next s ∧ exec .fetchAttemptTimeout s = .next s)
    ∧ (∀ b, s.sec.boot = some b →
      (b.step = 1 → exec .bootFetch s = .next s)
      ∧ (b.step = 3 → s.stw.upNs < b.progressAt + 10000000000 → exec .bootFetch s = .next s)
      ∧ (b.step = 3 → b.progressAt + 10000000000 ≤ s.stw.upNs → ∃ u, exec .bootFetch s = .next u ∧ askedService s u)
      ∧ (b.step = 2 → (b.out ≠ [] ∨ b.total = none) → exec .bootFetch s = .next s)
      ∧ (∀ t img, b.step = 2 → b.out = [] → b.total = some t → min t 0x2000000 ≤ b.next →
          rdBytes s.sec.flash 0 (min t 0x2000000) = img →
        (fwError s.sec img = 0 → ∃ u, exec .bootFetch s = .next u ∧ u.sec.boot = none ∧ u.sec.fwValid = true
          ∧ u.sec.fwFetched = true ∧ u.sec.fwSvn = le img 0x0C 4 ∧ u.sec.fwDigest = digest384 (slice_ img 0 0x100)
          ∧ u.sec.flash = s.sec.flash ∧ u.outs = s.outs)
        ∧ (fwError s.sec img ≠ 0 → ∃ u, exec .bootFetch s = .next u ∧ attemptOver s u b)))
    ∧ (∀ b r, s.sec.boot = some b →
      (b.step ≠ 1 → exec (.bootService r) s = .next s)
      ∧ (b.step = 1 → serviceOk r = false → ∃ u, exec (.bootService r) s = .next u ∧ attemptOver s u b
          ∧ u.pins.request = false)
      ∧ (b.step = 1 → serviceOk r = true → b.next = 0 → b.total = none → b.out = [] → ∃ u x,
          exec (.bootService r) s = .next u ∧ u.sec.boot = some x ∧ x.step = 2 ∧ x.service = r
          ∧ x.nonce = Config.freeWord s.free ∧ u.free = s.free + 1 ∧ u.pins.request = false ∧ x.out.length = 16
          ∧ (∀ k, k < 16 → .bootFetch (k * (min 8192 (le r 14 2 - 52) / 8 * 8)) (min 8192 (le r 14 2 - 52) / 8 * 8)
              (Config.freeWord s.free) ∈ u.outs) ∧ u.csr = s.csr))
    ∧ (∀ b o n w d, s.sec.boot = some b →
      (fetchFits b o d.length w = false → exec (.fetchData o n w d) s = .next s)
      ∧ (fetchFits b o d.length w = true → ∃ u x, exec (.fetchData o n w d) s = .next u ∧ u.sec.boot = some x
          ∧ u.sec.flash = wrBytes s.sec.flash o d ∧ x.total = some (4096 * n) ∧ x.progressAt = s.stw.upNs ∧ x.step = 2
          ∧ x.nonce = b.nonce ∧ (∀ y ∈ b.out, y.1 ≠ o → y.1 < min (4096 * n) 0x2000000 → y ∈ x.out)
          ∧ (∀ y ∈ x.out, (y ∈ b.out ∧ y.1 ≠ o)
              ∨ (y.2.2 = s.stw.upNs ∧ y.1 + y.2.1 ≤ min (4096 * n) 0x2000000 ∧ .bootFetch y.1 y.2.1 b.nonce ∈ u.outs))
          ∧ (serviceOk b.service = true → b.out.length ≤ 16 → x.out.length = 16 ∨ min (4096 * n) 0x2000000 ≤ x.next)))
    ∧ (∀ b o n w, s.sec.boot = some b →
      (fetchFits b o n w = true → ∃ u, exec (.fetchError o n w) s = .next u ∧ attemptOver s u b)
      ∧ (fetchFits b o n w = false → exec (.fetchError o n w) s = .next s)
      ∧ (b.out.find? (fun x => decide (x.1 = o)) = none → exec (.fetchResend o) s = .next s)
      ∧ (∀ x, b.out.find? (fun x => decide (x.1 = o)) = some x →
          (s.stw.upNs < x.2.2 + 100000000 → exec (.fetchResend o) s = .next s)
          ∧ (b.step = 2 → x.2.2 + 100000000 ≤ s.stw.upNs → ∃ u y, exec (.fetchResend o) s = .next u
              ∧ u.outs = .bootFetch o x.2.1 b.nonce :: s.outs ∧ u.sec.boot = some y ∧ y.out.length = b.out.length
              ∧ (∀ z ∈ y.out, z.1 = o → z.2.2 = s.stw.upNs) ∧ (∀ z ∈ b.out, z.1 ≠ o → z ∈ y.out)
              ∧ u.sec.flash = s.sec.flash))
      ∧ (b.step ≤ 2 → b.progressAt + 60000000000 ≤ s.stw.upNs → ∃ u, exec .fetchAttemptTimeout s = .next u
          ∧ attemptOver s u b)
      ∧ (b.step = 3 ∨ s.stw.upNs < b.progressAt + 60000000000 → exec .fetchAttemptTimeout s = .next s))

/-- R490, R491: the admin function or the steward starts an update, unless one runs; the new image is checked, the region
programmed and verified again, and SEC_FWUPD and SEC_VERIFY say what came of it. COMMIT_SVN raises the fused SVN to the running
one, for the same requesters and only once the module is ready. R494 to R497: a reservation record whose bytes read back is that of
the block that is due; what reads back otherwise is torn, and a third failure in a row stops signing; the next bottom tree is ready when its computation is done. -/
def Obligations.FirmwareAndLeaves : Prop :=
  ∀ (s : State),
    (∀ who base,
      (isAdmin s who = true → csrFld s aSecFwupd 61 59 ≠ 1 → csrFld s aSecFwupd 61 59 ≠ 2 → ∃ u,
        exec (.firmwareUpdate (.go who base)) s = .next u ∧ fwReports u 1 0 ∧ u.sec.updBase = base
        ∧ u.sec.flash = s.sec.flash ∧ u.sec.fwValid = s.sec.fwValid)
      ∧ (isAdmin s who = false ∨ csrFld s aSecFwupd 61 59 = 1 ∨ csrFld s aSecFwupd 61 59 = 2 →
        exec (.firmwareUpdate (.go who base)) s = .next s))
    ∧ (∀ ok, (csrFld s aSecFwupd 61 59 ≠ 1 → exec (.firmwareUpdate .checked) s = .next s)
      ∧ (csrFld s aSecFwupd 61 59 ≠ 2 → exec (.firmwareUpdate (.programmed ok)) s = .next s)
      ∧ (∀ r, newImage s = (r, none) →
        (csrFld s aSecFwupd 61 59 = 1 → ∃ u, exec (.firmwareUpdate .checked) s = .next u ∧ fwReports u 4 1
          ∧ csrFld u aSecVerify 63 48 = min 65535 (csrFld r aSecVerify 63 48 + 1) ∧ u.sec = r.sec)
        ∧ (csrFld s aSecFwupd 61 59 = 2 → ∃ u, exec (.firmwareUpdate (.programmed ok)) s = .next u ∧ fwReports u 4 5
          ∧ csrFld u aSecVerify 63 48 = min 65535 (csrFld r aSecVerify 63 48 + 1) ∧ u.sec = r.sec))
      ∧ (∀ r b, newImage s = (r, some b) →
        (csrFld s aSecFwupd 61 59 = 1 → fwError s.sec b ≠ 0 → ∃ u, exec (.firmwareUpdate .checked) s = .next u
          ∧ fwReports u 4 (fwError s.sec b) ∧ u.sec = r.sec
          ∧ csrFld u aSecVerify 63 48 = min 65535 (csrFld r aSecVerify 63 48 + 1))
        ∧ (csrFld s aSecFwupd 61 59 = 1 → fwError s.sec b = 0 → ∃ u, exec (.firmwareUpdate .checked) s = .next u
          ∧ fwReports u 2 0 ∧ u.sec.fwValid = false ∧ csrFld u aSecVerify 63 48 = csrFld r aSecVerify 63 48)
        ∧ (csrFld s aSecFwupd 61 59 = 2 → ok = true → fwError s.sec b = 0 → ∃ u,
          exec (.firmwareUpdate (.programmed ok)) s = .next u ∧ fwReports u 3 0 ∧ u.sec.fwValid = true
          ∧ u.sec.flash = wrBytes [] 0 b ∧ u.sec.fwSvn = le b 0x0C 4 ∧ u.sec.fwSlot = le b 0x0A 1
          ∧ u.sec.fwDigest = digest384 (slice_ b 0 0x100) ∧ u.sec.fuseSvn = r.sec.fuseSvn
          ∧ csrFld u aSecStat 47 40 = csrFld r aSecStat 47 40)
        ∧ (csrFld s aSecFwupd 61 59 = 2 → (ok = false ∨ fwError s.sec b ≠ 0) → ∃ u,
          exec (.firmwareUpdate (.programmed ok)) s = .next u ∧ fwReports u 4 5 ∧ u.sec = r.sec
          ∧ csrFld u aSecVerify 63 48 = min 65535 (csrFld r aSecVerify 63 48 + 1))))
    ∧ (∀ who, (isAdmin s who = true → s.sec.fuseSvn < csrFld s aSecStat 47 40 → csrFld s aStwBoot 63 61 = 1 → ∃ u,
        exec (.commitSvn who) s = .next u ∧ u.sec.fuseSvn = csrFld s aSecStat 47 40
        ∧ csrFld u aSecStat 39 32 = csrFld s aSecStat 47 40 ∧ csrFld u aSecStat 47 40 = csrFld s aSecStat 47 40)
      ∧ (isAdmin s who = false ∨ csrFld s aSecStat 47 40 ≤ s.sec.fuseSvn ∨ csrFld s aStwBoot 63 61 ≠ 1 →
        exec (.commitSvn who) s = .next s))
    ∧ (∀ back, (dueBlock s = none ∨ csrFld s aSecLms 20 20 = 1 ∨ csrFld s aSecLms 21 21 = 1 ∨ s.sec.lifecycle ≠ 1 →
        exec (.lmsReserve back) s = .next s)
      ∧ (∀ x r, dueBlock s = some x → csrFld s aSecLms 20 20 = 0 → csrFld s aSecLms 21 21 = 0 → s.sec.lifecycle = 1 →
          r = { seq := ((newestRec s).map (·.seq)).getD 0 + 1, tree := x.1, block := x.2 } →
        (back = lmsBytes s r → ∃ u, exec (.lmsReserve back) s = .next u ∧ ringTakes s u (some r) ∧ reserved u x.1 x.2 = true
          ∧ u.sec.lmsFails = 0 ∧ csrFld u aSecLms 23 23 = 0 ∧ lmsTree u = lmsTree s ∧ lmsBlock u = lmsBlock s
          ∧ lmsLeaf u = lmsLeaf s)
        ∧ (back ≠ lmsBytes s r → ∃ u, exec (.lmsReserve back) s = .next u ∧ ringTakes s u none
          ∧ u.sec.lmsFails = s.sec.lmsFails + 1 ∧ csrFld u aSecLms 15 0 = min 65535 (csrFld s aSecLms 15 0 + 1)
          ∧ (s.sec.lmsFails < 2 → csrFld u aSecLms 20 20 = 0 ∧ csrGet u aSecStat = csrGet s aSecStat)
          ∧ (2 ≤ s.sec.lmsFails → csrFld u aSecLms 20 20 = 1 ∧ csrFld u aSecStat 56 56 = 0))))
    ∧ ((2 ^ 20 - (lmsBlock s * 1024 + lmsLeaf s) ≤ 2 ^ 19 → lmsTree s + 1 < 2 ^ 20 → signOk s = true → ∃ u,
        exec .nextBottomTreeReady s = .next u ∧ csrFld u aSecLms 22 22 = 1 ∧ lmsTree u = lmsTree s
        ∧ lmsBlock u = lmsBlock s ∧ lmsLeaf u = lmsLeaf s ∧ u.sec = s.sec)
      ∧ (2 ^ 19 < 2 ^ 20 - (lmsBlock s * 1024 + lmsLeaf s) ∨ 2 ^ 20 ≤ lmsTree s + 1 ∨ signOk s = false →
        exec .nextBottomTreeReady s = .next s))

/-! ## Attestation, debug unlock and the sideband -/

namespace Sys2Proof.Claim

/-- The plain SPDM requests of a requester and their responses (R498, R500, R507). -/
def plainSpdm (s : State) (x : SpdmFrom) (n : Nat) (e : Instr) (r : SpdmResp) : Prop :=
  (e, r) ∈ [(.getVersion x n, .version), (.getCapabilities x n, .capabilities), (.negotiateAlgorithms x n, .algorithms),
   (.getDigests x n, .digests (digest384 (chainBytes s))),
   (.getCertificate x n, if s.sec.lifecycle = 2 then .error 2 else .certificate (chainNo s)),
   (.certHssRequest x n, .certHss (chainNo s)),
   (.hssHalfRequest x n, match heldHalf s x with | some l => .hssHalf l | none => .error 2)]

/-- The measurements that a requester may read of the indices it names. -/
def readings (s : State) (x : SpdmFrom) (idx : List Nat) : List (Nat × Nat) :=
  (idx.filter (mayMeasure x)).filterMap (fun i => (measurement s i).map (fun v => (i, v)))

/-- The signed SPDM requests, and the response that a signature and a leaf make. -/
def signedSpdm (s : State) (x : SpdmFrom) (n : Nat) (idx : List Nat) (e : Instr) (mk : Nat → Nat → SpdmResp) : Prop :=
  (e, mk) ∈ [(.challenge x n, fun sig leaf => .challengeAuth sig leaf),
   (.getMeasurements x n idx, fun sig leaf => .measurements (readings s x idx) sig leaf)]

/-- The response r has gone to requester x for datagram n, and is kept with the half it holds. -/
def spdmSent (s u : State) (x : SpdmFrom) (n : Nat) (r : SpdmResp) (half : Option Nat) : Prop :=
  u.outs = .spdm x r :: s.outs ∧ findPeer u x = some { src := x, seq := n, last := r } ∧ heldHalf u x = half
    ∧ ∀ y, y ≠ x → findPeer u y = findPeer s y

/-- A function has had 64 signed responses within the last second. -/
def signBusy (s : State) : SpdmFrom → Prop
  | .sideband => False
  | .host n _ _ => 64 ≤ (s.sec.signs.filter (fun e => decide (e.1 = n) && decide (s.stw.upNs < e.2 + 1000000000))).length

/-- A refused token is counted; the third failure locks debug unlock; the nonce stays. -/
def tokenRefused (s u : State) : Prop :=
  csrFld u aSecVerify 15 0 = min 65535 (csrFld s aSecVerify 15 0 + 1) ∧ u.sec = s.sec ∧ debugLevel u = debugLevel s
    ∧ (csrFld s aSecStat 53 53 = 1 → csrGet u aSecStat = csrGet s aSecStat)
    ∧ (csrFld s aSecStat 53 53 = 0 → csrFld s aSecStat 55 54 < 3 → csrFld u aSecStat 55 54 = csrFld s aSecStat 55 54 + 1
        ∧ (csrFld u aSecStat 53 53 = 1 ↔ csrFld s aSecStat 55 54 = 2))

/-- The answer of a token by its path: a sideband response, or nothing on JTAG. -/
def tokenAnswer (s u : State) (sb : Option Nat) (status : Nat) : Prop :=
  (∀ q, sb = some q → u.outs = .sideband 0x0A q status [] :: s.outs) ∧ (sb = none → u.outs = s.outs)

end Sys2Proof.Claim

/-- R498, R500, R501: a served requester's plain request is answered and the answer kept; a host datagram that repeats its
sequence number receives the same response again. R495, R500: a signed response uses the next reserved leaf, which no later
response uses; R497, R506, R507: without a leaf to use it is an error. R499: which measurements a requester may read. -/
def Obligations.Attestation : Prop :=
  ∀ (s : State) (x : SpdmFrom) (n : Nat) (idx : List Nat),
    (∀ e r, plainSpdm s x n e r →
      (spdmServed s x = false → exec e s = .next s)
      ∧ (∀ p, spdmServed s x = true → findPeer s x = some p → x ≠ .sideband → p.seq = n →
          exec e s = .next (emit s (.spdm x p.last)))
      ∧ (spdmServed s x = true → (∀ p, findPeer s x = some p → x = .sideband ∨ p.seq ≠ n) → ∃ u, exec e s = .next u
          ∧ spdmSent s u x n r (heldHalf s x) ∧ u.csr = s.csr ∧ u.free = s.free))
    ∧ (∀ e mk, signedSpdm s x n idx e mk →
      (spdmServed s x = false → exec e s = .next s)
      ∧ (∀ p, spdmServed s x = true → findPeer s x = some p → x ≠ .sideband → p.seq = n →
          exec e s = .next (emit s (.spdm x p.last)))
      ∧ (spdmServed s x = true → (∀ p, findPeer s x = some p → x = .sideband ∨ p.seq ≠ n) →
        (signBusy s x → ∃ u, exec e s = .next u ∧ spdmSent s u x n (.error 3) (heldHalf s x) ∧ u.csr = s.csr)
        ∧ (¬ signBusy s x → (signOk s = false ∨ reserved s (lmsTree s) (lmsBlock s) = false) → ∃ u, exec e s = .next u
            ∧ spdmSent s u x n (.error 2) (heldHalf s x) ∧ u.csr = s.csr)
        ∧ (∀ leaf, ¬ signBusy s x → signOk s = true → reserved s (lmsTree s) (lmsBlock s) = true →
            (lmsTree s * 1024 + lmsBlock s) * 1024 + lmsLeaf s = leaf → ∃ u, exec e s = .next u
          ∧ spdmSent s u x n (mk (moduleSig .spdm (natToBytes (Config.freeBytes s.free) 48) s.free) leaf)
              (some leaf) ∧ u.free = s.free + 1
          ∧ (lmsTree s * 1024 + lmsBlock s < 2 ^ 30 - 1 ∨ lmsLeaf s < 1023 →
              (lmsTree u * 1024 + lmsBlock u) * 1024 + lmsLeaf u = leaf + 1)
          ∧ (lmsTree s * 1024 + lmsBlock s = 2 ^ 30 - 1 → lmsLeaf s = 1023 → csrFld u aSecLms 21 21 = 1
              ∧ csrFld u aSecStat 56 56 = 0))))
    ∧ (measurement s 1 = some Config.romDigest ∧ measurement s 6 = some (digest384 (mapBytes s))
      ∧ measurement s 2 = some s.sec.runDigest ∧ measurement s 4 = some (csrFld s aSecStat 61 60)
      ∧ (∀ f g, f < 64 → curImg s f = some g → measurement s (16 + f) = some (g.serial + 2 ^ 64 * g.digest))
      ∧ (∀ f a b i, 16 ≤ i → i ≠ 16 + f → mayMeasure (.host f a b) i = false))

/-- R505, R506, R507: a debug challenge gives the SERIAL and a fresh nonce; a token that fits spends the nonce and raises the
level (level 2 erases the keys) or decommissions; one that does not fit counts, and three lock unlocking; the nonce expires after
10 minutes. -/
def Obligations.DebugUnlock : Prop :=
  ∀ (s : State),
    (∀ sb b, s.pins.pwrgd = false → exec (.debugChallenge sb) s = .next s ∧ exec (.debugToken sb b) s = .next s
        ∧ exec (.decommission sb b) s = .next s)
    ∧ (∀ sb, s.pins.pwrgd = true → ∃ u, exec (.debugChallenge sb) s = .next u ∧ u.sec.nonce = some (s.free, s.stw.upNs)
        ∧ u.free = s.free + 1 ∧ u.csr = s.csr
        ∧ (∀ q, sb = some q → u.outs = .sideband 9 q 0 (natToBytes s.stw.serial 16
            ++ natToBytes (Config.freeBytes s.free % 2 ^ 256) 32) :: s.outs)
        ∧ (sb = none → u.outs = .jtag (BitVec.ofNat 64 (Config.freeBytes s.free)) :: .jtag (BitVec.ofNat 64 s.stw.serial)
            :: s.outs))
    ∧ (∀ sb b, s.pins.pwrgd = true →
      (le b 8 1 = 0xFF → exec (.debugToken sb b) s = .next s)
      ∧ (le b 8 1 ≠ 0xFF → exec (.decommission sb b) s = .next s)
      ∧ (csrFld s aSecStat 53 53 = 0 → le b 8 1 = 1 ∨ le b 8 1 = 2 → tokenFits s b = true → ∃ u,
          exec (.debugToken sb b) s = .next u ∧ debugLevel u = max (le b 8 1) (debugLevel s) ∧ u.sec.nonce = none
          ∧ u.sec.alias_ = (s.sec.alias_ && decide (le b 8 1 = 1)) ∧ tokenAnswer s u sb 0)
      ∧ (le b 8 1 ≠ 0xFF → (csrFld s aSecStat 53 53 = 1 ∨ tokenFits s b = false ∨ (le b 8 1 ≠ 1 ∧ le b 8 1 ≠ 2)) → ∃ u,
          exec (.debugToken sb b) s = .next u ∧ tokenRefused s u ∧ tokenAnswer s u sb 1)
      ∧ (le b 8 1 = 0xFF → csrFld s aSecStat 53 53 = 0 → tokenFits s b = true → ∃ u,
          exec (.decommission sb b) s = .next u ∧ u.sec.lifecycle = 2 ∧ u.sec.log = [] ∧ u.sec.nonce = none
          ∧ csrFld u aSecStat 63 62 = 2 ∧ csrFld u aSecStat 56 56 = 0 ∧ debugLevel u = debugLevel s
          ∧ tokenAnswer s u sb 0 ∧ signOk u = false)
      ∧ (le b 8 1 = 0xFF → (csrFld s aSecStat 53 53 = 1 ∨ tokenFits s b = false) → ∃ u,
          exec (.decommission sb b) s = .next u ∧ tokenRefused s u ∧ tokenAnswer s u sb 1))
    ∧ (∀ d t, s.sec.nonce = some (d, t) →
      (t + 600000000000 ≤ s.stw.upNs → ∃ u, exec .debugNonceExpire s = .next u ∧ u.sec.nonce = none ∧ u.csr = s.csr
        ∧ ∀ b, tokenFits u b = false)
      ∧ (s.stw.upNs < t + 600000000000 → exec .debugNonceExpire s = .next s))
    ∧ (s.sec.nonce = none → exec .debugNonceExpire s = .next s)

/-- R274, R526, R537 to R540: the tray controller's requests are served while PWRGD is high, each with one response that echoes its
sequence number. A team record is busy in a team, else it founds or leaves one; a function record is malformed, refused, busy or
written and kept; STATUS gives six registers and the page count and releases ALERT_N; LOG_READ, RETIRED_PAGES and the address. -/
def Obligations.SidebandRequests : Prop :=
  ∀ (s : State) (q : Nat),
    (∀ w b o n a, s.pins.pwrgd = false → exec (.teamRecord q w) s = .next s ∧ exec (.functionRecord q b) s = .next s
        ∧ exec (.status q) s = .next s ∧ exec (.logRead q o n) s = .next s ∧ exec (.retiredPages q o) s = .next s
        ∧ exec (.i3cAddressAssign a) s = .next s)
    ∧ (∀ w, s.pins.pwrgd = true →
      (1 ≤ mRole s → mRole s ≤ 4 → exec (.teamRecord q w) s = .next (emit s (.sideband 2 q 3 [])))
      ∧ (mRole s = 0 ∨ 4 < mRole s → ∃ u, exec (.teamRecord q w) s = .next u ∧ u.outs = .sideband 2 q 0 [] :: s.outs
        ∧ csrGet u aMstShape = csrGet (storeReg s aMstShape w) aMstShape ∧ u.cores = s.cores ∧ u.funs = s.funs
        ∧ (teamValid u = false → csrGet u aMstState = 0#64 ∧ csrGet u aMstCount = 0#64 ∧ domainOn u 27 = false)
        ∧ (teamValid u = true → mEpoch u = 0
            ∧ (foundingShadow u = true → mRole u = 1 ∧ memberState u (ownCoord u) = 3)
            ∧ (foundingShadow u = false → ∀ c ∈ allCoords (teamShape u),
                memberState u c = if c = ownCoord u ∧ mRole s = 5 then 2 else 1)
            ∧ (foundingShadow u = false → mRole s = 5 → mRole u = 5))
        ∧ (∀ p, p < 12 → csrFld u (aYokeStat p) 63 62
            = if teamValid u = true ∧ wired (teamShape u) (ownCoord u) p = none then 3 else 0)))
    ∧ (∀ b, s.pins.pwrgd = true →
      (parseRecord b = none → exec (.functionRecord q b) s = .next (emit s (.sideband 3 q 2 [])))
      ∧ (∀ r, parseRecord b = some r →
        (fnState s r.fn ≠ 0 → (∃ p ∈ r.pairs, selKind p ≠ 2) → recordStatus s r = 3)
        ∧ (fnState s r.fn = 0 → (∃ p ∈ r.pairs, pairOk (r.flags.testBit 3) p = false) → recordStatus s r = 1)
        ∧ (fnState s r.fn = 0 → (∃ n, n < 64 ∧ n ≠ r.fn ∧ fnState s n ≠ 0
            ∧ partsMeet (recordValue s r fnPart) (csrGet s (aFn n fnPart)) = true) → recordStatus s r = 1)
        ∧ (recordStatus s r ≠ 0 →
            exec (.functionRecord q b) s = .next (emit s (.sideband 3 q (recordStatus s r) [])))
        ∧ (recordStatus s r = 0 → ∃ u, exec (.functionRecord q b) s = .next u ∧ u.stw.records.head? = some r
            ∧ (getFun u r.fn).siloBase = r.siloBase ∧ (getFun u r.fn).siloPages = r.siloPages
            ∧ (getFun u r.fn).signers = r.keys ∧ (getFun u r.fn).fallback = r.fallback
            ∧ (r.flags.testBit 0 = false → u.outs = .sideband 3 q 0 [] :: s.outs
              ∧ ∀ o v, r.pairs = [(v, o)] → selKind (v, o) = 1 → selOff (v, o) ≠ fnCtx →
                  csrGet u (aFn r.fn (selOff (v, o))) = csrGet (storeReg s (aFn r.fn (selOff (v, o))) o)
                    (aFn r.fn (selOff (v, o)))))))
    ∧ (s.pins.pwrgd = true → ∃ u, exec (.status q) s = .next u
        ∧ u.outs = .sideband 6 q 0 ([aStwBoot, aPwrProfile, aPwrStat, aTestReserve, aMstState, aSecStat].flatMap (fun a =>
            natToBytes (csrGet s a).toNat 8) ++ natToBytes s.stw.retired.length 4) :: s.outs
        ∧ u.pins.alert = false ∧ u.pins.event = false ∧ u.pins.request = s.pins.request ∧ u.csr = s.csr)
    ∧ (∀ o n, s.pins.pwrgd = true →
      (1 ≤ n → n ≤ 248 → ∃ u, exec (.logRead q o n) s = .next u ∧ u.csr = s.csr ∧ u.free = s.free + 1
        ∧ u.outs = .sideband 7 q 0 (natToBytes (Config.freeBytes s.free) n) :: s.outs)
      ∧ (n = 0 ∨ 248 < n → exec (.logRead q o n) s = .next (emit s (.sideband 7 q 2 [])))
      ∧ exec (.retiredPages q o) s = .next (emit s (.sideband 8 q 0
          (((s.stw.retired.drop o).take 30).flatMap (fun x => natToBytes (retiredWord x).toNat 8)))))
    ∧ (∀ a, s.pins.pwrgd = true → exec (.i3cAddressAssign a) s = .next { s with pins := { s.pins with i3c := a % 128 } })

/-! ## Accesses to the control tier -/

namespace Sys2Proof.Claim

/-- Registers that a write stores with a mask alone (register tables of chapters 3 to 6). -/
def maskedCore (o : Nat) : Option Word :=
  if o = oMcfg then some 0x3FFFFFFF00000003#64
  else if o = oFurSilo then some 0x83FFFFFFFFFFF000#64
  else if 0x2100 ≤ o ∧ o < 0x2180 then some 0xC0000000000FFFFF#64
  else if 0x400 ≤ o ∧ o < 0x500 ∧ o % 16 ≠ 0 then some 0x00003FFFFFFFF000#64
  else none

/-- Core registers that only the hardware writes. -/
def roCore (o : Nat) : Bool :=
  [oState, oSeat, oMconv, oMunit, oFurProbe, oFurFlits, oFurPtr, oSpdEcc, oMsgCnt, oMsgErr, oOrder].contains o
    || decide (0x40 ≤ o ∧ o < 0x80) || decide (0x380 ≤ o ∧ o < 0x400) || decide (0x800 ≤ o ∧ o < 0xA00)
    || decide (0x2180 ≤ o ∧ o < 0x2200) || decide (0x5100 ≤ o ∧ o < 0x5180)

/-- Registers of blocks 0x0002 to 0x0008 whose write is more than a store. -/
def actsOnWrite (a : Nat) : Bool :=
  grnInvAt a || decide (a = aSwathApply) || decide (a = aTimeSet) || decide (a = aTimeCfg) || decide (a = aTimePpsSec)
    || decide (a = aHostPtpCfg) || decide (aClkField 0 ≤ a ∧ a < aClkField 6) || decide (a = aSecFwupd)
    || decide (a = aStwReset) || decide (a = aPwrDormant) || decide (a = aTestCfg)

/-- Registers whose write is a command of its own. -/
def writeCommand (who : Who) (v : Word) : List (Nat × Instr) :=
  [(aSwathApply, .swathApply v), (aTimeSet, .timeSet v), (aClkField 0, .nReqWrite 0 v), (aClkField 1, .nReqWrite 1 v),
   (aClkField 2, .nReqWrite 2 v), (aClkField 3, .nReqWrite 3 v), (aClkField 4, .nReqWrite 4 v),
   (aClkField 5, .nReqWrite 5 v)] ++ (List.range 64).flatMap (fun n =>
    [(aFn n fnComplete, .fnComplete n who v), (aFn n fnSwitch, .fnSwitch n who v)])

end Sys2Proof.Claim

/-- R11, R14, R232, R510, R516: an access that is no aligned 8-byte access is bad, one beyond the map unmapped; a denied one is
counted; none of them has an effect and a read of them gives zero. A read gives the register's value and, on the paths that
clear, clears its rc fields; an offset without a register reads as zero. -/
def Obligations.RegisterReads : Prop :=
  ∀ (s : State) (who : Who) (a g : Nat),
    (∀ w, (g ≠ 8 ∨ a % 8 ≠ 0 → accessStatus s who a g w = 3)
      ∧ (g = 8 → a % 8 = 0 → placeOf a = .none → accessStatus s who a g w = 2)
      ∧ (g = 8 → a % 8 = 0 → ∀ x, placeOf a = .block x → (accessStatus s who a g w = 1 ↔ mayAccess s who a w = false)))
    ∧ (∀ st, accessStatus s who a g false = st → st ≠ 0 → st ≠ 1 → exec (.rcRead who a g) s = .next (emit s (.access a 0#64 st)))
    ∧ (accessStatus s who a g false = 1 → ∃ u, exec (.rcRead who a g) s = .next u ∧ u.outs = .access a 0#64 1 :: s.outs
        ∧ u.csr = s.csr ∧ u.cores = s.cores ∧ (∀ n, who = .host n → (getFun u n).denied = (getFun s n).denied + 1)
        ∧ ∀ c t h n, who = .core c t h → fnOfCore s c = some n → (getFun u n).denied = (getFun s n).denied + 1)
    ∧ (accessStatus s who a g false = 0 →
      (∀ c o, placeOf a = .core c o → ∃ u, exec (.rcRead who a g) s = .next u ∧ u.outs = .access a (coreView s c o) 0 :: s.outs
        ∧ (clears who = true → creg (getCore u c) o = creg (getCore s c) o &&& ~~~coreRc o)
        ∧ (clears who = false → u.cores = s.cores) ∧ (∀ x, x ≠ c → getCore u x = getCore s x) ∧ u.csr = s.csr)
      ∧ (∀ j o, placeOf a = .plot j o → ∃ u, exec (.rcRead who a g) s = .next u
        ∧ u.outs = .access a (plotView s j o) 0 :: s.outs
        ∧ (clears who = true → preg (getPlot u j) o = preg (getPlot s j) o &&& ~~~plotRc o)
        ∧ (clears who = false → u.plots = s.plots) ∧ u.csr = s.csr)
      ∧ (∀ x, placeOf a = .block x → polBlock x = .none → exec (.rcRead who a g) s = .next (emit s (.access a 0#64 0)))
      ∧ (∀ x, placeOf a = .block x → polBlock x ≠ .none → ∃ u, exec (.rcRead who a g) s = .next u
        ∧ u.outs = .access a (blockView s x) 0 :: s.outs
        ∧ (clears who = true → csrGet u x = csrGet s x &&& ~~~rcMask x)
        ∧ (clears who = false → u.csr = s.csr) ∧ (∀ y, y ≠ x → csrGet u y = csrGet s y) ∧ u.cores = s.cores))

/-- R12, R14, R510 to R514: a write that its path may not make has no effect but its count; one that is made stores the writable
bits by the register's rule, or acts as the command of the register; one that would grant WR over locked pages stores nothing (R360;
assumption 72). The rights of the paths: the steward has every right; a host
function only its own registers and none of block 0x0008; a core none of blocks 0x0007 and 0x0008. R504, R511: JTAG reads at debug
level 1, and writes and halts at level 2. -/
def Obligations.RegisterWrites : Prop :=
  ∀ (s : State) (who : Who) (a g : Nat) (v : Word),
    (∀ st, accessStatus s who a g true = st → st ≠ 0 → st ≠ 1 → exec (.registerWrite who a v g) s = .next (emit s (.access a v st)))
    ∧ (accessStatus s who a g true = 1 → ∃ u, exec (.registerWrite who a v g) s = .next u ∧ u.outs = .access a v 1 :: s.outs
        ∧ u.csr = s.csr ∧ u.cores = s.cores ∧ (∀ n, who = .host n → (getFun u n).denied = (getFun s n).denied + 1))
    ∧ (accessStatus s who a g true = 0 →
      (∀ c o, placeOf a = .core c o → awLocked s c o v = true →
        exec (.registerWrite who a v g) s = .next (emit s (.access a v 0)))
      ∧ (∀ c o m, placeOf a = .core c o → awLocked s c o v = false → maskedCore o = some m → ∃ u, exec (.registerWrite who a v g) s = .next u
        ∧ u.outs = .access a v 0 :: s.outs ∧ creg (getCore u c) o = v &&& m
        ∧ (∀ p, p ≠ o → creg (getCore u c) p = creg (getCore s c) p) ∧ (∀ x, x ≠ c → getCore u x = getCore s x)
        ∧ u.csr = s.csr)
      ∧ (∀ c o, placeOf a = .core c o → roCore o = true → exec (.registerWrite who a v g) s = .next (emit s (.access a v 0)))
      ∧ (∀ c, placeOf a = .core c oFault → ∃ u, exec (.registerWrite who a v g) s = .next u
        ∧ creg (getCore u c) oFault = if v.getLsbD 63 then 0#64 else creg (getCore s c) oFault)
      ∧ (∀ j, placeOf a = .plot j oPlotCtl → ∃ u, exec (.registerWrite who a v g) s = .next u
        ∧ pfld (getPlot u j) oPlotCtl 63 48 = max 16 (bits v 63 48) ∧ pfld (getPlot u j) oPlotCtl 47 40 = max 8 (bits v 47 40)
        ∧ pfld (getPlot u j) oPlotCtl 39 32 = bits v 39 32 ∧ pfld (getPlot u j) oPlotCtl 31 16 = max 20 (bits v 31 16))
      ∧ (∀ x, placeOf a = .block x → fnOf x = none → actsOnWrite x = false → ∃ u, exec (.registerWrite who a v g) s = .next u
        ∧ u.outs = .access a v 0 :: s.outs
        ∧ csrGet u x = (csrGet s x &&& ~~~rwMask x) ||| (fixBlock s x (v &&& rwMask x) &&& rwMask x)
        ∧ (∀ y, y ≠ x → csrGet u y = csrGet s y) ∧ u.cores = s.cores ∧ u.plots = s.plots ∧ u.funs = s.funs)
      ∧ (∀ x e w, placeOf a = .block x → who ≠ .jtag → (x, e) ∈ writeCommand who v → exec e s = .next w → ∃ u,
          exec (.registerWrite who a v g) s = .next u ∧ u.csr = w.csr ∧ u.funs = w.funs ∧ u.outs.tail = w.outs))
    ∧ (∀ w x, placeOf a = .block x → g = 8 → a % 8 = 0 →
      accessStatus s .steward a g w = 0
      ∧ (∀ c t h, x / 0x100000000 = 7 ∨ x / 0x100000000 = 8 → accessStatus s (.core c t h) a g w = 1)
      ∧ (∀ n, x / 0x100000000 = 8 → csrFld s aStwBoot 63 61 ≠ 3 → accessStatus s (.host n) a g w = 1)
      ∧ (∀ n m o, fnOf x = some (m, o) → m ≠ n → isAdmin s (.host n) = false → csrFld s aStwBoot 63 61 ≠ 3 →
          accessStatus s (.host n) a g w = 1))
    ∧ ((debugLevel s = 0 → exec (.jtagAccess (.read a)) s = .next s)
      ∧ (debugLevel s < 2 → exec (.jtagAccess (.write a v)) s = .next s ∧ ∀ b, exec (.jtagAccess (.halt b)) s = .next s)
      ∧ (1 ≤ debugLevel s → ∀ x, placeOf a = .block x → polBlock x ≠ .none → a % 8 = 0 →
          exec (.jtagAccess (.read a)) s = .next (emit s (.jtag (blockView s x))))
      ∧ (2 ≤ debugLevel s → (∀ b, ∃ u, exec (.jtagAccess (.halt b)) s = .next u ∧ u.stw.halted = b ∧ u.csr = s.csr
            ∧ u.cores = s.cores)
          ∧ ∀ u, exec (.registerWrite .steward a v 8) s = .next u → ∃ w, exec (.jtagAccess (.write a v)) s = .next w
              ∧ w.csr = u.csr ∧ w.cores = u.cores ∧ w.outs = u.outs.tail))

/-- R11: a register access that is narrower than 64 bits, or not aligned, completes with status 3, "bad access", and has no effect.
R14: a host function's read of a steward-only register returns zero and its write is discarded; both complete with status 1,
"denied", and are counted against the function. The admin function's reads in the service state, which R463 serves, are apart. -/
def Obligations.BadAndDeniedAccess : Prop :=
  ∀ (s : State) (a g : Nat) (v : Word),
    (∀ who, g < 8 ∨ a % 8 ≠ 0 → exec (.rcRead who a g) s = .next (emit s (.access a 0#64 3))
      ∧ exec (.registerWrite who a v g) s = .next (emit s (.access a v 3)))
    ∧ (∀ n x, placeOf a = .block x → polBlock x = .stw → g = 8 → a % 8 = 0 →
      (csrFld s aStwBoot 63 61 ≠ 3 ∨ isAdmin s (.host n) = false → ∃ u, exec (.rcRead (.host n) a g) s = .next u ∧ u.outs = .access a 0#64 1 :: s.outs ∧ u.csr = s.csr
        ∧ u.cores = s.cores ∧ u.plots = s.plots ∧ u.stw = s.stw ∧ (getFun u n).denied = (getFun s n).denied + 1
        ∧ ∀ m, m ≠ n → getFun u m = getFun s m)
      ∧ (∃ u, exec (.registerWrite (.host n) a v g) s = .next u ∧ u.outs = .access a v 1 :: s.outs ∧ u.csr = s.csr
        ∧ u.cores = s.cores ∧ u.plots = s.plots ∧ u.stw = s.stw ∧ (getFun u n).denied = (getFun s n).denied + 1
        ∧ ∀ m, m ≠ n → getFun u m = getFun s m))

/-! ## The block as a whole -/

/-- The command at the front of the queue is taken and performed with the rest of the queue. -/
def Obligations.FrontCommand : Prop :=
  ∀ (s : State) (c : Instr) (rest : List Instr), s.pending = c :: rest → step s = exec c { s with pending := rest }

/-- R386, R393, R398, R534: with an empty queue one 10 ns reference cycle passes. That a step on an empty queue is such a cycle is
the model's choice (assumption 6). Device time advances by 10 ns when no slew is under way; a field that is locked, not stopped
and not lost counts N quarter-cycles and its copy of device time follows; the power-on clock and the holdoff run; without power
only the holdoff does. -/
def Obligations.IdleCycle : Prop :=
  ∀ (s : State), s.pending = [] →
    (s.pins.pwrgd = false → step s = .next { s with pins := { s.pins with holdoff := s.pins.holdoff - 10 } })
    ∧ (s.pins.pwrgd = true → ∃ u, step s = .next u ∧ u.pending = [] ∧ u.stw.upNs = s.stw.upNs + 10
      ∧ u.pins.holdoff = s.pins.holdoff - 10
      ∧ (s.stw.servo.left = 0 → s.stw.servo.acc < 100000 → u.now = s.now + 10#64)
      ∧ (∀ f, f < 6 → s.stw.power.halved = false →
        (csrFld s (aClkField f) 54 54 = 1 → csrFld s (aClkField f) 55 55 = 0 → fieldLost s f = false → 0 < nCur s f →
          fget zeroNat u.qcyc f = fget zeroNat s.qcyc f + nCur s f ∧ fget zeroNat u.copies f = fget zeroNat s.copies f + 10)
        ∧ (csrFld s (aClkField f) 54 54 = 0 ∨ csrFld s (aClkField f) 55 55 = 1 ∨ fieldLost s f = true →
          fget zeroNat u.qcyc f = fget zeroNat s.qcyc f ∧ fget zeroNat u.copies f = fget zeroNat s.copies f)))

/-- After reset every register of the cores, the plots and the blocks holds the reset value of its table (R12); those other than zero
are given by name. No command waits, no memory byte is listed, no packet moves, only D29 has power (R409), and the canonical form
holds. -/
def Obligations.ResetState : Prop :=
  State.reset.pending = [] ∧ State.reset.wf ∧ State.reset.hbm = [] ∧ State.reset.cxl = [] ∧ State.reset.net = []
    ∧ (∀ c o, creg (getCore State.reset c) o = coreReset o) ∧ (∀ j o, preg (getPlot State.reset j) o = plotReset o)
    ∧ (∀ c o, o ≠ oTqLimit → o ≠ oFurCtl → o ≠ oSpdScrub → creg (getCore State.reset c) o = 0#64)
    ∧ (∀ c, creg (getCore State.reset c) oTqLimit = 0x208208208208#64
        ∧ creg (getCore State.reset c) oFurCtl = 0x1000008000000000#64
        ∧ creg (getCore State.reset c) oSpdScrub = 0x8000000000000100#64)
    ∧ (∀ j, pfld (getPlot State.reset j) oPlotCtl 63 48 = 256 ∧ pfld (getPlot State.reset j) oPlotCtl 47 40 = 64
        ∧ pfld (getPlot State.reset j) oPlotCtl 31 16 = 200)
    ∧ (∀ a, csrGet State.reset a = csrReset a)
    ∧ (∀ f n, f < 6 → n < 64 → csrGet State.reset (aGrnPart f n) = 0xFFFF#64)
    ∧ csrGet State.reset aStwStartCfg = 0x5A#64 ∧ csrGet State.reset aPwrProfile = 0x0010000009600000#64
    ∧ csrGet State.reset aHostPortCfg = 0x0000B9A400002400#64 ∧ csrGet State.reset aHostPfc = 0x0000040003000100#64
    ∧ csrGet State.reset aHostKht = 0x00327000010007D0#64 ∧ csrGet State.reset aYokeCtl = 0x00C8300002000000#64
    ∧ csrGet State.reset aMstTiming = 0x0064300004B00000#64 ∧ csrGet State.reset aStwHangCfg = 0xC000003203E80200#64
    ∧ csrGet State.reset aTimeCfg = 0x0000006400640000#64 ∧ csrGet State.reset aSwathCfg = 0x000003E8000003E8#64
    ∧ csrGet State.reset aPwrDomain = 0x0000000020000000#64 ∧ csrGet State.reset aPwrTherm = 0x00005F695A000000#64
    ∧ csrGet State.reset aClkSsc = 0x8000000000060140#64 ∧ csrGet State.reset aTestCfg = 0x8000003018000000#64
    ∧ csrGet State.reset aStwBoot = 0#64 ∧ csrGet State.reset aMstState = 0#64 ∧ csrGet State.reset aHostPortStat = 0#64
    ∧ (∀ n, n < 64 → csrGet State.reset (aFn n fnCtl) = 0x0000000A00000000#64 ∧ csrGet State.reset (aFn n fnStat) = 0#64
        ∧ csrGet State.reset (aFn n fnPair) = 0x0000002000000000#64
        ∧ csrGet State.reset (aFn n fnGleanCfg) = 0x0080000000000000#64)
    ∧ (∀ k, k < 12 → csrGet State.reset (aHbmScrub k) = 0x8000000000000018#64)

/-- Every step completes: no command faults or is refused, whatever the state. It takes exactly one command from the queue (none
from an empty one) and does not change the part's ordering code. -/
def Obligations.StepTakesOneCommand : Prop :=
  ∀ (s : State), ∃ u, step s = .next u ∧ u.pending = s.pending.tail ∧ u.code = s.code

/-- Every step keeps the canonical form: the byte memories and poison maps of HBM and CXL list no byte twice, none out of order and
none that an unlisted address reads as, and the tables of registers, cores, plots, functions, ports and slices likewise; so equal
contents are equal data, whatever commands came before. -/
def Obligations.StepKeepsCanonicalForm : Prop :=
  ∀ (s u : State), s.wf → step s = .next u → u.wf
end

