-- ==== Sys2Proof/Laws/Bits.lean ====
section
/-! SUPPORT. Reading and writing bit fields: what a field reads as after that field, or another, is written. -/

namespace Sys2Proof

theorem testBit_bits {n : Nat} (w : BitVec n) (hi lo i : Nat) :
    (bits w hi lo).testBit i = (decide (i < hi - lo + 1) && w.getLsbD (lo + i)) := by
  unfold bits
  rw [Nat.testBit_mod_two_pow, Nat.testBit_shiftRight]
  rfl

theorem getLsbD_setBits {n : Nat} (w : BitVec n) (hi lo v i : Nat) :
    (setBits w hi lo v).getLsbD i =
      if lo ≤ i ∧ i - lo < hi - lo + 1 then decide (i < n) && v.testBit (i - lo) else w.getLsbD i := by
  unfold setBits
  simp only [BitVec.getLsbD_or, BitVec.getLsbD_and, BitVec.getLsbD_not, BitVec.getLsbD_ofNat, Nat.testBit_shiftLeft,
    Nat.testBit_two_pow_sub_one, Nat.testBit_mod_two_pow]
  by_cases hn : i < n
  · by_cases h1 : lo ≤ i
    · by_cases h2 : i - lo < hi - lo + 1
      · simp [hn, h1, h2]
      · simp [hn, h1, h2]
    · simp [hn, h1]
  · have : w.getLsbD i = false := BitVec.getLsbD_of_ge w i (by omega)
    simp [hn, this]

/-- A field reads as what was written into it. -/
theorem bits_setBits_same {n : Nat} (w : BitVec n) (hi lo v : Nat) (h : hi < n) (hl : lo ≤ hi) :
    bits (setBits w hi lo v) hi lo = v % 2 ^ (hi - lo + 1) := by
  apply Nat.eq_of_testBit_eq
  intro i
  rw [testBit_bits, getLsbD_setBits, Nat.testBit_mod_two_pow]
  by_cases hi' : i < hi - lo + 1
  · have h1 : lo + i < n := by omega
    have h2 : lo + i - lo = i := by omega
    simp [hi', h1, h2]
  · simp [hi']

/-- A field that lies apart from the one written reads as before. -/
theorem bits_setBits_apart {n : Nat} (w : BitVec n) (hi lo v a b : Nat) (hab : b ≤ a) (hl : lo ≤ hi)
    (h : a < lo ∨ hi < b) : bits (setBits w hi lo v) a b = bits w a b := by
  apply Nat.eq_of_testBit_eq
  intro i
  rw [testBit_bits, testBit_bits, getLsbD_setBits]
  by_cases hi' : i < a - b + 1
  · have : ¬ (lo ≤ b + i ∧ b + i - lo < hi - lo + 1) := by omega
    rw [if_neg this]
  · simp [hi']

theorem bits_lt {n : Nat} (w : BitVec n) (hi lo : Nat) : bits w hi lo < 2 ^ (hi - lo + 1) :=
  Nat.mod_lt _ (Nat.two_pow_pos _)

theorem bits_zero (n hi lo : Nat) : bits (0#n) hi lo = 0 := by simp [bits]

end Sys2Proof
end

