-- ==== Sys2Proof/Laws/Table.lean ====
section
/-! SUPPORT. The sparse tables: what reading gives after writing, and that every operation keeps the canonical form. -/

namespace Sys2Proof.Machine

section
variable {α : Type}

/-- Every key of a table is above a number. -/
def keysAbove (n : Nat) (m : FMap α) : Prop := ∀ e ∈ m, n < e.1

/-- Keys strictly rising: what reading relies on. -/
def rising : FMap α → Prop
  | [] => True
  | (j, _) :: m => keysAbove j m ∧ rising m

theorem fget_keysAbove (d : Nat → α) (m : FMap α) (k n : Nat) (h : keysAbove n m) (hk : k ≤ n) : fget d m k = d k := by
  induction m with
  | nil => rfl
  | cons e m ih =>
    obtain ⟨j, v⟩ := e
    have hj : n < j := h (j, v) (List.mem_cons_self ..)
    have : j ≠ k := by omega
    simp only [fget, if_neg this]
    exact ih (fun e he => h e (List.mem_cons_of_mem _ he))

theorem keysAbove_ferase (m : FMap α) (n k : Nat) (h : keysAbove n m) : keysAbove n (ferase k m) := by
  induction m with
  | nil => exact h
  | cons e m ih =>
    obtain ⟨j, v⟩ := e
    have ht : keysAbove n m := fun e he => h e (List.mem_cons_of_mem _ he)
    unfold ferase
    split
    · exact ih ht
    · intro e he
      rcases List.mem_cons.mp he with rfl | he
      · exact h _ (List.mem_cons_self ..)
      · exact ih ht e he

theorem rising_ferase (m : FMap α) (k : Nat) (h : rising m) : rising (ferase k m) := by
  induction m with
  | nil => trivial
  | cons e m ih =>
    obtain ⟨j, v⟩ := e
    unfold ferase
    split
    · exact ih h.2
    · exact ⟨keysAbove_ferase m j k h.1, ih h.2⟩

theorem ferase_no_key (m : FMap α) (k : Nat) : ∀ e ∈ ferase k m, e.1 ≠ k := by
  induction m with
  | nil => intro e he; cases he
  | cons e m ih =>
    obtain ⟨j, v⟩ := e
    unfold ferase
    split
    · exact ih
    · intro e he
      rcases List.mem_cons.mp he with rfl | he
      · assumption
      · exact ih e he

theorem keysAbove_finsert (m : FMap α) (n k : Nat) (v : α) (h : keysAbove n m) (hk : n < k) :
    keysAbove n (finsert k v m) := by
  induction m with
  | nil => intro e he; rcases List.mem_cons.mp he with rfl | he; exact hk; cases he
  | cons e m ih =>
    obtain ⟨j, w⟩ := e
    have ht : keysAbove n m := fun e he => h e (List.mem_cons_of_mem _ he)
    unfold finsert
    split
    · intro e he
      rcases List.mem_cons.mp he with rfl | he
      · exact hk
      · exact h e he
    · intro e he
      rcases List.mem_cons.mp he with rfl | he
      · exact h _ (List.mem_cons_self ..)
      · exact ih ht e he

theorem rising_finsert (m : FMap α) (k : Nat) (v : α) (h : rising m) (hk : ∀ e ∈ m, e.1 ≠ k) : rising (finsert k v m) := by
  induction m with
  | nil =>
    refine And.intro ?_ trivial
    intro e he
    cases he
  | cons e m ih =>
    obtain ⟨j, w⟩ := e
    unfold finsert
    split
    · rename_i hlt
      refine ⟨?_, h⟩
      intro e he
      rcases List.mem_cons.mp he with rfl | he
      · exact hlt
      · exact Nat.lt_trans hlt (h.1 e he)
    · rename_i hge
      have hj : j ≠ k := hk (j, w) (List.mem_cons_self ..)
      exact ⟨keysAbove_finsert m j k v h.1 (by omega), ih h.2 (fun e he => hk e (List.mem_cons_of_mem _ he))⟩

theorem fget_ferase_ne (d : Nat → α) (m : FMap α) (k j : Nat) (h : j ≠ k) : fget d (ferase k m) j = fget d m j := by
  induction m with
  | nil => rfl
  | cons e m ih =>
    obtain ⟨i, w⟩ := e
    unfold ferase
    split
    · rename_i hi
      rw [ih]
      simp only [fget]
      rw [if_neg (by omega)]
    · simp only [fget, ih]

theorem fget_ferase_eq (d : Nat → α) (m : FMap α) (k : Nat) : fget d (ferase k m) k = d k := by
  induction m with
  | nil => rfl
  | cons e m ih =>
    obtain ⟨i, w⟩ := e
    unfold ferase
    split
    · exact ih
    · rename_i hi
      simp only [fget, if_neg hi, ih]

theorem fget_finsert (d : Nat → α) (m : FMap α) (k j : Nat) (v : α) (hk : ∀ e ∈ m, e.1 ≠ k) :
    fget d (finsert k v m) j = if k = j then v else fget d m j := by
  induction m with
  | nil => rfl
  | cons e m ih =>
    obtain ⟨i, w⟩ := e
    unfold finsert
    split
    · rfl
    · have hi : i ≠ k := hk (i, w) (List.mem_cons_self ..)
      simp only [fget, ih (fun e he => hk e (List.mem_cons_of_mem _ he))]
      split
      · rename_i hij
        rw [if_neg (by omega)]
      · rfl

theorem mem_ferase (m : FMap α) (k : Nat) (e : Nat × α) (h : e ∈ ferase k m) : e ∈ m := by
  induction m with
  | nil => exact h
  | cons x m ih =>
    obtain ⟨j, v⟩ := x
    unfold ferase at h
    split at h
    · exact List.mem_cons_of_mem _ (ih h)
    · rcases List.mem_cons.mp h with rfl | h
      · exact List.mem_cons_self ..
      · exact List.mem_cons_of_mem _ (ih h)

theorem mem_finsert (m : FMap α) (k : Nat) (v : α) (e : Nat × α) (h : e ∈ finsert k v m) : e = (k, v) ∨ e ∈ m := by
  induction m with
  | nil => rcases List.mem_cons.mp h with h | h; exact Or.inl h; cases h
  | cons x m ih =>
    obtain ⟨j, w⟩ := x
    unfold finsert at h
    split at h
    · rcases List.mem_cons.mp h with h | h
      · exact Or.inl h
      · exact Or.inr h
    · rcases List.mem_cons.mp h with rfl | h
      · exact Or.inr (List.mem_cons_self ..)
      · rcases ih h with h | h
        · exact Or.inl h
        · exact Or.inr (List.mem_cons_of_mem _ h)

end

variable {α : Type} [DecidableEq α]

/-- Reading after writing: the key written gives the value, every other key what it gave. -/
theorem fget_fset (d : Nat → α) (m : FMap α) (k j : Nat) (v : α) :
    fget d (fset d m k v) j = if k = j then v else fget d m j := by
  unfold fset
  split
  · rename_i hv
    split
    · rename_i hkj; subst hkj; rw [fget_ferase_eq, hv]
    · rename_i hkj; exact fget_ferase_ne d m k j (by omega)
  · rw [fget_finsert d _ k j v (ferase_no_key m k)]
    split
    · rfl
    · rename_i hkj; exact fget_ferase_ne d m k j (by omega)

@[simp] theorem fget_fset_self (d : Nat → α) (m : FMap α) (k : Nat) (v : α) : fget d (fset d m k v) k = v := by
  simp [fget_fset]

theorem fget_fset_ne (d : Nat → α) (m : FMap α) (k j : Nat) (v : α) (h : k ≠ j) :
    fget d (fset d m k v) j = fget d m j := by
  simp [fget_fset, h]

/-- The canonical form as a proposition: rising keys, no default value listed. -/
theorem fwf_iff (d : Nat → α) (m : FMap α) : fwf d m = true ↔ rising m ∧ ∀ e ∈ m, e.2 ≠ d e.1 := by
  induction m with
  | nil => simp [fwf, rising]
  | cons e m ih =>
    obtain ⟨j, v⟩ := e
    simp only [fwf, Bool.and_eq_true, decide_eq_true_eq, List.all_eq_true, ih, rising, keysAbove, List.mem_cons]
    constructor
    · rintro ⟨⟨hv, hk⟩, hr, hd⟩
      refine ⟨⟨hk, hr⟩, ?_⟩
      rintro e (rfl | he)
      · exact hv
      · exact hd e he
    · rintro ⟨⟨hk, hr⟩, hd⟩
      exact ⟨⟨hd (j, v) (Or.inl rfl), hk⟩, hr, fun e he => hd e (Or.inr he)⟩

theorem fwf_ferase (d : Nat → α) (m : FMap α) (k : Nat) (h : fwf d m = true) : fwf d (ferase k m) = true := by
  rw [fwf_iff] at *
  exact ⟨rising_ferase m k h.1, fun e he => h.2 e (mem_ferase m k e he)⟩

/-- Writing keeps the canonical form. -/
theorem fwf_fset (d : Nat → α) (m : FMap α) (k : Nat) (v : α) (h : fwf d m = true) : fwf d (fset d m k v) = true := by
  unfold fset
  split
  · exact fwf_ferase d m k h
  · rename_i hv
    have he := (fwf_iff d _).mp (fwf_ferase d m k h)
    rw [fwf_iff]
    refine ⟨rising_finsert _ k v he.1 (ferase_no_key m k), ?_⟩
    intro e hm
    rcases mem_finsert _ k v e hm with rfl | hm
    · exact hv
    · exact he.2 e hm

theorem fwf_fupd (d : Nat → α) (m : FMap α) (k : Nat) (f : α → α) (h : fwf d m = true) : fwf d (fupd d m k f) = true :=
  fwf_fset d m k _ h

theorem keysAbove_filter {α : Type} (p : Nat × α → Bool) (m : FMap α) (n : Nat) (h : keysAbove n m) :
    keysAbove n (m.filter p) := fun e he => h e (List.mem_filter.mp he).1

theorem rising_filter {α : Type} (p : Nat × α → Bool) (m : FMap α) (h : rising m) : rising (m.filter p) := by
  induction m with
  | nil => trivial
  | cons e m ih =>
    obtain ⟨j, v⟩ := e
    by_cases hp : p (j, v) = true
    · rw [List.filter_cons_of_pos hp]
      exact ⟨keysAbove_filter p m j h.1, ih h.2⟩
    · rw [List.filter_cons_of_neg hp]
      exact ih h.2

/-- Dropping entries keeps the canonical form. -/
theorem fwf_filter (d : Nat → α) (p : Nat × α → Bool) (m : FMap α) (h : fwf d m = true) :
    fwf d (m.filter p) = true := by
  rw [fwf_iff] at *
  exact ⟨rising_filter p m h.1, fun e he => h.2 e (List.mem_filter.mp he).1⟩

@[simp] theorem fwf_nil (d : Nat → α) : fwf d ([] : FMap α) = true := rfl

/-! ## Byte memories -/

theorem wrByte_wf (m : FMap Byte) (a : Nat) (b : Byte) (h : fwf zeroByte m = true) : fwf zeroByte (wrByte m a b) = true :=
  fwf_fset zeroByte m a b h

theorem wrLE_wf (m : FMap Byte) (a v n : Nat) (h : fwf zeroByte m = true) : fwf zeroByte (wrLE m a v n) = true := by
  induction n generalizing m a v with
  | zero => exact h
  | succ n ih => exact ih _ _ _ (wrByte_wf _ _ _ h)

theorem wrBytes_wf (m : FMap Byte) (a : Nat) (l : List Byte) (h : fwf zeroByte m = true) :
    fwf zeroByte (wrBytes m a l) = true := by
  induction l generalizing m a with
  | nil => exact h
  | cons b l ih => exact ih _ _ (wrByte_wf _ _ _ h)

theorem rdByte_wrByte (m : FMap Byte) (a x : Nat) (b : Byte) :
    rdByte (wrByte m a b) x = if a = x then b else rdByte m x := fget_fset zeroByte m a x b

/-- A little-endian write leaves every byte outside its range as it was. -/
theorem rdByte_wrLE_out (m : FMap Byte) (a v n x : Nat) (h : x < a ∨ a + n ≤ x) :
    rdByte (wrLE m a v n) x = rdByte m x := by
  induction n generalizing m a v with
  | zero => rfl
  | succ n ih =>
    rw [wrLE, ih _ _ _ (by omega), rdByte_wrByte, if_neg (by omega)]

/-- Reading back what a little-endian write stored. -/
theorem rdLE_wrLE (m : FMap Byte) (a v n : Nat) : rdLE (wrLE m a v n) a n = v % 256 ^ n := by
  induction n generalizing m a v with
  | zero => simp [rdLE, Nat.mod_one]
  | succ n ih =>
    rw [rdLE, wrLE, ih, rdByte_wrLE_out _ _ _ _ _ (by omega), rdByte_wrByte, if_pos rfl, BitVec.toNat_ofNat]
    have hp : 256 ^ (n + 1) = 256 * 256 ^ n := by rw [Nat.pow_succ, Nat.mul_comm]
    rw [hp, Nat.mod_mul]

end Sys2Proof.Machine
end

