-- ==== Sys2Proof/Laws/Bytes.lean ====
section
/-! SUPPORT. Byte lists: numbers and their bytes, what a byte memory reads after a list of bytes is written, fields of a concatenation. -/

namespace Sys2Proof.Machine

theorem natToBytes_length (v n : Nat) : (natToBytes v n).length = n := by
  induction n generalizing v with
  | zero => rfl
  | succ n ih => simp [natToBytes, ih]

theorem bytesToNat_natToBytes (v n : Nat) : bytesToNat (natToBytes v n) = v % 256 ^ n := by
  induction n generalizing v with
  | zero => simp [natToBytes, bytesToNat, Nat.mod_one]
  | succ n ih =>
    rw [natToBytes, bytesToNat, ih, Nat.pow_succ', Nat.mod_mul]
    simp

theorem rdByte_wrBytes_out (m : FMap Byte) (a x : Nat) (l : List Byte) (h : x < a ∨ a + l.length ≤ x) :
    rdByte (wrBytes m a l) x = rdByte m x := by
  induction l generalizing m a with
  | nil => rfl
  | cons b l ih =>
    rw [wrBytes, ih _ _ (by simp at h; omega), rdByte_wrByte, if_neg]
    simp at h
    omega

theorem rdBytes_wrBytes (m : FMap Byte) (a : Nat) (l : List Byte) : rdBytes (wrBytes m a l) a l.length = l := by
  induction l generalizing m a with
  | nil => rfl
  | cons b l ih =>
    rw [List.length_cons, rdBytes, wrBytes, rdByte_wrBytes_out _ _ _ _ (by omega), rdByte_wrByte, if_pos rfl, ih]

/-- A field of bytes at its offset in a concatenation. -/
theorem slice_append (p x r : List Byte) (o n : Nat) (hp : p.length = o) (hx : x.length = n) :
    ((p ++ (x ++ r)).drop o).take n = x := by
  rw [List.drop_left' hp, List.take_left' hx]

/-- A number stored little-endian at its offset in a concatenation. -/
theorem le_append (p r : List Byte) (v o n : Nat) (hp : p.length = o) : le (p ++ (natToBytes v n ++ r)) o n = v % 256 ^ n := by
  rw [le, slice_append _ _ _ _ _ hp (natToBytes_length v n), bytesToNat_natToBytes]

end Sys2Proof.Machine
end

