-- ==== Sys2Proof/Laws/Issue.lean ====
section
/-! SUPPORT. What the issue of an instruction does, said once: when thread t of a core runs a firing and its word is a
legal one of the instruction, the step is the effect and the advance of the program counter. With it the laws by which
two updates of one core, one thread or one register make one. -/

namespace Sys2Proof.Machine

theorem ferase_none {α : Type} (m : FMap α) (k : Nat) (h : ∀ e ∈ m, e.1 ≠ k) : ferase k m = m := by
  induction m with
  | nil => rfl
  | cons e m ih =>
    obtain ⟨j, v⟩ := e
    have hj : j ≠ k := h (j, v) (by simp)
    simp only [ferase, hj, if_false]
    rw [ih (fun e he => h e (by simp [he]))]

theorem ferase_ferase {α : Type} (m : FMap α) (k : Nat) : ferase k (ferase k m) = ferase k m :=
  ferase_none _ _ (ferase_no_key m k)

theorem ferase_finsert {α : Type} (m : FMap α) (k : Nat) (v : α) (h : ∀ e ∈ m, e.1 ≠ k) :
    ferase k (finsert k v m) = m := by
  induction m with
  | nil => simp [finsert, ferase]
  | cons e m ih =>
    obtain ⟨j, w⟩ := e
    have hj : j ≠ k := h (j, w) (by simp)
    have hm : ∀ e ∈ m, e.1 ≠ k := fun e he => h e (by simp [he])
    unfold finsert
    split
    · simp [ferase, hj, ferase_none m k hm]
    · simp [ferase, hj, ih hm]

theorem ferase_fset {α : Type} [DecidableEq α] (d : Nat → α) (m : FMap α) (k : Nat) (v : α) :
    ferase k (fset d m k v) = ferase k m := by
  unfold fset
  split
  · exact ferase_ferase m k
  · exact ferase_finsert _ _ _ (ferase_no_key m k)

/-- The last of two writes of one key stays. -/
@[simp] theorem fset_fset {α : Type} [DecidableEq α] (d : Nat → α) (m : FMap α) (k : Nat) (v w : α) :
    fset d (fset d m k v) k w = fset d m k w := by
  rw [fset, ferase_fset]; rfl

/-! ## Cores, threads, registers -/

@[simp] theorem getCore_setCore (s : State) (c : Nat) (k : Core) : getCore (setCore s c k) c = k :=
  fget_fset_self ..

theorem getCore_setCore_ne (s : State) (c d : Nat) (k : Core) (h : d ≠ c) :
    getCore (setCore s c k) d = getCore s d := fget_fset_ne _ _ _ _ _ (Ne.symm h)

@[simp] theorem setCore_setCore (s : State) (c : Nat) (k m : Core) : setCore (setCore s c k) c m = setCore s c m := by
  simp only [setCore, fset_fset]

@[simp] theorem getCore_updCore (s : State) (c : Nat) (f : Core → Core) : getCore (updCore s c f) c = f (getCore s c) :=
  getCore_setCore ..

theorem getCore_updCore_ne (s : State) (c d : Nat) (f : Core → Core) (h : d ≠ c) :
    getCore (updCore s c f) d = getCore s d := getCore_setCore_ne _ _ _ _ h

@[simp] theorem updCore_updCore (s : State) (c : Nat) (f g : Core → Core) :
    updCore (updCore s c f) c g = updCore s c (fun k => g (f k)) := by
  simp only [updCore, getCore_setCore, setCore_setCore]

@[simp] theorem getThread_setThread (k : Core) (t : Nat) (th : Thread) : getThread (setThread k t th) t = th :=
  fget_fset_self ..

@[simp] theorem setThread_setThread (k : Core) (t : Nat) (a b : Thread) :
    setThread (setThread k t a) t b = setThread k t b := by
  simp only [setThread, fset_fset]

@[simp] theorem updThread_updThread (k : Core) (t : Nat) (f g : Thread → Thread) :
    updThread (updThread k t f) t g = updThread k t (fun th => g (f th)) := by
  simp only [updThread, getThread_setThread, setThread_setThread]

@[simp] theorem getThread_updThread (k : Core) (t : Nat) (f : Thread → Thread) :
    getThread (updThread k t f) t = f (getThread k t) := getThread_setThread ..

@[simp] theorem creg_setCreg (k : Core) (o : Nat) (v : Word) : creg (setCreg k o v) o = v := fget_fset_self ..

theorem creg_setCreg_ne (k : Core) (o a : Nat) (v : Word) (h : a ≠ o) : creg (setCreg k o v) a = creg k a :=
  fget_fset_ne _ _ _ _ _ (Ne.symm h)

@[simp] theorem setCreg_setCreg (k : Core) (o : Nat) (v w : Word) : setCreg (setCreg k o v) o w = setCreg k o w := by
  simp only [setCreg, fset_fset]

@[simp] theorem csrGet_csrSet (s : State) (a : Nat) (v : Word) : csrGet (csrSet s a v) a = v := fget_fset_self ..

theorem csrGet_csrSet_ne (s : State) (a b : Nat) (v : Word) (h : b ≠ a) : csrGet (csrSet s a v) b = csrGet s b :=
  fget_fset_ne _ _ _ _ _ (Ne.symm h)

@[simp] theorem csrSet_csrSet (s : State) (a : Nat) (v w : Word) : csrSet (csrSet s a v) a w = csrSet s a w := by
  simp only [csrSet, fset_fset]

@[simp] theorem preg_setPreg (p : Plot) (o : Nat) (v : Word) : preg (setPreg p o v) o = v := fget_fset_self ..

theorem preg_setPreg_ne (p : Plot) (o a : Nat) (v : Word) (h : a ≠ o) : preg (setPreg p o v) a = preg p a :=
  fget_fset_ne _ _ _ _ _ (Ne.symm h)

@[simp] theorem getPlot_setPlot (s : State) (j : Nat) (p : Plot) : getPlot (setPlot s j p) j = p := fget_fset_self ..

theorem getPlot_setPlot_ne (s : State) (j i : Nat) (p : Plot) (h : i ≠ j) : getPlot (setPlot s j p) i = getPlot s i :=
  fget_fset_ne _ _ _ _ _ (Ne.symm h)

@[simp] theorem getPlot_updPlot (s : State) (j : Nat) (f : Plot → Plot) : getPlot (updPlot s j f) j = f (getPlot s j) :=
  getPlot_setPlot ..

@[simp] theorem getPlot_setCore (s : State) (c j : Nat) (k : Core) : getPlot (setCore s c k) j = getPlot s j := rfl

@[simp] theorem getCore_setPlot (s : State) (c j : Nat) (p : Plot) : getCore (setPlot s j p) c = getCore s c := rfl

@[simp] theorem getQueue_setQueue (k : Core) (q : Nat) (v : Queue) : getQueue (setQueue k q v) q = v := fget_fset_self ..

theorem getQueue_setQueue_ne (k : Core) (q r : Nat) (v : Queue) (h : r ≠ q) :
    getQueue (setQueue k q v) r = getQueue k r := fget_fset_ne _ _ _ _ _ (Ne.symm h)

@[simp] theorem ringMsgs_setRing (k : Core) (n : Nat) (l : List RMsg) : ringMsgs (setRing k n l) n = l :=
  fget_fset_self ..

theorem ringMsgs_setRing_ne (k : Core) (n r : Nat) (l : List RMsg) (h : r ≠ n) :
    ringMsgs (setRing k n l) r = ringMsgs k r := fget_fset_ne _ _ _ _ _ (Ne.symm h)

/-! ## Issue -/

/-- The state once the word is fetched: a corrected fetch is counted (R26). -/
theorem issue_effect {s : State} {c t : Nat} {f : Fetch} {fi : Firing} {op : Nat} {g : Guard}
    {legal : BitVec 32 → Bool} {eff : BitVec 32 → Thread → State → Nat → Nat → Done} {w : BitVec 32}
    (ht : t < 4) (hgo : (getCore s c).stopped = false) (hturn : issueTurn (getCore s c) t = true)
    (hfi : (getThread (getCore s c) t).firing = some fi)
    (hw : fget (fun _ => 0#32) (getCore s c).imem (getThread (getCore s c) t).pc.toNat = w)
    (hf : f ≠ .uncorrectable) (hop : fOp w = op) (hl : opListed op = true) (hleg : legal w = true)
    (hg : g = .bit0 → (guardBits (getThread (getCore s c) t) w).getLsbD 0 = true) :
    issue op g legal eff c t f s =
      finish c t fi.task (getThread (getCore s c) t).pc.toNat
        (eff w (getThread (getCore s c) t)
          (if f = .corrected then updCore s c (fun k => { k with imemCE := k.imemCE + 1 }) else s) c t) := by
  have h4 : decide (4 ≤ t) = false := by simp; omega
  unfold issue
  simp only [hfi, hgo, h4, hturn, hw, hop, hl, hleg, Bool.or_false, Bool.false_eq_true, if_false, ne_eq, not_true_eq_false,
    decide_false, Bool.and_false, Bool.not_true, Bool.or_self]
  generalize (guardBits (getThread (getCore s c) t) w).getLsbD 0 = b at hg ⊢
  cases f with
  | uncorrectable => exact absurd rfl hf
  | clean =>
    by_cases hb : g = .bit0
    · simp [hb, hg hb]
    · simp [hb]
  | corrected =>
    by_cases hb : g = .bit0
    · simp [hb, hg hb]
    · simp [hb]

/-- An instruction that is guarded as a whole, under a false guard, only advances the program counter (R46). -/
theorem issue_guard_off {s : State} {c t : Nat} {f : Fetch} {fi : Firing} {op : Nat}
    {legal : BitVec 32 → Bool} {eff : BitVec 32 → Thread → State → Nat → Nat → Done} {w : BitVec 32}
    (ht : t < 4) (hgo : (getCore s c).stopped = false) (hturn : issueTurn (getCore s c) t = true)
    (hfi : (getThread (getCore s c) t).firing = some fi)
    (hw : fget (fun _ => 0#32) (getCore s c).imem (getThread (getCore s c) t).pc.toNat = w)
    (hf : f ≠ .uncorrectable) (hop : fOp w = op) (hl : opListed op = true) (hleg : legal w = true)
    (hg : (guardBits (getThread (getCore s c) t) w).getLsbD 0 = false) :
    issue op .bit0 legal eff c t f s =
      finish c t fi.task (getThread (getCore s c) t).pc.toNat
        (.next (if f = .corrected then updCore s c (fun k => { k with imemCE := k.imemCE + 1 }) else s)) := by
  have h4 : decide (4 ≤ t) = false := by simp; omega
  unfold issue
  simp only [hfi, hgo, h4, hturn, hw, hop, hl, hleg, Bool.or_false, Bool.false_eq_true, if_false, ne_eq, not_true_eq_false,
    decide_false, Bool.and_false, Bool.not_true, Bool.or_self]
  generalize (guardBits (getThread (getCore s c) t) w).getLsbD 0 = b at hg ⊢
  cases f with
  | uncorrectable => exact absurd rfl hf
  | clean => simp [hg]
  | corrected => simp [hg]

/-- A word with a reserved opcode, or with a reserved field set, faults whatever its guard (R47, R548). -/
theorem issue_illegal {s : State} {c t : Nat} {f : Fetch} {fi : Firing} {op : Nat} {g : Guard}
    {legal : BitVec 32 → Bool} {eff : BitVec 32 → Thread → State → Nat → Nat → Done} {w : BitVec 32}
    (ht : t < 4) (hgo : (getCore s c).stopped = false) (hturn : issueTurn (getCore s c) t = true)
    (hfi : (getThread (getCore s c) t).firing = some fi)
    (hw : fget (fun _ => 0#32) (getCore s c).imem (getThread (getCore s c) t).pc.toNat = w)
    (hf : f ≠ .uncorrectable) (hbad : opListed (fOp w) = false ∨ (fOp w = op ∧ legal w = false)) :
    issue op g legal eff c t f s =
      finish c t fi.task (getThread (getCore s c) t).pc.toNat
        (.fault (if f = .corrected then updCore s c (fun k => { k with imemCE := k.imemCE + 1 }) else s) ILLEGAL 0) := by
  have h4 : decide (4 ≤ t) = false := by simp; omega
  unfold issue
  simp only [hfi, hgo, h4, hturn, hw, Bool.or_false, Bool.not_true, Bool.or_self, Bool.false_eq_true, if_false]
  cases f with
  | uncorrectable => exact absurd rfl hf
  | clean => rcases hbad with hb | ⟨h1, h2⟩ <;> simp [*]
  | corrected => rcases hbad with hb | ⟨h1, h2⟩ <;> simp [*]

/-- A fetch with an uncorrectable error faults, whatever the word (R26). -/
theorem issue_fetch_error {s : State} {c t : Nat} {fi : Firing} {op : Nat} {g : Guard}
    {legal : BitVec 32 → Bool} {eff : BitVec 32 → Thread → State → Nat → Nat → Done}
    (ht : t < 4) (hgo : (getCore s c).stopped = false) (hturn : issueTurn (getCore s c) t = true)
    (hfi : (getThread (getCore s c) t).firing = some fi) :
    issue op g legal eff c t .uncorrectable s =
      finish c t fi.task (getThread (getCore s c) t).pc.toNat (.fault s IMEMERR 0) := by
  have h4 : decide (4 ≤ t) = false := by simp; omega
  unfold issue
  simp [hfi, hgo, h4, hturn]

/-- A finished instruction whose effect is a change of its own thread. -/
theorem finish_thread (s : State) (c t task pc : Nat) (g : Thread → Thread) :
    finish c t task pc (.next (thUpd s c t g)) = updCore s c (fun k =>
      { updThread k t (fun th => { g th with pc := (g th).pc + 1#12, cause := 0, issued := (g th).issued + 1 }) with
        lastIssue := t }) := by
  simp [finish, thUpd, markIssued]

end Sys2Proof.Machine
end

