-- ==== Sys2Proof/Laws/Fields.lean ====
section
/-! SUPPORT. Fields of registers: what a field of a block, plot or core register holds after a field of one was written, added
to and stopped at its largest value, or added to and wrapped. -/

namespace Sys2Proof.Machine

theorem csrFld_set_same (s : State) (o hi lo v : Nat) (h : hi < 64) (hl : lo ≤ hi) :
    csrFld (setCsrFld s o hi lo v) o hi lo = v % 2 ^ (hi - lo + 1) := by
  unfold csrFld setCsrFld
  rw [csrGet_csrSet, bits_setBits_same _ _ _ _ h hl]

theorem csrFld_set_apart (s : State) (o hi lo v a b : Nat) (hab : b ≤ a) (hl : lo ≤ hi) (h : a < lo ∨ hi < b) :
    csrFld (setCsrFld s o hi lo v) o a b = csrFld s o a b := by
  unfold csrFld setCsrFld
  rw [csrGet_csrSet, bits_setBits_apart _ _ _ _ _ _ hab hl h]

theorem csrFld_set_ne (s : State) (o p hi lo v a b : Nat) (h : p ≠ o) :
    csrFld (setCsrFld s o hi lo v) p a b = csrFld s p a b := by
  unfold csrFld setCsrFld
  rw [csrGet_csrSet_ne _ _ _ _ h]

theorem csrGet_setFld_ne (s : State) (o p hi lo v : Nat) (h : p ≠ o) : csrGet (setCsrFld s o hi lo v) p = csrGet s p :=
  csrGet_csrSet_ne _ _ _ _ h

theorem csrFld_sat (s : State) (o hi lo n : Nat) (h : hi < 64) (hl : lo ≤ hi) :
    csrFld (satCsrFld s o hi lo n) o hi lo = min (2 ^ (hi - lo + 1) - 1) (csrFld s o hi lo + n) := by
  unfold satCsrFld
  rw [csrFld_set_same _ _ _ _ _ h hl, satAdd, Nat.mod_eq_of_lt]
  have := Nat.two_pow_pos (hi - lo + 1)
  omega

theorem csrFld_wrap (s : State) (o hi lo n : Nat) (h : hi < 64) (hl : lo ≤ hi) :
    csrFld (wrapCsrFld s o hi lo n) o hi lo = (csrFld s o hi lo + n) % 2 ^ (hi - lo + 1) :=
  csrFld_set_same _ _ _ _ _ h hl

theorem csrFld_eq_csr (s u : State) (h : u.csr = s.csr) (o hi lo : Nat) : csrFld u o hi lo = csrFld s o hi lo := by
  unfold csrFld csrGet; rw [h]

theorem csrGet_eq_csr (s u : State) (h : u.csr = s.csr) (o : Nat) : csrGet u o = csrGet s o := by unfold csrGet; rw [h]

theorem pfld_set_same (k : Plot) (o hi lo v : Nat) (h : hi < 64) (hl : lo ≤ hi) :
    pfld (setPfld k o hi lo v) o hi lo = v % 2 ^ (hi - lo + 1) := by
  unfold pfld setPfld
  rw [preg_setPreg, bits_setBits_same _ _ _ _ h hl]

theorem pfld_set_apart (k : Plot) (o hi lo v a b : Nat) (hab : b ≤ a) (hl : lo ≤ hi) (h : a < lo ∨ hi < b) :
    pfld (setPfld k o hi lo v) o a b = pfld k o a b := by
  unfold pfld setPfld
  rw [preg_setPreg, bits_setBits_apart _ _ _ _ _ _ hab hl h]

theorem pfld_set_ne (k : Plot) (o p hi lo v a b : Nat) (h : p ≠ o) :
    pfld (setPfld k o hi lo v) p a b = pfld k p a b := by
  unfold pfld setPfld
  rw [preg_setPreg_ne _ _ _ _ h]

theorem pfld_sat (k : Plot) (o hi lo n : Nat) (h : hi < 64) (hl : lo ≤ hi) :
    pfld (satPfld k o hi lo n) o hi lo = min (2 ^ (hi - lo + 1) - 1) (pfld k o hi lo + n) := by
  unfold satPfld
  rw [pfld_set_same _ _ _ _ _ h hl, satAdd, Nat.mod_eq_of_lt]
  have := Nat.two_pow_pos (hi - lo + 1)
  omega

end Sys2Proof.Machine
end

