-- ==== Sys2Proof/Laws/Sound.lean ====
section
/-! SUPPORT. What every operation keeps: the queue of waiting commands, the ordering code, and the canonical form of the
memories and tables. One lemma for each operation follows in Laws/Keeps*.lean. -/

namespace Sys2Proof.Machine

/-- The queue is `q_`, the ordering code is `k_`, and the tables are canonical. -/
structure Sound (q_ : List Instr) (k_ : Nat) (s : State) : Prop where
  pending : s.pending = q_
  code : s.code = k_
  wf : s.wf

/-- What `Sound` says of a state written out field by field. -/
theorem Sound.lit {q_ : List Instr} {k_ : Nat}
    {x_pending : List Instr}
    {x_free : Nat}
    {x_code : Nat}
    {x_now : Word}
    {x_qcyc : FMap Nat}
    {x_cores : FMap Core}
    {x_plots : FMap Plot}
    {x_csr : FMap Word}
    {x_net : List Packet}
    {x_nextId : Nat}
    {x_arb : FMap Arb}
    {x_place : FMap Nat}
    {x_lost : List Nat}
    {x_notes : List Note}
    {x_swathNow : Nat}
    {x_swA : Nat}
    {x_swT : Nat}
    {x_pairQ : List PairPkt}
    {x_pairTags : List (Nat × Nat × Nat)}
    {x_edgeEpoch : FMap Nat}
    {x_ver0 : RouteVer}
    {x_ver1 : RouteVer}
    {x_chg : RouteChange}
    {x_drains : FMap Drain}
    {x_slices : FMap Slice}
    {x_hbmQ : FMap (List MemJob)}
    {x_cxlQ : FMap (List MemJob)}
    {x_hbm : FMap Byte}
    {x_hbmPoi : FMap Bool}
    {x_hbmErr : FMap Nat}
    {x_hbmRepair : List Nat}
    {x_scrubPos : FMap Nat}
    {x_scrubT : FMap Nat}
    {x_cxl : FMap Byte}
    {x_cxlPoi : FMap Bool}
    {x_gathers : List Gather}
    {x_yports : FMap YPort}
    {x_team0 : TeamVer}
    {x_team1 : TeamVer}
    {x_teamTime : Nat}
    {x_pairTab : FMap PairEntry}
    {x_filter : List Filter}
    {x_inbound : List Inbound}
    {x_muster : Muster}
    {x_outs : List Emit}
    {x_ingress : List HFrame}
    {x_tcs : List Tc}
    {x_hostPaused : FMap Nat}
    {x_pauseSent : FMap Nat}
    {x_hostHeld : List Emit}
    {x_funs : FMap Fun}
    {x_nextSer : Nat}
    {x_ctxIds : FMap Nat}
    {x_digs : List DigRun}
    {x_plotResets : List (Nat × Nat)}
    {x_blockDone : FMap Nat}
    {x_seams : FMap Nat}
    {x_seamCal : FMap SeamCal}
    {x_copies : FMap Nat}
    {x_stw : Steward}
    {x_pins : Pins}
    {x_sec : Sec} :
    Sound q_ k_ (State.mk x_pending x_free x_code x_now x_qcyc x_cores x_plots x_csr x_net x_nextId x_arb x_place x_lost x_notes x_swathNow x_swA x_swT x_pairQ x_pairTags x_edgeEpoch x_ver0 x_ver1 x_chg x_drains x_slices x_hbmQ x_cxlQ x_hbm x_hbmPoi x_hbmErr x_hbmRepair x_scrubPos x_scrubT x_cxl x_cxlPoi x_gathers x_yports x_team0 x_team1 x_teamTime x_pairTab x_filter x_inbound x_muster x_outs x_ingress x_tcs x_hostPaused x_pauseSent x_hostHeld x_funs x_nextSer x_ctxIds x_digs x_plotResets x_blockDone x_seams x_seamCal x_copies x_stw x_pins x_sec) ↔
      x_pending = q_ ∧ x_code = k_ ∧ fwf zeroByte x_hbm = true ∧ fwf noPoi x_hbmPoi = true ∧ fwf zeroByte x_cxl = true ∧
      fwf noPoi x_cxlPoi = true ∧ fwf csrReset x_csr = true ∧ fwf core0 x_cores = true ∧ fwf plot0 x_plots = true ∧
      fwf fun0 x_funs = true ∧ fwf yport0 x_yports = true ∧ fwf slice0 x_slices = true :=
  ⟨fun h => ⟨h.pending, h.code, h.wf.hbm, h.wf.hbmPoi, h.wf.cxl, h.wf.cxlPoi, h.wf.csr, h.wf.cores, h.wf.plots, h.wf.funs,
      h.wf.yports, h.wf.slices⟩,
    fun h => ⟨h.1, h.2.1, h.2.2.1, h.2.2.2.1, h.2.2.2.2.1, h.2.2.2.2.2.1, h.2.2.2.2.2.2.1, h.2.2.2.2.2.2.2.1,
      h.2.2.2.2.2.2.2.2.1, h.2.2.2.2.2.2.2.2.2.1, h.2.2.2.2.2.2.2.2.2.2.1, h.2.2.2.2.2.2.2.2.2.2.2⟩⟩

variable {q_ : List Instr} {k_ : Nat}

theorem Sound.parts {b : State} (h : Sound q_ k_ b) :
    b.pending = q_ ∧ b.code = k_ ∧ fwf zeroByte b.hbm = true ∧ fwf noPoi b.hbmPoi = true ∧ fwf zeroByte b.cxl = true ∧
      fwf noPoi b.cxlPoi = true ∧ fwf csrReset b.csr = true ∧ fwf core0 b.cores = true ∧ fwf plot0 b.plots = true ∧
      fwf fun0 b.funs = true ∧ fwf yport0 b.yports = true ∧ fwf slice0 b.slices = true :=
  ⟨h.pending, h.code, h.wf.hbm, h.wf.hbmPoi, h.wf.cxl, h.wf.cxlPoi, h.wf.csr, h.wf.cores, h.wf.plots, h.wf.funs,
    h.wf.yports, h.wf.slices⟩

theorem Sound.hbm {b : State} (h : Sound q_ k_ b) : fwf zeroByte b.hbm = true := h.wf.hbm
theorem Sound.hbmPoi {b : State} (h : Sound q_ k_ b) : fwf noPoi b.hbmPoi = true := h.wf.hbmPoi
theorem Sound.cxl {b : State} (h : Sound q_ k_ b) : fwf zeroByte b.cxl = true := h.wf.cxl
theorem Sound.cxlPoi {b : State} (h : Sound q_ k_ b) : fwf noPoi b.cxlPoi = true := h.wf.cxlPoi
theorem Sound.csr {b : State} (h : Sound q_ k_ b) : fwf csrReset b.csr = true := h.wf.csr
theorem Sound.cores {b : State} (h : Sound q_ k_ b) : fwf core0 b.cores = true := h.wf.cores
theorem Sound.plots {b : State} (h : Sound q_ k_ b) : fwf plot0 b.plots = true := h.wf.plots
theorem Sound.funs {b : State} (h : Sound q_ k_ b) : fwf fun0 b.funs = true := h.wf.funs
theorem Sound.yports {b : State} (h : Sound q_ k_ b) : fwf yport0 b.yports = true := h.wf.yports
theorem Sound.slices {b : State} (h : Sound q_ k_ b) : fwf slice0 b.slices = true := h.wf.slices

theorem Sound.foldl_wf {α β : Type} [DecidableEq α] {d : Nat → α} {f : FMap α → β → FMap α} {l : List β} {m : FMap α}
    (hm : fwf d m = true) (hf : ∀ m b, fwf d m = true → fwf d (f m b) = true) : fwf d (l.foldl f m) = true := by
  induction l generalizing m with
  | nil => exact hm
  | cons x l ih => exact ih (hf m x hm)

theorem Sound.ite_wf {α : Type} [DecidableEq α] {d : Nat → α} {c : Prop} [Decidable c] {a b : FMap α}
    (ha : fwf d a = true) (hb : fwf d b = true) : fwf d (if c then a else b) = true := by
  split
  · exact ha
  · exact hb

theorem Sound.ite {c : Prop} [Decidable c] {a b : State} (ha : c → Sound q_ k_ a) (hb : ¬c → Sound q_ k_ b) :
    Sound q_ k_ (if c then a else b) := by
  split
  · exact ha (by assumption)
  · exact hb (by assumption)

theorem Sound.foldl {β : Type} {f : State → β → State} {l : List β} {a : State} (ha : Sound q_ k_ a)
    (hf : ∀ a b, Sound q_ k_ a → Sound q_ k_ (f a b)) : Sound q_ k_ (l.foldl f a) := by
  induction l generalizing a with
  | nil => exact ha
  | cons x l ih => exact ih (hf a x ha)

theorem Sound.foldl_fst {β γ : Type} {f : State × γ → β → State × γ} {l : List β} {a : State × γ}
    (ha : Sound q_ k_ a.1) (hf : ∀ a b, Sound q_ k_ a.1 → Sound q_ k_ (f a b).1) : Sound q_ k_ (l.foldl f a).1 := by
  induction l generalizing a with
  | nil => exact ha
  | cons x l ih => exact ih (hf a x ha)

theorem Sound.foldr {β : Type} {f : β → State → State} {l : List β} {a : State} (ha : Sound q_ k_ a)
    (hf : ∀ b a, Sound q_ k_ a → Sound q_ k_ (f b a)) : Sound q_ k_ (l.foldr f a) := by
  induction l with
  | nil => exact ha
  | cons x l ih => exact hf x _ ih

end Sys2Proof.Machine
end

