-- ==== Sys2Proof/Laws/KeepsOps.lean ====
section
/-! SUPPORT. What every operation of Machine/Ops.lean keeps (Laws/Sound.lean). -/

namespace Sys2Proof.Machine

variable {q_ : List Instr} {k_ : Nat}

theorem setCore_sound (s : State) (c : Nat) (k : Core) (h : Sound q_ k_ s) : Sound q_ k_ (setCore s c k) :=
  ⟨h.pending, h.code, { h.wf with cores := fwf_fset _ _ _ _ h.wf.cores }⟩

theorem updCore_sound (s : State) (c : Nat) (f : Core → Core) (hs_ : Sound q_ k_ s) :
    Sound q_ k_ (updCore s c f) := by
  unfold updCore
  try dsimp only
  repeat' (first
    | with_reducible assumption
    | with_reducible apply setCore_sound
    | with_reducible apply Sound.ite
    | with_reducible apply Sound.foldl
    | with_reducible apply Sound.foldl_fst
    | intro _
    | split
    | (simp only [Sound.lit]; with_reducible apply Sound.parts))

theorem setPlot_sound (s : State) (j : Nat) (p : Plot) (h : Sound q_ k_ s) : Sound q_ k_ (setPlot s j p) :=
  ⟨h.pending, h.code, { h.wf with plots := fwf_fset _ _ _ _ h.wf.plots }⟩

theorem updPlot_sound (s : State) (j : Nat) (f : Plot → Plot) (hs_ : Sound q_ k_ s) :
    Sound q_ k_ (updPlot s j f) := by
  unfold updPlot
  try dsimp only
  repeat' (first
    | with_reducible assumption
    | with_reducible apply setPlot_sound
    | with_reducible apply Sound.ite
    | with_reducible apply Sound.foldl
    | with_reducible apply Sound.foldl_fst
    | intro _
    | split
    | (simp only [Sound.lit]; with_reducible apply Sound.parts))

theorem progressMark_sound (s : State) (j : Nat) (hs_ : Sound q_ k_ s) :
    Sound q_ k_ (progressMark s j) := by
  unfold progressMark
  try dsimp only
  repeat' (first
    | with_reducible assumption
    | with_reducible apply updPlot_sound
    | with_reducible apply Sound.ite
    | with_reducible apply Sound.foldl
    | with_reducible apply Sound.foldl_fst
    | intro _
    | split
    | (simp only [Sound.lit]; with_reducible apply Sound.parts))

theorem blockServed_sound (s : State) (b : Nat) (hs_ : Sound q_ k_ s) :
    Sound q_ k_ (blockServed s b) := by
  unfold blockServed
  try dsimp only
  repeat' (first
    | with_reducible assumption
    | with_reducible apply Sound.ite
    | with_reducible apply Sound.foldl
    | with_reducible apply Sound.foldl_fst
    | intro _
    | split
    | (simp only [Sound.lit]; with_reducible apply Sound.parts))

theorem note_sound (s : State) (n : Note) (hs_ : Sound q_ k_ s) :
    Sound q_ k_ (note s n) := by
  unfold note
  try dsimp only
  repeat' (first
    | with_reducible assumption
    | with_reducible apply Sound.ite
    | with_reducible apply Sound.foldl
    | with_reducible apply Sound.foldl_fst
    | intro _
    | split
    | (simp only [Sound.lit]; with_reducible apply Sound.parts))

theorem csrSet_sound (s : State) (a : Nat) (v : Word) (h : Sound q_ k_ s) : Sound q_ k_ (csrSet s a v) :=
  ⟨h.pending, h.code, { h.wf with csr := fwf_fset _ _ _ _ h.wf.csr }⟩

theorem setCsrFld_sound (s : State) (a : Nat) (hi : Nat) (lo : Nat) (v : Nat) (hs_ : Sound q_ k_ s) :
    Sound q_ k_ (setCsrFld s a hi lo v) := by
  unfold setCsrFld
  try dsimp only
  repeat' (first
    | with_reducible assumption
    | with_reducible apply csrSet_sound
    | with_reducible apply Sound.ite
    | with_reducible apply Sound.foldl
    | with_reducible apply Sound.foldl_fst
    | intro _
    | split
    | (simp only [Sound.lit]; with_reducible apply Sound.parts))

theorem satCsrFld_sound (s : State) (a : Nat) (hi : Nat) (lo : Nat) (n : Nat) (hs_ : Sound q_ k_ s) :
    Sound q_ k_ (satCsrFld s a hi lo n) := by
  unfold satCsrFld
  try dsimp only
  repeat' (first
    | with_reducible assumption
    | with_reducible apply setCsrFld_sound
    | with_reducible apply Sound.ite
    | with_reducible apply Sound.foldl
    | with_reducible apply Sound.foldl_fst
    | intro _
    | split
    | (simp only [Sound.lit]; with_reducible apply Sound.parts))

theorem wrapCsrFld_sound (s : State) (a : Nat) (hi : Nat) (lo : Nat) (n : Nat) (hs_ : Sound q_ k_ s) :
    Sound q_ k_ (wrapCsrFld s a hi lo n) := by
  unfold wrapCsrFld
  try dsimp only
  repeat' (first
    | with_reducible assumption
    | with_reducible apply setCsrFld_sound
    | with_reducible apply Sound.ite
    | with_reducible apply Sound.foldl
    | with_reducible apply Sound.foldl_fst
    | intro _
    | split
    | (simp only [Sound.lit]; with_reducible apply Sound.parts))

theorem spdBad_sound (s : State) (c : Nat) (w : Nat) (hs_ : Sound q_ k_ s) :
    Sound q_ k_ (spdBad s c w) := by
  unfold spdBad
  try dsimp only
  repeat' (first
    | with_reducible assumption
    | with_reducible apply note_sound
    | with_reducible apply setCore_sound
    | with_reducible apply Sound.ite
    | with_reducible apply Sound.foldl
    | with_reducible apply Sound.foldl_fst
    | intro _
    | split
    | (simp only [Sound.lit]; with_reducible apply Sound.parts))

theorem spdRead_sound (s : State) (c : Nat) (w : Nat) (hs_ : Sound q_ k_ s) :
    Sound q_ k_ (spdRead s c w).1 := by
  unfold spdRead
  try dsimp only
  repeat' (first
    | with_reducible assumption
    | with_reducible apply spdBad_sound
    | with_reducible apply setCore_sound
    | with_reducible apply Sound.ite
    | with_reducible apply Sound.foldl
    | with_reducible apply Sound.foldl_fst
    | intro _
    | split
    | (simp only [Sound.lit]; with_reducible apply Sound.parts))

theorem spdWrite_sound (s : State) (c : Nat) (w : Nat) (mask : Word) (v : PWord) (hs_ : Sound q_ k_ s) :
    Sound q_ k_ (spdWrite s c w mask v) := by
  unfold spdWrite
  try dsimp only
  repeat' (first
    | with_reducible assumption
    | with_reducible apply updCore_sound
    | with_reducible apply spdRead_sound
    | with_reducible apply Sound.ite
    | with_reducible apply Sound.foldl
    | with_reducible apply Sound.foldl_fst
    | intro _
    | split
    | (simp only [Sound.lit]; with_reducible apply Sound.parts))

theorem padServe_sound (s : State) (c : Nat) (prec : Nat) (hs_ : Sound q_ k_ s) :
    Sound q_ k_ (padServe s c prec) := by
  unfold padServe
  try dsimp only
  repeat' (first
    | with_reducible assumption
    | with_reducible apply updCore_sound
    | with_reducible apply Sound.ite
    | with_reducible apply Sound.foldl
    | with_reducible apply Sound.foldl_fst
    | intro _
    | split
    | (simp only [Sound.lit]; with_reducible apply Sound.parts))

theorem portServe_sound (s : State) (c : Nat) (n : Nat) (hs_ : Sound q_ k_ s) :
    Sound q_ k_ (portServe s c n) := by
  unfold portServe
  try dsimp only
  repeat' (first
    | with_reducible assumption
    | with_reducible apply padServe_sound
    | with_reducible apply updCore_sound
    | with_reducible apply Sound.ite
    | with_reducible apply Sound.foldl
    | with_reducible apply Sound.foldl_fst
    | intro _
    | split
    | (simp only [Sound.lit]; with_reducible apply Sound.parts))

theorem spdReadWords_sound (s : State) (c w n : Nat) (h : Sound q_ k_ s) :
    Sound q_ k_ (spdReadWords s c w n).1 := by
  induction n generalizing s w with
  | zero => exact h
  | succ n ih => exact ih _ _ (spdRead_sound _ _ _ h)

theorem spdWriteWords_sound (s : State) (c w : Nat) (l : List PWord) (h : Sound q_ k_ s) :
    Sound q_ k_ (spdWriteWords s c w l) := by
  induction l generalizing s w with
  | nil => exact h
  | cons v l ih => exact ih _ _ (spdWrite_sound _ _ _ _ _ h)

theorem spdReadIn_sound (s : State) (c : Nat) (a : Nat) (n : Nat) (hs_ : Sound q_ k_ s) :
    Sound q_ k_ (spdReadIn s c a n).1 := by
  unfold spdReadIn
  try dsimp only
  repeat' (first
    | with_reducible assumption
    | with_reducible apply spdRead_sound
    | with_reducible apply Sound.ite
    | with_reducible apply Sound.foldl
    | with_reducible apply Sound.foldl_fst
    | intro _
    | split
    | (simp only [Sound.lit]; with_reducible apply Sound.parts))

theorem spdWriteIn_sound (s : State) (c : Nat) (a : Nat) (n : Nat) (v : PWord) (hs_ : Sound q_ k_ s) :
    Sound q_ k_ (spdWriteIn s c a n v) := by
  unfold spdWriteIn
  try dsimp only
  repeat' (first
    | with_reducible assumption
    | with_reducible apply spdWrite_sound
    | with_reducible apply Sound.ite
    | with_reducible apply Sound.foldl
    | with_reducible apply Sound.foldl_fst
    | intro _
    | split
    | (simp only [Sound.lit]; with_reducible apply Sound.parts))

theorem freeRow_sound (s : State) (c : Nat) (w : Nat) (mask : Nat) (r_ : Nat) (hs_ : Sound q_ k_ s) :
    Sound q_ k_ (freeRow s c w mask r_) := by
  induction r_ generalizing s c w mask with
  | zero => simp only [freeRow]; assumption
  | succ f_ ih =>
    simp only [freeRow]
    repeat' (first
      | with_reducible assumption
      | with_reducible apply ih
      | with_reducible apply spdWrite_sound
      | with_reducible apply Sound.ite
      | with_reducible apply Sound.foldl
      | with_reducible apply Sound.foldl_fst
      | intro _
      | split
      | (simp only [Sound.lit]; with_reducible apply Sound.parts))

theorem freeDrain_sound (m : MatCmd) (c : Nat) (s : State) (r : Nat) (hs_ : Sound q_ k_ s) :
    Sound q_ k_ (freeDrain m c s r) := by
  unfold freeDrain
  try dsimp only
  repeat' (first
    | with_reducible assumption
    | with_reducible apply freeRow_sound
    | with_reducible apply spdWriteIn_sound
    | with_reducible apply spdWrite_sound
    | with_reducible apply Sound.ite
    | with_reducible apply Sound.foldl
    | with_reducible apply Sound.foldl_fst
    | intro _
    | split
    | (simp only [Sound.lit]; with_reducible apply Sound.parts))

theorem abandonMatrix_sound (s : State) (c : Nat) (hs_ : Sound q_ k_ s) :
    Sound q_ k_ (abandonMatrix s c) := by
  unfold abandonMatrix
  try dsimp only
  repeat' (first
    | with_reducible assumption
    | with_reducible apply freeDrain_sound
    | with_reducible apply updCore_sound
    | with_reducible apply Sound.ite
    | with_reducible apply Sound.foldl
    | with_reducible apply Sound.foldl_fst
    | intro _
    | split
    | (simp only [Sound.lit]; with_reducible apply Sound.parts))

theorem threadFault_sound (s : State) (c : Nat) (t : Nat) (task : Nat) (pc : Nat) (code : Nat) (info : Nat) (hs_ : Sound q_ k_ s) :
    Sound q_ k_ (threadFault s c t task pc code info) := by
  unfold threadFault
  try dsimp only
  repeat' (first
    | with_reducible assumption
    | with_reducible apply updCore_sound
    | with_reducible apply note_sound
    | with_reducible apply abandonMatrix_sound
    | with_reducible apply Sound.ite
    | with_reducible apply Sound.foldl
    | with_reducible apply Sound.foldl_fst
    | intro _
    | split
    | (simp only [Sound.lit]; with_reducible apply Sound.parts))

theorem extPush_sound (s : State) (c : Nat) (q : Nat) (e : QEntry) (hs_ : Sound q_ k_ s) :
    Sound q_ k_ (extPush s c q e) := by
  unfold extPush
  try dsimp only
  repeat' (first
    | with_reducible assumption
    | with_reducible apply updCore_sound
    | with_reducible apply spdWriteWords_sound
    | with_reducible apply Sound.ite
    | with_reducible apply Sound.foldl
    | with_reducible apply Sound.foldl_fst
    | intro _
    | split
    | (simp only [Sound.lit]; with_reducible apply Sound.parts))

theorem extPop_sound (s : State) (c : Nat) (q : Nat) (hs_ : Sound q_ k_ s) :
    Sound q_ k_ (extPop s c q).1 := by
  unfold extPop
  try dsimp only
  repeat' (first
    | with_reducible assumption
    | with_reducible apply spdReadWords_sound
    | with_reducible apply updCore_sound
    | with_reducible apply Sound.ite
    | with_reducible apply Sound.foldl
    | with_reducible apply Sound.foldl_fst
    | intro _
    | split
    | (simp only [Sound.lit]; with_reducible apply Sound.parts))

theorem qRead_sound (s : State) (c : Nat) (q : Nat) (hs_ : Sound q_ k_ s) :
    Sound q_ k_ (qRead s c q).1 := by
  unfold qRead
  try dsimp only
  repeat' (first
    | with_reducible assumption
    | with_reducible apply extPop_sound
    | with_reducible apply updCore_sound
    | with_reducible apply setCore_sound
    | with_reducible apply Sound.ite
    | with_reducible apply Sound.foldl
    | with_reducible apply Sound.foldl_fst
    | intro _
    | split
    | (simp only [Sound.lit]; with_reducible apply Sound.parts))

end Sys2Proof.Machine
end

