-- ==== Sys2Proof/Laws/KeepsOperands.lean ====
section
/-! SUPPORT. What every operation of Machine/Operands.lean keeps (Laws/Sound.lean). -/

namespace Sys2Proof.Machine

variable {q_ : List Instr} {k_ : Nat}

/-- What an instruction's effect gives is sound. -/
def DoneSound (q_ : List Instr) (k_ : Nat) : Done → Prop
  | .next s => Sound q_ k_ s
  | .jump s _ => Sound q_ k_ s
  | .fault s _ _ => Sound q_ k_ s
  | .stall s _ => Sound q_ k_ s
  | .ended s => Sound q_ k_ s

theorem finish_sound (c t task pc : Nat) (d : Done) (h : DoneSound q_ k_ d) : Sound q_ k_ (finish c t task pc d) := by
  cases d
  case fault => unfold finish; exact threadFault_sound _ _ _ _ _ _ _ (updCore_sound _ _ _ h)
  all_goals (unfold finish; exact updCore_sound _ _ _ h)

theorem DoneSound.ite {c : Prop} [Decidable c] {a b : Done} (ha : c → DoneSound q_ k_ a) (hb : ¬c → DoneSound q_ k_ b) :
    DoneSound q_ k_ (if c then a else b) := by
  split
  · exact ha (by assumption)
  · exact hb (by assumption)

theorem doneNext_sound {s : State} (h : Sound q_ k_ s) : DoneSound q_ k_ (.next s) := h
theorem doneJump_sound {s : State} {p : BitVec 12} (h : Sound q_ k_ s) : DoneSound q_ k_ (.jump s p) := h
theorem doneFault_sound {s : State} {a b : Nat} (h : Sound q_ k_ s) : DoneSound q_ k_ (.fault s a b) := h
theorem doneStall_sound {s : State} {a : Nat} (h : Sound q_ k_ s) : DoneSound q_ k_ (.stall s a) := h
theorem doneEnded_sound {s : State} (h : Sound q_ k_ s) : DoneSound q_ k_ (.ended s) := h

theorem issue_sound (op : Nat) (g : Guard) (legal : BitVec 32 → Bool)
    (effect : BitVec 32 → Thread → State → Nat → Nat → Done) (c t : Nat) (f : Fetch) (s : State) (h : Sound q_ k_ s)
    (he : ∀ w th s c t, Sound q_ k_ s → DoneSound q_ k_ (effect w th s c t)) :
    Sound q_ k_ (issue op g legal effect c t f s) := by
  unfold issue
  dsimp only
  repeat' (first
    | with_reducible assumption
    | with_reducible apply finish_sound
    | with_reducible apply updCore_sound
    | with_reducible apply doneNext_sound
    | with_reducible apply doneFault_sound
    | with_reducible apply he
    | with_reducible apply Sound.ite
    | intro _
    | split)

theorem thUpd_sound (s : State) (c : Nat) (t : Nat) (f : Thread → Thread) (hs_ : Sound q_ k_ s) :
    Sound q_ k_ (thUpd s c t f) := by
  unfold thUpd
  try dsimp only
  repeat' (first
    | with_reducible assumption
    | with_reducible apply updCore_sound
    | with_reducible apply Sound.ite
    | with_reducible apply Sound.foldl
    | with_reducible apply Sound.foldl_fst
    | intro _
    | split
    | (simp only [Sound.lit]; with_reducible apply Sound.parts))

theorem doneS_sound (s : State) (c : Nat) (t : Nat) (r : Nat) (v : PWord) (hs_ : Sound q_ k_ s) :
    DoneSound q_ k_ (doneS s c t r v) := by
  unfold doneS
  try dsimp only
  repeat' (first
    | with_reducible assumption
    | with_reducible apply thUpd_sound
    | with_reducible apply Sound.ite
    | with_reducible apply DoneSound.ite
    | with_reducible apply doneNext_sound
    | with_reducible apply doneJump_sound
    | with_reducible apply doneFault_sound
    | with_reducible apply doneStall_sound
    | with_reducible apply doneEnded_sound
    | with_reducible apply Sound.foldl
    | with_reducible apply Sound.foldl_fst
    | intro _
    | split
    | (simp only [Sound.lit]; with_reducible apply Sound.parts))

theorem poisoned_sound (s : State) (hs_ : Sound q_ k_ s) :
    DoneSound q_ k_ (poisoned s) := by
  unfold poisoned
  try dsimp only
  repeat' (first
    | with_reducible assumption
    | with_reducible apply Sound.ite
    | with_reducible apply DoneSound.ite
    | with_reducible apply doneNext_sound
    | with_reducible apply doneJump_sound
    | with_reducible apply doneFault_sound
    | with_reducible apply doneStall_sound
    | with_reducible apply doneEnded_sound
    | with_reducible apply Sound.foldl
    | with_reducible apply Sound.foldl_fst
    | intro _
    | split
    | (simp only [Sound.lit]; with_reducible apply Sound.parts))

end Sys2Proof.Machine
end

