-- ==== Sys2Proof/Laws/KeepsQueue.lean ====
section
/-! SUPPORT. What every operation of Machine/Queue.lean keeps (Laws/Sound.lean). -/

namespace Sys2Proof.Machine

variable {q_ : List Instr} {k_ : Nat}

theorem countTake_sound (s : State) (c : Nat) (t : Nat) (i : Nat) (n : Nat) (hs_ : Sound q_ k_ s) :
    Sound q_ k_ (countTake s c t i n) := by
  unfold countTake
  try dsimp only
  repeat' (first
    | with_reducible assumption
    | with_reducible apply thUpd_sound
    | with_reducible apply Sound.ite
    | with_reducible apply Sound.foldl
    | with_reducible apply Sound.foldl_fst
    | intro _
    | split
    | (simp only [Sound.lit]; with_reducible apply Sound.parts))

theorem countPut_sound (s : State) (c : Nat) (t : Nat) (i : Nat) (n : Nat) (hs_ : Sound q_ k_ s) :
    Sound q_ k_ (countPut s c t i n) := by
  unfold countPut
  try dsimp only
  repeat' (first
    | with_reducible assumption
    | with_reducible apply thUpd_sound
    | with_reducible apply Sound.ite
    | with_reducible apply Sound.foldl
    | with_reducible apply Sound.foldl_fst
    | intro _
    | split
    | (simp only [Sound.lit]; with_reducible apply Sound.parts))

theorem deliver_sound (s : State) (c : Nat) (t : Nat) (mode : Nat) (d : Nat) (addr : Word) (e : QEntry) (hs_ : Sound q_ k_ s) :
    Sound q_ k_ (deliver s c t mode d addr e) := by
  unfold deliver
  try dsimp only
  repeat' (first
    | with_reducible assumption
    | with_reducible apply thUpd_sound
    | with_reducible apply spdWriteWords_sound
    | with_reducible apply portServe_sound
    | with_reducible apply Sound.ite
    | with_reducible apply Sound.foldl
    | with_reducible apply Sound.foldl_fst
    | intro _
    | split
    | (simp only [Sound.lit]; with_reducible apply Sound.parts))

theorem takeEffect_sound (w : BitVec 32) (th : Thread) (s : State) (c : Nat) (t : Nat) (hs_ : Sound q_ k_ s) :
    DoneSound q_ k_ (takeEffect w th s c t) := by
  unfold takeEffect
  try dsimp only
  repeat' (first
    | with_reducible assumption
    | with_reducible apply poisoned_sound
    | with_reducible apply qRead_sound
    | with_reducible apply countTake_sound
    | with_reducible apply deliver_sound
    | with_reducible apply Sound.ite
    | with_reducible apply DoneSound.ite
    | with_reducible apply doneNext_sound
    | with_reducible apply doneJump_sound
    | with_reducible apply doneFault_sound
    | with_reducible apply doneStall_sound
    | with_reducible apply doneEnded_sound
    | with_reducible apply Sound.foldl
    | with_reducible apply Sound.foldl_fst
    | intro _
    | split
    | (simp only [Sound.lit]; with_reducible apply Sound.parts))

theorem putSource_sound (s : State) (c : Nat) (mode : Nat) (th : Thread) (d : Nat) (hs_ : Sound q_ k_ s) :
    Sound q_ k_ (putSource s c mode th d).1 := by
  unfold putSource
  try dsimp only
  repeat' (first
    | with_reducible assumption
    | with_reducible apply spdReadWords_sound
    | with_reducible apply portServe_sound
    | with_reducible apply Sound.ite
    | with_reducible apply Sound.foldl
    | with_reducible apply Sound.foldl_fst
    | intro _
    | split
    | (simp only [Sound.lit]; with_reducible apply Sound.parts))

theorem putEffect_sound (w : BitVec 32) (th : Thread) (s : State) (c : Nat) (t : Nat) (hs_ : Sound q_ k_ s) :
    DoneSound q_ k_ (putEffect w th s c t) := by
  unfold putEffect
  try dsimp only
  repeat' (first
    | with_reducible assumption
    | with_reducible apply poisoned_sound
    | with_reducible apply putSource_sound
    | with_reducible apply countPut_sound
    | with_reducible apply updCore_sound
    | with_reducible apply Sound.ite
    | with_reducible apply DoneSound.ite
    | with_reducible apply doneNext_sound
    | with_reducible apply doneJump_sound
    | with_reducible apply doneFault_sound
    | with_reducible apply doneStall_sound
    | with_reducible apply doneEnded_sound
    | with_reducible apply Sound.foldl
    | with_reducible apply Sound.foldl_fst
    | intro _
    | split
    | (simp only [Sound.lit]; with_reducible apply Sound.parts))

theorem qcntEffect_sound (w : BitVec 32) (u1_ : Thread) (s : State) (c : Nat) (t : Nat) (hs_ : Sound q_ k_ s) :
    DoneSound q_ k_ (qcntEffect w u1_ s c t) := by
  unfold qcntEffect
  try dsimp only
  repeat' (first
    | with_reducible assumption
    | with_reducible apply doneS_sound
    | with_reducible apply Sound.ite
    | with_reducible apply DoneSound.ite
    | with_reducible apply doneNext_sound
    | with_reducible apply doneJump_sound
    | with_reducible apply doneFault_sound
    | with_reducible apply doneStall_sound
    | with_reducible apply doneEnded_sound
    | with_reducible apply Sound.foldl
    | with_reducible apply Sound.foldl_fst
    | intro _
    | split
    | (simp only [Sound.lit]; with_reducible apply Sound.parts))

theorem setChosen_sound (s : State) (c : Nat) (t : Nat) (v : Option (Bool × Nat)) (hs_ : Sound q_ k_ s) :
    Sound q_ k_ (setChosen s c t v) := by
  unfold setChosen
  try dsimp only
  repeat' (first
    | with_reducible assumption
    | with_reducible apply thUpd_sound
    | with_reducible apply Sound.ite
    | with_reducible apply Sound.foldl
    | with_reducible apply Sound.foldl_fst
    | intro _
    | split
    | (simp only [Sound.lit]; with_reducible apply Sound.parts))

theorem chooseMoves_sound (s : State) (c : Nat) (t : Nat) (qKeep : Nat) (qDrop : Nat) (qo : Nat) (m : Nat) (r_ : Nat) (hs_ : Sound q_ k_ s) :
    Sound q_ k_ (chooseMoves s c t qKeep qDrop qo m r_).1 := by
  induction r_ generalizing s c t qKeep qDrop qo m with
  | zero => simp only [chooseMoves]; assumption
  | succ f_ ih =>
    simp only [chooseMoves]
    repeat' (first
      | with_reducible assumption
      | with_reducible apply ih
      | with_reducible apply qRead_sound
      | with_reducible apply updCore_sound
      | with_reducible apply countPut_sound
      | with_reducible apply countTake_sound
      | with_reducible apply Sound.ite
      | with_reducible apply Sound.foldl
      | with_reducible apply Sound.foldl_fst
      | intro _
      | split
      | (simp only [Sound.lit]; with_reducible apply Sound.parts))

theorem chooseGo_sound (w : BitVec 32) (s : State) (c : Nat) (t : Nat) (m : Nat) (n : Nat) (tok : Bool) (hs_ : Sound q_ k_ s) :
    DoneSound q_ k_ (chooseGo w s c t m n tok) := by
  unfold chooseGo
  try dsimp only
  repeat' (first
    | with_reducible assumption
    | with_reducible apply chooseMoves_sound
    | with_reducible apply setChosen_sound
    | with_reducible apply Sound.ite
    | with_reducible apply DoneSound.ite
    | with_reducible apply doneNext_sound
    | with_reducible apply doneJump_sound
    | with_reducible apply doneFault_sound
    | with_reducible apply doneStall_sound
    | with_reducible apply doneEnded_sound
    | with_reducible apply Sound.foldl
    | with_reducible apply Sound.foldl_fst
    | intro _
    | split
    | (simp only [Sound.lit]; with_reducible apply Sound.parts))

theorem chooseEffect_sound (w : BitVec 32) (th : Thread) (s : State) (c : Nat) (t : Nat) (hs_ : Sound q_ k_ s) :
    DoneSound q_ k_ (chooseEffect w th s c t) := by
  unfold chooseEffect
  try dsimp only
  repeat' (first
    | with_reducible assumption
    | with_reducible apply chooseGo_sound
    | with_reducible apply qRead_sound
    | with_reducible apply countTake_sound
    | with_reducible apply poisoned_sound
    | with_reducible apply Sound.ite
    | with_reducible apply DoneSound.ite
    | with_reducible apply doneNext_sound
    | with_reducible apply doneJump_sound
    | with_reducible apply doneFault_sound
    | with_reducible apply doneStall_sound
    | with_reducible apply doneEnded_sound
    | with_reducible apply Sound.foldl
    | with_reducible apply Sound.foldl_fst
    | intro _
    | split
    | (simp only [Sound.lit]; with_reducible apply Sound.parts))

end Sys2Proof.Machine
end

