-- ==== Sys2Proof/Laws/KeepsTeam.lean ====
section
/-! SUPPORT. What every operation of Machine/Team.lean keeps (Laws/Sound.lean). -/

namespace Sys2Proof.Machine

variable {q_ : List Instr} {k_ : Nat}

theorem setPort_sound (s : State) (p : Nat) (v : YPort) (h : Sound q_ k_ s) : Sound q_ k_ (setPort s p v) :=
  ⟨h.pending, h.code, { h.wf with yports := fwf_fset _ _ _ _ h.wf.yports }⟩

theorem updPort_sound (s : State) (p : Nat) (f : YPort → YPort) (hs_ : Sound q_ k_ s) :
    Sound q_ k_ (updPort s p f) := by
  unfold updPort
  try dsimp only
  repeat' (first
    | with_reducible assumption
    | with_reducible apply setPort_sound
    | with_reducible apply Sound.ite
    | with_reducible apply Sound.foldl
    | with_reducible apply Sound.foldl_fst
    | intro _
    | split
    | (simp only [Sound.lit]; with_reducible apply Sound.parts))

end Sys2Proof.Machine
end

