-- ==== Sys2Proof/Laws/KeepsNet.lean ====
section
/-! SUPPORT. What every operation of Machine/Net.lean keeps (Laws/Sound.lean). -/

namespace Sys2Proof.Machine

variable {q_ : List Instr} {k_ : Nat}

theorem setVer_sound (s : State) (e : Nat) (v : RouteVer) (hs_ : Sound q_ k_ s) :
    Sound q_ k_ (setVer s e v) := by
  unfold setVer
  try dsimp only
  repeat' (first
    | with_reducible assumption
    | with_reducible apply Sound.ite
    | with_reducible apply Sound.foldl
    | with_reducible apply Sound.foldl_fst
    | intro _
    | split
    | (simp only [Sound.lit]; with_reducible apply Sound.parts))

theorem putPacket_sound (s : State) (x : Nat) (p : Packet) (hs_ : Sound q_ k_ s) :
    Sound q_ k_ (putPacket s x p) := by
  unfold putPacket
  try dsimp only
  repeat' (first
    | with_reducible assumption
    | with_reducible apply Sound.ite
    | with_reducible apply Sound.foldl
    | with_reducible apply Sound.foldl_fst
    | intro _
    | split
    | (simp only [Sound.lit]; with_reducible apply Sound.parts))

theorem injectEdge_sound (s : State) (e : Nat) (p : Packet) (hs_ : Sound q_ k_ s) :
    Sound q_ k_ (injectEdge s e p) := by
  unfold injectEdge
  try dsimp only
  repeat' (first
    | with_reducible assumption
    | with_reducible apply putPacket_sound
    | with_reducible apply Sound.ite
    | with_reducible apply Sound.foldl
    | with_reducible apply Sound.foldl_fst
    | intro _
    | split
    | (simp only [Sound.lit]; with_reducible apply Sound.parts))

theorem dropPkt_sound (s : State) (id : Nat) (hs_ : Sound q_ k_ s) :
    Sound q_ k_ (dropPkt s id) := by
  unfold dropPkt
  try dsimp only
  repeat' (first
    | with_reducible assumption
    | with_reducible apply Sound.ite
    | with_reducible apply Sound.foldl
    | with_reducible apply Sound.foldl_fst
    | intro _
    | split
    | (simp only [Sound.lit]; with_reducible apply Sound.parts))

theorem fillAnswer_sound (s : State) (id : Nat) (status : Nat) (ws : List PWord) (hs_ : Sound q_ k_ s) :
    Sound q_ k_ (fillAnswer s id status ws) := by
  unfold fillAnswer
  try dsimp only
  repeat' (first
    | with_reducible assumption
    | with_reducible apply Sound.ite
    | with_reducible apply Sound.foldl
    | with_reducible apply Sound.foldl_fst
    | intro _
    | split
    | (simp only [Sound.lit]; with_reducible apply Sound.parts)
    | with_reducible apply fwf_fset
    | with_reducible apply fwf_fupd
    | with_reducible apply wrLE_wf
    | with_reducible apply wrBytes_wf
    | with_reducible apply fwf_filter
    | with_reducible apply fwf_ferase
    | with_reducible apply fwf_nil
    | with_reducible apply Sound.foldl_wf
    | with_reducible apply Sound.ite_wf
    | with_reducible apply Sound.pending (q_ := q_) (k_ := k_)
    | with_reducible apply Sound.code (q_ := q_) (k_ := k_)
    | with_reducible apply Sound.hbm (q_ := q_) (k_ := k_)
    | with_reducible apply Sound.hbmPoi (q_ := q_) (k_ := k_)
    | with_reducible apply Sound.cxl (q_ := q_) (k_ := k_)
    | with_reducible apply Sound.cxlPoi (q_ := q_) (k_ := k_)
    | with_reducible apply Sound.csr (q_ := q_) (k_ := k_)
    | with_reducible apply Sound.cores (q_ := q_) (k_ := k_)
    | with_reducible apply Sound.plots (q_ := q_) (k_ := k_)
    | with_reducible apply Sound.funs (q_ := q_) (k_ := k_)
    | with_reducible apply Sound.yports (q_ := q_) (k_ := k_)
    | with_reducible apply Sound.slices (q_ := q_) (k_ := k_)
    | (simp only [Sound.lit]; refine ⟨?_, ?_, ?_, ?_, ?_, ?_, ?_, ?_, ?_, ?_, ?_, ?_⟩))

theorem injectAt_sound (s : State) (j : Nat) (p : Packet) (hs_ : Sound q_ k_ s) :
    Sound q_ k_ (injectAt s j p) := by
  unfold injectAt
  try dsimp only
  repeat' (first
    | with_reducible assumption
    | with_reducible apply putPacket_sound
    | with_reducible apply Sound.ite
    | with_reducible apply Sound.foldl
    | with_reducible apply Sound.foldl_fst
    | intro _
    | split
    | (simp only [Sound.lit]; with_reducible apply Sound.parts))

theorem injectCore_sound (s : State) (c : Nat) (p : Packet) (hs_ : Sound q_ k_ s) :
    Sound q_ k_ (injectCore s c p) := by
  unfold injectCore
  try dsimp only
  repeat' (first
    | with_reducible assumption
    | with_reducible apply injectAt_sound
    | with_reducible apply Sound.ite
    | with_reducible apply Sound.foldl
    | with_reducible apply Sound.foldl_fst
    | intro _
    | split
    | (simp only [Sound.lit]; with_reducible apply Sound.parts))

theorem hdrDrop_sound (s : State) (x : Nat) (id : Nat) (hs_ : Sound q_ k_ s) :
    Sound q_ k_ (hdrDrop s x id) := by
  unfold hdrDrop
  try dsimp only
  repeat' (first
    | with_reducible assumption
    | with_reducible apply dropPkt_sound
    | with_reducible apply note_sound
    | with_reducible apply updPlot_sound
    | with_reducible apply Sound.ite
    | with_reducible apply Sound.foldl
    | with_reducible apply Sound.foldl_fst
    | intro _
    | split
    | (simp only [Sound.lit]; with_reducible apply Sound.parts))

end Sys2Proof.Machine
end

