-- ==== Sys2Proof/Laws/KeepsSheaf.lean ====
section
/-! SUPPORT. What every operation of Machine/Sheaf.lean keeps (Laws/Sound.lean). -/

namespace Sys2Proof.Machine

variable {q_ : List Instr} {k_ : Nat}

theorem setNode_sound (s : State) (j : Nat) (n : Nat) (v : ShNode) (hs_ : Sound q_ k_ s) :
    Sound q_ k_ (setNode s j n v) := by
  unfold setNode
  try dsimp only
  repeat' (first
    | with_reducible assumption
    | with_reducible apply updPlot_sound
    | with_reducible apply Sound.ite
    | with_reducible apply Sound.foldl
    | with_reducible apply Sound.foldl_fst
    | intro _
    | split
    | (simp only [Sound.lit]; with_reducible apply Sound.parts))

theorem countMismatch_sound (s : State) (j : Nat) (hs_ : Sound q_ k_ s) :
    Sound q_ k_ (countMismatch s j) := by
  unfold countMismatch
  try dsimp only
  repeat' (first
    | with_reducible assumption
    | with_reducible apply updPlot_sound
    | with_reducible apply Sound.ite
    | with_reducible apply Sound.foldl
    | with_reducible apply Sound.foldl_fst
    | intro _
    | split
    | (simp only [Sound.lit]; with_reducible apply Sound.parts))

theorem sheafEffect_sound (w : BitVec 32) (th : Thread) (s : State) (c : Nat) (t : Nat) (hs_ : Sound q_ k_ s) :
    DoneSound q_ k_ (sheafEffect w th s c t) := by
  unfold sheafEffect
  try dsimp only
  repeat' (first
    | with_reducible assumption
    | with_reducible apply poisoned_sound
    | with_reducible apply spdReadWords_sound
    | with_reducible apply padServe_sound
    | with_reducible apply updCore_sound
    | with_reducible apply injectCore_sound
    | with_reducible apply Sound.ite
    | with_reducible apply DoneSound.ite
    | with_reducible apply doneNext_sound
    | with_reducible apply doneJump_sound
    | with_reducible apply doneFault_sound
    | with_reducible apply doneStall_sound
    | with_reducible apply doneEnded_sound
    | with_reducible apply Sound.foldl
    | with_reducible apply Sound.foldl_fst
    | intro _
    | split
    | (simp only [Sound.lit]; with_reducible apply Sound.parts))

theorem doneToCore_sound (s : State) (j : Nat) (id : Nat) (round : Nat) (dev : Nat) (core : Nat) (w1 : Word) (yk : Nat) (hs_ : Sound q_ k_ s) :
    Sound q_ k_ (doneToCore s j id round dev core w1 yk) := by
  unfold doneToCore
  try dsimp only
  repeat' (first
    | with_reducible assumption
    | with_reducible apply injectAt_sound
    | with_reducible apply Sound.ite
    | with_reducible apply Sound.foldl
    | with_reducible apply Sound.foldl_fst
    | intro _
    | split
    | (simp only [Sound.lit]; with_reducible apply Sound.parts))

theorem doneToPlot_sound (s : State) (j : Nat) (id : Nat) (round : Nat) (child : Nat) (w1 : Word) (hs_ : Sound q_ k_ s) :
    Sound q_ k_ (doneToPlot s j id round child w1) := by
  unfold doneToPlot
  try dsimp only
  repeat' (first
    | with_reducible assumption
    | with_reducible apply injectAt_sound
    | with_reducible apply Sound.ite
    | with_reducible apply Sound.foldl
    | with_reducible apply Sound.foldl_fst
    | intro _
    | split
    | (simp only [Sound.lit]; with_reducible apply Sound.parts))

theorem passDone_sound (s : State) (j : Nat) (n : Nat) (id : Nat) (round : Nat) (w1 : Word) (hs_ : Sound q_ k_ s) :
    Sound q_ k_ (passDone s j n id round w1) := by
  unfold passDone
  try dsimp only
  repeat' (first
    | with_reducible assumption
    | with_reducible apply doneToPlot_sound
    | with_reducible apply doneToCore_sound
    | with_reducible apply Sound.ite
    | with_reducible apply Sound.foldl
    | with_reducible apply Sound.foldl_fst
    | intro _
    | split
    | (simp only [Sound.lit]; with_reducible apply Sound.parts))

theorem rootFinish_sound (s : State) (j : Nat) (n : Nat) (round : Nat) (hs_ : Sound q_ k_ s) :
    Sound q_ k_ (rootFinish s j n round) := by
  unfold rootFinish
  try dsimp only
  repeat' (first
    | with_reducible assumption
    | with_reducible apply setNode_sound
    | with_reducible apply passDone_sound
    | with_reducible apply doneToCore_sound
    | with_reducible apply Sound.ite
    | with_reducible apply Sound.foldl
    | with_reducible apply Sound.foldl_fst
    | intro _
    | split
    | (simp only [Sound.lit]; with_reducible apply Sound.parts))

theorem undelivered_sound (s : State) (j : Nat) (n : Nat) (round : Nat) (hs_ : Sound q_ k_ s) :
    Sound q_ k_ (undelivered s j n round) := by
  unfold undelivered
  try dsimp only
  repeat' (first
    | with_reducible assumption
    | with_reducible apply rootFinish_sound
    | with_reducible apply updPlot_sound
    | with_reducible apply Sound.ite
    | with_reducible apply Sound.foldl
    | with_reducible apply Sound.foldl_fst
    | intro _
    | split
    | (simp only [Sound.lit]; with_reducible apply Sound.parts))

theorem completeRound_sound (s : State) (j : Nat) (n : Nat) (x : ShRound) (hs_ : Sound q_ k_ s) :
    Sound q_ k_ (completeRound s j n x) := by
  unfold completeRound
  try dsimp only
  repeat' (first
    | with_reducible assumption
    | with_reducible apply updPlot_sound
    | with_reducible apply setNode_sound
    | with_reducible apply rootFinish_sound
    | with_reducible apply undelivered_sound
    | with_reducible apply injectAt_sound
    | with_reducible apply Sound.ite
    | with_reducible apply Sound.foldl
    | with_reducible apply Sound.foldl_fst
    | intro _
    | split
    | (simp only [Sound.lit]; with_reducible apply Sound.parts))

theorem addPart_sound (s : State) (j : Nat) (n : Nat) (x : ShRound) (p : ShPart) (hs_ : Sound q_ k_ s) :
    Sound q_ k_ (addPart s j n x p).1 := by
  unfold addPart
  try dsimp only
  repeat' (first
    | with_reducible assumption
    | with_reducible apply countMismatch_sound
    | with_reducible apply Sound.ite
    | with_reducible apply Sound.foldl
    | with_reducible apply Sound.foldl_fst
    | intro _
    | split
    | (simp only [Sound.lit]; with_reducible apply Sound.parts))

theorem rejectRound_sound (s : State) (j : Nat) (p : Packet) (hs_ : Sound q_ k_ s) :
    Sound q_ k_ (rejectRound s j p) := by
  unfold rejectRound
  try dsimp only
  repeat' (first
    | with_reducible assumption
    | with_reducible apply countMismatch_sound
    | with_reducible apply doneToCore_sound
    | with_reducible apply Sound.ite
    | with_reducible apply Sound.foldl
    | with_reducible apply Sound.foldl_fst
    | intro _
    | split
    | (simp only [Sound.lit]; with_reducible apply Sound.parts))

theorem sheafArrive_sound (s : State) (j : Nat) (n : Nat) (p : Packet) (hs_ : Sound q_ k_ s) :
    Sound q_ k_ (sheafArrive s j n p) := by
  unfold sheafArrive
  try dsimp only
  repeat' (first
    | with_reducible assumption
    | with_reducible apply dropPkt_sound
    | with_reducible apply rejectRound_sound
    | with_reducible apply addPart_sound
    | with_reducible apply setNode_sound
    | with_reducible apply completeRound_sound
    | with_reducible apply Sound.ite
    | with_reducible apply Sound.foldl
    | with_reducible apply Sound.foldl_fst
    | intro _
    | split
    | (simp only [Sound.lit]; with_reducible apply Sound.parts))

theorem sheafPacketStep_sound (id : Nat) (s : State) (hs_ : Sound q_ k_ s) :
    Sound q_ k_ (sheafPacketStep id s) := by
  unfold sheafPacketStep
  try dsimp only
  repeat' (first
    | with_reducible assumption
    | with_reducible apply sheafArrive_sound
    | with_reducible apply Sound.ite
    | with_reducible apply Sound.foldl
    | with_reducible apply Sound.foldl_fst
    | intro _
    | split
    | (simp only [Sound.lit]; with_reducible apply Sound.parts))

theorem combineExpire_sound (j : Nat) (n : Nat) (round : Nat) (s : State) (hs_ : Sound q_ k_ s) :
    Sound q_ k_ (combineExpire j n round s) := by
  unfold combineExpire
  try dsimp only
  repeat' (first
    | with_reducible assumption
    | with_reducible apply setNode_sound
    | with_reducible apply injectAt_sound
    | with_reducible apply Sound.ite
    | with_reducible apply Sound.foldl
    | with_reducible apply Sound.foldl_fst
    | intro _
    | split
    | (simp only [Sound.lit]; with_reducible apply Sound.parts))

theorem coreSheafDone_sound (s : State) (c : Nat) (dev : Nat) (id : Nat) (round : Nat) (hs_ : Sound q_ k_ s) :
    Sound q_ k_ (coreSheafDone s c dev id round) := by
  unfold coreSheafDone
  try dsimp only
  repeat' (first
    | with_reducible assumption
    | with_reducible apply updCore_sound
    | with_reducible apply Sound.ite
    | with_reducible apply Sound.foldl
    | with_reducible apply Sound.foldl_fst
    | intro _
    | split
    | (simp only [Sound.lit]; with_reducible apply Sound.parts))

theorem staleResp_sound (s : State) (c : Nat) (hs_ : Sound q_ k_ s) :
    Sound q_ k_ (staleResp s c) := by
  unfold staleResp
  try dsimp only
  repeat' (first
    | with_reducible assumption
    | with_reducible apply satCsrFld_sound
    | with_reducible apply Sound.ite
    | with_reducible apply Sound.foldl
    | with_reducible apply Sound.foldl_fst
    | intro _
    | split
    | (simp only [Sound.lit]; with_reducible apply Sound.parts))

theorem sheafDoneStep_sound (id : Nat) (s : State) (hs_ : Sound q_ k_ s) :
    Sound q_ k_ (sheafDoneStep id s) := by
  unfold sheafDoneStep
  try dsimp only
  repeat' (first
    | with_reducible assumption
    | with_reducible apply dropPkt_sound
    | with_reducible apply coreSheafDone_sound
    | with_reducible apply staleResp_sound
    | with_reducible apply setNode_sound
    | with_reducible apply passDone_sound
    | with_reducible apply Sound.ite
    | with_reducible apply Sound.foldl
    | with_reducible apply Sound.foldl_fst
    | intro _
    | split
    | (simp only [Sound.lit]; with_reducible apply Sound.parts))

theorem abandonRounds_sound (s : State) (js : List Nat) (hs_ : Sound q_ k_ s) :
    Sound q_ k_ (abandonRounds s js) := by
  unfold abandonRounds
  try dsimp only
  repeat' (first
    | with_reducible assumption
    | with_reducible apply updPlot_sound
    | with_reducible apply setNode_sound
    | with_reducible apply Sound.ite
    | with_reducible apply Sound.foldl
    | with_reducible apply Sound.foldl_fst
    | intro _
    | split
    | (simp only [Sound.lit]; with_reducible apply Sound.parts))

theorem clearNodes_sound (s : State) (j : Nat) (keep : Nat → Bool) (hs_ : Sound q_ k_ s) :
    Sound q_ k_ (clearNodes s j keep) := by
  unfold clearNodes
  try dsimp only
  repeat' (first
    | with_reducible assumption
    | with_reducible apply updPlot_sound
    | with_reducible apply setNode_sound
    | with_reducible apply Sound.ite
    | with_reducible apply Sound.foldl
    | with_reducible apply Sound.foldl_fst
    | intro _
    | split
    | (simp only [Sound.lit]; with_reducible apply Sound.parts))

end Sys2Proof.Machine
end

