-- ==== Sys2Proof/Laws/KeepsMessage.lean ====
section
/-! SUPPORT. What every operation of Machine/Message.lean keeps (Laws/Sound.lean). -/

namespace Sys2Proof.Machine

variable {q_ : List Instr} {k_ : Nat}

theorem selectEffect_sound (w : BitVec 32) (th : Thread) (s : State) (c : Nat) (t : Nat) (hs_ : Sound q_ k_ s) :
    DoneSound q_ k_ (selectEffect w th s c t) := by
  unfold selectEffect
  try dsimp only
  repeat' (first
    | with_reducible assumption
    | with_reducible apply poisoned_sound
    | with_reducible apply doneS_sound
    | with_reducible apply countTake_sound
    | with_reducible apply updCore_sound
    | with_reducible apply thUpd_sound
    | with_reducible apply Sound.ite
    | with_reducible apply DoneSound.ite
    | with_reducible apply doneNext_sound
    | with_reducible apply doneJump_sound
    | with_reducible apply doneFault_sound
    | with_reducible apply doneStall_sound
    | with_reducible apply doneEnded_sound
    | with_reducible apply Sound.foldl
    | with_reducible apply Sound.foldl_fst
    | intro _
    | split
    | (simp only [Sound.lit]; with_reducible apply Sound.parts))

theorem retireEffect_sound (w : BitVec 32) (th : Thread) (s : State) (c : Nat) (u4_ : Nat) (hs_ : Sound q_ k_ s) :
    DoneSound q_ k_ (retireEffect w th s c u4_) := by
  unfold retireEffect
  try dsimp only
  repeat' (first
    | with_reducible assumption
    | with_reducible apply poisoned_sound
    | with_reducible apply updCore_sound
    | with_reducible apply Sound.ite
    | with_reducible apply DoneSound.ite
    | with_reducible apply doneNext_sound
    | with_reducible apply doneJump_sound
    | with_reducible apply doneFault_sound
    | with_reducible apply doneStall_sound
    | with_reducible apply doneEnded_sound
    | with_reducible apply Sound.foldl
    | with_reducible apply Sound.foldl_fst
    | intro _
    | split
    | (simp only [Sound.lit]; with_reducible apply Sound.parts))

theorem ropenEffect_sound (w : BitVec 32) (th : Thread) (s : State) (c : Nat) (u4_ : Nat) (hs_ : Sound q_ k_ s) :
    DoneSound q_ k_ (ropenEffect w th s c u4_) := by
  unfold ropenEffect
  try dsimp only
  repeat' (first
    | with_reducible assumption
    | with_reducible apply poisoned_sound
    | with_reducible apply setCore_sound
    | with_reducible apply Sound.ite
    | with_reducible apply DoneSound.ite
    | with_reducible apply doneNext_sound
    | with_reducible apply doneJump_sound
    | with_reducible apply doneFault_sound
    | with_reducible apply doneStall_sound
    | with_reducible apply doneEnded_sound
    | with_reducible apply Sound.foldl
    | with_reducible apply Sound.foldl_fst
    | intro _
    | split
    | (simp only [Sound.lit]; with_reducible apply Sound.parts))

theorem rcloseEffect_sound (w : BitVec 32) (th : Thread) (s : State) (c : Nat) (u4_ : Nat) (hs_ : Sound q_ k_ s) :
    DoneSound q_ k_ (rcloseEffect w th s c u4_) := by
  unfold rcloseEffect
  try dsimp only
  repeat' (first
    | with_reducible assumption
    | with_reducible apply poisoned_sound
    | with_reducible apply setCore_sound
    | with_reducible apply Sound.ite
    | with_reducible apply DoneSound.ite
    | with_reducible apply doneNext_sound
    | with_reducible apply doneJump_sound
    | with_reducible apply doneFault_sound
    | with_reducible apply doneStall_sound
    | with_reducible apply doneEnded_sound
    | with_reducible apply Sound.foldl
    | with_reducible apply Sound.foldl_fst
    | intro _
    | split
    | (simp only [Sound.lit]; with_reducible apply Sound.parts))

theorem sendEffect_sound (w : BitVec 32) (th : Thread) (s : State) (c : Nat) (t : Nat) (hs_ : Sound q_ k_ s) :
    DoneSound q_ k_ (sendEffect w th s c t) := by
  unfold sendEffect
  try dsimp only
  repeat' (first
    | with_reducible assumption
    | with_reducible apply poisoned_sound
    | with_reducible apply updCore_sound
    | with_reducible apply spdReadWords_sound
    | with_reducible apply portServe_sound
    | with_reducible apply injectCore_sound
    | with_reducible apply Sound.ite
    | with_reducible apply DoneSound.ite
    | with_reducible apply doneNext_sound
    | with_reducible apply doneJump_sound
    | with_reducible apply doneFault_sound
    | with_reducible apply doneStall_sound
    | with_reducible apply doneEnded_sound
    | with_reducible apply Sound.foldl
    | with_reducible apply Sound.foldl_fst
    | intro _
    | split
    | (simp only [Sound.lit]; with_reducible apply Sound.parts))

theorem ackSend_sound (s : State) (c : Nat) (thread : Nat) (dev : Nat) (core : Nat) (ring : Nat) (oseq : Nat) (serial : Bool) (hs_ : Sound q_ k_ s) :
    Sound q_ k_ (ackSend s c thread dev core ring oseq serial) := by
  unfold ackSend
  try dsimp only
  repeat' (first
    | with_reducible assumption
    | with_reducible apply setCore_sound
    | with_reducible apply injectCore_sound
    | with_reducible apply Sound.ite
    | with_reducible apply Sound.foldl
    | with_reducible apply Sound.foldl_fst
    | intro _
    | split
    | (simp only [Sound.lit]; with_reducible apply Sound.parts))

theorem msgAckStep_sound (id : Nat) (s : State) (hs_ : Sound q_ k_ s) :
    Sound q_ k_ (msgAckStep id s) := by
  unfold msgAckStep
  try dsimp only
  repeat' (first
    | with_reducible assumption
    | with_reducible apply dropPkt_sound
    | with_reducible apply updCore_sound
    | with_reducible apply staleResp_sound
    | with_reducible apply ackSend_sound
    | with_reducible apply Sound.ite
    | with_reducible apply Sound.foldl
    | with_reducible apply Sound.foldl_fst
    | intro _
    | split
    | (simp only [Sound.lit]; with_reducible apply Sound.parts))

theorem dispatched_sound (s : State) (n : Nat) (ser : Nat) (d : Nat) (hs_ : Sound q_ k_ s) :
    Sound q_ k_ (dispatched s n ser d) := by
  unfold dispatched
  try dsimp only
  repeat' (first
    | with_reducible assumption
    | with_reducible apply Sound.ite
    | with_reducible apply Sound.foldl
    | with_reducible apply Sound.foldl_fst
    | intro _
    | split
    | (simp only [Sound.lit]; with_reducible apply Sound.parts)
    | with_reducible apply fwf_fset
    | with_reducible apply fwf_fupd
    | with_reducible apply wrLE_wf
    | with_reducible apply wrBytes_wf
    | with_reducible apply fwf_filter
    | with_reducible apply fwf_ferase
    | with_reducible apply fwf_nil
    | with_reducible apply Sound.foldl_wf
    | with_reducible apply Sound.ite_wf
    | with_reducible apply Sound.pending (q_ := q_) (k_ := k_)
    | with_reducible apply Sound.code (q_ := q_) (k_ := k_)
    | with_reducible apply Sound.hbm (q_ := q_) (k_ := k_)
    | with_reducible apply Sound.hbmPoi (q_ := q_) (k_ := k_)
    | with_reducible apply Sound.cxl (q_ := q_) (k_ := k_)
    | with_reducible apply Sound.cxlPoi (q_ := q_) (k_ := k_)
    | with_reducible apply Sound.csr (q_ := q_) (k_ := k_)
    | with_reducible apply Sound.cores (q_ := q_) (k_ := k_)
    | with_reducible apply Sound.plots (q_ := q_) (k_ := k_)
    | with_reducible apply Sound.funs (q_ := q_) (k_ := k_)
    | with_reducible apply Sound.yports (q_ := q_) (k_ := k_)
    | with_reducible apply Sound.slices (q_ := q_) (k_ := k_)
    | (simp only [Sound.lit]; refine ⟨?_, ?_, ?_, ?_, ?_, ?_, ?_, ?_, ?_, ?_, ?_, ?_⟩))

theorem dropUnsent_sound (s : State) (p : Packet) (hs_ : Sound q_ k_ s) :
    Sound q_ k_ (dropUnsent s p) := by
  unfold dropUnsent
  try dsimp only
  repeat' (first
    | with_reducible assumption
    | with_reducible apply dispatched_sound
    | with_reducible apply undelivered_sound
    | with_reducible apply Sound.ite
    | with_reducible apply Sound.foldl
    | with_reducible apply Sound.foldl_fst
    | intro _
    | split
    | (simp only [Sound.lit]; with_reducible apply Sound.parts))

theorem bounceMsg_sound (s : State) (c : Nat) (p : Packet) (reason : Nat) (hs_ : Sound q_ k_ s) :
    Sound q_ k_ (bounceMsg s c p reason) := by
  unfold bounceMsg
  try dsimp only
  repeat' (first
    | with_reducible assumption
    | with_reducible apply dropUnsent_sound
    | with_reducible apply updCore_sound
    | with_reducible apply injectAt_sound
    | with_reducible apply Sound.ite
    | with_reducible apply Sound.foldl
    | with_reducible apply Sound.foldl_fst
    | intro _
    | split
    | (simp only [Sound.lit]; with_reducible apply Sound.parts))

theorem passToLanding_sound (s : State) (p : Packet) (serial : Bool) (hs_ : Sound q_ k_ s) :
    Sound q_ k_ (passToLanding s p serial) := by
  unfold passToLanding
  try dsimp only
  repeat' (first
    | with_reducible assumption
    | with_reducible apply updCore_sound
    | with_reducible apply Sound.ite
    | with_reducible apply Sound.foldl
    | with_reducible apply Sound.foldl_fst
    | intro _
    | split
    | (simp only [Sound.lit]; with_reducible apply Sound.parts))

theorem mirror_sound (s : State) (p : Packet) (hs_ : Sound q_ k_ s) :
    Sound q_ k_ (mirror s p) := by
  unfold mirror
  try dsimp only
  repeat' (first
    | with_reducible assumption
    | with_reducible apply passToLanding_sound
    | with_reducible apply Sound.ite
    | with_reducible apply Sound.foldl
    | with_reducible apply Sound.foldl_fst
    | intro _
    | split
    | (simp only [Sound.lit]; with_reducible apply Sound.parts))

theorem streamDone_sound (s : State) (p : Packet) (hs_ : Sound q_ k_ s) :
    Sound q_ k_ (streamDone s p) := by
  unfold streamDone
  try dsimp only
  repeat' (first
    | with_reducible assumption
    | with_reducible apply setPlot_sound
    | with_reducible apply passToLanding_sound
    | with_reducible apply Sound.ite
    | with_reducible apply Sound.foldl
    | with_reducible apply Sound.foldl_fst
    | intro _
    | split
    | (simp only [Sound.lit]; with_reducible apply Sound.parts))

theorem streamStart_sound (s : State) (p : Packet) (expect : Nat) (hs_ : Sound q_ k_ s) :
    Sound q_ k_ (streamStart s p expect) := by
  unfold streamStart
  try dsimp only
  repeat' (first
    | with_reducible assumption
    | with_reducible apply passToLanding_sound
    | with_reducible apply setPlot_sound
    | with_reducible apply Sound.ite
    | with_reducible apply Sound.foldl
    | with_reducible apply Sound.foldl_fst
    | intro _
    | split
    | (simp only [Sound.lit]; with_reducible apply Sound.parts))

theorem holdPacket_sound (s : State) (p : Packet) (hs_ : Sound q_ k_ s) :
    Sound q_ k_ (holdPacket s p) := by
  unfold holdPacket
  try dsimp only
  repeat' (first
    | with_reducible assumption
    | with_reducible apply dropPkt_sound
    | with_reducible apply setPlot_sound
    | with_reducible apply updPlot_sound
    | with_reducible apply Sound.ite
    | with_reducible apply Sound.foldl
    | with_reducible apply Sound.foldl_fst
    | intro _
    | split
    | (simp only [Sound.lit]; with_reducible apply Sound.parts))

theorem messageStep_sound (id : Nat) (s : State) (hs_ : Sound q_ k_ s) :
    Sound q_ k_ (messageStep id s) := by
  unfold messageStep
  try dsimp only
  repeat' (first
    | with_reducible assumption
    | with_reducible apply mirror_sound
    | with_reducible apply passToLanding_sound
    | with_reducible apply dropPkt_sound
    | with_reducible apply streamStart_sound
    | with_reducible apply setPlot_sound
    | with_reducible apply holdPacket_sound
    | with_reducible apply Sound.ite
    | with_reducible apply Sound.foldl
    | with_reducible apply Sound.foldl_fst
    | intro _
    | split
    | (simp only [Sound.lit]; with_reducible apply Sound.parts))

theorem windowTimeout_sound (j : Nat) (id : Nat) (s : State) (hs_ : Sound q_ k_ s) :
    Sound q_ k_ (windowTimeout j id s) := by
  unfold windowTimeout
  try dsimp only
  repeat' (first
    | with_reducible assumption
    | with_reducible apply passToLanding_sound
    | with_reducible apply setPlot_sound
    | with_reducible apply streamStart_sound
    | with_reducible apply Sound.ite
    | with_reducible apply Sound.foldl
    | with_reducible apply Sound.foldl_fst
    | intro _
    | split
    | (simp only [Sound.lit]; with_reducible apply Sound.parts))

theorem orderExpire_sound (j : Nat) (i : Nat) (s : State) (hs_ : Sound q_ k_ s) :
    Sound q_ k_ (orderExpire j i s) := by
  unfold orderExpire
  try dsimp only
  repeat' (first
    | with_reducible assumption
    | with_reducible apply setPlot_sound
    | with_reducible apply Sound.ite
    | with_reducible apply Sound.foldl
    | with_reducible apply Sound.foldl_fst
    | intro _
    | split
    | (simp only [Sound.lit]; with_reducible apply Sound.parts))

theorem orderEndStep_sound (id : Nat) (s : State) (hs_ : Sound q_ k_ s) :
    Sound q_ k_ (orderEndStep id s) := by
  unfold orderEndStep
  try dsimp only
  repeat' (first
    | with_reducible assumption
    | with_reducible apply dropPkt_sound
    | with_reducible apply updPlot_sound
    | with_reducible apply injectAt_sound
    | with_reducible apply Sound.ite
    | with_reducible apply Sound.foldl
    | with_reducible apply Sound.foldl_fst
    | intro _
    | split
    | (simp only [Sound.lit]; with_reducible apply Sound.parts))

theorem landWords_sound (s : State) (c : Nat) (r : Nat) (ws : List PWord) (len : Nat) (tag : Nat) (hs_ : Sound q_ k_ s) :
    Sound q_ k_ (landWords s c r ws len tag) := by
  unfold landWords
  try dsimp only
  repeat' (first
    | with_reducible assumption
    | with_reducible apply spdWrite_sound
    | with_reducible apply updCore_sound
    | with_reducible apply Sound.ite
    | with_reducible apply Sound.foldl
    | with_reducible apply Sound.foldl_fst
    | intro _
    | split
    | (simp only [Sound.lit]; with_reducible apply Sound.parts))

theorem afterLanding_sound (s : State) (c : Nat) (l : Land) (hs_ : Sound q_ k_ s) :
    Sound q_ k_ (afterLanding s c l) := by
  unfold afterLanding
  try dsimp only
  repeat' (first
    | with_reducible assumption
    | with_reducible apply updPlot_sound
    | with_reducible apply streamDone_sound
    | with_reducible apply injectAt_sound
    | with_reducible apply dispatched_sound
    | with_reducible apply rootFinish_sound
    | with_reducible apply Sound.ite
    | with_reducible apply Sound.foldl
    | with_reducible apply Sound.foldl_fst
    | intro _
    | split
    | (simp only [Sound.lit]; with_reducible apply Sound.parts))

theorem landNow_sound (s : State) (c : Nat) (l : Land) (hs_ : Sound q_ k_ s) :
    Sound q_ k_ (landNow s c l) := by
  unfold landNow
  try dsimp only
  repeat' (first
    | with_reducible assumption
    | with_reducible apply landWords_sound
    | with_reducible apply updCore_sound
    | with_reducible apply progressMark_sound
    | with_reducible apply afterLanding_sound
    | with_reducible apply Sound.ite
    | with_reducible apply Sound.foldl
    | with_reducible apply Sound.foldl_fst
    | intro _
    | split
    | (simp only [Sound.lit]; with_reducible apply Sound.parts))

theorem popLand_sound (s : State) (c : Nat) (hs_ : Sound q_ k_ s) :
    Sound q_ k_ (popLand s c) := by
  unfold popLand
  try dsimp only
  repeat' (first
    | with_reducible assumption
    | with_reducible apply updCore_sound
    | with_reducible apply Sound.ite
    | with_reducible apply Sound.foldl
    | with_reducible apply Sound.foldl_fst
    | intro _
    | split
    | (simp only [Sound.lit]; with_reducible apply Sound.parts))

theorem landingStep_sound (c : Nat) (s : State) (hs_ : Sound q_ k_ s) :
    Sound q_ k_ (landingStep c s) := by
  unfold landingStep
  try dsimp only
  repeat' (first
    | with_reducible assumption
    | with_reducible apply bounceMsg_sound
    | with_reducible apply popLand_sound
    | with_reducible apply streamDone_sound
    | with_reducible apply landNow_sound
    | with_reducible apply setCore_sound
    | with_reducible apply Sound.ite
    | with_reducible apply Sound.foldl
    | with_reducible apply Sound.foldl_fst
    | intro _
    | split
    | (simp only [Sound.lit]; with_reducible apply Sound.parts))

theorem landExpire_sound (c : Nat) (s : State) (hs_ : Sound q_ k_ s) :
    Sound q_ k_ (landExpire c s) := by
  unfold landExpire
  try dsimp only
  repeat' (first
    | with_reducible assumption
    | with_reducible apply bounceMsg_sound
    | with_reducible apply popLand_sound
    | with_reducible apply streamDone_sound
    | with_reducible apply landNow_sound
    | with_reducible apply Sound.ite
    | with_reducible apply Sound.foldl
    | with_reducible apply Sound.foldl_fst
    | intro _
    | split
    | (simp only [Sound.lit]; with_reducible apply Sound.parts))

theorem bounceStep_sound (id : Nat) (s : State) (hs_ : Sound q_ k_ s) :
    Sound q_ k_ (bounceStep id s) := by
  unfold bounceStep
  try dsimp only
  repeat' (first
    | with_reducible assumption
    | with_reducible apply dropPkt_sound
    | with_reducible apply updCore_sound
    | with_reducible apply staleResp_sound
    | with_reducible apply Sound.ite
    | with_reducible apply Sound.foldl
    | with_reducible apply Sound.foldl_fst
    | intro _
    | split
    | (simp only [Sound.lit]; with_reducible apply Sound.parts))

theorem ackBounce_sound (s : State) (c : Nat) (p : Packet) (hs_ : Sound q_ k_ s) :
    Sound q_ k_ (ackBounce s c p) := by
  unfold ackBounce
  try dsimp only
  repeat' (first
    | with_reducible assumption
    | with_reducible apply ackSend_sound
    | with_reducible apply Sound.ite
    | with_reducible apply Sound.foldl
    | with_reducible apply Sound.foldl_fst
    | intro _
    | split
    | (simp only [Sound.lit]; with_reducible apply Sound.parts))

theorem bounceLandingStep_sound (c : Nat) (s : State) (hs_ : Sound q_ k_ s) :
    Sound q_ k_ (bounceLandingStep c s) := by
  unfold bounceLandingStep
  try dsimp only
  repeat' (first
    | with_reducible assumption
    | with_reducible apply updCore_sound
    | with_reducible apply ackBounce_sound
    | with_reducible apply landWords_sound
    | with_reducible apply Sound.ite
    | with_reducible apply Sound.foldl
    | with_reducible apply Sound.foldl_fst
    | intro _
    | split
    | (simp only [Sound.lit]; with_reducible apply Sound.parts))

end Sys2Proof.Machine
end

