-- ==== Sys2Proof/Laws/KeepsTransfer.lean ====
section
/-! SUPPORT. What every operation of Machine/Transfer.lean keeps (Laws/Sound.lean). -/

namespace Sys2Proof.Machine

variable {q_ : List Instr} {k_ : Nat}

theorem formParts_sound (s : State) (c : Nat) (t : Nat) (th : Thread) (ps : List Part) (hs_ : Sound q_ k_ s) :
    DoneSound q_ k_ (formParts s c t th ps) := by
  unfold formParts
  try dsimp only
  repeat' (first
    | with_reducible assumption
    | with_reducible apply thUpd_sound
    | with_reducible apply Sound.ite
    | with_reducible apply DoneSound.ite
    | with_reducible apply doneNext_sound
    | with_reducible apply doneJump_sound
    | with_reducible apply doneFault_sound
    | with_reducible apply doneStall_sound
    | with_reducible apply doneEnded_sound
    | with_reducible apply Sound.foldl
    | with_reducible apply Sound.foldl_fst
    | intro _
    | split
    | (simp only [Sound.lit]; with_reducible apply Sound.parts))

theorem blockEffect_sound (kind : Nat) (w : BitVec 32) (th : Thread) (s : State) (c : Nat) (t : Nat) (hs_ : Sound q_ k_ s) :
    DoneSound q_ k_ (blockEffect kind w th s c t) := by
  unfold blockEffect
  try dsimp only
  repeat' (first
    | with_reducible assumption
    | with_reducible apply poisoned_sound
    | with_reducible apply formParts_sound
    | with_reducible apply Sound.ite
    | with_reducible apply DoneSound.ite
    | with_reducible apply doneNext_sound
    | with_reducible apply doneJump_sound
    | with_reducible apply doneFault_sound
    | with_reducible apply doneStall_sound
    | with_reducible apply doneEnded_sound
    | with_reducible apply Sound.foldl
    | with_reducible apply Sound.foldl_fst
    | intro _
    | split
    | (simp only [Sound.lit]; with_reducible apply Sound.parts))

theorem taddEffect_sound (w : BitVec 32) (th : Thread) (s : State) (c : Nat) (t : Nat) (hs_ : Sound q_ k_ s) :
    DoneSound q_ k_ (taddEffect w th s c t) := by
  unfold taddEffect
  try dsimp only
  repeat' (first
    | with_reducible assumption
    | with_reducible apply poisoned_sound
    | with_reducible apply formParts_sound
    | with_reducible apply Sound.ite
    | with_reducible apply DoneSound.ite
    | with_reducible apply doneNext_sound
    | with_reducible apply doneJump_sound
    | with_reducible apply doneFault_sound
    | with_reducible apply doneStall_sound
    | with_reducible apply doneEnded_sound
    | with_reducible apply Sound.foldl
    | with_reducible apply Sound.foldl_fst
    | intro _
    | split
    | (simp only [Sound.lit]; with_reducible apply Sound.parts))

theorem tatomEffect_sound (w : BitVec 32) (th : Thread) (s : State) (c : Nat) (t : Nat) (hs_ : Sound q_ k_ s) :
    DoneSound q_ k_ (tatomEffect w th s c t) := by
  unfold tatomEffect
  try dsimp only
  repeat' (first
    | with_reducible assumption
    | with_reducible apply poisoned_sound
    | with_reducible apply formParts_sound
    | with_reducible apply Sound.ite
    | with_reducible apply DoneSound.ite
    | with_reducible apply doneNext_sound
    | with_reducible apply doneJump_sound
    | with_reducible apply doneFault_sound
    | with_reducible apply doneStall_sound
    | with_reducible apply doneEnded_sound
    | with_reducible apply Sound.foldl
    | with_reducible apply Sound.foldl_fst
    | intro _
    | split
    | (simp only [Sound.lit]; with_reducible apply Sound.parts))

theorem twaitEffect_sound (w : BitVec 32) (u1_ : Thread) (s : State) (c : Nat) (u4_ : Nat) (hs_ : Sound q_ k_ s) :
    DoneSound q_ k_ (twaitEffect w u1_ s c u4_) := by
  unfold twaitEffect
  try dsimp only
  repeat' (first
    | with_reducible assumption
    | with_reducible apply Sound.ite
    | with_reducible apply DoneSound.ite
    | with_reducible apply doneNext_sound
    | with_reducible apply doneJump_sound
    | with_reducible apply doneFault_sound
    | with_reducible apply doneStall_sound
    | with_reducible apply doneEnded_sound
    | with_reducible apply Sound.foldl
    | with_reducible apply Sound.foldl_fst
    | intro _
    | split
    | (simp only [Sound.lit]; with_reducible apply Sound.parts))

theorem tstatEffect_sound (w : BitVec 32) (u1_ : Thread) (s : State) (c : Nat) (t : Nat) (hs_ : Sound q_ k_ s) :
    DoneSound q_ k_ (tstatEffect w u1_ s c t) := by
  unfold tstatEffect
  try dsimp only
  repeat' (first
    | with_reducible assumption
    | with_reducible apply doneS_sound
    | with_reducible apply updCore_sound
    | with_reducible apply Sound.ite
    | with_reducible apply DoneSound.ite
    | with_reducible apply doneNext_sound
    | with_reducible apply doneJump_sound
    | with_reducible apply doneFault_sound
    | with_reducible apply doneStall_sound
    | with_reducible apply doneEnded_sound
    | with_reducible apply Sound.foldl
    | with_reducible apply Sound.foldl_fst
    | intro _
    | split
    | (simp only [Sound.lit]; with_reducible apply Sound.parts))

theorem fenceEffect_sound (w : BitVec 32) (u1_ : Thread) (s : State) (c : Nat) (t : Nat) (hs_ : Sound q_ k_ s) :
    DoneSound q_ k_ (fenceEffect w u1_ s c t) := by
  unfold fenceEffect
  try dsimp only
  repeat' (first
    | with_reducible assumption
    | with_reducible apply Sound.ite
    | with_reducible apply DoneSound.ite
    | with_reducible apply doneNext_sound
    | with_reducible apply doneJump_sound
    | with_reducible apply doneFault_sound
    | with_reducible apply doneStall_sound
    | with_reducible apply doneEnded_sound
    | with_reducible apply Sound.foldl
    | with_reducible apply Sound.foldl_fst
    | intro _
    | split
    | (simp only [Sound.lit]; with_reducible apply Sound.parts))

theorem sendReq_sound (s : State) (c : Nat) (r : Req) (hs_ : Sound q_ k_ s) :
    Sound q_ k_ (sendReq s c r) := by
  unfold sendReq
  try dsimp only
  repeat' (first
    | with_reducible assumption
    | with_reducible apply injectAt_sound
    | with_reducible apply injectCore_sound
    | with_reducible apply Sound.ite
    | with_reducible apply Sound.foldl
    | with_reducible apply Sound.foldl_fst
    | intro _
    | split
    | (simp only [Sound.lit]; with_reducible apply Sound.parts))

theorem injectPart_sound (s : State) (c : Nat) (t : Nat) (tag : Nat) (p : Part) (hs_ : Sound q_ k_ s) :
    Sound q_ k_ (injectPart s c t tag p) := by
  unfold injectPart
  try dsimp only
  repeat' (first
    | with_reducible assumption
    | with_reducible apply spdReadWords_sound
    | with_reducible apply setCore_sound
    | with_reducible apply sendReq_sound
    | with_reducible apply Sound.ite
    | with_reducible apply Sound.foldl
    | with_reducible apply Sound.foldl_fst
    | intro _
    | split
    | (simp only [Sound.lit]; with_reducible apply Sound.parts))

theorem requestInject_sound (c : Nat) (t : Nat) (s : State) (hs_ : Sound q_ k_ s) :
    Sound q_ k_ (requestInject c t s) := by
  unfold requestInject
  try dsimp only
  repeat' (first
    | with_reducible assumption
    | with_reducible apply updCore_sound
    | with_reducible apply injectPart_sound
    | with_reducible apply padServe_sound
    | with_reducible apply Sound.ite
    | with_reducible apply Sound.foldl
    | with_reducible apply Sound.foldl_fst
    | intro _
    | split
    | (simp only [Sound.lit]; with_reducible apply Sound.parts))

theorem pushEntries_sound (s : State) (c q : Nat) (l : List PWord) (h : Sound q_ k_ s) :
    Sound q_ k_ (pushEntries s c q l) := by
  fun_induction pushEntries s c q l with
  | case1 s a b d e l ih => exact ih (extPush_sound _ _ _ _ h)
  | case2 s l hn => exact h

theorem siloDone_sound (s : State) (c : Nat) (r : Req) (status : Nat) (data : List PWord) (hs_ : Sound q_ k_ s) :
    Sound q_ k_ (siloDone s c r status data) := by
  unfold siloDone
  try dsimp only
  repeat' (first
    | with_reducible assumption
    | with_reducible apply updCore_sound
    | with_reducible apply note_sound
    | with_reducible apply pushEntries_sound
    | with_reducible apply Sound.ite
    | with_reducible apply Sound.foldl
    | with_reducible apply Sound.foldl_fst
    | intro _
    | split
    | (simp only [Sound.lit]; with_reducible apply Sound.parts))

theorem completeReq_sound (s : State) (c : Nat) (tag : Nat) (status : Nat) (data : List PWord) (hs_ : Sound q_ k_ s) :
    Sound q_ k_ (completeReq s c tag status data) := by
  unfold completeReq
  try dsimp only
  repeat' (first
    | with_reducible assumption
    | with_reducible apply updCore_sound
    | with_reducible apply siloDone_sound
    | with_reducible apply spdWriteWords_sound
    | with_reducible apply Sound.ite
    | with_reducible apply Sound.foldl
    | with_reducible apply Sound.foldl_fst
    | intro _
    | split
    | (simp only [Sound.lit]; with_reducible apply Sound.parts))

theorem completeBoth_sound (s : State) (c : Nat) (tag : Nat) (status : Nat) (data : List PWord) (hs_ : Sound q_ k_ s) :
    Sound q_ k_ (completeBoth s c tag status data) := by
  unfold completeBoth
  try dsimp only
  repeat' (first
    | with_reducible assumption
    | with_reducible apply completeReq_sound
    | with_reducible apply Sound.ite
    | with_reducible apply Sound.foldl
    | with_reducible apply Sound.foldl_fst
    | intro _
    | split
    | (simp only [Sound.lit]; with_reducible apply Sound.parts))

theorem responseStep_sound (id : Nat) (typ : Nat) (s : State) (hs_ : Sound q_ k_ s) :
    Sound q_ k_ (responseStep id typ s) := by
  unfold responseStep
  try dsimp only
  repeat' (first
    | with_reducible assumption
    | with_reducible apply dropPkt_sound
    | with_reducible apply staleResp_sound
    | with_reducible apply updCore_sound
    | with_reducible apply completeBoth_sound
    | with_reducible apply Sound.ite
    | with_reducible apply Sound.foldl
    | with_reducible apply Sound.foldl_fst
    | intro _
    | split
    | (simp only [Sound.lit]; with_reducible apply Sound.parts))

theorem drainBeat_sound (s : State) (c : Nat) (tag : Nat) (hs_ : Sound q_ k_ s) :
    Sound q_ k_ (drainBeat s c tag) := by
  unfold drainBeat
  try dsimp only
  repeat' (first
    | with_reducible assumption
    | with_reducible apply setCore_sound
    | with_reducible apply completeReq_sound
    | with_reducible apply padServe_sound
    | with_reducible apply updCore_sound
    | with_reducible apply Sound.ite
    | with_reducible apply Sound.foldl
    | with_reducible apply Sound.foldl_fst
    | intro _
    | split
    | (simp only [Sound.lit]; with_reducible apply Sound.parts))

theorem requestComplete_sound (c : Nat) (tag : Nat) (s : State) (hs_ : Sound q_ k_ s) :
    Sound q_ k_ (requestComplete c tag s) := by
  unfold requestComplete
  try dsimp only
  repeat' (first
    | with_reducible assumption
    | with_reducible apply completeReq_sound
    | with_reducible apply drainBeat_sound
    | with_reducible apply Sound.ite
    | with_reducible apply Sound.foldl
    | with_reducible apply Sound.foldl_fst
    | intro _
    | split
    | (simp only [Sound.lit]; with_reducible apply Sound.parts))

theorem reqTimeout_sound (s : State) (c : Nat) (r : Req) (hs_ : Sound q_ k_ s) :
    Sound q_ k_ (reqTimeout s c r) := by
  unfold reqTimeout
  try dsimp only
  repeat' (first
    | with_reducible assumption
    | with_reducible apply updCore_sound
    | with_reducible apply sendReq_sound
    | with_reducible apply completeBoth_sound
    | with_reducible apply Sound.ite
    | with_reducible apply Sound.foldl
    | with_reducible apply Sound.foldl_fst
    | intro _
    | split
    | (simp only [Sound.lit]; with_reducible apply Sound.parts))

theorem trackTimeout_sound (c : Nat) (x : TimerRef) (s : State) (hs_ : Sound q_ k_ s) :
    Sound q_ k_ (trackTimeout c x s) := by
  unfold trackTimeout
  try dsimp only
  repeat' (first
    | with_reducible assumption
    | with_reducible apply reqTimeout_sound
    | with_reducible apply ackSend_sound
    | with_reducible apply updCore_sound
    | with_reducible apply setCore_sound
    | with_reducible apply Sound.ite
    | with_reducible apply Sound.foldl
    | with_reducible apply Sound.foldl_fst
    | intro _
    | split
    | (simp only [Sound.lit]; with_reducible apply Sound.parts))

end Sys2Proof.Machine
end

