-- ==== Sys2Proof/Laws/KeepsYoke.lean ====
section
/-! SUPPORT. What every operation of Machine/Yoke.lean keeps (Laws/Sound.lean). -/

namespace Sys2Proof.Machine

variable {q_ : List Instr} {k_ : Nat}

theorem foldOut_sound (s : State) (p : Packet) (hs_ : Sound q_ k_ s) :
    Sound q_ k_ (foldOut s p) := by
  unfold foldOut
  try dsimp only
  repeat' (first
    | with_reducible assumption
    | with_reducible apply Sound.ite
    | with_reducible apply Sound.foldl
    | with_reducible apply Sound.foldl_fst
    | intro _
    | split
    | (simp only [Sound.lit]; with_reducible apply Sound.parts))

theorem emit_sound (s : State) (e : Emit) (hs_ : Sound q_ k_ s) :
    Sound q_ k_ (emit s e) := by
  unfold emit
  try dsimp only
  repeat' (first
    | with_reducible assumption
    | with_reducible apply Sound.ite
    | with_reducible apply Sound.foldl
    | with_reducible apply Sound.foldl_fst
    | intro _
    | split
    | (simp only [Sound.lit]; with_reducible apply Sound.parts))

theorem takeHdr_sound (s : State) (p : Nat) (hs_ : Sound q_ k_ s) :
    Sound q_ k_ (takeHdr s p).1 := by
  unfold takeHdr
  try dsimp only
  repeat' (first
    | with_reducible assumption
    | with_reducible apply setPort_sound
    | with_reducible apply Sound.ite
    | with_reducible apply Sound.foldl
    | with_reducible apply Sound.foldl_fst
    | intro _
    | split
    | (simp only [Sound.lit]; with_reducible apply Sound.parts))

theorem sendFrame_sound (s : State) (p : Nat) (l : List Slot) (hs_ : Sound q_ k_ s) :
    Sound q_ k_ (sendFrame s p l) := by
  unfold sendFrame
  try dsimp only
  repeat' (first
    | with_reducible assumption
    | with_reducible apply takeHdr_sound
    | with_reducible apply emit_sound
    | with_reducible apply setPort_sound
    | with_reducible apply Sound.ite
    | with_reducible apply Sound.foldl
    | with_reducible apply Sound.foldl_fst
    | intro _
    | split
    | (simp only [Sound.lit]; with_reducible apply Sound.parts))

theorem pump_sound (s : State) (p : Nat) (hs_ : Sound q_ k_ s) :
    Sound q_ k_ (pump s p) := by
  unfold pump
  try dsimp only
  repeat' (first
    | with_reducible assumption
    | with_reducible apply sendFrame_sound
    | with_reducible apply setPort_sound
    | with_reducible apply Sound.ite
    | with_reducible apply Sound.foldl
    | with_reducible apply Sound.foldl_fst
    | intro _
    | split
    | (simp only [Sound.lit]; with_reducible apply Sound.parts))

theorem idleOut_sound (s : State) (p : Nat) (hs_ : Sound q_ k_ s) :
    Sound q_ k_ (idleOut s p) := by
  unfold idleOut
  try dsimp only
  repeat' (first
    | with_reducible assumption
    | with_reducible apply takeHdr_sound
    | with_reducible apply emit_sound
    | with_reducible apply Sound.ite
    | with_reducible apply Sound.foldl
    | with_reducible apply Sound.foldl_fst
    | intro _
    | split
    | (simp only [Sound.lit]; with_reducible apply Sound.parts))

theorem acceptHdr_sound (s : State) (p : Nat) (h : FrameHdr) (hs_ : Sound q_ k_ s) :
    Sound q_ k_ (acceptHdr s p h) := by
  unfold acceptHdr
  try dsimp only
  repeat' (first
    | with_reducible assumption
    | with_reducible apply updPort_sound
    | with_reducible apply pump_sound
    | with_reducible apply Sound.ite
    | with_reducible apply Sound.foldl
    | with_reducible apply Sound.foldl_fst
    | intro _
    | split
    | (simp only [Sound.lit]; with_reducible apply Sound.parts))

theorem sendRetry_sound (s : State) (p : Nat) (hs_ : Sound q_ k_ s) :
    Sound q_ k_ (sendRetry s p) := by
  unfold sendRetry
  try dsimp only
  repeat' (first
    | with_reducible assumption
    | with_reducible apply takeHdr_sound
    | with_reducible apply emit_sound
    | with_reducible apply updPort_sound
    | with_reducible apply Sound.ite
    | with_reducible apply Sound.foldl
    | with_reducible apply Sound.foldl_fst
    | intro _
    | split
    | (simp only [Sound.lit]; with_reducible apply Sound.parts))

theorem rejectFrame_sound (s : State) (p : Nat) (hs_ : Sound q_ k_ s) :
    Sound q_ k_ (rejectFrame s p) := by
  unfold rejectFrame
  try dsimp only
  repeat' (first
    | with_reducible assumption
    | with_reducible apply sendRetry_sound
    | with_reducible apply Sound.ite
    | with_reducible apply Sound.foldl
    | with_reducible apply Sound.foldl_fst
    | intro _
    | split
    | (simp only [Sound.lit]; with_reducible apply Sound.parts))

theorem goodFrame_sound (s : State) (p : Nat) (f : YFrame) (hs_ : Sound q_ k_ s) :
    Sound q_ k_ (goodFrame s p f) := by
  unfold goodFrame
  try dsimp only
  repeat' (first
    | with_reducible assumption
    | with_reducible apply rejectFrame_sound
    | with_reducible apply updPort_sound
    | with_reducible apply acceptHdr_sound
    | with_reducible apply Sound.ite
    | with_reducible apply Sound.foldl
    | with_reducible apply Sound.foldl_fst
    | intro _
    | split
    | (simp only [Sound.lit]; with_reducible apply Sound.parts))

theorem dataFrame_sound (p : Nat) (fec : Nat) (ws : List PWord) (s : State) (hs_ : Sound q_ k_ s) :
    Sound q_ k_ (dataFrame p fec ws s) := by
  unfold dataFrame
  try dsimp only
  repeat' (first
    | with_reducible assumption
    | with_reducible apply satCsrFld_sound
    | with_reducible apply rejectFrame_sound
    | with_reducible apply goodFrame_sound
    | with_reducible apply Sound.ite
    | with_reducible apply Sound.foldl
    | with_reducible apply Sound.foldl_fst
    | intro _
    | split
    | (simp only [Sound.lit]; with_reducible apply Sound.parts))

theorem idleFrame_sound (p : Nat) (ws : List PWord) (s : State) (hs_ : Sound q_ k_ s) :
    Sound q_ k_ (idleFrame p ws s) := by
  unfold idleFrame
  try dsimp only
  repeat' (first
    | with_reducible assumption
    | with_reducible apply acceptHdr_sound
    | with_reducible apply updPort_sound
    | with_reducible apply Sound.ite
    | with_reducible apply Sound.foldl
    | with_reducible apply Sound.foldl_fst
    | intro _
    | split
    | (simp only [Sound.lit]; with_reducible apply Sound.parts))

theorem retryIn_sound (p : Nat) (h : FrameHdr) (fseq : Nat) (s : State) (hs_ : Sound q_ k_ s) :
    Sound q_ k_ (retryIn p h fseq s) := by
  unfold retryIn
  try dsimp only
  repeat' (first
    | with_reducible assumption
    | with_reducible apply acceptHdr_sound
    | with_reducible apply satCsrFld_sound
    | with_reducible apply updPort_sound
    | with_reducible apply emit_sound
    | with_reducible apply Sound.ite
    | with_reducible apply Sound.foldl
    | with_reducible apply Sound.foldl_fst
    | intro _
    | split
    | (simp only [Sound.lit]; with_reducible apply Sound.parts))

theorem retire_sound (s : State) (dst : Nat) (tseq : Nat) (hs_ : Sound q_ k_ s) :
    Sound q_ k_ (retire s dst tseq) := by
  unfold retire
  try dsimp only
  repeat' (first
    | with_reducible assumption
    | with_reducible apply Sound.ite
    | with_reducible apply Sound.foldl
    | with_reducible apply Sound.foldl_fst
    | intro _
    | split
    | (simp only [Sound.lit]; with_reducible apply Sound.parts))

theorem takeReleases_sound (s : State) (p : Nat) (dst : Nat) (n : Nat) (hs_ : Sound q_ k_ s) :
    Sound q_ k_ (takeReleases s p dst n).1 := by
  unfold takeReleases
  try dsimp only
  repeat' (first
    | with_reducible assumption
    | with_reducible apply setPort_sound
    | with_reducible apply retire_sound
    | with_reducible apply Sound.ite
    | with_reducible apply Sound.foldl
    | with_reducible apply Sound.foldl_fst
    | intro _
    | split
    | (simp only [Sound.lit]; with_reducible apply Sound.parts))

theorem sendTxn_sound (s : State) (p : Nat) (t : Txn) (hs_ : Sound q_ k_ s) :
    Sound q_ k_ (sendTxn s p t) := by
  unfold sendTxn
  try dsimp only
  repeat' (first
    | with_reducible assumption
    | with_reducible apply takeReleases_sound
    | with_reducible apply pump_sound
    | with_reducible apply updPort_sound
    | with_reducible apply Sound.ite
    | with_reducible apply Sound.foldl
    | with_reducible apply Sound.foldl_fst
    | intro _
    | split
    | (simp only [Sound.lit]; with_reducible apply Sound.parts))

theorem launch_sound (s : State) (own : Option Nat) (t : Txn) (hs_ : Sound q_ k_ s) :
    Sound q_ k_ (launch s own t) := by
  unfold launch
  try dsimp only
  repeat' (first
    | with_reducible assumption
    | with_reducible apply sendTxn_sound
    | with_reducible apply Sound.ite
    | with_reducible apply Sound.foldl
    | with_reducible apply Sound.foldl_fst
    | intro _
    | split
    | (simp only [Sound.lit]; with_reducible apply Sound.parts))

theorem failHere_sound (s : State) (p : Nat) (pkt : Packet) (status : Nat) (hs_ : Sound q_ k_ s) :
    Sound q_ k_ (failHere s p pkt status) := by
  unfold failHere
  try dsimp only
  repeat' (first
    | with_reducible assumption
    | with_reducible apply injectEdge_sound
    | with_reducible apply Sound.ite
    | with_reducible apply Sound.foldl
    | with_reducible apply Sound.foldl_fst
    | intro _
    | split
    | (simp only [Sound.lit]; with_reducible apply Sound.parts))

theorem failOp_sound (s : State) (p : Nat) (pkt : Packet) (status : Nat) (hs_ : Sound q_ k_ s) :
    Sound q_ k_ (failOp s p pkt status) := by
  unfold failOp
  try dsimp only
  repeat' (first
    | with_reducible assumption
    | with_reducible apply fillAnswer_sound
    | with_reducible apply failHere_sound
    | with_reducible apply Sound.ite
    | with_reducible apply Sound.foldl
    | with_reducible apply Sound.foldl_fst
    | intro _
    | split
    | (simp only [Sound.lit]; with_reducible apply Sound.parts))

theorem egress_sound (s : State) (p : Nat) (pkt : Packet) (hs_ : Sound q_ k_ s) :
    Sound q_ k_ (egress s p pkt) := by
  unfold egress
  try dsimp only
  repeat' (first
    | with_reducible assumption
    | with_reducible apply failOp_sound
    | with_reducible apply dropPkt_sound
    | with_reducible apply foldOut_sound
    | with_reducible apply updPort_sound
    | with_reducible apply launch_sound
    | with_reducible apply Sound.ite
    | with_reducible apply Sound.foldl
    | with_reducible apply Sound.foldl_fst
    | intro _
    | split
    | (simp only [Sound.lit]; with_reducible apply Sound.parts))

theorem answer_sound (s : State) (x : Inbound) (q : Packet) (accepted : Bool) (hs_ : Sound q_ k_ s) :
    Sound q_ k_ (answer s x q accepted) := by
  unfold answer
  try dsimp only
  repeat' (first
    | with_reducible assumption
    | with_reducible apply foldOut_sound
    | with_reducible apply mirror_sound
    | with_reducible apply sendTxn_sound
    | with_reducible apply Sound.ite
    | with_reducible apply Sound.foldl
    | with_reducible apply Sound.foldl_fst
    | intro _
    | split
    | (simp only [Sound.lit]; with_reducible apply Sound.parts))

theorem respEgress_sound (s : State) (p : Nat) (q : Packet) (hs_ : Sound q_ k_ s) :
    Sound q_ k_ (respEgress s p q) := by
  unfold respEgress
  try dsimp only
  repeat' (first
    | with_reducible assumption
    | with_reducible apply dropPkt_sound
    | with_reducible apply answer_sound
    | with_reducible apply Sound.ite
    | with_reducible apply Sound.foldl
    | with_reducible apply Sound.foldl_fst
    | intro _
    | split
    | (simp only [Sound.lit]; with_reducible apply Sound.parts))

theorem leaveDevice_sound (s : State) (pkt : Packet) (hs_ : Sound q_ k_ s) :
    Sound q_ k_ (leaveDevice s pkt) := by
  unfold leaveDevice
  try dsimp only
  repeat' (first
    | with_reducible assumption
    | with_reducible apply respEgress_sound
    | with_reducible apply egress_sound
    | with_reducible apply Sound.ite
    | with_reducible apply Sound.foldl
    | with_reducible apply Sound.foldl_fst
    | intro _
    | split
    | (simp only [Sound.lit]; with_reducible apply Sound.parts))

theorem rxTake_sound (s : State) (p : Nat) (i : Nat) (t : Txn) (hs_ : Sound q_ k_ s) :
    Sound q_ k_ (rxTake s p i t) := by
  unfold rxTake
  try dsimp only
  repeat' (first
    | with_reducible assumption
    | with_reducible apply updPort_sound
    | with_reducible apply Sound.ite
    | with_reducible apply Sound.foldl
    | with_reducible apply Sound.foldl_fst
    | intro _
    | split
    | (simp only [Sound.lit]; with_reducible apply Sound.parts))

theorem transit_sound (s : State) (p : Nat) (i : Nat) (t : Txn) (hs_ : Sound q_ k_ s) :
    Sound q_ k_ (transit s p i t) := by
  unfold transit
  try dsimp only
  repeat' (first
    | with_reducible assumption
    | with_reducible apply rxTake_sound
    | with_reducible apply pump_sound
    | with_reducible apply updPort_sound
    | with_reducible apply Sound.ite
    | with_reducible apply Sound.foldl
    | with_reducible apply Sound.foldl_fst
    | intro _
    | split
    | (simp only [Sound.lit]; with_reducible apply Sound.parts))

theorem applyReleases_sound (s : State) (src : Nat) (l : List (Nat × Bool)) (hs_ : Sound q_ k_ s) :
    Sound q_ k_ (applyReleases s src l) := by
  unfold applyReleases
  try dsimp only
  repeat' (first
    | with_reducible assumption
    | with_reducible apply Sound.ite
    | with_reducible apply Sound.foldl
    | with_reducible apply Sound.foldl_fst
    | intro _
    | split
    | (simp only [Sound.lit]; with_reducible apply Sound.parts))

theorem refusal_sound (s : State) (p : Packet) (status : Nat) (reason : Nat) (hs_ : Sound q_ k_ s) :
    Sound q_ k_ (refusal s p status reason).1 := by
  unfold refusal
  try dsimp only
  repeat' (first
    | with_reducible assumption
    | with_reducible apply setCsrFld_sound
    | with_reducible apply satCsrFld_sound
    | with_reducible apply Sound.ite
    | with_reducible apply Sound.foldl
    | with_reducible apply Sound.foldl_fst
    | intro _
    | split
    | (simp only [Sound.lit]; with_reducible apply Sound.parts))

theorem sendBusy_sound (s : State) (t : Txn) (hs_ : Sound q_ k_ s) :
    Sound q_ k_ (sendBusy s t) := by
  unfold sendBusy
  try dsimp only
  repeat' (first
    | with_reducible assumption
    | with_reducible apply sendTxn_sound
    | with_reducible apply Sound.ite
    | with_reducible apply Sound.foldl
    | with_reducible apply Sound.foldl_fst
    | intro _
    | split
    | (simp only [Sound.lit]; with_reducible apply Sound.parts))

theorem mirrorTxn_sound (s : State) (t : Txn) (hs_ : Sound q_ k_ s) :
    Sound q_ k_ (mirrorTxn s t) := by
  unfold mirrorTxn
  try dsimp only
  repeat' (first
    | with_reducible assumption
    | with_reducible apply sendTxn_sound
    | with_reducible apply mirror_sound
    | with_reducible apply Sound.ite
    | with_reducible apply Sound.foldl
    | with_reducible apply Sound.foldl_fst
    | intro _
    | split
    | (simp only [Sound.lit]; with_reducible apply Sound.parts))

theorem openInbound_sound (s : State) (p : Nat) (t : Txn) (hs_ : Sound q_ k_ s) :
    Sound q_ k_ (openInbound s p t) := by
  unfold openInbound
  try dsimp only
  repeat' (first
    | with_reducible assumption
    | with_reducible apply mirror_sound
    | with_reducible apply Sound.ite
    | with_reducible apply Sound.foldl
    | with_reducible apply Sound.foldl_fst
    | intro _
    | split
    | (simp only [Sound.lit]; with_reducible apply Sound.parts))

theorem dropInbound_sound (s : State) (p : Nat) (id : Nat) (hs_ : Sound q_ k_ s) :
    Sound q_ k_ (dropInbound s p id) := by
  unfold dropInbound
  try dsimp only
  repeat' (first
    | with_reducible assumption
    | with_reducible apply hdrDrop_sound
    | with_reducible apply Sound.ite
    | with_reducible apply Sound.foldl
    | with_reducible apply Sound.foldl_fst
    | intro _
    | split
    | (simp only [Sound.lit]; with_reducible apply Sound.parts))

theorem injectInbound_sound (s : State) (p : Nat) (x : Inbound) (pkt : Packet) (hs_ : Sound q_ k_ s) :
    Sound q_ k_ (injectInbound s p x pkt) := by
  unfold injectInbound
  try dsimp only
  repeat' (first
    | with_reducible assumption
    | with_reducible apply dropInbound_sound
    | with_reducible apply answer_sound
    | with_reducible apply injectEdge_sound
    | with_reducible apply Sound.ite
    | with_reducible apply Sound.foldl
    | with_reducible apply Sound.foldl_fst
    | intro _
    | split
    | (simp only [Sound.lit]; with_reducible apply Sound.parts))

theorem performInbound_sound (s : State) (p : Nat) (t : Txn) (pkt : Packet) (hs_ : Sound q_ k_ s) :
    Sound q_ k_ (performInbound s p t pkt) := by
  unfold performInbound
  try dsimp only
  repeat' (first
    | with_reducible assumption
    | with_reducible apply openInbound_sound
    | with_reducible apply mirror_sound
    | with_reducible apply refusal_sound
    | with_reducible apply answer_sound
    | with_reducible apply injectInbound_sound
    | with_reducible apply mirrorTxn_sound
    | with_reducible apply Sound.ite
    | with_reducible apply Sound.foldl
    | with_reducible apply Sound.foldl_fst
    | intro _
    | split
    | (simp only [Sound.lit]; with_reducible apply Sound.parts))

theorem arriveRequest_sound (s : State) (p : Nat) (i : Nat) (t : Txn) (pkt : Packet) (hs_ : Sound q_ k_ s) :
    Sound q_ k_ (arriveRequest s p i t pkt) := by
  unfold arriveRequest
  try dsimp only
  repeat' (first
    | with_reducible assumption
    | with_reducible apply mirror_sound
    | with_reducible apply applyReleases_sound
    | with_reducible apply rxTake_sound
    | with_reducible apply refusal_sound
    | with_reducible apply answer_sound
    | with_reducible apply satCsrFld_sound
    | with_reducible apply sendBusy_sound
    | with_reducible apply performInbound_sound
    | with_reducible apply Sound.ite
    | with_reducible apply Sound.foldl
    | with_reducible apply Sound.foldl_fst
    | intro _
    | split
    | (simp only [Sound.lit]; with_reducible apply Sound.parts))

theorem remoteTransaction_sound (p : Nat) (i : Nat) (s : State) (hs_ : Sound q_ k_ s) :
    Sound q_ k_ (remoteTransaction p i s) := by
  unfold remoteTransaction
  try dsimp only
  repeat' (first
    | with_reducible assumption
    | with_reducible apply satCsrFld_sound
    | with_reducible apply rxTake_sound
    | with_reducible apply transit_sound
    | with_reducible apply applyReleases_sound
    | with_reducible apply arriveRequest_sound
    | with_reducible apply Sound.ite
    | with_reducible apply Sound.foldl
    | with_reducible apply Sound.foldl_fst
    | intro _
    | split
    | (simp only [Sound.lit]; with_reducible apply Sound.parts))

theorem addBeats_sound (s : State) (f : Nat) (l : List Beat) (hs_ : Sound q_ k_ s) :
    Sound q_ k_ (addBeats s f l) := by
  unfold addBeats
  try dsimp only
  repeat' (first
    | with_reducible assumption
    | with_reducible apply Sound.ite
    | with_reducible apply Sound.foldl
    | with_reducible apply Sound.foldl_fst
    | intro _
    | split
    | (simp only [Sound.lit]; with_reducible apply Sound.parts)
    | with_reducible apply fwf_fset
    | with_reducible apply fwf_fupd
    | with_reducible apply wrLE_wf
    | with_reducible apply wrBytes_wf
    | with_reducible apply fwf_filter
    | with_reducible apply fwf_ferase
    | with_reducible apply fwf_nil
    | with_reducible apply Sound.foldl_wf
    | with_reducible apply Sound.ite_wf
    | with_reducible apply Sound.pending (q_ := q_) (k_ := k_)
    | with_reducible apply Sound.code (q_ := q_) (k_ := k_)
    | with_reducible apply Sound.hbm (q_ := q_) (k_ := k_)
    | with_reducible apply Sound.hbmPoi (q_ := q_) (k_ := k_)
    | with_reducible apply Sound.cxl (q_ := q_) (k_ := k_)
    | with_reducible apply Sound.cxlPoi (q_ := q_) (k_ := k_)
    | with_reducible apply Sound.csr (q_ := q_) (k_ := k_)
    | with_reducible apply Sound.cores (q_ := q_) (k_ := k_)
    | with_reducible apply Sound.plots (q_ := q_) (k_ := k_)
    | with_reducible apply Sound.funs (q_ := q_) (k_ := k_)
    | with_reducible apply Sound.yports (q_ := q_) (k_ := k_)
    | with_reducible apply Sound.slices (q_ := q_) (k_ := k_)
    | (simp only [Sound.lit]; refine ⟨?_, ?_, ?_, ?_, ?_, ?_, ?_, ?_, ?_, ?_, ?_, ?_⟩))

theorem deliverResponse_sound (s : State) (p : Nat) (pkt : Packet) (q : Packet) (hs_ : Sound q_ k_ s) :
    Sound q_ k_ (deliverResponse s p pkt q) := by
  unfold deliverResponse
  try dsimp only
  repeat' (first
    | with_reducible assumption
    | with_reducible apply fillAnswer_sound
    | with_reducible apply addBeats_sound
    | with_reducible apply injectEdge_sound
    | with_reducible apply Sound.ite
    | with_reducible apply Sound.foldl
    | with_reducible apply Sound.foldl_fst
    | intro _
    | split
    | (simp only [Sound.lit]; with_reducible apply Sound.parts))

theorem endTracker_sound (s : State) (p : Nat) (x : Tracker) (release : Bool) (hs_ : Sound q_ k_ s) :
    Sound q_ k_ (endTracker s p x release) := by
  unfold endTracker
  try dsimp only
  repeat' (first
    | with_reducible assumption
    | with_reducible apply updPort_sound
    | with_reducible apply blockServed_sound
    | with_reducible apply Sound.ite
    | with_reducible apply Sound.foldl
    | with_reducible apply Sound.foldl_fst
    | intro _
    | split
    | (simp only [Sound.lit]; with_reducible apply Sound.parts))

theorem remoteResponse_sound (p : Nat) (i : Nat) (s : State) (hs_ : Sound q_ k_ s) :
    Sound q_ k_ (remoteResponse p i s) := by
  unfold remoteResponse
  try dsimp only
  repeat' (first
    | with_reducible assumption
    | with_reducible apply satCsrFld_sound
    | with_reducible apply rxTake_sound
    | with_reducible apply applyReleases_sound
    | with_reducible apply mirror_sound
    | with_reducible apply endTracker_sound
    | with_reducible apply deliverResponse_sound
    | with_reducible apply updPort_sound
    | with_reducible apply mirrorTxn_sound
    | with_reducible apply Sound.ite
    | with_reducible apply Sound.foldl
    | with_reducible apply Sound.foldl_fst
    | intro _
    | split
    | (simp only [Sound.lit]; with_reducible apply Sound.parts))

theorem putTracker_sound (s : State) (p : Nat) (x : Tracker) (hs_ : Sound q_ k_ s) :
    Sound q_ k_ (putTracker s p x) := by
  unfold putTracker
  try dsimp only
  repeat' (first
    | with_reducible assumption
    | with_reducible apply updPort_sound
    | with_reducible apply Sound.ite
    | with_reducible apply Sound.foldl
    | with_reducible apply Sound.foldl_fst
    | intro _
    | split
    | (simp only [Sound.lit]; with_reducible apply Sound.parts))

theorem trackerTimeout_sound (p : Nat) (num : Nat) (s : State) (hs_ : Sound q_ k_ s) :
    Sound q_ k_ (trackerTimeout p num s) := by
  unfold trackerTimeout
  try dsimp only
  repeat' (first
    | with_reducible assumption
    | with_reducible apply satCsrFld_sound
    | with_reducible apply failOp_sound
    | with_reducible apply endTracker_sound
    | with_reducible apply putTracker_sound
    | with_reducible apply launch_sound
    | with_reducible apply Sound.ite
    | with_reducible apply Sound.foldl
    | with_reducible apply Sound.foldl_fst
    | intro _
    | split
    | (simp only [Sound.lit]; with_reducible apply Sound.parts))

theorem busyResend_sound (p : Nat) (num : Nat) (s : State) (hs_ : Sound q_ k_ s) :
    Sound q_ k_ (busyResend p num s) := by
  unfold busyResend
  try dsimp only
  repeat' (first
    | with_reducible assumption
    | with_reducible apply launch_sound
    | with_reducible apply putTracker_sound
    | with_reducible apply Sound.ite
    | with_reducible apply Sound.foldl
    | with_reducible apply Sound.foldl_fst
    | intro _
    | split
    | (simp only [Sound.lit]; with_reducible apply Sound.parts))

theorem releaseSend_sound (p : Nat) (s : State) (hs_ : Sound q_ k_ s) :
    Sound q_ k_ (releaseSend p s) := by
  unfold releaseSend
  try dsimp only
  repeat' (first
    | with_reducible assumption
    | with_reducible apply takeReleases_sound
    | with_reducible apply sendTxn_sound
    | with_reducible apply Sound.ite
    | with_reducible apply Sound.foldl
    | with_reducible apply Sound.foldl_fst
    | intro _
    | split
    | (simp only [Sound.lit]; with_reducible apply Sound.parts))

theorem filterExpire_sound (src : Nat) (tseq : Nat) (s : State) (hs_ : Sound q_ k_ s) :
    Sound q_ k_ (filterExpire src tseq s) := by
  unfold filterExpire
  try dsimp only
  repeat' (first
    | with_reducible assumption
    | with_reducible apply Sound.ite
    | with_reducible apply Sound.foldl
    | with_reducible apply Sound.foldl_fst
    | intro _
    | split
    | (simp only [Sound.lit]; with_reducible apply Sound.parts))

theorem tseqRetire_sound (dst : Nat) (tseq : Nat) (s : State) (hs_ : Sound q_ k_ s) :
    Sound q_ k_ (tseqRetire dst tseq s) := by
  unfold tseqRetire
  try dsimp only
  repeat' (first
    | with_reducible assumption
    | with_reducible apply retire_sound
    | with_reducible apply Sound.ite
    | with_reducible apply Sound.foldl
    | with_reducible apply Sound.foldl_fst
    | intro _
    | split
    | (simp only [Sound.lit]; with_reducible apply Sound.parts))

end Sys2Proof.Machine
end

