-- ==== Sys2Proof/Laws/KeepsMuster.lean ====
section
/-! SUPPORT. What every operation of Machine/Muster.lean keeps (Laws/Sound.lean). -/

namespace Sys2Proof.Machine

variable {q_ : List Instr} {k_ : Nat}

theorem setMember_sound (s : State) (d : Nat) (v : Nat) (hs_ : Sound q_ k_ s) :
    Sound q_ k_ (setMember s d v) := by
  unfold setMember
  try dsimp only
  repeat' (first
    | with_reducible assumption
    | with_reducible apply Sound.ite
    | with_reducible apply Sound.foldl
    | with_reducible apply Sound.foldl_fst
    | intro _
    | split
    | (simp only [Sound.lit]; with_reducible apply Sound.parts))

theorem updateRole_sound (s : State) (hs_ : Sound q_ k_ s) :
    Sound q_ k_ (updateRole s) := by
  unfold updateRole
  try dsimp only
  repeat' (first
    | with_reducible assumption
    | with_reducible apply setCsrFld_sound
    | with_reducible apply Sound.ite
    | with_reducible apply Sound.foldl
    | with_reducible apply Sound.foldl_fst
    | intro _
    | split
    | (simp only [Sound.lit]; with_reducible apply Sound.parts))

theorem setTeamVer_sound (s : State) (e : Nat) (v : TeamVer) (hs_ : Sound q_ k_ s) :
    Sound q_ k_ (setTeamVer s e v) := by
  unfold setTeamVer
  try dsimp only
  repeat' (first
    | with_reducible assumption
    | with_reducible apply Sound.ite
    | with_reducible apply Sound.foldl
    | with_reducible apply Sound.foldl_fst
    | intro _
    | split
    | (simp only [Sound.lit]; with_reducible apply Sound.parts))

theorem handOff_sound (s : State) (p : Nat) (hs_ : Sound q_ k_ s) :
    Sound q_ k_ (handOff s p) := by
  unfold handOff
  try dsimp only
  repeat' (first
    | with_reducible assumption
    | with_reducible apply updPort_sound
    | with_reducible apply pump_sound
    | with_reducible apply Sound.ite
    | with_reducible apply Sound.foldl
    | with_reducible apply Sound.foldl_fst
    | intro _
    | split
    | (simp only [Sound.lit]; with_reducible apply Sound.parts))

theorem moveOn_sound (s : State) (hs_ : Sound q_ k_ s) :
    Sound q_ k_ (moveOn s) := by
  unfold moveOn
  try dsimp only
  repeat' (first
    | with_reducible assumption
    | with_reducible apply updPort_sound
    | with_reducible apply pump_sound
    | with_reducible apply Sound.ite
    | with_reducible apply Sound.foldl
    | with_reducible apply Sound.foldl_fst
    | intro _
    | split
    | (simp only [Sound.lit]; with_reducible apply Sound.parts))

theorem ageWaiting_sound (s : State) (hs_ : Sound q_ k_ s) :
    Sound q_ k_ (ageWaiting s) := by
  unfold ageWaiting
  try dsimp only
  repeat' (first
    | with_reducible assumption
    | with_reducible apply satCsrFld_sound
    | with_reducible apply updPort_sound
    | with_reducible apply Sound.ite
    | with_reducible apply Sound.foldl
    | with_reducible apply Sound.foldl_fst
    | intro _
    | split
    | (simp only [Sound.lit]; with_reducible apply Sound.parts))

theorem syncYoke_sound (s : State) (hs_ : Sound q_ k_ s) :
    Sound q_ k_ (syncYoke s) := by
  unfold syncYoke
  try dsimp only
  repeat' (first
    | with_reducible assumption
    | with_reducible apply setVer_sound
    | with_reducible apply Sound.ite
    | with_reducible apply Sound.foldl
    | with_reducible apply Sound.foldl_fst
    | intro _
    | split
    | (simp only [Sound.lit]; with_reducible apply Sound.parts))

theorem switchTeam_sound (s : State) (hs_ : Sound q_ k_ s) :
    Sound q_ k_ (switchTeam s) := by
  unfold switchTeam
  try dsimp only
  repeat' (first
    | with_reducible assumption
    | with_reducible apply setTeamVer_sound
    | with_reducible apply setCsrFld_sound
    | with_reducible apply moveOn_sound
    | with_reducible apply syncYoke_sound
    | with_reducible apply Sound.ite
    | with_reducible apply Sound.foldl
    | with_reducible apply Sound.foldl_fst
    | intro _
    | split
    | (simp only [Sound.lit]; with_reducible apply Sound.parts))

theorem refreshLinks_sound (s : State) (hs_ : Sound q_ k_ s) :
    Sound q_ k_ (refreshLinks s) := by
  unfold refreshLinks
  try dsimp only
  repeat' (first
    | with_reducible assumption
    | with_reducible apply moveOn_sound
    | with_reducible apply syncYoke_sound
    | with_reducible apply setTeamVer_sound
    | with_reducible apply Sound.ite
    | with_reducible apply Sound.foldl
    | with_reducible apply Sound.foldl_fst
    | intro _
    | split
    | (simp only [Sound.lit]; with_reducible apply Sound.parts))

theorem teamEpochFree_sound (s : State) (hs_ : Sound q_ k_ s) :
    Sound q_ k_ (teamEpochFree s) := by
  unfold teamEpochFree
  try dsimp only
  repeat' (first
    | with_reducible assumption
    | with_reducible apply wrapCsrFld_sound
    | with_reducible apply setCsrFld_sound
    | with_reducible apply setTeamVer_sound
    | with_reducible apply switchTeam_sound
    | with_reducible apply Sound.ite
    | with_reducible apply Sound.foldl
    | with_reducible apply Sound.foldl_fst
    | intro _
    | split
    | (simp only [Sound.lit]; with_reducible apply Sound.parts))

theorem musterSend_sound (s : State) (dst : Nat) (m : MusterMsg) (hs_ : Sound q_ k_ s) :
    Sound q_ k_ (musterSend s dst m) := by
  unfold musterSend
  try dsimp only
  repeat' (first
    | with_reducible assumption
    | with_reducible apply sendTxn_sound
    | with_reducible apply Sound.ite
    | with_reducible apply Sound.foldl
    | with_reducible apply Sound.foldl_fst
    | intro _
    | split
    | (simp only [Sound.lit]; with_reducible apply Sound.parts))

theorem flood_sound (s : State) (from_ : Option Nat) (m : MusterMsg) (hs_ : Sound q_ k_ s) :
    Sound q_ k_ (flood s from_ m) := by
  unfold flood
  try dsimp only
  repeat' (first
    | with_reducible assumption
    | with_reducible apply sendTxn_sound
    | with_reducible apply Sound.ite
    | with_reducible apply Sound.foldl
    | with_reducible apply Sound.foldl_fst
    | intro _
    | split
    | (simp only [Sound.lit]; with_reducible apply Sound.parts))

theorem nextSeq_sound (s : State) (hs_ : Sound q_ k_ s) :
    Sound q_ k_ (nextSeq s).1 := by
  unfold nextSeq
  try dsimp only
  repeat' (first
    | with_reducible assumption
    | with_reducible apply Sound.ite
    | with_reducible apply Sound.foldl
    | with_reducible apply Sound.foldl_fst
    | intro _
    | split
    | (simp only [Sound.lit]; with_reducible apply Sound.parts))

theorem firstSeen_sound {s : State} {orig : Nat} {seq : Nat} {x0_ : State} (e_ : firstSeen s orig seq = some x0_) (hs_ : Sound q_ k_ s) :
    Sound q_ k_ x0_ := by
  unfold firstSeen at e_
  try dsimp only at e_
  repeat' (first
    | with_reducible assumption
    | with_reducible apply Sound.ite
    | with_reducible apply Sound.foldl
    | with_reducible apply Sound.foldl_fst
    | intro _
    | (simp only [Option.map_eq_some_iff] at e_; obtain ⟨_, _, e_⟩ := e_; subst e_)
    | split at e_
    | (cases e_; done)
    | (injection e_ with e_; subst e_)
    | (injection e_ with e_; injection e_ with e_; subst e_)
    | split
    | (simp only [Sound.lit]; with_reducible apply Sound.parts))

theorem stopShadowing_sound (s : State) (hs_ : Sound q_ k_ s) :
    Sound q_ k_ (stopShadowing s) := by
  unfold stopShadowing
  try dsimp only
  repeat' (first
    | with_reducible assumption
    | with_reducible apply setCsrFld_sound
    | with_reducible apply Sound.ite
    | with_reducible apply Sound.foldl
    | with_reducible apply Sound.foldl_fst
    | intro _
    | split
    | (simp only [Sound.lit]; with_reducible apply Sound.parts))

theorem isolate_sound (s : State) (hs_ : Sound q_ k_ s) :
    Sound q_ k_ (isolate s) := by
  unfold isolate
  try dsimp only
  repeat' (first
    | with_reducible assumption
    | with_reducible apply setCsrFld_sound
    | with_reducible apply stopShadowing_sound
    | with_reducible apply Sound.ite
    | with_reducible apply Sound.foldl
    | with_reducible apply Sound.foldl_fst
    | intro _
    | split
    | (simp only [Sound.lit]; with_reducible apply Sound.parts))

theorem checkIsolated_sound (s : State) (hs_ : Sound q_ k_ s) :
    Sound q_ k_ (checkIsolated s) := by
  unfold checkIsolated
  try dsimp only
  repeat' (first
    | with_reducible assumption
    | with_reducible apply isolate_sound
    | with_reducible apply Sound.ite
    | with_reducible apply Sound.foldl
    | with_reducible apply Sound.foldl_fst
    | intro _
    | split
    | (simp only [Sound.lit]; with_reducible apply Sound.parts))

theorem ownLink_sound (s : State) (p : Nat) (up : Bool) (hs_ : Sound q_ k_ s) :
    Sound q_ k_ (ownLink s p up) := by
  unfold ownLink
  try dsimp only
  repeat' (first
    | with_reducible assumption
    | with_reducible apply nextSeq_sound
    | with_reducible apply checkIsolated_sound
    | with_reducible apply refreshLinks_sound
    | with_reducible apply flood_sound
    | with_reducible apply Sound.ite
    | with_reducible apply Sound.foldl
    | with_reducible apply Sound.foldl_fst
    | intro _
    | split
    | (simp only [Sound.lit]; with_reducible apply Sound.parts))

theorem setPortState_sound (s : State) (p : Nat) (v : Nat) (hs_ : Sound q_ k_ s) :
    Sound q_ k_ (setPortState s p v) := by
  unfold setPortState
  try dsimp only
  repeat' (first
    | with_reducible assumption
    | with_reducible apply setCsrFld_sound
    | with_reducible apply Sound.ite
    | with_reducible apply Sound.foldl
    | with_reducible apply Sound.foldl_fst
    | intro _
    | split
    | (simp only [Sound.lit]; with_reducible apply Sound.parts))

theorem trainId_sound (p : Nat) (coord : Nat) (port : Nat) (shape : Word) (s : State) (hs_ : Sound q_ k_ s) :
    Sound q_ k_ (trainId p coord port shape s) := by
  unfold trainId
  try dsimp only
  repeat' (first
    | with_reducible assumption
    | with_reducible apply setCsrFld_sound
    | with_reducible apply setPortState_sound
    | with_reducible apply updPort_sound
    | with_reducible apply pump_sound
    | with_reducible apply ownLink_sound
    | with_reducible apply note_sound
    | with_reducible apply Sound.ite
    | with_reducible apply Sound.foldl
    | with_reducible apply Sound.foldl_fst
    | intro _
    | split
    | (simp only [Sound.lit]; with_reducible apply Sound.parts))

theorem linkDown_sound (p : Nat) (lostLock : Bool) (s : State) (hs_ : Sound q_ k_ s) :
    Sound q_ k_ (linkDown p lostLock s) := by
  unfold linkDown
  try dsimp only
  repeat' (first
    | with_reducible assumption
    | with_reducible apply satCsrFld_sound
    | with_reducible apply setPortState_sound
    | with_reducible apply updPort_sound
    | with_reducible apply ownLink_sound
    | with_reducible apply handOff_sound
    | with_reducible apply Sound.ite
    | with_reducible apply Sound.foldl
    | with_reducible apply Sound.foldl_fst
    | intro _
    | split
    | (simp only [Sound.lit]; with_reducible apply Sound.parts))

theorem linkRetrain_sound (p : Nat) (s : State) (hs_ : Sound q_ k_ s) :
    Sound q_ k_ (linkRetrain p s) := by
  unfold linkRetrain
  try dsimp only
  repeat' (first
    | with_reducible assumption
    | with_reducible apply updPort_sound
    | with_reducible apply setPortState_sound
    | with_reducible apply takeHdr_sound
    | with_reducible apply emit_sound
    | with_reducible apply Sound.ite
    | with_reducible apply Sound.foldl
    | with_reducible apply Sound.foldl_fst
    | intro _
    | split
    | (simp only [Sound.lit]; with_reducible apply Sound.parts))

theorem heartbeat_sound (p : Nat) (h : FrameHdr) (coord : Nat) (role : Nat) (time : Word) (fields : Nat) (latency : Nat) (s : State) (hs_ : Sound q_ k_ s) :
    Sound q_ k_ (heartbeat p h coord role time fields latency s) := by
  unfold heartbeat
  try dsimp only
  repeat' (first
    | with_reducible assumption
    | with_reducible apply acceptHdr_sound
    | with_reducible apply updPort_sound
    | with_reducible apply note_sound
    | with_reducible apply setMember_sound
    | with_reducible apply Sound.ite
    | with_reducible apply Sound.foldl
    | with_reducible apply Sound.foldl_fst
    | intro _
    | split
    | (simp only [Sound.lit]; with_reducible apply Sound.parts))

theorem heartbeatSend_sound (s : State) (hs_ : Sound q_ k_ s) :
    Sound q_ k_ (heartbeatSend s) := by
  unfold heartbeatSend
  try dsimp only
  repeat' (first
    | with_reducible assumption
    | with_reducible apply takeHdr_sound
    | with_reducible apply setPort_sound
    | with_reducible apply emit_sound
    | with_reducible apply Sound.ite
    | with_reducible apply Sound.foldl
    | with_reducible apply Sound.foldl_fst
    | intro _
    | split
    | (simp only [Sound.lit]; with_reducible apply Sound.parts))

theorem applyCommit_sound (s : State) (c : Commit) (hs_ : Sound q_ k_ s) :
    Sound q_ k_ (applyCommit s c) := by
  unfold applyCommit
  try dsimp only
  repeat' (first
    | with_reducible assumption
    | with_reducible apply setMember_sound
    | with_reducible apply undelivered_sound
    | with_reducible apply setCsrFld_sound
    | with_reducible apply isolate_sound
    | with_reducible apply stopShadowing_sound
    | with_reducible apply checkIsolated_sound
    | with_reducible apply switchTeam_sound
    | with_reducible apply updateRole_sound
    | with_reducible apply Sound.ite
    | with_reducible apply Sound.foldl
    | with_reducible apply Sound.foldl_fst
    | intro _
    | split
    | (simp only [Sound.lit]; with_reducible apply Sound.parts))

theorem applyHeld_sound (f : Nat) (s : State) (h : Sound q_ k_ s) :
    Sound q_ k_ (applyHeld f s) := by
  induction f generalizing s with
  | zero => simp only [applyHeld, Sound.lit]; with_reducible apply Sound.parts; assumption
  | succ f_ ih =>
    simp only [applyHeld]
    repeat' (first
      | with_reducible assumption
      | with_reducible apply ih
      | with_reducible apply applyCommit_sound
      | with_reducible apply Sound.ite
      | with_reducible apply Sound.foldl
      | with_reducible apply Sound.foldl_fst
      | intro _
      | split
      | (simp only [Sound.lit]; with_reducible apply Sound.parts))

theorem commitChange_sound (s : State) (kind : Nat) (target : Nat) (hs_ : Sound q_ k_ s) :
    Sound q_ k_ (commitChange s kind target) := by
  unfold commitChange
  try dsimp only
  repeat' (first
    | with_reducible assumption
    | with_reducible apply checkIsolated_sound
    | with_reducible apply nextSeq_sound
    | with_reducible apply flood_sound
    | with_reducible apply applyCommit_sound
    | with_reducible apply Sound.ite
    | with_reducible apply Sound.foldl
    | with_reducible apply Sound.foldl_fst
    | intro _
    | split
    | (simp only [Sound.lit]; with_reducible apply Sound.parts))

theorem setQueries_sound (s : State) (l : List Query) (hs_ : Sound q_ k_ s) :
    Sound q_ k_ (setQueries s l) := by
  unfold setQueries
  try dsimp only
  repeat' (first
    | with_reducible assumption
    | with_reducible apply Sound.ite
    | with_reducible apply Sound.foldl
    | with_reducible apply Sound.foldl_fst
    | intro _
    | split
    | (simp only [Sound.lit]; with_reducible apply Sound.parts))

theorem onLost_sound (s : State) (sender : Nat) (target : Nat) (mepoch : Nat) (hs_ : Sound q_ k_ s) :
    Sound q_ k_ (onLost s sender target mepoch) := by
  unfold onLost
  try dsimp only
  repeat' (first
    | with_reducible assumption
    | with_reducible apply setQueries_sound
    | with_reducible apply commitChange_sound
    | with_reducible apply Sound.ite
    | with_reducible apply Sound.foldl
    | with_reducible apply Sound.foldl_fst
    | intro _
    | split
    | (simp only [Sound.lit]; with_reducible apply Sound.parts))

theorem onAlive_sound (s : State) (target : Nat) (mepoch : Nat) (hs_ : Sound q_ k_ s) :
    Sound q_ k_ (onAlive s target mepoch) := by
  unfold onAlive
  try dsimp only
  repeat' (first
    | with_reducible assumption
    | with_reducible apply setQueries_sound
    | with_reducible apply Sound.ite
    | with_reducible apply Sound.foldl
    | with_reducible apply Sound.foldl_fst
    | intro _
    | split
    | (simp only [Sound.lit]; with_reducible apply Sound.parts))

theorem onSuspect_sound (s : State) (target : Nat) (mepoch : Nat) (hs_ : Sound q_ k_ s) :
    Sound q_ k_ (onSuspect s target mepoch) := by
  unfold onSuspect
  try dsimp only
  repeat' (first
    | with_reducible assumption
    | with_reducible apply setQueries_sound
    | with_reducible apply onAlive_sound
    | with_reducible apply onLost_sound
    | with_reducible apply musterSend_sound
    | with_reducible apply Sound.ite
    | with_reducible apply Sound.foldl
    | with_reducible apply Sound.foldl_fst
    | intro _
    | split
    | (simp only [Sound.lit]; with_reducible apply Sound.parts))

theorem sendSuspect_sound (s : State) (target : Nat) (hs_ : Sound q_ k_ s) :
    Sound q_ k_ (sendSuspect s target) := by
  unfold sendSuspect
  try dsimp only
  repeat' (first
    | with_reducible assumption
    | with_reducible apply onSuspect_sound
    | with_reducible apply musterSend_sound
    | with_reducible apply Sound.ite
    | with_reducible apply Sound.foldl
    | with_reducible apply Sound.foldl_fst
    | intro _
    | split
    | (simp only [Sound.lit]; with_reducible apply Sound.parts))

theorem heartbeatMiss_sound (target : Nat) (s : State) (hs_ : Sound q_ k_ s) :
    Sound q_ k_ (heartbeatMiss target s) := by
  unfold heartbeatMiss
  try dsimp only
  repeat' (first
    | with_reducible assumption
    | with_reducible apply sendSuspect_sound
    | with_reducible apply Sound.ite
    | with_reducible apply Sound.foldl
    | with_reducible apply Sound.foldl_fst
    | intro _
    | split
    | (simp only [Sound.lit]; with_reducible apply Sound.parts))

theorem suspectRepeat_sound (target : Nat) (s : State) (hs_ : Sound q_ k_ s) :
    Sound q_ k_ (suspectRepeat target s) := by
  unfold suspectRepeat
  try dsimp only
  repeat' (first
    | with_reducible assumption
    | with_reducible apply sendSuspect_sound
    | with_reducible apply Sound.ite
    | with_reducible apply Sound.foldl
    | with_reducible apply Sound.foldl_fst
    | intro _
    | split
    | (simp only [Sound.lit]; with_reducible apply Sound.parts))

theorem takeMuster_sound {s : State} {p : Nat} {i : Nat} {x0_ : State} {x1_ : Txn} {x2_ : MusterMsg} (e_ : takeMuster s p i = some (x0_, x1_, x2_)) (hs_ : Sound q_ k_ s) :
    Sound q_ k_ x0_ := by
  unfold takeMuster at e_
  try dsimp only at e_
  repeat' (first
    | with_reducible assumption
    | with_reducible apply rxTake_sound
    | with_reducible apply Sound.ite
    | with_reducible apply Sound.foldl
    | with_reducible apply Sound.foldl_fst
    | intro _
    | (simp only [Option.map_eq_some_iff] at e_; obtain ⟨_, _, e_⟩ := e_; subst e_)
    | split at e_
    | (cases e_; done)
    | (injection e_ with e_; subst e_)
    | (injection e_ with e_; injection e_ with e_; subst e_)
    | split
    | (simp only [Sound.lit]; with_reducible apply Sound.parts))

theorem musterPass_sound (s : State) (t : Txn) (m : MusterMsg) (hs_ : Sound q_ k_ s) :
    Sound q_ k_ (musterPass s t m) := by
  unfold musterPass
  try dsimp only
  repeat' (first
    | with_reducible assumption
    | with_reducible apply sendTxn_sound
    | with_reducible apply Sound.ite
    | with_reducible apply Sound.foldl
    | with_reducible apply Sound.foldl_fst
    | intro _
    | split
    | (simp only [Sound.lit]; with_reducible apply Sound.parts))

theorem directed_sound (s : State) (t : Txn) (m : MusterMsg) (act : State → State) (hs_ : Sound q_ k_ s) (h_act : ∀ s, Sound q_ k_ s → Sound q_ k_ (act s)) :
    Sound q_ k_ (directed s t m act) := by
  unfold directed
  try dsimp only
  repeat' (first
    | with_reducible assumption
    | with_reducible apply musterPass_sound
    | with_reducible apply h_act
    | with_reducible apply Sound.ite
    | with_reducible apply Sound.foldl
    | with_reducible apply Sound.foldl_fst
    | intro _
    | split
    | (simp only [Sound.lit]; with_reducible apply Sound.parts))

theorem ageMuster_sound (p : Nat) (i : Nat) (s : State) (hs_ : Sound q_ k_ s) :
    Sound q_ k_ (ageMuster p i s) := by
  unfold ageMuster
  try dsimp only
  repeat' (first
    | with_reducible assumption
    | with_reducible apply satCsrFld_sound
    | with_reducible apply rxTake_sound
    | with_reducible apply Sound.ite
    | with_reducible apply Sound.foldl
    | with_reducible apply Sound.foldl_fst
    | intro _
    | split
    | (simp only [Sound.lit]; with_reducible apply Sound.parts))

theorem suspectIn_sound (p : Nat) (i : Nat) (s : State) (hs_ : Sound q_ k_ s) :
    Sound q_ k_ (suspectIn p i s) := by
  unfold suspectIn
  try dsimp only
  repeat' (first
    | with_reducible assumption
    | refine takeMuster_sound (by with_reducible assumption) ?_
    | with_reducible apply directed_sound
    | with_reducible apply onSuspect_sound
    | with_reducible apply Sound.ite
    | with_reducible apply Sound.foldl
    | with_reducible apply Sound.foldl_fst
    | intro _
    | split
    | (simp only [Sound.lit]; with_reducible apply Sound.parts))

theorem queryIn_sound (p : Nat) (i : Nat) (s : State) (hs_ : Sound q_ k_ s) :
    Sound q_ k_ (queryIn p i s) := by
  unfold queryIn
  try dsimp only
  repeat' (first
    | with_reducible assumption
    | refine takeMuster_sound (by with_reducible assumption) ?_
    | with_reducible apply directed_sound
    | with_reducible apply musterSend_sound
    | with_reducible apply Sound.ite
    | with_reducible apply Sound.foldl
    | with_reducible apply Sound.foldl_fst
    | intro _
    | split
    | (simp only [Sound.lit]; with_reducible apply Sound.parts))

theorem aliveIn_sound (p : Nat) (i : Nat) (s : State) (hs_ : Sound q_ k_ s) :
    Sound q_ k_ (aliveIn p i s) := by
  unfold aliveIn
  try dsimp only
  repeat' (first
    | with_reducible assumption
    | refine takeMuster_sound (by with_reducible assumption) ?_
    | with_reducible apply directed_sound
    | with_reducible apply onAlive_sound
    | with_reducible apply Sound.ite
    | with_reducible apply Sound.foldl
    | with_reducible apply Sound.foldl_fst
    | intro _
    | split
    | (simp only [Sound.lit]; with_reducible apply Sound.parts))

theorem lostIn_sound (p : Nat) (i : Nat) (s : State) (hs_ : Sound q_ k_ s) :
    Sound q_ k_ (lostIn p i s) := by
  unfold lostIn
  try dsimp only
  repeat' (first
    | with_reducible assumption
    | refine takeMuster_sound (by with_reducible assumption) ?_
    | with_reducible apply directed_sound
    | with_reducible apply onLost_sound
    | with_reducible apply Sound.ite
    | with_reducible apply Sound.foldl
    | with_reducible apply Sound.foldl_fst
    | intro _
    | split
    | (simp only [Sound.lit]; with_reducible apply Sound.parts))

theorem confirmTimeout_sound (target : Nat) (s : State) (hs_ : Sound q_ k_ s) :
    Sound q_ k_ (confirmTimeout target s) := by
  unfold confirmTimeout
  try dsimp only
  repeat' (first
    | with_reducible assumption
    | with_reducible apply commitChange_sound
    | with_reducible apply Sound.ite
    | with_reducible apply Sound.foldl
    | with_reducible apply Sound.foldl_fst
    | intro _
    | split
    | (simp only [Sound.lit]; with_reducible apply Sound.parts))

theorem commitIn_sound (p : Nat) (i : Nat) (s : State) (hs_ : Sound q_ k_ s) :
    Sound q_ k_ (commitIn p i s) := by
  unfold commitIn
  try dsimp only
  repeat' (first
    | with_reducible assumption
    | refine takeMuster_sound (by with_reducible assumption) ?_
    | refine firstSeen_sound (by with_reducible assumption) ?_
    | with_reducible apply flood_sound
    | with_reducible apply applyCommit_sound
    | with_reducible apply applyHeld_sound
    | with_reducible apply sendTxn_sound
    | with_reducible apply Sound.ite
    | with_reducible apply Sound.foldl
    | with_reducible apply Sound.foldl_fst
    | intro _
    | split
    | (simp only [Sound.lit]; with_reducible apply Sound.parts))

theorem missingIn_sound (p : Nat) (i : Nat) (s : State) (hs_ : Sound q_ k_ s) :
    Sound q_ k_ (missingIn p i s) := by
  unfold missingIn
  try dsimp only
  repeat' (first
    | with_reducible assumption
    | refine takeMuster_sound (by with_reducible assumption) ?_
    | with_reducible apply sendTxn_sound
    | with_reducible apply Sound.ite
    | with_reducible apply Sound.foldl
    | with_reducible apply Sound.foldl_fst
    | intro _
    | split
    | (simp only [Sound.lit]; with_reducible apply Sound.parts))

theorem linkEventIn_sound (p : Nat) (i : Nat) (s : State) (hs_ : Sound q_ k_ s) :
    Sound q_ k_ (linkEventIn p i s) := by
  unfold linkEventIn
  try dsimp only
  repeat' (first
    | with_reducible assumption
    | refine takeMuster_sound (by with_reducible assumption) ?_
    | refine firstSeen_sound (by with_reducible assumption) ?_
    | with_reducible apply checkIsolated_sound
    | with_reducible apply refreshLinks_sound
    | with_reducible apply flood_sound
    | with_reducible apply Sound.ite
    | with_reducible apply Sound.foldl
    | with_reducible apply Sound.foldl_fst
    | intro _
    | split
    | (simp only [Sound.lit]; with_reducible apply Sound.parts))

theorem admitAsk_sound (s : State) (d : Nat) (hs_ : Sound q_ k_ s) :
    Sound q_ k_ (admitAsk s d) := by
  unfold admitAsk
  try dsimp only
  repeat' (first
    | with_reducible assumption
    | with_reducible apply commitChange_sound
    | with_reducible apply Sound.ite
    | with_reducible apply Sound.foldl
    | with_reducible apply Sound.foldl_fst
    | intro _
    | split
    | (simp only [Sound.lit]; with_reducible apply Sound.parts))

theorem askAdmit_sound (s : State) (d : Nat) (hs_ : Sound q_ k_ s) :
    Sound q_ k_ (askAdmit s d) := by
  unfold askAdmit
  try dsimp only
  repeat' (first
    | with_reducible assumption
    | with_reducible apply admitAsk_sound
    | with_reducible apply musterSend_sound
    | with_reducible apply Sound.ite
    | with_reducible apply Sound.foldl
    | with_reducible apply Sound.foldl_fst
    | intro _
    | split
    | (simp only [Sound.lit]; with_reducible apply Sound.parts))

theorem compareReport_sound (s : State) (d : Nat) (swath : Nat) (out : Word) (start : Nat) (weight : Word) (hs_ : Sound q_ k_ s) :
    Sound q_ k_ (compareReport s d swath out start weight) := by
  unfold compareReport
  try dsimp only
  repeat' (first
    | with_reducible assumption
    | with_reducible apply satCsrFld_sound
    | with_reducible apply askAdmit_sound
    | with_reducible apply setCsrFld_sound
    | with_reducible apply note_sound
    | with_reducible apply Sound.ite
    | with_reducible apply Sound.foldl
    | with_reducible apply Sound.foldl_fst
    | intro _
    | split
    | (simp only [Sound.lit]; with_reducible apply Sound.parts))

theorem shadowReportIn_sound (p : Nat) (i : Nat) (s : State) (hs_ : Sound q_ k_ s) :
    Sound q_ k_ (shadowReportIn p i s) := by
  unfold shadowReportIn
  try dsimp only
  repeat' (first
    | with_reducible assumption
    | refine takeMuster_sound (by with_reducible assumption) ?_
    | with_reducible apply directed_sound
    | with_reducible apply setMember_sound
    | with_reducible apply compareReport_sound
    | with_reducible apply Sound.ite
    | with_reducible apply Sound.foldl
    | with_reducible apply Sound.foldl_fst
    | intro _
    | split
    | (simp only [Sound.lit]; with_reducible apply Sound.parts))

theorem admitIn_sound (p : Nat) (i : Nat) (s : State) (hs_ : Sound q_ k_ s) :
    Sound q_ k_ (admitIn p i s) := by
  unfold admitIn
  try dsimp only
  repeat' (first
    | with_reducible assumption
    | refine takeMuster_sound (by with_reducible assumption) ?_
    | with_reducible apply admitAsk_sound
    | with_reducible apply directed_sound
    | with_reducible apply setMember_sound
    | with_reducible apply Sound.ite
    | with_reducible apply Sound.foldl
    | with_reducible apply Sound.foldl_fst
    | intro _
    | split
    | (simp only [Sound.lit]; with_reducible apply Sound.parts))

theorem shadowSwathEnd_sound (s : State) (swath : Nat) (hs_ : Sound q_ k_ s) :
    Sound q_ k_ (shadowSwathEnd s swath) := by
  unfold shadowSwathEnd
  try dsimp only
  repeat' (first
    | with_reducible assumption
    | with_reducible apply musterSend_sound
    | with_reducible apply Sound.ite
    | with_reducible apply Sound.foldl
    | with_reducible apply Sound.foldl_fst
    | intro _
    | split
    | (simp only [Sound.lit]; with_reducible apply Sound.parts))

theorem incompleteRound_sound (s : State) (j : Nat) (n : Nat) (x : ShRound) (hs_ : Sound q_ k_ s) :
    Sound q_ k_ (incompleteRound s j n x) := by
  unfold incompleteRound
  try dsimp only
  repeat' (first
    | with_reducible assumption
    | with_reducible apply satCsrFld_sound
    | with_reducible apply setNode_sound
    | with_reducible apply injectAt_sound
    | with_reducible apply Sound.ite
    | with_reducible apply Sound.foldl
    | with_reducible apply Sound.foldl_fst
    | intro _
    | split
    | (simp only [Sound.lit]; with_reducible apply Sound.parts))

theorem incompleteRounds_sound (s : State) (hs_ : Sound q_ k_ s) :
    Sound q_ k_ (incompleteRounds s) := by
  unfold incompleteRounds
  try dsimp only
  repeat' (first
    | with_reducible assumption
    | with_reducible apply incompleteRound_sound
    | with_reducible apply Sound.ite
    | with_reducible apply Sound.foldl
    | with_reducible apply Sound.foldl_fst
    | intro _
    | split
    | (simp only [Sound.lit]; with_reducible apply Sound.parts))

theorem deliverChange_sound (s : State) (c : Commit) (hs_ : Sound q_ k_ s) :
    Sound q_ k_ (deliverChange s c) := by
  unfold deliverChange
  try dsimp only
  repeat' (first
    | with_reducible assumption
    | with_reducible apply csrSet_sound
    | with_reducible apply incompleteRounds_sound
    | with_reducible apply updateRole_sound
    | with_reducible apply setCsrFld_sound
    | with_reducible apply Sound.ite
    | with_reducible apply Sound.foldl
    | with_reducible apply Sound.foldl_fst
    | intro _
    | split
    | (simp only [Sound.lit]; with_reducible apply Sound.parts))

theorem foldRemote_sound (s : State) (j : Nat) (n : Nat) (p : Packet) (digest : Word) (hs_ : Sound q_ k_ s) :
    Sound q_ k_ (foldRemote s j n p digest) := by
  unfold foldRemote
  try dsimp only
  repeat' (first
    | with_reducible assumption
    | with_reducible apply note_sound
    | with_reducible apply setCsrFld_sound
    | with_reducible apply satCsrFld_sound
    | with_reducible apply addPart_sound
    | with_reducible apply setNode_sound
    | with_reducible apply completeRound_sound
    | with_reducible apply Sound.ite
    | with_reducible apply Sound.foldl
    | with_reducible apply Sound.foldl_fst
    | intro _
    | split
    | (simp only [Sound.lit]; with_reducible apply Sound.parts))

theorem remoteSheaf_sound (id : Nat) (s : State) (hs_ : Sound q_ k_ s) :
    Sound q_ k_ (remoteSheaf id s) := by
  unfold remoteSheaf
  try dsimp only
  repeat' (first
    | with_reducible assumption
    | with_reducible apply dropPkt_sound
    | with_reducible apply rejectRound_sound
    | with_reducible apply satCsrFld_sound
    | with_reducible apply foldRemote_sound
    | with_reducible apply Sound.ite
    | with_reducible apply Sound.foldl
    | with_reducible apply Sound.foldl_fst
    | intro _
    | split
    | (simp only [Sound.lit]; with_reducible apply Sound.parts))

end Sys2Proof.Machine
end

