-- ==== Sys2Proof/Laws/KeepsControl.lean ====
section
/-! SUPPORT. What every operation of Machine/Control.lean keeps (Laws/Sound.lean). -/

namespace Sys2Proof.Machine

variable {q_ : List Instr} {k_ : Nat}

theorem nopEffect_sound (u0_ : BitVec 32) (u1_ : Thread) (s : State) (u3_ : Nat) (u4_ : Nat) (hs_ : Sound q_ k_ s) :
    DoneSound q_ k_ (nopEffect u0_ u1_ s u3_ u4_) := by
  unfold nopEffect
  try dsimp only
  repeat' (first
    | with_reducible assumption
    | with_reducible apply Sound.ite
    | with_reducible apply DoneSound.ite
    | with_reducible apply doneNext_sound
    | with_reducible apply doneJump_sound
    | with_reducible apply doneFault_sound
    | with_reducible apply doneStall_sound
    | with_reducible apply doneEnded_sound
    | with_reducible apply Sound.foldl
    | with_reducible apply Sound.foldl_fst
    | intro _
    | split
    | (simp only [Sound.lit]; with_reducible apply Sound.parts))

theorem brEffect_sound (w : BitVec 32) (th : Thread) (s : State) (u3_ : Nat) (u4_ : Nat) (hs_ : Sound q_ k_ s) :
    DoneSound q_ k_ (brEffect w th s u3_ u4_) := by
  unfold brEffect
  try dsimp only
  repeat' (first
    | with_reducible assumption
    | with_reducible apply Sound.ite
    | with_reducible apply DoneSound.ite
    | with_reducible apply doneNext_sound
    | with_reducible apply doneJump_sound
    | with_reducible apply doneFault_sound
    | with_reducible apply doneStall_sound
    | with_reducible apply doneEnded_sound
    | with_reducible apply Sound.foldl
    | with_reducible apply Sound.foldl_fst
    | intro _
    | split
    | (simp only [Sound.lit]; with_reducible apply Sound.parts))

theorem jrEffect_sound (w : BitVec 32) (th : Thread) (s : State) (u3_ : Nat) (u4_ : Nat) (hs_ : Sound q_ k_ s) :
    DoneSound q_ k_ (jrEffect w th s u3_ u4_) := by
  unfold jrEffect
  try dsimp only
  repeat' (first
    | with_reducible assumption
    | with_reducible apply poisoned_sound
    | with_reducible apply Sound.ite
    | with_reducible apply DoneSound.ite
    | with_reducible apply doneNext_sound
    | with_reducible apply doneJump_sound
    | with_reducible apply doneFault_sound
    | with_reducible apply doneStall_sound
    | with_reducible apply doneEnded_sound
    | with_reducible apply Sound.foldl
    | with_reducible apply Sound.foldl_fst
    | intro _
    | split
    | (simp only [Sound.lit]; with_reducible apply Sound.parts))

theorem dbnzEffect_sound (w : BitVec 32) (th : Thread) (s : State) (c : Nat) (t : Nat) (hs_ : Sound q_ k_ s) :
    DoneSound q_ k_ (dbnzEffect w th s c t) := by
  unfold dbnzEffect
  try dsimp only
  repeat' (first
    | with_reducible assumption
    | with_reducible apply poisoned_sound
    | with_reducible apply thUpd_sound
    | with_reducible apply Sound.ite
    | with_reducible apply DoneSound.ite
    | with_reducible apply doneNext_sound
    | with_reducible apply doneJump_sound
    | with_reducible apply doneFault_sound
    | with_reducible apply doneStall_sound
    | with_reducible apply doneEnded_sound
    | with_reducible apply Sound.foldl
    | with_reducible apply Sound.foldl_fst
    | intro _
    | split
    | (simp only [Sound.lit]; with_reducible apply Sound.parts))

theorem endEffect_sound (u0_ : BitVec 32) (th : Thread) (s : State) (c : Nat) (t : Nat) (hs_ : Sound q_ k_ s) :
    DoneSound q_ k_ (endEffect u0_ th s c t) := by
  unfold endEffect
  try dsimp only
  repeat' (first
    | with_reducible assumption
    | with_reducible apply progressMark_sound
    | with_reducible apply updCore_sound
    | with_reducible apply Sound.ite
    | with_reducible apply DoneSound.ite
    | with_reducible apply doneNext_sound
    | with_reducible apply doneJump_sound
    | with_reducible apply doneFault_sound
    | with_reducible apply doneStall_sound
    | with_reducible apply doneEnded_sound
    | with_reducible apply Sound.foldl
    | with_reducible apply Sound.foldl_fst
    | intro _
    | split
    | (simp only [Sound.lit]; with_reducible apply Sound.parts))

theorem trapEffect_sound (w : BitVec 32) (u1_ : Thread) (s : State) (u3_ : Nat) (u4_ : Nat) (hs_ : Sound q_ k_ s) :
    DoneSound q_ k_ (trapEffect w u1_ s u3_ u4_) := by
  unfold trapEffect
  try dsimp only
  repeat' (first
    | with_reducible assumption
    | with_reducible apply Sound.ite
    | with_reducible apply DoneSound.ite
    | with_reducible apply doneNext_sound
    | with_reducible apply doneJump_sound
    | with_reducible apply doneFault_sound
    | with_reducible apply doneStall_sound
    | with_reducible apply doneEnded_sound
    | with_reducible apply Sound.foldl
    | with_reducible apply Sound.foldl_fst
    | intro _
    | split
    | (simp only [Sound.lit]; with_reducible apply Sound.parts))

end Sys2Proof.Machine
end

