-- ==== Sys2Proof/Laws/KeepsTasks.lean ====
section
/-! SUPPORT. What every operation of Machine/Tasks.lean keeps (Laws/Sound.lean). -/

namespace Sys2Proof.Machine

variable {q_ : List Instr} {k_ : Nat}

theorem taskFiring_sound (c : Nat) (s : State) (hs_ : Sound q_ k_ s) :
    Sound q_ k_ (taskFiring c s) := by
  unfold taskFiring
  try dsimp only
  repeat' (first
    | with_reducible assumption
    | with_reducible apply setCore_sound
    | with_reducible apply Sound.ite
    | with_reducible apply Sound.foldl
    | with_reducible apply Sound.foldl_fst
    | intro _
    | split
    | (simp only [Sound.lit]; with_reducible apply Sound.parts))

theorem clearStalls_sound (s : State) (c : Nat) (m : Nat) (hs_ : Sound q_ k_ s) :
    Sound q_ k_ (clearStalls s c m) := by
  unfold clearStalls
  try dsimp only
  repeat' (first
    | with_reducible assumption
    | with_reducible apply updCore_sound
    | with_reducible apply Sound.ite
    | with_reducible apply Sound.foldl
    | with_reducible apply Sound.foldl_fst
    | intro _
    | split
    | (simp only [Sound.lit]; with_reducible apply Sound.parts))

theorem promoteAccess_sound (c : Nat) (prec : Nat) (since : Nat) (s : State) (hs_ : Sound q_ k_ s) :
    Sound q_ k_ (promoteAccess c prec since s) := by
  unfold promoteAccess
  try dsimp only
  repeat' (first
    | with_reducible assumption
    | with_reducible apply setCore_sound
    | with_reducible apply Sound.ite
    | with_reducible apply Sound.foldl
    | with_reducible apply Sound.foldl_fst
    | intro _
    | split
    | (simp only [Sound.lit]; with_reducible apply Sound.parts))

theorem scrubWords_sound (s : State) (c w n : Nat) (h : Sound q_ k_ s) :
    Sound q_ k_ (scrubWords s c w n) := by
  induction n generalizing s w with
  | zero => simp only [scrubWords]; assumption
  | succ f_ ih =>
    simp only [scrubWords]
    repeat' (first
      | with_reducible assumption
      | with_reducible apply ih
      | with_reducible apply spdRead_sound
      | with_reducible apply Sound.ite
      | with_reducible apply Sound.foldl
      | with_reducible apply Sound.foldl_fst
      | intro _
      | split
      | (simp only [Sound.lit]; with_reducible apply Sound.parts))

theorem scrubStep_sound (c : Nat) (ups : List (Nat × BitVec 72)) (s : State) (hs_ : Sound q_ k_ s) :
    Sound q_ k_ (scrubStep c ups s) := by
  unfold scrubStep
  try dsimp only
  repeat' (first
    | with_reducible assumption
    | with_reducible apply updCore_sound
    | with_reducible apply scrubWords_sound
    | with_reducible apply Sound.ite
    | with_reducible apply Sound.foldl
    | with_reducible apply Sound.foldl_fst
    | intro _
    | split
    | (simp only [Sound.lit]; with_reducible apply Sound.parts))

end Sys2Proof.Machine
end

