-- ==== Sys2Proof/Laws/KeepsFurrow.lean ====
section
/-! SUPPORT. What every operation of Machine/Furrow.lean keeps (Laws/Sound.lean). -/

namespace Sys2Proof.Machine

variable {q_ : List Instr} {k_ : Nat}

theorem startSwitch_sound (s : State) (c : Nat) (hs_ : Sound q_ k_ s) :
    Sound q_ k_ (startSwitch s c) := by
  unfold startSwitch
  try dsimp only
  repeat' (first
    | with_reducible assumption
    | with_reducible apply setCore_sound
    | with_reducible apply Sound.ite
    | with_reducible apply Sound.foldl
    | with_reducible apply Sound.foldl_fst
    | intro _
    | split
    | (simp only [Sound.lit]; with_reducible apply Sound.parts))

theorem takeSource_sound (s : State) (c : Nat) (src : Nat) (hs_ : Sound q_ k_ s) :
    Sound q_ k_ (takeSource s c src).1 := by
  unfold takeSource
  try dsimp only
  repeat' (first
    | with_reducible assumption
    | with_reducible apply qRead_sound
    | with_reducible apply setCore_sound
    | with_reducible apply Sound.ite
    | with_reducible apply Sound.foldl
    | with_reducible apply Sound.foldl_fst
    | intro _
    | split
    | (simp only [Sound.lit]; with_reducible apply Sound.parts))

theorem linkMove_sound (c : Nat) (d : Nat) (s : State) (hs_ : Sound q_ k_ s) :
    Sound q_ k_ (linkMove c d s) := by
  unfold linkMove
  try dsimp only
  repeat' (first
    | with_reducible assumption
    | with_reducible apply takeSource_sound
    | with_reducible apply progressMark_sound
    | with_reducible apply updCore_sound
    | with_reducible apply Sound.ite
    | with_reducible apply Sound.foldl
    | with_reducible apply Sound.foldl_fst
    | intro _
    | split
    | (simp only [Sound.lit]; with_reducible apply Sound.parts))

theorem furrowFail_sound (s : State) (c : Nat) (hs_ : Sound q_ k_ s) :
    Sound q_ k_ (furrowFail s c) := by
  unfold furrowFail
  try dsimp only
  repeat' (first
    | with_reducible assumption
    | with_reducible apply note_sound
    | with_reducible apply Sound.ite
    | with_reducible apply Sound.foldl
    | with_reducible apply Sound.foldl_fst
    | intro _
    | split
    | (simp only [Sound.lit]; with_reducible apply Sound.parts))

theorem deliverFlit_sound (s : State) (n : Nat) (side : Nat) (dst : Nat) (e : QEntry) (hs_ : Sound q_ k_ s) :
    Sound q_ k_ (deliverFlit s n side dst e) := by
  unfold deliverFlit
  try dsimp only
  repeat' (first
    | with_reducible assumption
    | with_reducible apply furrowFail_sound
    | with_reducible apply setCore_sound
    | with_reducible apply Sound.ite
    | with_reducible apply Sound.foldl
    | with_reducible apply Sound.foldl_fst
    | intro _
    | split
    | (simp only [Sound.lit]; with_reducible apply Sound.parts))

theorem sidebandLost_sound (s : State) (c : Nat) (d : Nat) (n : Nat) (hs_ : Sound q_ k_ s) :
    Sound q_ k_ (sidebandLost s c d n) := by
  unfold sidebandLost
  try dsimp only
  repeat' (first
    | with_reducible assumption
    | with_reducible apply updCore_sound
    | with_reducible apply furrowFail_sound
    | with_reducible apply Sound.ite
    | with_reducible apply Sound.foldl
    | with_reducible apply Sound.foldl_fst
    | intro _
    | split
    | (simp only [Sound.lit]; with_reducible apply Sound.parts))

theorem sidebandCE_sound (s : State) (n : Nat) (sb : Fetch) (hs_ : Sound q_ k_ s) :
    Sound q_ k_ (sidebandCE s n sb) := by
  unfold sidebandCE
  try dsimp only
  repeat' (first
    | with_reducible assumption
    | with_reducible apply updCore_sound
    | with_reducible apply Sound.ite
    | with_reducible apply Sound.foldl
    | with_reducible apply Sound.foldl_fst
    | intro _
    | split
    | (simp only [Sound.lit]; with_reducible apply Sound.parts))

theorem flitArrival_sound (c : Nat) (d : Nat) (par : BitVec 4) (sb : Fetch) (s : State) (hs_ : Sound q_ k_ s) :
    Sound q_ k_ (flitArrival c d par sb s) := by
  unfold flitArrival
  try dsimp only
  repeat' (first
    | with_reducible assumption
    | with_reducible apply setCore_sound
    | with_reducible apply sidebandLost_sound
    | with_reducible apply updCore_sound
    | with_reducible apply sidebandCE_sound
    | with_reducible apply deliverFlit_sound
    | with_reducible apply Sound.ite
    | with_reducible apply Sound.foldl
    | with_reducible apply Sound.foldl_fst
    | intro _
    | split
    | (simp only [Sound.lit]; with_reducible apply Sound.parts))

theorem creditReturn_sound (c : Nat) (d : Nat) (sb : Fetch) (s : State) (hs_ : Sound q_ k_ s) :
    Sound q_ k_ (creditReturn c d sb s) := by
  unfold creditReturn
  try dsimp only
  repeat' (first
    | with_reducible assumption
    | with_reducible apply sidebandLost_sound
    | with_reducible apply sidebandCE_sound
    | with_reducible apply setCore_sound
    | with_reducible apply updCore_sound
    | with_reducible apply Sound.ite
    | with_reducible apply Sound.foldl
    | with_reducible apply Sound.foldl_fst
    | intro _
    | split
    | (simp only [Sound.lit]; with_reducible apply Sound.parts))

theorem injectSilo_sound (s : State) (c : Nat) (tag : Nat) (kind : Nat) (q : Nat) (place : Nat) (len : Nat) (data : List PWord) (hs_ : Sound q_ k_ s) :
    Sound q_ k_ (injectSilo s c tag kind q place len data) := by
  unfold injectSilo
  try dsimp only
  repeat' (first
    | with_reducible assumption
    | with_reducible apply setCore_sound
    | with_reducible apply sendReq_sound
    | with_reducible apply Sound.ite
    | with_reducible apply Sound.foldl
    | with_reducible apply Sound.foldl_fst
    | intro _
    | split
    | (simp only [Sound.lit]; with_reducible apply Sound.parts))

theorem countSpilled_sound (s : State) (c : Nat) (q : Nat) (hs_ : Sound q_ k_ s) :
    Sound q_ k_ (countSpilled s c q) := by
  unfold countSpilled
  try dsimp only
  repeat' (first
    | with_reducible assumption
    | with_reducible apply updCore_sound
    | with_reducible apply Sound.ite
    | with_reducible apply Sound.foldl
    | with_reducible apply Sound.foldl_fst
    | intro _
    | split
    | (simp only [Sound.lit]; with_reducible apply Sound.parts))

theorem moverPostServe_sound (s : State) (c : Nat) (q : Nat) (hs_ : Sound q_ k_ s) :
    Sound q_ k_ (moverPostServe s c q) := by
  unfold moverPostServe
  try dsimp only
  repeat' (first
    | with_reducible assumption
    | with_reducible apply countSpilled_sound
    | with_reducible apply extPush_sound
    | with_reducible apply setCore_sound
    | with_reducible apply injectSilo_sound
    | with_reducible apply Sound.ite
    | with_reducible apply Sound.foldl
    | with_reducible apply Sound.foldl_fst
    | intro _
    | split
    | (simp only [Sound.lit]; with_reducible apply Sound.parts))

theorem moverRefillServe_sound (s : State) (c : Nat) (q : Nat) (hs_ : Sound q_ k_ s) :
    Sound q_ k_ (moverRefillServe s c q) := by
  unfold moverRefillServe
  try dsimp only
  repeat' (first
    | with_reducible assumption
    | with_reducible apply setCore_sound
    | with_reducible apply injectSilo_sound
    | with_reducible apply Sound.ite
    | with_reducible apply Sound.foldl
    | with_reducible apply Sound.foldl_fst
    | intro _
    | split
    | (simp only [Sound.lit]; with_reducible apply Sound.parts))

theorem moverServe_sound (s : State) (c : Nat) (q : Nat) (hs_ : Sound q_ k_ s) :
    Sound q_ k_ (moverServe s c q) := by
  unfold moverServe
  try dsimp only
  repeat' (first
    | with_reducible assumption
    | with_reducible apply moverPostServe_sound
    | with_reducible apply moverRefillServe_sound
    | with_reducible apply Sound.ite
    | with_reducible apply Sound.foldl
    | with_reducible apply Sound.foldl_fst
    | intro _
    | split
    | (simp only [Sound.lit]; with_reducible apply Sound.parts))

theorem moverStep_sound (c : Nat) (s : State) (hs_ : Sound q_ k_ s) :
    Sound q_ k_ (moverStep c s) := by
  unfold moverStep
  try dsimp only
  repeat' (first
    | with_reducible assumption
    | with_reducible apply moverServe_sound
    | with_reducible apply setCore_sound
    | with_reducible apply Sound.ite
    | with_reducible apply Sound.foldl
    | with_reducible apply Sound.foldl_fst
    | intro _
    | split
    | (simp only [Sound.lit]; with_reducible apply Sound.parts))

theorem sendProbe_sound (s : State) (c : Nat) (q : Nat) (p : Probe) (hs_ : Sound q_ k_ s) :
    Sound q_ k_ (sendProbe s c q p).1 := by
  unfold sendProbe
  try dsimp only
  repeat' (first
    | with_reducible assumption
    | with_reducible apply updCore_sound
    | with_reducible apply injectCore_sound
    | with_reducible apply Sound.ite
    | with_reducible apply Sound.foldl
    | with_reducible apply Sound.foldl_fst
    | intro _
    | split
    | (simp only [Sound.lit]; with_reducible apply Sound.parts))

theorem forwardProbe_sound (s : State) (c : Nat) (n : Nat) (p : Probe) (ins : Bool) (hs_ : Sound q_ k_ s) :
    Sound q_ k_ (forwardProbe s c n p ins).1 := by
  unfold forwardProbe
  try dsimp only
  repeat' (first
    | with_reducible assumption
    | with_reducible apply sendProbe_sound
    | with_reducible apply Sound.ite
    | with_reducible apply Sound.foldl
    | with_reducible apply Sound.foldl_fst
    | intro _
    | split
    | (simp only [Sound.lit]; with_reducible apply Sound.parts))

theorem probeSend_sound (c : Nat) (n : Nat) (s : State) (hs_ : Sound q_ k_ s) :
    Sound q_ k_ (probeSend c n s) := by
  unfold probeSend
  try dsimp only
  repeat' (first
    | with_reducible assumption
    | with_reducible apply setCore_sound
    | with_reducible apply forwardProbe_sound
    | with_reducible apply Sound.ite
    | with_reducible apply Sound.foldl
    | with_reducible apply Sound.foldl_fst
    | intro _
    | split
    | (simp only [Sound.lit]; with_reducible apply Sound.parts))

theorem deadlockFound_sound (s : State) (c : Nat) (n : Nat) (hs_ : Sound q_ k_ s) :
    Sound q_ k_ (deadlockFound s c n) := by
  unfold deadlockFound
  try dsimp only
  repeat' (first
    | with_reducible assumption
    | with_reducible apply updCore_sound
    | with_reducible apply note_sound
    | with_reducible apply setCore_sound
    | with_reducible apply Sound.ite
    | with_reducible apply Sound.foldl
    | with_reducible apply Sound.foldl_fst
    | intro _
    | split
    | (simp only [Sound.lit]; with_reducible apply Sound.parts))

theorem probeAt_sound (s : State) (c : Nat) (n : Nat) (p : Probe) (hs_ : Sound q_ k_ s) :
    Sound q_ k_ (probeAt s c n p) := by
  unfold probeAt
  try dsimp only
  repeat' (first
    | with_reducible assumption
    | with_reducible apply deadlockFound_sound
    | with_reducible apply setCore_sound
    | with_reducible apply forwardProbe_sound
    | with_reducible apply updCore_sound
    | with_reducible apply Sound.ite
    | with_reducible apply Sound.foldl
    | with_reducible apply Sound.foldl_fst
    | intro _
    | split
    | (simp only [Sound.lit]; with_reducible apply Sound.parts))

theorem probeStep_sound (c : Nat) (pkt : Option Nat) (s : State) (hs_ : Sound q_ k_ s) :
    Sound q_ k_ (probeStep c pkt s) := by
  unfold probeStep
  try dsimp only
  repeat' (first
    | with_reducible assumption
    | with_reducible apply updCore_sound
    | with_reducible apply dropPkt_sound
    | with_reducible apply setCore_sound
    | with_reducible apply probeAt_sound
    | with_reducible apply Sound.ite
    | with_reducible apply Sound.foldl
    | with_reducible apply Sound.foldl_fst
    | intro _
    | split
    | (simp only [Sound.lit]; with_reducible apply Sound.parts))

theorem discardDrain_sound (s : State) (c : Nat) (hs_ : Sound q_ k_ s) :
    Sound q_ k_ (discardDrain s c) := by
  unfold discardDrain
  try dsimp only
  repeat' (first
    | with_reducible assumption
    | with_reducible apply abandonMatrix_sound
    | with_reducible apply updCore_sound
    | with_reducible apply Sound.ite
    | with_reducible apply Sound.foldl
    | with_reducible apply Sound.foldl_fst
    | intro _
    | split
    | (simp only [Sound.lit]; with_reducible apply Sound.parts))

theorem quiescentPass_sound (n : Nat) (s : State) (hs_ : Sound q_ k_ s) :
    Sound q_ k_ (quiescentPass n s) := by
  unfold quiescentPass
  try dsimp only
  repeat' (first
    | with_reducible assumption
    | with_reducible apply updCore_sound
    | with_reducible apply abandonRounds_sound
    | with_reducible apply Sound.ite
    | with_reducible apply Sound.foldl
    | with_reducible apply Sound.foldl_fst
    | intro _
    | split
    | (simp only [Sound.lit]; with_reducible apply Sound.parts))

theorem quiescentTimeout_sound (n : Nat) (s : State) (hs_ : Sound q_ k_ s) :
    Sound q_ k_ (quiescentTimeout n s) := by
  unfold quiescentTimeout
  try dsimp only
  repeat' (first
    | with_reducible assumption
    | with_reducible apply abandonRounds_sound
    | with_reducible apply discardDrain_sound
    | with_reducible apply Sound.ite
    | with_reducible apply Sound.foldl
    | with_reducible apply Sound.foldl_fst
    | intro _
    | split
    | (simp only [Sound.lit]; with_reducible apply Sound.parts))

end Sys2Proof.Machine
end

