-- ==== Sys2Proof/Laws/KeepsMatrix.lean ====
section
/-! SUPPORT. What every operation of Machine/Matrix.lean keeps (Laws/Sound.lean). -/

namespace Sys2Proof.Machine

variable {q_ : List Instr} {k_ : Nat}

theorem mmaEffect_sound (w : BitVec 32) (th : Thread) (s : State) (c : Nat) (t : Nat) (hs_ : Sound q_ k_ s) :
    DoneSound q_ k_ (mmaEffect w th s c t) := by
  unfold mmaEffect
  try dsimp only
  repeat' (first
    | with_reducible assumption
    | with_reducible apply poisoned_sound
    | with_reducible apply updCore_sound
    | with_reducible apply Sound.ite
    | with_reducible apply DoneSound.ite
    | with_reducible apply doneNext_sound
    | with_reducible apply doneJump_sound
    | with_reducible apply doneFault_sound
    | with_reducible apply doneStall_sound
    | with_reducible apply doneEnded_sound
    | with_reducible apply Sound.foldl
    | with_reducible apply Sound.foldl_fst
    | intro _
    | split
    | (simp only [Sound.lit]; with_reducible apply Sound.parts))

theorem mdrainEffect_sound (w : BitVec 32) (th : Thread) (s : State) (c : Nat) (t : Nat) (hs_ : Sound q_ k_ s) :
    DoneSound q_ k_ (mdrainEffect w th s c t) := by
  unfold mdrainEffect
  try dsimp only
  repeat' (first
    | with_reducible assumption
    | with_reducible apply poisoned_sound
    | with_reducible apply updCore_sound
    | with_reducible apply Sound.ite
    | with_reducible apply DoneSound.ite
    | with_reducible apply doneNext_sound
    | with_reducible apply doneJump_sound
    | with_reducible apply doneFault_sound
    | with_reducible apply doneStall_sound
    | with_reducible apply doneEnded_sound
    | with_reducible apply Sound.foldl
    | with_reducible apply Sound.foldl_fst
    | intro _
    | split
    | (simp only [Sound.lit]; with_reducible apply Sound.parts))

theorem mwaitEffect_sound (w : BitVec 32) (u1_ : Thread) (s : State) (c : Nat) (u4_ : Nat) (hs_ : Sound q_ k_ s) :
    DoneSound q_ k_ (mwaitEffect w u1_ s c u4_) := by
  unfold mwaitEffect
  try dsimp only
  repeat' (first
    | with_reducible assumption
    | with_reducible apply Sound.ite
    | with_reducible apply DoneSound.ite
    | with_reducible apply doneNext_sound
    | with_reducible apply doneJump_sound
    | with_reducible apply doneFault_sound
    | with_reducible apply doneStall_sound
    | with_reducible apply doneEnded_sound
    | with_reducible apply Sound.foldl
    | with_reducible apply Sound.foldl_fst
    | intro _
    | split
    | (simp only [Sound.lit]; with_reducible apply Sound.parts))

theorem mcfgEffect_sound (w : BitVec 32) (th : Thread) (s : State) (c : Nat) (u4_ : Nat) (hs_ : Sound q_ k_ s) :
    DoneSound q_ k_ (mcfgEffect w th s c u4_) := by
  unfold mcfgEffect
  try dsimp only
  repeat' (first
    | with_reducible assumption
    | with_reducible apply poisoned_sound
    | with_reducible apply updCore_sound
    | with_reducible apply Sound.ite
    | with_reducible apply DoneSound.ite
    | with_reducible apply doneNext_sound
    | with_reducible apply doneJump_sound
    | with_reducible apply doneFault_sound
    | with_reducible apply doneStall_sound
    | with_reducible apply doneEnded_sound
    | with_reducible apply Sound.foldl
    | with_reducible apply Sound.foldl_fst
    | intro _
    | split
    | (simp only [Sound.lit]; with_reducible apply Sound.parts))

theorem readRows_sound (s : State) (c addr pitch nbytes n : Nat) (h : Sound q_ k_ s) :
    Sound q_ k_ (readRows s c addr pitch nbytes n).1 := by
  induction n generalizing s addr with
  | zero => simp only [readRows]; assumption
  | succ f_ ih =>
    simp only [readRows]
    repeat' (first
      | with_reducible assumption
      | with_reducible apply ih
      | with_reducible apply spdReadWords_sound
      | with_reducible apply Sound.ite
      | with_reducible apply Sound.foldl
      | with_reducible apply Sound.foldl_fst
      | intro _
      | split
      | (simp only [Sound.lit]; with_reducible apply Sound.parts))

theorem readScales_sound (s : State) (c : Nat) (word : Nat) (kk : Nat) (mx : Bool) (hs_ : Sound q_ k_ s) :
    Sound q_ k_ (readScales s c word kk mx).1 := by
  unfold readScales
  try dsimp only
  repeat' (first
    | with_reducible assumption
    | with_reducible apply spdReadWords_sound
    | with_reducible apply Sound.ite
    | with_reducible apply Sound.foldl
    | with_reducible apply Sound.foldl_fst
    | intro _
    | split
    | (simp only [Sound.lit]; with_reducible apply Sound.parts))

theorem runMma_sound (s : State) (c : Nat) (m : MatCmd) (hs_ : Sound q_ k_ s) :
    Sound q_ k_ (runMma s c m) := by
  unfold runMma
  try dsimp only
  repeat' (first
    | with_reducible assumption
    | with_reducible apply readRows_sound
    | with_reducible apply readScales_sound
    | with_reducible apply threadFault_sound
    | with_reducible apply updCore_sound
    | with_reducible apply Sound.ite
    | with_reducible apply Sound.foldl
    | with_reducible apply Sound.foldl_fst
    | intro _
    | split
    | (simp only [Sound.lit]; with_reducible apply Sound.parts))

theorem mmaStart_sound (c : Nat) (s : State) (hs_ : Sound q_ k_ s) :
    Sound q_ k_ (mmaStart c s) := by
  unfold mmaStart
  try dsimp only
  repeat' (first
    | with_reducible assumption
    | with_reducible apply runMma_sound
    | with_reducible apply padServe_sound
    | with_reducible apply setCore_sound
    | with_reducible apply Sound.ite
    | with_reducible apply Sound.foldl
    | with_reducible apply Sound.foldl_fst
    | intro _
    | split
    | (simp only [Sound.lit]; with_reducible apply Sound.parts))

theorem mmaComplete_sound (c : Nat) (s : State) (hs_ : Sound q_ k_ s) :
    Sound q_ k_ (mmaComplete c s) := by
  unfold mmaComplete
  try dsimp only
  repeat' (first
    | with_reducible assumption
    | with_reducible apply updCore_sound
    | with_reducible apply Sound.ite
    | with_reducible apply Sound.foldl
    | with_reducible apply Sound.foldl_fst
    | intro _
    | split
    | (simp only [Sound.lit]; with_reducible apply Sound.parts))

theorem drainStart_sound (c : Nat) (s : State) (hs_ : Sound q_ k_ s) :
    Sound q_ k_ (drainStart c s) := by
  unfold drainStart
  try dsimp only
  repeat' (first
    | with_reducible assumption
    | with_reducible apply setCore_sound
    | with_reducible apply Sound.ite
    | with_reducible apply Sound.foldl
    | with_reducible apply Sound.foldl_fst
    | intro _
    | split
    | (simp only [Sound.lit]; with_reducible apply Sound.parts))

theorem writeRow_sound (s : State) (c w mask data n : Nat) (h : Sound q_ k_ s) :
    Sound q_ k_ (writeRow s c w mask data n) := by
  induction n generalizing s w mask data with
  | zero => simp only [writeRow]; assumption
  | succ f_ ih =>
    simp only [writeRow]
    repeat' (first
      | with_reducible assumption
      | with_reducible apply ih
      | with_reducible apply spdWrite_sound
      | with_reducible apply Sound.ite
      | with_reducible apply Sound.foldl
      | with_reducible apply Sound.foldl_fst
      | intro _
      | split
      | (simp only [Sound.lit]; with_reducible apply Sound.parts))

theorem drainRow_sound (m : MatCmd) (t : Tile) (c : Nat) (s : State) (r : Nat) (hs_ : Sound q_ k_ s) :
    Sound q_ k_ (drainRow m t c s r) := by
  unfold drainRow
  try dsimp only
  repeat' (first
    | with_reducible assumption
    | with_reducible apply writeRow_sound
    | with_reducible apply spdWriteIn_sound
    | with_reducible apply updCore_sound
    | with_reducible apply Sound.ite
    | with_reducible apply Sound.foldl
    | with_reducible apply Sound.foldl_fst
    | intro _
    | split
    | (simp only [Sound.lit]; with_reducible apply Sound.parts))

theorem drainStat_sound (m : MatCmd) (t : Tile) (c : Nat) (s : State) (i : Nat) (hs_ : Sound q_ k_ s) :
    Sound q_ k_ (drainStat m t c s i) := by
  unfold drainStat
  try dsimp only
  repeat' (first
    | with_reducible assumption
    | with_reducible apply spdRead_sound
    | with_reducible apply spdWrite_sound
    | with_reducible apply Sound.ite
    | with_reducible apply Sound.foldl
    | with_reducible apply Sound.foldl_fst
    | intro _
    | split
    | (simp only [Sound.lit]; with_reducible apply Sound.parts))

theorem drainComplete_sound (c : Nat) (s : State) (hs_ : Sound q_ k_ s) :
    Sound q_ k_ (drainComplete c s) := by
  unfold drainComplete
  try dsimp only
  repeat' (first
    | with_reducible assumption
    | with_reducible apply drainRow_sound
    | with_reducible apply drainStat_sound
    | with_reducible apply updCore_sound
    | with_reducible apply Sound.ite
    | with_reducible apply Sound.foldl
    | with_reducible apply Sound.foldl_fst
    | intro _
    | split
    | (simp only [Sound.lit]; with_reducible apply Sound.parts))

end Sys2Proof.Machine
end

