-- ==== Sys2Proof/Laws/KeepsMemory.lean ====
section
/-! SUPPORT. What every operation of Machine/Memory.lean keeps (Laws/Sound.lean). -/

namespace Sys2Proof.Machine

variable {q_ : List Instr} {k_ : Nat}

theorem setSlice_sound (s : State) (f : Nat) (v : Slice) (h : Sound q_ k_ s) : Sound q_ k_ (setSlice s f v) :=
  ⟨h.pending, h.code, { h.wf with slices := fwf_fset _ _ _ _ h.wf.slices }⟩

theorem updSlice_sound (s : State) (f : Nat) (g : Slice → Slice) (hs_ : Sound q_ k_ s) :
    Sound q_ k_ (updSlice s f g) := by
  unfold updSlice
  try dsimp only
  repeat' (first
    | with_reducible assumption
    | with_reducible apply setSlice_sound
    | with_reducible apply Sound.ite
    | with_reducible apply Sound.foldl
    | with_reducible apply Sound.foldl_fst
    | intro _
    | split
    | (simp only [Sound.lit]; with_reducible apply Sound.parts))

theorem dropLine_sound (s : State) (f : Nat) (k : Nat) (hs_ : Sound q_ k_ s) :
    Sound q_ k_ (dropLine s f k) := by
  unfold dropLine
  try dsimp only
  repeat' (first
    | with_reducible assumption
    | with_reducible apply updSlice_sound
    | with_reducible apply Sound.ite
    | with_reducible apply Sound.foldl
    | with_reducible apply Sound.foldl_fst
    | intro _
    | split
    | (simp only [Sound.lit]; with_reducible apply Sound.parts))

theorem touchLine_sound (s : State) (f : Nat) (l : Line) (hs_ : Sound q_ k_ s) :
    Sound q_ k_ (touchLine s f l) := by
  unfold touchLine
  try dsimp only
  repeat' (first
    | with_reducible assumption
    | with_reducible apply updSlice_sound
    | with_reducible apply Sound.ite
    | with_reducible apply Sound.foldl
    | with_reducible apply Sound.foldl_fst
    | intro _
    | split
    | (simp only [Sound.lit]; with_reducible apply Sound.parts))

theorem allocLine_sound (s : State) (f : Nat) (k : Nat) (mask : Nat) (d : List PWord) (hs_ : Sound q_ k_ s) :
    Sound q_ k_ (allocLine s f k mask d) := by
  unfold allocLine
  try dsimp only
  repeat' (first
    | with_reducible assumption
    | with_reducible apply setSlice_sound
    | with_reducible apply Sound.ite
    | with_reducible apply Sound.foldl
    | with_reducible apply Sound.foldl_fst
    | intro _
    | split
    | (simp only [Sound.lit]; with_reducible apply Sound.parts))

theorem sectorStore_sound (s : State) (sec : Nat) (ws : List PWord) (hs_ : Sound q_ k_ s) :
    Sound q_ k_ (sectorStore s sec ws) :=
  have w := hs_.wf
  ⟨hs_.pending, hs_.code, ⟨wrLE_wf _ _ _ _ w.hbm, fwf_fset _ _ _ _ w.hbmPoi, w.cxl, w.cxlPoi, w.csr, w.cores, w.plots, w.funs,
    w.yports, w.slices⟩⟩

theorem sectorUE_sound (s : State) (sec : Nat) (h : Sound q_ k_ s) : Sound q_ k_ (sectorUE s sec) :=
  sectorStore_sound _ _ _ (note_sound _ _ (Sound.lit.mpr (setCsrFld_sound _ _ _ _ _ (setCsrFld_sound _ _ _ _ _
    (satCsrFld_sound _ _ _ _ _ h))).parts))

theorem sectorRead_sound (s : State) (sec : Nat) (hs_ : Sound q_ k_ s) :
    Sound q_ k_ (sectorRead s sec).1 := by
  unfold sectorRead
  try dsimp only
  repeat' (first
    | with_reducible assumption
    | with_reducible apply satCsrFld_sound
    | with_reducible apply sectorUE_sound
    | with_reducible apply sectorStore_sound
    | with_reducible apply Sound.ite
    | with_reducible apply Sound.foldl
    | with_reducible apply Sound.foldl_fst
    | intro _
    | split
    | (simp only [Sound.lit]; with_reducible apply Sound.parts))

theorem hbmUpsets_sound (s : State) (ups : List (Nat × Nat)) (hs_ : Sound q_ k_ s) :
    Sound q_ k_ (hbmUpsets s ups) := by
  unfold hbmUpsets
  try dsimp only
  repeat' (first
    | with_reducible assumption
    | with_reducible apply Sound.ite
    | with_reducible apply Sound.foldl
    | with_reducible apply Sound.foldl_fst
    | intro _
    | split
    | (simp only [Sound.lit]; with_reducible apply Sound.parts))

theorem hbmLineRead_sound (s : State) (o : Nat) (hs_ : Sound q_ k_ s) :
    Sound q_ k_ (hbmLineRead s o).1 := by
  unfold hbmLineRead
  try dsimp only
  repeat' (first
    | with_reducible assumption
    | with_reducible apply sectorRead_sound
    | with_reducible apply Sound.ite
    | with_reducible apply Sound.foldl
    | with_reducible apply Sound.foldl_fst
    | intro _
    | split
    | (simp only [Sound.lit]; with_reducible apply Sound.parts))

theorem hbmLineWrite_sound (s : State) (o : Nat) (off : Nat) (ws : List PWord) (hs_ : Sound q_ k_ s) :
    Sound q_ k_ (hbmLineWrite s o off ws) := by
  unfold hbmLineWrite
  try dsimp only
  repeat' (first
    | with_reducible assumption
    | with_reducible apply sectorStore_sound
    | with_reducible apply sectorRead_sound
    | with_reducible apply Sound.ite
    | with_reducible apply Sound.foldl
    | with_reducible apply Sound.foldl_fst
    | intro _
    | split
    | (simp only [Sound.lit]; with_reducible apply Sound.parts))

theorem cxlLineRead_sound (s : State) (o : Nat) (off : Nat) (n : Nat) (poi : List Nat) (hs_ : Sound q_ k_ s) :
    Sound q_ k_ (cxlLineRead s o off n poi).1 := by
  unfold cxlLineRead
  try dsimp only
  repeat' (first
    | with_reducible assumption
    | with_reducible apply satCsrFld_sound
    | with_reducible apply Sound.ite
    | with_reducible apply Sound.foldl
    | with_reducible apply Sound.foldl_fst
    | intro _
    | split
    | (simp only [Sound.lit]; with_reducible apply Sound.parts))

theorem cxlLineWrite_sound (s : State) (o : Nat) (off : Nat) (ws : List PWord) (hs_ : Sound q_ k_ s) :
    Sound q_ k_ (cxlLineWrite s o off ws) := by
  unfold cxlLineWrite
  try dsimp only
  repeat' (first
    | with_reducible assumption
    | with_reducible apply Sound.ite
    | with_reducible apply Sound.foldl
    | with_reducible apply Sound.foldl_fst
    | intro _
    | split
    | (simp only [Sound.lit]; with_reducible apply Sound.parts)
    | with_reducible apply fwf_fset
    | with_reducible apply fwf_fupd
    | with_reducible apply wrLE_wf
    | with_reducible apply wrBytes_wf
    | with_reducible apply fwf_filter
    | with_reducible apply fwf_ferase
    | with_reducible apply fwf_nil
    | with_reducible apply Sound.foldl_wf
    | with_reducible apply Sound.ite_wf
    | with_reducible apply Sound.pending (q_ := q_) (k_ := k_)
    | with_reducible apply Sound.code (q_ := q_) (k_ := k_)
    | with_reducible apply Sound.hbm (q_ := q_) (k_ := k_)
    | with_reducible apply Sound.hbmPoi (q_ := q_) (k_ := k_)
    | with_reducible apply Sound.cxl (q_ := q_) (k_ := k_)
    | with_reducible apply Sound.cxlPoi (q_ := q_) (k_ := k_)
    | with_reducible apply Sound.csr (q_ := q_) (k_ := k_)
    | with_reducible apply Sound.cores (q_ := q_) (k_ := k_)
    | with_reducible apply Sound.plots (q_ := q_) (k_ := k_)
    | with_reducible apply Sound.funs (q_ := q_) (k_ := k_)
    | with_reducible apply Sound.yports (q_ := q_) (k_ := k_)
    | with_reducible apply Sound.slices (q_ := q_) (k_ := k_)
    | (simp only [Sound.lit]; refine ⟨?_, ?_, ?_, ?_, ?_, ?_, ?_, ?_, ?_, ?_, ?_, ?_⟩))

theorem setHbmJobs_sound (s : State) (g : Nat) (l : List MemJob) (hs_ : Sound q_ k_ s) :
    Sound q_ k_ (setHbmJobs s g l) := by
  unfold setHbmJobs
  try dsimp only
  repeat' (first
    | with_reducible assumption
    | with_reducible apply Sound.ite
    | with_reducible apply Sound.foldl
    | with_reducible apply Sound.foldl_fst
    | intro _
    | split
    | (simp only [Sound.lit]; with_reducible apply Sound.parts))

theorem setCxlJobs_sound (s : State) (p : Nat) (l : List MemJob) (hs_ : Sound q_ k_ s) :
    Sound q_ k_ (setCxlJobs s p l) := by
  unfold setCxlJobs
  try dsimp only
  repeat' (first
    | with_reducible assumption
    | with_reducible apply Sound.ite
    | with_reducible apply Sound.foldl
    | with_reducible apply Sound.foldl_fst
    | intro _
    | split
    | (simp only [Sound.lit]; with_reducible apply Sound.parts))

theorem addJob_sound (s : State) (j : MemJob) (hs_ : Sound q_ k_ s) :
    Sound q_ k_ (addJob s j) := by
  unfold addJob
  try dsimp only
  repeat' (first
    | with_reducible assumption
    | with_reducible apply setHbmJobs_sound
    | with_reducible apply setCxlJobs_sound
    | with_reducible apply Sound.ite
    | with_reducible apply Sound.foldl
    | with_reducible apply Sound.foldl_fst
    | intro _
    | split
    | (simp only [Sound.lit]; with_reducible apply Sound.parts))

theorem replySlice_sound (s : State) (f : Nat) (q : Packet) (hs_ : Sound q_ k_ s) :
    Sound q_ k_ (replySlice s f q) := by
  unfold replySlice
  try dsimp only
  repeat' (first
    | with_reducible assumption
    | with_reducible apply injectEdge_sound
    | with_reducible apply Sound.ite
    | with_reducible apply Sound.foldl
    | with_reducible apply Sound.foldl_fst
    | intro _
    | split
    | (simp only [Sound.lit]; with_reducible apply Sound.parts))

theorem dropGather_sound (s : State) (p : Packet) (hs_ : Sound q_ k_ s) :
    Sound q_ k_ (dropGather s p) := by
  unfold dropGather
  try dsimp only
  repeat' (first
    | with_reducible assumption
    | with_reducible apply Sound.ite
    | with_reducible apply Sound.foldl
    | with_reducible apply Sound.foldl_fst
    | intro _
    | split
    | (simp only [Sound.lit]; with_reducible apply Sound.parts))

theorem deliverWords_sound (s : State) (f : Nat) (p : Packet) (start : Nat) (ws : List PWord) (hs_ : Sound q_ k_ s) :
    Sound q_ k_ (deliverWords s f p start ws) := by
  unfold deliverWords
  try dsimp only
  repeat' (first
    | with_reducible assumption
    | with_reducible apply addBeats_sound
    | with_reducible apply issue_sound
    | with_reducible apply replySlice_sound
    | with_reducible apply dropGather_sound
    | with_reducible apply Sound.ite
    | with_reducible apply Sound.foldl
    | with_reducible apply Sound.foldl_fst
    | intro _
    | split
    | (simp only [Sound.lit]; with_reducible apply Sound.parts))

theorem loadError_sound (s : State) (f : Nat) (p : Packet) (status : Nat) (hs_ : Sound q_ k_ s) :
    Sound q_ k_ (loadError s f p status) := by
  unfold loadError
  try dsimp only
  repeat' (first
    | with_reducible assumption
    | with_reducible apply addBeats_sound
    | with_reducible apply issue_sound
    | with_reducible apply replySlice_sound
    | with_reducible apply dropGather_sound
    | with_reducible apply Sound.ite
    | with_reducible apply Sound.foldl
    | with_reducible apply Sound.foldl_fst
    | intro _
    | split
    | (simp only [Sound.lit]; with_reducible apply Sound.parts))

theorem lineUpsets_sound (s : State) (f : Nat) (ups : List (Nat × Nat × Nat)) (hs_ : Sound q_ k_ s) :
    Sound q_ k_ (lineUpsets s f ups) := by
  unfold lineUpsets
  try dsimp only
  repeat' (first
    | with_reducible assumption
    | with_reducible apply updSlice_sound
    | with_reducible apply Sound.ite
    | with_reducible apply Sound.foldl
    | with_reducible apply Sound.foldl_fst
    | intro _
    | split
    | (simp only [Sound.lit]; with_reducible apply Sound.parts))

theorem fixWord_sound (s : State) (f : Nat) (k : Nat) (i : Nat) (w : PWord) (hs_ : Sound q_ k_ s) :
    Sound q_ k_ (fixWord s f k i w) := by
  unfold fixWord
  try dsimp only
  repeat' (first
    | with_reducible assumption
    | with_reducible apply updSlice_sound
    | with_reducible apply Sound.ite
    | with_reducible apply Sound.foldl
    | with_reducible apply Sound.foldl_fst
    | intro _
    | split
    | (simp only [Sound.lit]; with_reducible apply Sound.parts))

theorem wordEcc_sound (f : Nat) (k : Nat) (s : State) (i : Nat) (hs_ : Sound q_ k_ s) :
    Sound q_ k_ (wordEcc f k s i) := by
  unfold wordEcc
  try dsimp only
  repeat' (first
    | with_reducible assumption
    | with_reducible apply satCsrFld_sound
    | with_reducible apply dropLine_sound
    | with_reducible apply fixWord_sound
    | with_reducible apply Sound.ite
    | with_reducible apply Sound.foldl
    | with_reducible apply Sound.foldl_fst
    | intro _
    | split
    | (simp only [Sound.lit]; with_reducible apply Sound.parts))

theorem lineEcc_sound (s : State) (f : Nat) (k : Nat) (off : Nat) (n : Nat) (hs_ : Sound q_ k_ s) :
    Sound q_ k_ (lineEcc s f k off n) := by
  unfold lineEcc
  try dsimp only
  repeat' (first
    | with_reducible assumption
    | with_reducible apply wordEcc_sound
    | with_reducible apply Sound.ite
    | with_reducible apply Sound.foldl
    | with_reducible apply Sound.foldl_fst
    | intro _
    | split
    | (simp only [Sound.lit]; with_reducible apply Sound.parts))

theorem fetchLine_sound (s : State) (f : Nat) (k : Nat) (id : Nat) (p : Packet) (hs_ : Sound q_ k_ s) :
    Sound q_ k_ (fetchLine s f k id p) := by
  unfold fetchLine
  try dsimp only
  repeat' (first
    | with_reducible assumption
    | with_reducible apply injectEdge_sound
    | with_reducible apply addJob_sound
    | with_reducible apply Sound.ite
    | with_reducible apply Sound.foldl
    | with_reducible apply Sound.foldl_fst
    | intro _
    | split
    | (simp only [Sound.lit]; with_reducible apply Sound.parts))

theorem startFetch_sound (s : State) (f : Nat) (k : Nat) (p : Packet) (op : LineOp) (hs_ : Sound q_ k_ s) :
    Sound q_ k_ (startFetch s f k p op) := by
  unfold startFetch
  try dsimp only
  repeat' (first
    | with_reducible assumption
    | with_reducible apply wrapCsrFld_sound
    | with_reducible apply updSlice_sound
    | with_reducible apply fetchLine_sound
    | with_reducible apply Sound.ite
    | with_reducible apply Sound.foldl
    | with_reducible apply Sound.foldl_fst
    | intro _
    | split
    | (simp only [Sound.lit]; with_reducible apply Sound.parts))

theorem loadPiece_sound (s : State) (f : Nat) (p : Packet) (k : Nat) (off : Nat) (n : Nat) (hs_ : Sound q_ k_ s) :
    Sound q_ k_ (loadPiece s f p k off n) := by
  unfold loadPiece
  try dsimp only
  repeat' (first
    | with_reducible assumption
    | with_reducible apply startFetch_sound
    | with_reducible apply wrapCsrFld_sound
    | with_reducible apply touchLine_sound
    | with_reducible apply blockServed_sound
    | with_reducible apply deliverWords_sound
    | with_reducible apply updSlice_sound
    | with_reducible apply Sound.ite
    | with_reducible apply Sound.foldl
    | with_reducible apply Sound.foldl_fst
    | intro _
    | split
    | (simp only [Sound.lit]; with_reducible apply Sound.parts))

theorem applyAtSlice_sound (s : State) (f : Nat) (k : Nat) (op : LineOp) (hs_ : Sound q_ k_ s) :
    Sound q_ k_ (applyAtSlice s f k op) := by
  unfold applyAtSlice
  try dsimp only
  repeat' (first
    | with_reducible assumption
    | with_reducible apply touchLine_sound
    | with_reducible apply updSlice_sound
    | with_reducible apply Sound.ite
    | with_reducible apply Sound.foldl
    | with_reducible apply Sound.foldl_fst
    | intro _
    | split
    | (simp only [Sound.lit]; with_reducible apply Sound.parts))

theorem writePiece_sound (s : State) (f : Nat) (p : Packet) (k : Nat) (off : Nat) (n : Nat) (hs_ : Sound q_ k_ s) :
    Sound q_ k_ (writePiece s f p k off n) := by
  unfold writePiece
  try dsimp only
  repeat' (first
    | with_reducible assumption
    | with_reducible apply applyAtSlice_sound
    | with_reducible apply addJob_sound
    | with_reducible apply replySlice_sound
    | with_reducible apply Sound.ite
    | with_reducible apply Sound.foldl
    | with_reducible apply Sound.foldl_fst
    | intro _
    | split
    | (simp only [Sound.lit]; with_reducible apply Sound.parts))

theorem dropForRemote_sound (s : State) (f : Nat) (k : Nat) (hs_ : Sound q_ k_ s) :
    Sound q_ k_ (dropForRemote s f k) := by
  unfold dropForRemote
  try dsimp only
  repeat' (first
    | with_reducible assumption
    | with_reducible apply updSlice_sound
    | with_reducible apply dropLine_sound
    | with_reducible apply Sound.ite
    | with_reducible apply Sound.foldl
    | with_reducible apply Sound.foldl_fst
    | intro _
    | split
    | (simp only [Sound.lit]; with_reducible apply Sound.parts))

theorem forwardRemote_sound (s : State) (f : Nat) (p : Packet) (hs_ : Sound q_ k_ s) :
    Sound q_ k_ (forwardRemote s f p) := by
  unfold forwardRemote
  try dsimp only
  repeat' (first
    | with_reducible assumption
    | with_reducible apply injectEdge_sound
    | with_reducible apply Sound.ite
    | with_reducible apply Sound.foldl
    | with_reducible apply Sound.foldl_fst
    | intro _
    | split
    | (simp only [Sound.lit]; with_reducible apply Sound.parts))

theorem acceptNow_sound (s : State) (f : Nat) (p : Packet) (l : List (Nat × Nat × Nat)) (hs_ : Sound q_ k_ s) :
    Sound q_ k_ (acceptNow s f p l) := by
  unfold acceptNow
  try dsimp only
  repeat' (first
    | with_reducible assumption
    | with_reducible apply dropPkt_sound
    | with_reducible apply loadPiece_sound
    | with_reducible apply applyAtSlice_sound
    | with_reducible apply dropForRemote_sound
    | with_reducible apply forwardRemote_sound
    | with_reducible apply writePiece_sound
    | with_reducible apply replySlice_sound
    | with_reducible apply Sound.ite
    | with_reducible apply Sound.foldl
    | with_reducible apply Sound.foldl_fst
    | intro _
    | split
    | (simp only [Sound.lit]; with_reducible apply Sound.parts))

theorem granaryAccept_sound (id : Nat) (ups : List (Nat × Nat × Nat)) (s : State) (hs_ : Sound q_ k_ s) :
    Sound q_ k_ (granaryAccept id ups s) := by
  unfold granaryAccept
  try dsimp only
  repeat' (first
    | with_reducible assumption
    | with_reducible apply lineUpsets_sound
    | with_reducible apply lineEcc_sound
    | with_reducible apply loadError_sound
    | with_reducible apply dropPkt_sound
    | with_reducible apply replySlice_sound
    | with_reducible apply acceptNow_sound
    | with_reducible apply Sound.ite
    | with_reducible apply Sound.foldl
    | with_reducible apply Sound.foldl_fst
    | intro _
    | split
    | (simp only [Sound.lit]; with_reducible apply Sound.parts))

theorem replayOps_sound (s : State) (f k : Nat) (d : List PWord) (l : List LineOp) (h : Sound q_ k_ s) :
    Sound q_ k_ (replayOps s f k d l).1 := by
  fun_induction replayOps s f k d l with
  | case1 s d => exact h
  | case2 s d p off n a l ih => exact ih (deliverWords_sound _ _ _ _ _ h)
  | case3 s d o l hn ih => exact ih h

theorem passOlder_sound (s : State) (f : Nat) (k : Nat) (id : Nat) (hs_ : Sound q_ k_ s) :
    Sound q_ k_ (passOlder s f k id) := by
  unfold passOlder
  try dsimp only
  repeat' (first
    | with_reducible assumption
    | with_reducible apply updSlice_sound
    | with_reducible apply Sound.ite
    | with_reducible apply Sound.foldl
    | with_reducible apply Sound.foldl_fst
    | intro _
    | split
    | (simp only [Sound.lit]; with_reducible apply Sound.parts))

theorem granaryFill_sound (f : Nat) (id : Nat) (s : State) (hs_ : Sound q_ k_ s) :
    Sound q_ k_ (granaryFill f id s) := by
  unfold granaryFill
  try dsimp only
  repeat' (first
    | with_reducible assumption
    | with_reducible apply updSlice_sound
    | with_reducible apply blockServed_sound
    | with_reducible apply loadError_sound
    | with_reducible apply replayOps_sound
    | with_reducible apply passOlder_sound
    | with_reducible apply touchLine_sound
    | with_reducible apply allocLine_sound
    | with_reducible apply Sound.ite
    | with_reducible apply Sound.foldl
    | with_reducible apply Sound.foldl_fst
    | intro _
    | split
    | (simp only [Sound.lit]; with_reducible apply Sound.parts))

theorem hbmPartRead_sound (s : State) (o : Nat) (off : Nat) (n : Nat) (hs_ : Sound q_ k_ s) :
    Sound q_ k_ (hbmPartRead s o off n).1 := by
  unfold hbmPartRead
  try dsimp only
  repeat' (first
    | with_reducible assumption
    | with_reducible apply sectorRead_sound
    | with_reducible apply Sound.ite
    | with_reducible apply Sound.foldl
    | with_reducible apply Sound.foldl_fst
    | intro _
    | split
    | (simp only [Sound.lit]; with_reducible apply Sound.parts))

theorem hbmPerform_sound (s : State) (j : MemJob) (hs_ : Sound q_ k_ s) :
    Sound q_ k_ (hbmPerform s j) := by
  unfold hbmPerform
  try dsimp only
  repeat' (first
    | with_reducible assumption
    | with_reducible apply hbmLineRead_sound
    | with_reducible apply fillAnswer_sound
    | with_reducible apply hbmLineWrite_sound
    | with_reducible apply hbmPartRead_sound
    | with_reducible apply replySlice_sound
    | with_reducible apply Sound.ite
    | with_reducible apply Sound.foldl
    | with_reducible apply Sound.foldl_fst
    | intro _
    | split
    | (simp only [Sound.lit]; with_reducible apply Sound.parts))

theorem hbmLineDone_sound (g : Nat) (i : Nat) (ups : List (Nat × Nat)) (s : State) (hs_ : Sound q_ k_ s) :
    Sound q_ k_ (hbmLineDone g i ups s) := by
  unfold hbmLineDone
  try dsimp only
  repeat' (first
    | with_reducible assumption
    | with_reducible apply hbmPerform_sound
    | with_reducible apply setHbmJobs_sound
    | with_reducible apply hbmUpsets_sound
    | with_reducible apply blockServed_sound
    | with_reducible apply Sound.ite
    | with_reducible apply Sound.foldl
    | with_reducible apply Sound.foldl_fst
    | intro _
    | split
    | (simp only [Sound.lit]; with_reducible apply Sound.parts))

theorem patrolScrub_sound (k : Nat) (ups : List (Nat × Nat)) (s : State) (hs_ : Sound q_ k_ s) :
    Sound q_ k_ (patrolScrub k ups s) := by
  unfold patrolScrub
  try dsimp only
  repeat' (first
    | with_reducible assumption
    | with_reducible apply sectorRead_sound
    | with_reducible apply hbmUpsets_sound
    | with_reducible apply wrapCsrFld_sound
    | with_reducible apply Sound.ite
    | with_reducible apply Sound.foldl
    | with_reducible apply Sound.foldl_fst
    | intro _
    | split
    | (simp only [Sound.lit]; with_reducible apply Sound.parts))

theorem cxlReply_sound (s : State) (p : Nat) (j : MemJob) (status : Nat) (old : List PWord) (hs_ : Sound q_ k_ s) :
    Sound q_ k_ (cxlReply s p j status old) := by
  unfold cxlReply
  try dsimp only
  repeat' (first
    | with_reducible assumption
    | with_reducible apply setCxlJobs_sound
    | with_reducible apply replySlice_sound
    | with_reducible apply Sound.ite
    | with_reducible apply Sound.foldl
    | with_reducible apply Sound.foldl_fst
    | intro _
    | split
    | (simp only [Sound.lit]; with_reducible apply Sound.parts))

theorem cxlPerform_sound (s : State) (p : Nat) (j : MemJob) (poi : List Nat) (hs_ : Sound q_ k_ s) :
    Sound q_ k_ (cxlPerform s p j poi) := by
  unfold cxlPerform
  try dsimp only
  repeat' (first
    | with_reducible assumption
    | with_reducible apply cxlLineRead_sound
    | with_reducible apply fillAnswer_sound
    | with_reducible apply cxlReply_sound
    | with_reducible apply cxlLineWrite_sound
    | with_reducible apply Sound.ite
    | with_reducible apply Sound.foldl
    | with_reducible apply Sound.foldl_fst
    | intro _
    | split
    | (simp only [Sound.lit]; with_reducible apply Sound.parts))

theorem cxlResponse_sound (p : Nat) (i : Nat) (poi : List Nat) (s : State) (hs_ : Sound q_ k_ s) :
    Sound q_ k_ (cxlResponse p i poi s) := by
  unfold cxlResponse
  try dsimp only
  repeat' (first
    | with_reducible assumption
    | with_reducible apply cxlPerform_sound
    | with_reducible apply setCxlJobs_sound
    | with_reducible apply blockServed_sound
    | with_reducible apply Sound.ite
    | with_reducible apply Sound.foldl
    | with_reducible apply Sound.foldl_fst
    | intro _
    | split
    | (simp only [Sound.lit]; with_reducible apply Sound.parts))

theorem cxlMaybe_sound (s : State) (j : MemJob) (hs_ : Sound q_ k_ s) :
    Sound q_ k_ (cxlMaybe s j) := by
  unfold cxlMaybe
  try dsimp only
  repeat' (first
    | with_reducible assumption
    | with_reducible apply cxlLineWrite_sound
    | with_reducible apply cxlLineRead_sound
    | with_reducible apply Sound.ite
    | with_reducible apply Sound.foldl
    | with_reducible apply Sound.foldl_fst
    | intro _
    | split
    | (simp only [Sound.lit]; with_reducible apply Sound.parts))

theorem forgetWrite_sound (s : State) (j : MemJob) (hs_ : Sound q_ k_ s) :
    Sound q_ k_ (forgetWrite s j) := by
  unfold forgetWrite
  try dsimp only
  repeat' (first
    | with_reducible assumption
    | with_reducible apply updSlice_sound
    | with_reducible apply dropLine_sound
    | with_reducible apply Sound.ite
    | with_reducible apply Sound.foldl
    | with_reducible apply Sound.foldl_fst
    | intro _
    | split
    | (simp only [Sound.lit]; with_reducible apply Sound.parts))

theorem cxlFail_sound (s : State) (p : Nat) (j : MemJob) (hs_ : Sound q_ k_ s) :
    Sound q_ k_ (cxlFail s p j) := by
  unfold cxlFail
  try dsimp only
  repeat' (first
    | with_reducible assumption
    | with_reducible apply fillAnswer_sound
    | with_reducible apply cxlReply_sound
    | with_reducible apply cxlMaybe_sound
    | with_reducible apply forgetWrite_sound
    | with_reducible apply Sound.ite
    | with_reducible apply Sound.foldl
    | with_reducible apply Sound.foldl_fst
    | intro _
    | split
    | (simp only [Sound.lit]; with_reducible apply Sound.parts))

theorem cxlTimeout_sound (p : Nat) (i : Nat) (s : State) (hs_ : Sound q_ k_ s) :
    Sound q_ k_ (cxlTimeout p i s) := by
  unfold cxlTimeout
  try dsimp only
  repeat' (first
    | with_reducible assumption
    | with_reducible apply cxlFail_sound
    | with_reducible apply satCsrFld_sound
    | with_reducible apply setCxlJobs_sound
    | with_reducible apply Sound.ite
    | with_reducible apply Sound.foldl
    | with_reducible apply Sound.foldl_fst
    | intro _
    | split
    | (simp only [Sound.lit]; with_reducible apply Sound.parts))

theorem cxlLinkDown_sound (p : Nat) (h : Nat) (s : State) (hs_ : Sound q_ k_ s) :
    Sound q_ k_ (cxlLinkDown p h s) := by
  unfold cxlLinkDown
  try dsimp only
  repeat' (first
    | with_reducible assumption
    | with_reducible apply satCsrFld_sound
    | with_reducible apply setCsrFld_sound
    | with_reducible apply setCxlJobs_sound
    | with_reducible apply cxlMaybe_sound
    | with_reducible apply forgetWrite_sound
    | with_reducible apply cxlFail_sound
    | with_reducible apply Sound.ite
    | with_reducible apply Sound.foldl
    | with_reducible apply Sound.foldl_fst
    | intro _
    | split
    | (simp only [Sound.lit]; with_reducible apply Sound.parts))

theorem cxlRetrain_sound (p : Nat) (h : Nat) (s : State) (hs_ : Sound q_ k_ s) :
    Sound q_ k_ (cxlRetrain p h s) := by
  unfold cxlRetrain
  try dsimp only
  repeat' (first
    | with_reducible assumption
    | with_reducible apply setCsrFld_sound
    | with_reducible apply Sound.ite
    | with_reducible apply Sound.foldl
    | with_reducible apply Sound.foldl_fst
    | intro _
    | split
    | (simp only [Sound.lit]; with_reducible apply Sound.parts))

theorem seedBeat_sound (s : State) (b : Beat) (hs_ : Sound q_ k_ s) :
    Sound q_ k_ (seedBeat s b) := by
  unfold seedBeat
  try dsimp only
  repeat' (first
    | with_reducible assumption
    | with_reducible apply updCore_sound
    | with_reducible apply Sound.ite
    | with_reducible apply Sound.foldl
    | with_reducible apply Sound.foldl_fst
    | intro _
    | split
    | (simp only [Sound.lit]; with_reducible apply Sound.parts))

theorem rowBusBeat_sound (f : Nat) (i : Nat) (s : State) (hs_ : Sound q_ k_ s) :
    Sound q_ k_ (rowBusBeat f i s) := by
  unfold rowBusBeat
  try dsimp only
  repeat' (first
    | with_reducible assumption
    | with_reducible apply updSlice_sound
    | with_reducible apply seedBeat_sound
    | with_reducible apply staleResp_sound
    | with_reducible apply issue_sound
    | with_reducible apply updCore_sound
    | with_reducible apply Sound.ite
    | with_reducible apply Sound.foldl
    | with_reducible apply Sound.foldl_fst
    | intro _
    | split
    | (simp only [Sound.lit]; with_reducible apply Sound.parts))

theorem dropLines_sound (s : State) (hit : Nat → Bool) (hs_ : Sound q_ k_ s) :
    Sound q_ k_ (dropLines s hit) := by
  unfold dropLines
  try dsimp only
  repeat' (first
    | with_reducible assumption
    | with_reducible apply updSlice_sound
    | with_reducible apply Sound.ite
    | with_reducible apply Sound.foldl
    | with_reducible apply Sound.foldl_fst
    | intro _
    | split
    | (simp only [Sound.lit]; with_reducible apply Sound.parts))

theorem grnInv_sound (s : State) (v : Word) (hs_ : Sound q_ k_ s) :
    Sound q_ k_ (grnInv s v) := by
  unfold grnInv
  try dsimp only
  repeat' (first
    | with_reducible assumption
    | with_reducible apply dropLines_sound
    | with_reducible apply Sound.ite
    | with_reducible apply Sound.foldl
    | with_reducible apply Sound.foldl_fst
    | intro _
    | split
    | (simp only [Sound.lit]; with_reducible apply Sound.parts))

theorem grnInvAll_sound (s : State) (v : Word) (hs_ : Sound q_ k_ s) :
    Sound q_ k_ (grnInvAll s v) := by
  unfold grnInvAll
  try dsimp only
  repeat' (first
    | with_reducible assumption
    | with_reducible apply dropLines_sound
    | with_reducible apply Sound.ite
    | with_reducible apply Sound.foldl
    | with_reducible apply Sound.foldl_fst
    | intro _
    | split
    | (simp only [Sound.lit]; with_reducible apply Sound.parts))

theorem settleLine_sound (s : State) (k : Nat) (hs_ : Sound q_ k_ s) :
    Sound q_ k_ (settleLine s k) := by
  unfold settleLine
  try dsimp only
  repeat' (first
    | with_reducible assumption
    | with_reducible apply hbmPerform_sound
    | with_reducible apply setHbmJobs_sound
    | with_reducible apply cxlPerform_sound
    | with_reducible apply setCxlJobs_sound
    | with_reducible apply Sound.ite
    | with_reducible apply Sound.foldl
    | with_reducible apply Sound.foldl_fst
    | intro _
    | split
    | (simp only [Sound.lit]; with_reducible apply Sound.parts))

theorem lineReadNow_sound (s : State) (k : Nat) (off : Nat) (n : Nat) (hs_ : Sound q_ k_ s) :
    Sound q_ k_ (lineReadNow s k off n).1 := by
  unfold lineReadNow
  try dsimp only
  repeat' (first
    | with_reducible assumption
    | with_reducible apply settleLine_sound
    | with_reducible apply lineEcc_sound
    | with_reducible apply hbmPartRead_sound
    | with_reducible apply cxlLineRead_sound
    | with_reducible apply Sound.ite
    | with_reducible apply Sound.foldl
    | with_reducible apply Sound.foldl_fst
    | intro _
    | split
    | (simp only [Sound.lit]; with_reducible apply Sound.parts))

theorem lineWriteNow_sound (s : State) (k : Nat) (off : Nat) (ws : List PWord) (hs_ : Sound q_ k_ s) :
    Sound q_ k_ (lineWriteNow s k off ws) := by
  unfold lineWriteNow
  try dsimp only
  repeat' (first
    | with_reducible assumption
    | with_reducible apply applyAtSlice_sound
    | with_reducible apply settleLine_sound
    | with_reducible apply hbmLineWrite_sound
    | with_reducible apply cxlLineWrite_sound
    | with_reducible apply Sound.ite
    | with_reducible apply Sound.foldl
    | with_reducible apply Sound.foldl_fst
    | intro _
    | split
    | (simp only [Sound.lit]; with_reducible apply Sound.parts))

theorem memReadWords_sound (s : State) (a : Word) (n : Nat) (hs_ : Sound q_ k_ s) :
    Sound q_ k_ (memReadWords s a n).1 := by
  unfold memReadWords
  try dsimp only
  repeat' (first
    | with_reducible assumption
    | with_reducible apply lineReadNow_sound
    | with_reducible apply Sound.ite
    | with_reducible apply Sound.foldl
    | with_reducible apply Sound.foldl_fst
    | intro _
    | split
    | (simp only [Sound.lit]; with_reducible apply Sound.parts))

theorem memWriteWords_sound (s : State) (a : Word) (ws : List PWord) (hs_ : Sound q_ k_ s) :
    Sound q_ k_ (memWriteWords s a ws) := by
  unfold memWriteWords
  try dsimp only
  repeat' (first
    | with_reducible assumption
    | with_reducible apply lineWriteNow_sound
    | with_reducible apply Sound.ite
    | with_reducible apply Sound.foldl
    | with_reducible apply Sound.foldl_fst
    | intro _
    | split
    | (simp only [Sound.lit]; with_reducible apply Sound.parts))

theorem memReadBytes_sound (s : State) (a : Word) (n : Nat) (hs_ : Sound q_ k_ s) :
    Sound q_ k_ (memReadBytes s a n).1 := by
  unfold memReadBytes
  try dsimp only
  repeat' (first
    | with_reducible assumption
    | with_reducible apply memReadWords_sound
    | with_reducible apply Sound.ite
    | with_reducible apply Sound.foldl
    | with_reducible apply Sound.foldl_fst
    | intro _
    | split
    | (simp only [Sound.lit]; with_reducible apply Sound.parts))

theorem memWriteBytes_sound (s : State) (a : Word) (bs : List Byte) (hs_ : Sound q_ k_ s) :
    Sound q_ k_ (memWriteBytes s a bs) := by
  unfold memWriteBytes
  try dsimp only
  repeat' (first
    | with_reducible assumption
    | with_reducible apply memWriteWords_sound
    | with_reducible apply memReadWords_sound
    | with_reducible apply Sound.ite
    | with_reducible apply Sound.foldl
    | with_reducible apply Sound.foldl_fst
    | intro _
    | split
    | (simp only [Sound.lit]; with_reducible apply Sound.parts))

end Sys2Proof.Machine
end

