-- ==== Sys2Proof/Laws/KeepsCoreRegs.lean ====
section
/-! SUPPORT. What every operation of Machine/CoreRegs.lean keeps (Laws/Sound.lean). -/

namespace Sys2Proof.Machine

variable {q_ : List Instr} {k_ : Nat}

theorem coreRead_sound (s : State) (c : Nat) (o : Nat) (clear : Bool) (hs_ : Sound q_ k_ s) :
    Sound q_ k_ (coreRead s c o clear).1 := by
  unfold coreRead
  try dsimp only
  repeat' (first
    | with_reducible assumption
    | with_reducible apply updCore_sound
    | with_reducible apply Sound.ite
    | with_reducible apply Sound.foldl
    | with_reducible apply Sound.foldl_fst
    | intro _
    | split
    | (simp only [Sound.lit]; with_reducible apply Sound.parts))

theorem writeFurCtl_sound (s : State) (c : Nat) (v : Word) (hs_ : Sound q_ k_ s) :
    Sound q_ k_ (writeFurCtl s c v) := by
  unfold writeFurCtl
  try dsimp only
  repeat' (first
    | with_reducible assumption
    | with_reducible apply updCore_sound
    | with_reducible apply discardDrain_sound
    | with_reducible apply startSwitch_sound
    | with_reducible apply Sound.ite
    | with_reducible apply Sound.foldl
    | with_reducible apply Sound.foldl_fst
    | intro _
    | split
    | (simp only [Sound.lit]; with_reducible apply Sound.parts))

theorem coreWrite_sound (s : State) (c : Nat) (o : Nat) (v : Word) (hs_ : Sound q_ k_ s) :
    Sound q_ k_ (coreWrite s c o v) := by
  unfold coreWrite
  try dsimp only
  repeat' (first
    | with_reducible assumption
    | with_reducible apply updCore_sound
    | with_reducible apply clearStalls_sound
    | with_reducible apply writeFurCtl_sound
    | with_reducible apply Sound.ite
    | with_reducible apply Sound.foldl
    | with_reducible apply Sound.foldl_fst
    | intro _
    | split
    | (simp only [Sound.lit]; with_reducible apply Sound.parts))

theorem plotRead_sound (s : State) (j : Nat) (o : Nat) (clear : Bool) (hs_ : Sound q_ k_ s) :
    Sound q_ k_ (plotRead s j o clear).1 := by
  unfold plotRead
  try dsimp only
  repeat' (first
    | with_reducible assumption
    | with_reducible apply updPlot_sound
    | with_reducible apply Sound.ite
    | with_reducible apply Sound.foldl
    | with_reducible apply Sound.foldl_fst
    | intro _
    | split
    | (simp only [Sound.lit]; with_reducible apply Sound.parts))

theorem plotWrite_sound (s : State) (j : Nat) (o : Nat) (v : Word) (hs_ : Sound q_ k_ s) :
    Sound q_ k_ (plotWrite s j o v) := by
  unfold plotWrite
  try dsimp only
  repeat' (first
    | with_reducible assumption
    | with_reducible apply updPlot_sound
    | with_reducible apply Sound.ite
    | with_reducible apply Sound.foldl
    | with_reducible apply Sound.foldl_fst
    | intro _
    | split
    | (simp only [Sound.lit]; with_reducible apply Sound.parts))

end Sys2Proof.Machine
end

