-- ==== Sys2Proof/Laws/KeepsSeams.lean ====
section
/-! SUPPORT. What every operation of Machine/Seams.lean keeps (Laws/Sound.lean). -/

namespace Sys2Proof.Machine

variable {q_ : List Instr} {k_ : Nat}

theorem updCal_sound (s : State) (g : Nat) (f : SeamCal → SeamCal) (hs_ : Sound q_ k_ s) :
    Sound q_ k_ (updCal s g f) := by
  unfold updCal
  try dsimp only
  repeat' (first
    | with_reducible assumption
    | with_reducible apply Sound.ite
    | with_reducible apply Sound.foldl
    | with_reducible apply Sound.foldl_fst
    | intro _
    | split
    | (simp only [Sound.lit]; with_reducible apply Sound.parts))

theorem refreshSeams_sound (s : State) (hs_ : Sound q_ k_ s) :
    Sound q_ k_ (refreshSeams s) := by
  unfold refreshSeams
  try dsimp only
  repeat' (first
    | with_reducible assumption
    | with_reducible apply setCsrFld_sound
    | with_reducible apply Sound.ite
    | with_reducible apply Sound.foldl
    | with_reducible apply Sound.foldl_fst
    | intro _
    | split
    | (simp only [Sound.lit]; with_reducible apply Sound.parts))

theorem setSeam_sound (s : State) (g : Nat) (v : Nat) (hs_ : Sound q_ k_ s) :
    Sound q_ k_ (setSeam s g v) := by
  unfold setSeam
  try dsimp only
  repeat' (first
    | with_reducible assumption
    | with_reducible apply refreshSeams_sound
    | with_reducible apply Sound.ite
    | with_reducible apply Sound.foldl
    | with_reducible apply Sound.foldl_fst
    | intro _
    | split
    | (simp only [Sound.lit]; with_reducible apply Sound.parts))

theorem setWindow_sound (s : State) (g : Nat) (b : Nat × Nat) (hs_ : Sound q_ k_ s) :
    Sound q_ k_ (setWindow s g b) := by
  unfold setWindow
  try dsimp only
  repeat' (first
    | with_reducible assumption
    | with_reducible apply refreshSeams_sound
    | with_reducible apply updCal_sound
    | with_reducible apply Sound.ite
    | with_reducible apply Sound.foldl
    | with_reducible apply Sound.foldl_fst
    | intro _
    | split
    | (simp only [Sound.lit]; with_reducible apply Sound.parts))

theorem calibrate_sound (g : Nat) (x : Sweep) (n i : Nat) (s : State) (hs_ : Sound q_ k_ s) :
    Sound q_ k_ (calibrate g x n i s).1 := by
  induction n generalizing i s with
  | zero => exact hs_
  | succ n ih =>
    unfold calibrate
    split
    · exact setWindow_sound _ _ _ hs_
    · exact ih _ _ (satCsrFld_sound _ _ _ _ _ hs_)

theorem seamMonitor_sound (s : State) (g : Nat) (lo : Nat) (hi : Nat) (hs_ : Sound q_ k_ s) :
    Sound q_ k_ (seamMonitor s g lo hi) := by
  unfold seamMonitor
  try dsimp only
  repeat' (first
    | with_reducible assumption
    | with_reducible apply updCal_sound
    | with_reducible apply refreshSeams_sound
    | with_reducible apply Sound.ite
    | with_reducible apply Sound.foldl
    | with_reducible apply Sound.foldl_fst
    | intro _
    | split
    | (simp only [Sound.lit]; with_reducible apply Sound.parts))

theorem holdSeams_sound (s : State) (hs_ : Sound q_ k_ s) :
    Sound q_ k_ (holdSeams s) := by
  unfold holdSeams
  try dsimp only
  repeat' (first
    | with_reducible assumption
    | with_reducible apply updCal_sound
    | with_reducible apply setSeam_sound
    | with_reducible apply Sound.ite
    | with_reducible apply Sound.foldl
    | with_reducible apply Sound.foldl_fst
    | intro _
    | split
    | (simp only [Sound.lit]; with_reducible apply Sound.parts))

end Sys2Proof.Machine
end

