-- ==== Sys2Proof/Laws/KeepsHostPort.lean ====
section
/-! SUPPORT. What every operation of Machine/HostPort.lean keeps (Laws/Sound.lean). -/

namespace Sys2Proof.Machine

variable {q_ : List Instr} {k_ : Nat}

theorem setFun_sound (s : State) (n : Nat) (v : Fun) (h : Sound q_ k_ s) : Sound q_ k_ (setFun s n v) :=
  ⟨h.pending, h.code, { h.wf with funs := fwf_fset _ _ _ _ h.wf.funs }⟩

theorem updFun_sound (s : State) (n : Nat) (f : Fun → Fun) (hs_ : Sound q_ k_ s) :
    Sound q_ k_ (updFun s n f) := by
  unfold updFun
  try dsimp only
  repeat' (first
    | with_reducible assumption
    | with_reducible apply setFun_sound
    | with_reducible apply Sound.ite
    | with_reducible apply Sound.foldl
    | with_reducible apply Sound.foldl_fst
    | intro _
    | split
    | (simp only [Sound.lit]; with_reducible apply Sound.parts))

theorem dropTc_sound (s : State) (n : Nat) (t : Nat) (hs_ : Sound q_ k_ s) :
    Sound q_ k_ (dropTc s n t) := by
  unfold dropTc
  try dsimp only
  repeat' (first
    | with_reducible assumption
    | with_reducible apply updFun_sound
    | with_reducible apply Sound.ite
    | with_reducible apply Sound.foldl
    | with_reducible apply Sound.foldl_fst
    | intro _
    | split
    | (simp only [Sound.lit]; with_reducible apply Sound.parts))

theorem putTc_sound (s : State) (v : Tc) (hs_ : Sound q_ k_ s) :
    Sound q_ k_ (putTc s v) := by
  unfold putTc
  try dsimp only
  repeat' (first
    | with_reducible assumption
    | with_reducible apply Sound.ite
    | with_reducible apply Sound.foldl
    | with_reducible apply Sound.foldl_fst
    | intro _
    | split
    | (simp only [Sound.lit]; with_reducible apply Sound.parts))

theorem serve_sound (s : State) (e : Nat) (miss : Bool) (hs_ : Sound q_ k_ s) :
    Sound q_ k_ (serve s e miss) := by
  unfold serve
  try dsimp only
  repeat' (first
    | with_reducible assumption
    | with_reducible apply wrapCsrFld_sound
    | with_reducible apply blockServed_sound
    | with_reducible apply satCsrFld_sound
    | with_reducible apply Sound.ite
    | with_reducible apply Sound.foldl
    | with_reducible apply Sound.foldl_fst
    | intro _
    | split
    | (simp only [Sound.lit]; with_reducible apply Sound.parts))

theorem sendHost_sound (s : State) (n : Nat) (b : HostOut) (hs_ : Sound q_ k_ s) :
    Sound q_ k_ (sendHost s n b) := by
  unfold sendHost
  try dsimp only
  repeat' (first
    | with_reducible assumption
    | with_reducible apply emit_sound
    | with_reducible apply Sound.ite
    | with_reducible apply Sound.foldl
    | with_reducible apply Sound.foldl_fst
    | intro _
    | split
    | (simp only [Sound.lit]; with_reducible apply Sound.parts))

theorem tcSend_sound (s : State) (v : Tc) (op : Nat) (psn : Nat) (addr : Word) (status : Nat) (data : List Word) (hs_ : Sound q_ k_ s) :
    Sound q_ k_ (tcSend s v op psn addr status data).1 := by
  unfold tcSend
  try dsimp only
  repeat' (first
    | with_reducible assumption
    | with_reducible apply sendHost_sound
    | with_reducible apply Sound.ite
    | with_reducible apply Sound.foldl
    | with_reducible apply Sound.foldl_fst
    | intro _
    | split
    | (simp only [Sound.lit]; with_reducible apply Sound.parts))

theorem tcAck_sound (s : State) (v : Tc) (addr : Word) (status : Nat) (hs_ : Sound q_ k_ s) :
    Sound q_ k_ (tcAck s v addr status).1 := by
  unfold tcAck
  try dsimp only
  repeat' (first
    | with_reducible assumption
    | with_reducible apply tcSend_sound
    | with_reducible apply Sound.ite
    | with_reducible apply Sound.foldl
    | with_reducible apply Sound.foldl_fst
    | intro _
    | split
    | (simp only [Sound.lit]; with_reducible apply Sound.parts))

theorem resetUnknown_sound (s : State) (n : Nat) (hs_ : Sound q_ k_ s) :
    Sound q_ k_ (resetUnknown s n) := by
  unfold resetUnknown
  try dsimp only
  repeat' (first
    | with_reducible assumption
    | with_reducible apply sendHost_sound
    | with_reducible apply Sound.ite
    | with_reducible apply Sound.foldl
    | with_reducible apply Sound.foldl_fst
    | intro _
    | split
    | (simp only [Sound.lit]; with_reducible apply Sound.parts))

theorem resetOut_sound (s : State) (v : Tc) (hs_ : Sound q_ k_ s) :
    Sound q_ k_ (resetOut s v) := by
  unfold resetOut
  try dsimp only
  repeat' (first
    | with_reducible assumption
    | with_reducible apply sendHost_sound
    | with_reducible apply Sound.ite
    | with_reducible apply Sound.foldl
    | with_reducible apply Sound.foldl_fst
    | intro _
    | split
    | (simp only [Sound.lit]; with_reducible apply Sound.parts))

theorem quietTc_sound (s : State) (v : Tc) (hs_ : Sound q_ k_ s) :
    Sound q_ k_ (quietTc s v) := by
  unfold quietTc
  try dsimp only
  repeat' (first
    | with_reducible assumption
    | with_reducible apply putTc_sound
    | with_reducible apply Sound.ite
    | with_reducible apply Sound.foldl
    | with_reducible apply Sound.foldl_fst
    | intro _
    | split
    | (simp only [Sound.lit]; with_reducible apply Sound.parts))

theorem pumpTc_sound (s : State) (v : Tc) (f : Nat) (h : Sound q_ k_ s) :
    Sound q_ k_ (pumpTc s v f).1 := by
  induction f generalizing s v with
  | zero => simp only [pumpTc]; assumption
  | succ f_ ih =>
    simp only [pumpTc]
    repeat' (first
      | with_reducible assumption
      | with_reducible apply ih
      | with_reducible apply tcSend_sound
      | with_reducible apply Sound.ite
      | with_reducible apply Sound.foldl
      | with_reducible apply Sound.foldl_fst
      | intro _
      | split
      | (simp only [Sound.lit]; with_reducible apply Sound.parts))

theorem queueTx_sound (s : State) (v : Tc) (l : List TxPkt) (hs_ : Sound q_ k_ s) :
    Sound q_ k_ (queueTx s v l).1 := by
  unfold queueTx
  try dsimp only
  repeat' (first
    | with_reducible assumption
    | with_reducible apply pumpTc_sound
    | with_reducible apply Sound.ite
    | with_reducible apply Sound.foldl
    | with_reducible apply Sound.foldl_fst
    | intro _
    | split
    | (simp only [Sound.lit]; with_reducible apply Sound.parts))

theorem sendOn_sound (s : State) (n : Nat) (t : Nat) (l : List TxPkt) (hs_ : Sound q_ k_ s) :
    Sound q_ k_ (sendOn s n t l) := by
  unfold sendOn
  try dsimp only
  repeat' (first
    | with_reducible assumption
    | with_reducible apply queueTx_sound
    | with_reducible apply putTc_sound
    | with_reducible apply Sound.ite
    | with_reducible apply Sound.foldl
    | with_reducible apply Sound.foldl_fst
    | intro _
    | split
    | (simp only [Sound.lit]; with_reducible apply Sound.parts))

theorem resend_sound (s : State) (v : Tc) (x : TxPkt) (hs_ : Sound q_ k_ s) :
    Sound q_ k_ (resend s v x).1 := by
  unfold resend
  try dsimp only
  repeat' (first
    | with_reducible assumption
    | with_reducible apply tcSend_sound
    | with_reducible apply Sound.ite
    | with_reducible apply Sound.foldl
    | with_reducible apply Sound.foldl_fst
    | intro _
    | split
    | (simp only [Sound.lit]; with_reducible apply Sound.parts))

theorem ackIn_sound (s : State) (v : Tc) (h : KhtHdr) (hs_ : Sound q_ k_ s) :
    Sound q_ k_ (ackIn s v h).1 := by
  unfold ackIn
  try dsimp only
  repeat' (first
    | with_reducible assumption
    | with_reducible apply resend_sound
    | with_reducible apply pumpTc_sound
    | with_reducible apply Sound.ite
    | with_reducible apply Sound.foldl
    | with_reducible apply Sound.foldl_fst
    | intro _
    | split
    | (simp only [Sound.lit]; with_reducible apply Sound.parts))

theorem pfcOut_sound (s : State) (port : Nat) (prio : Nat) (hs_ : Sound q_ k_ s) :
    Sound q_ k_ (pfcOut s port prio) := by
  unfold pfcOut
  try dsimp only
  repeat' (first
    | with_reducible assumption
    | with_reducible apply emit_sound
    | with_reducible apply Sound.ite
    | with_reducible apply Sound.foldl
    | with_reducible apply Sound.foldl_fst
    | intro _
    | split
    | (simp only [Sound.lit]; with_reducible apply Sound.parts))

theorem rxDrop_sound (s : State) (hs_ : Sound q_ k_ s) :
    Sound q_ k_ (rxDrop s) := by
  unfold rxDrop
  try dsimp only
  repeat' (first
    | with_reducible assumption
    | with_reducible apply satCsrFld_sound
    | with_reducible apply Sound.ite
    | with_reducible apply Sound.foldl
    | with_reducible apply Sound.foldl_fst
    | intro _
    | split
    | (simp only [Sound.lit]; with_reducible apply Sound.parts))

theorem acceptFrame_sound (s : State) (n : Nat) (f : HFrame) (hs_ : Sound q_ k_ s) :
    Sound q_ k_ (acceptFrame s n f) := by
  unfold acceptFrame
  try dsimp only
  repeat' (first
    | with_reducible assumption
    | with_reducible apply rxDrop_sound
    | with_reducible apply pfcOut_sound
    | with_reducible apply Sound.ite
    | with_reducible apply Sound.foldl
    | with_reducible apply Sound.foldl_fst
    | intro _
    | split
    | (simp only [Sound.lit]; with_reducible apply Sound.parts))

theorem frameReceive_sound (fec : Nat) (f : HFrame) (s : State) (hs_ : Sound q_ k_ s) :
    Sound q_ k_ (frameReceive fec f s) := by
  unfold frameReceive
  try dsimp only
  repeat' (first
    | with_reducible assumption
    | with_reducible apply satCsrFld_sound
    | with_reducible apply sendHost_sound
    | with_reducible apply rxDrop_sound
    | with_reducible apply acceptFrame_sound
    | with_reducible apply Sound.ite
    | with_reducible apply Sound.foldl
    | with_reducible apply Sound.foldl_fst
    | intro _
    | split
    | (simp only [Sound.lit]; with_reducible apply Sound.parts))

theorem takeFrame_sound (s : State) (f : HFrame) (hs_ : Sound q_ k_ s) :
    Sound q_ k_ (takeFrame s f) := by
  unfold takeFrame
  try dsimp only
  repeat' (first
    | with_reducible assumption
    | with_reducible apply pfcOut_sound
    | with_reducible apply Sound.ite
    | with_reducible apply Sound.foldl
    | with_reducible apply Sound.foldl_fst
    | intro _
    | split
    | (simp only [Sound.lit]; with_reducible apply Sound.parts))

theorem pfcPause_sound (port : Nat) (prio : Nat) (on : Bool) (s : State) (hs_ : Sound q_ k_ s) :
    Sound q_ k_ (pfcPause port prio on s) := by
  unfold pfcPause
  try dsimp only
  repeat' (first
    | with_reducible assumption
    | with_reducible apply emit_sound
    | with_reducible apply Sound.ite
    | with_reducible apply Sound.foldl
    | with_reducible apply Sound.foldl_fst
    | intro _
    | split
    | (simp only [Sound.lit]; with_reducible apply Sound.parts))

theorem hostLinkChange_sound (port : Nat) (up : Bool) (s : State) (hs_ : Sound q_ k_ s) :
    Sound q_ k_ (hostLinkChange port up s) := by
  unfold hostLinkChange
  try dsimp only
  repeat' (first
    | with_reducible assumption
    | with_reducible apply setCsrFld_sound
    | with_reducible apply Sound.ite
    | with_reducible apply Sound.foldl
    | with_reducible apply Sound.foldl_fst
    | intro _
    | split
    | (simp only [Sound.lit]; with_reducible apply Sound.parts))

theorem connectAck_sound (s : State) (v : Tc) (hs_ : Sound q_ k_ s) :
    Sound q_ k_ (connectAck s v) := by
  unfold connectAck
  try dsimp only
  repeat' (first
    | with_reducible assumption
    | with_reducible apply sendHost_sound
    | with_reducible apply Sound.ite
    | with_reducible apply Sound.foldl
    | with_reducible apply Sound.foldl_fst
    | intro _
    | split
    | (simp only [Sound.lit]; with_reducible apply Sound.parts))

theorem openTc_sound (s : State) (n : Nat) (t : Nat) (w0 : Word) (w1 : Word) (hs_ : Sound q_ k_ s) :
    Sound q_ k_ (openTc s n t w0 w1) := by
  unfold openTc
  try dsimp only
  repeat' (first
    | with_reducible assumption
    | with_reducible apply connectAck_sound
    | with_reducible apply Sound.ite
    | with_reducible apply Sound.foldl
    | with_reducible apply Sound.foldl_fst
    | intro _
    | split
    | (simp only [Sound.lit]; with_reducible apply Sound.parts))

theorem connectFn_sound (s : State) (n : Nat) (w0 : Word) (w1 : Word) (hs_ : Sound q_ k_ s) :
    Sound q_ k_ (connectFn s n w0 w1) := by
  unfold connectFn
  try dsimp only
  repeat' (first
    | with_reducible assumption
    | with_reducible apply connectAck_sound
    | with_reducible apply resetUnknown_sound
    | with_reducible apply openTc_sound
    | with_reducible apply Sound.ite
    | with_reducible apply Sound.foldl
    | with_reducible apply Sound.foldl_fst
    | intro _
    | split
    | (simp only [Sound.lit]; with_reducible apply Sound.parts))

theorem connect_sound (id : Nat) (miss : Bool) (s : State) (hs_ : Sound q_ k_ s) :
    Sound q_ k_ (connect id miss s) := by
  unfold connect
  try dsimp only
  repeat' (first
    | with_reducible assumption
    | with_reducible apply serve_sound
    | with_reducible apply takeFrame_sound
    | with_reducible apply connectFn_sound
    | with_reducible apply Sound.ite
    | with_reducible apply Sound.foldl
    | with_reducible apply Sound.foldl_fst
    | intro _
    | split
    | (simp only [Sound.lit]; with_reducible apply Sound.parts))

theorem tryClose_sound (s : State) (n : Nat) (t : Nat) (hs_ : Sound q_ k_ s) :
    Sound q_ k_ (tryClose s n t) := by
  unfold tryClose
  try dsimp only
  repeat' (first
    | with_reducible assumption
    | with_reducible apply tcSend_sound
    | with_reducible apply quietTc_sound
    | with_reducible apply Sound.ite
    | with_reducible apply Sound.foldl
    | with_reducible apply Sound.foldl_fst
    | intro _
    | split
    | (simp only [Sound.lit]; with_reducible apply Sound.parts))

theorem notOpen_sound (s : State) (v : Tc) (h : KhtHdr) (hs_ : Sound q_ k_ s) :
    Sound q_ k_ (notOpen s v h) := by
  unfold notOpen
  try dsimp only
  repeat' (first
    | with_reducible assumption
    | with_reducible apply resetOut_sound
    | with_reducible apply tcSend_sound
    | with_reducible apply Sound.ite
    | with_reducible apply Sound.foldl
    | with_reducible apply Sound.foldl_fst
    | intro _
    | split
    | (simp only [Sound.lit]; with_reducible apply Sound.parts))

theorem onTc_sound (s : State) (id : Nat) (op : Nat) (miss : Bool) (go : State → Tc → HFrame → KhtHdr → State) (h_go : ∀ x0 x1 x2 x3, Sound q_ k_ x0 → Sound q_ k_ (go x0 x1 x2 x3)) (hs_ : Sound q_ k_ s) :
    Sound q_ k_ (onTc s id op miss go) := by
  unfold onTc
  try dsimp only
  repeat' (first
    | with_reducible assumption
    | with_reducible apply h_go
    | with_reducible apply takeFrame_sound
    | with_reducible apply resetUnknown_sound
    | with_reducible apply serve_sound
    | with_reducible apply notOpen_sound
    | with_reducible apply ackIn_sound
    | with_reducible apply putTc_sound
    | with_reducible apply Sound.ite
    | with_reducible apply Sound.foldl
    | with_reducible apply Sound.foldl_fst
    | intro _
    | split
    | (simp only [Sound.lit]; with_reducible apply Sound.parts))

theorem closeAck_sound (id : Nat) (miss : Bool) (s : State) (hs_ : Sound q_ k_ s) :
    Sound q_ k_ (closeAck id miss s) := by
  unfold closeAck
  try dsimp only
  repeat' (first
    | with_reducible assumption
    | with_reducible apply onTc_sound
    | with_reducible apply tryClose_sound
    | with_reducible apply Sound.ite
    | with_reducible apply Sound.foldl
    | with_reducible apply Sound.foldl_fst
    | intro _
    | split
    | (simp only [Sound.lit]; with_reducible apply Sound.parts))

theorem khtReset_sound (id : Nat) (miss : Bool) (s : State) (hs_ : Sound q_ k_ s) :
    Sound q_ k_ (khtReset id miss s) := by
  unfold khtReset
  try dsimp only
  repeat' (first
    | with_reducible assumption
    | with_reducible apply onTc_sound
    | with_reducible apply quietTc_sound
    | with_reducible apply Sound.ite
    | with_reducible apply Sound.foldl
    | with_reducible apply Sound.foldl_fst
    | intro _
    | split
    | (simp only [Sound.lit]; with_reducible apply Sound.parts))

theorem khtTimeout_sound (n : Nat) (t : Nat) (psn : Nat) (s : State) (hs_ : Sound q_ k_ s) :
    Sound q_ k_ (khtTimeout n t psn s) := by
  unfold khtTimeout
  try dsimp only
  repeat' (first
    | with_reducible assumption
    | with_reducible apply quietTc_sound
    | with_reducible apply resetOut_sound
    | with_reducible apply resend_sound
    | with_reducible apply putTc_sound
    | with_reducible apply Sound.ite
    | with_reducible apply Sound.foldl
    | with_reducible apply Sound.foldl_fst
    | intro _
    | split
    | (simp only [Sound.lit]; with_reducible apply Sound.parts))

theorem khtAckTimer_sound (n : Nat) (t : Nat) (s : State) (hs_ : Sound q_ k_ s) :
    Sound q_ k_ (khtAckTimer n t s) := by
  unfold khtAckTimer
  try dsimp only
  repeat' (first
    | with_reducible assumption
    | with_reducible apply tcAck_sound
    | with_reducible apply putTc_sound
    | with_reducible apply Sound.ite
    | with_reducible apply Sound.foldl
    | with_reducible apply Sound.foldl_fst
    | intro _
    | split
    | (simp only [Sound.lit]; with_reducible apply Sound.parts))

theorem tcQuietExpire_sound (n : Nat) (t : Nat) (s : State) (hs_ : Sound q_ k_ s) :
    Sound q_ k_ (tcQuietExpire n t s) := by
  unfold tcQuietExpire
  try dsimp only
  repeat' (first
    | with_reducible assumption
    | with_reducible apply dropTc_sound
    | with_reducible apply Sound.ite
    | with_reducible apply Sound.foldl
    | with_reducible apply Sound.foldl_fst
    | intro _
    | split
    | (simp only [Sound.lit]; with_reducible apply Sound.parts))

end Sys2Proof.Machine
end

