-- ==== Sys2Proof/Laws/KeepsCommands.lean ====
section
/-! SUPPORT. What every operation of Machine/Commands.lean keeps (Laws/Sound.lean). -/

namespace Sys2Proof.Machine

variable {q_ : List Instr} {k_ : Nat}

theorem countFn_sound (s : State) (n : Nat) (hi : Nat) (lo : Nat) (hs_ : Sound q_ k_ s) :
    Sound q_ k_ (countFn s n hi lo) := by
  unfold countFn
  try dsimp only
  repeat' (first
    | with_reducible assumption
    | with_reducible apply satCsrFld_sound
    | with_reducible apply Sound.ite
    | with_reducible apply Sound.foldl
    | with_reducible apply Sound.foldl_fst
    | intro _
    | split
    | (simp only [Sound.lit]; with_reducible apply Sound.parts))

theorem setSlot_sound (s : State) (n : Nat) (i : Nat) (v : Nat) (hs_ : Sound q_ k_ s) :
    Sound q_ k_ (setSlot s n i v) := by
  unfold setSlot
  try dsimp only
  repeat' (first
    | with_reducible assumption
    | with_reducible apply updFun_sound
    | with_reducible apply Sound.ite
    | with_reducible apply Sound.foldl
    | with_reducible apply Sound.foldl_fst
    | intro _
    | split
    | (simp only [Sound.lit]; with_reducible apply Sound.parts))

theorem slotGen_sound (s : State) (n : Nat) (i : Nat) (hs_ : Sound q_ k_ s) :
    Sound q_ k_ (slotGen s n i).1 := by
  unfold slotGen
  try dsimp only
  repeat' (first
    | with_reducible assumption
    | with_reducible apply memReadWords_sound
    | with_reducible apply Sound.ite
    | with_reducible apply Sound.foldl
    | with_reducible apply Sound.foldl_fst
    | intro _
    | split
    | (simp only [Sound.lit]; with_reducible apply Sound.parts))

theorem writeHeader_sound (s : State) (n : Nat) (i : Nat) (gen : Nat) (status : Nat) (len : Nat) (reqId : Nat) (time : Nat) (hs_ : Sound q_ k_ s) :
    Sound q_ k_ (writeHeader s n i gen status len reqId time) := by
  unfold writeHeader
  try dsimp only
  repeat' (first
    | with_reducible assumption
    | with_reducible apply memWriteWords_sound
    | with_reducible apply Sound.ite
    | with_reducible apply Sound.foldl
    | with_reducible apply Sound.foldl_fst
    | intro _
    | split
    | (simp only [Sound.lit]; with_reducible apply Sound.parts))

theorem writeRec_sound (s : State) (n : Nat) (reqId : Nat) (l : List Word) (hs_ : Sound q_ k_ s) :
    Sound q_ k_ (writeRec s n reqId l) := by
  unfold writeRec
  try dsimp only
  repeat' (first
    | with_reducible assumption
    | with_reducible apply memWriteWords_sound
    | with_reducible apply Sound.ite
    | with_reducible apply Sound.foldl
    | with_reducible apply Sound.foldl_fst
    | intro _
    | split
    | (simp only [Sound.lit]; with_reducible apply Sound.parts))

theorem notice_sound (s : State) (n : Nat) (t : Nat) (l : List Word) (hs_ : Sound q_ k_ s) :
    Sound q_ k_ (notice s n t l) := by
  unfold notice
  try dsimp only
  repeat' (first
    | with_reducible assumption
    | with_reducible apply sendOn_sound
    | with_reducible apply Sound.ite
    | with_reducible apply Sound.foldl
    | with_reducible apply Sound.foldl_fst
    | intro _
    | split
    | (simp only [Sound.lit]; with_reducible apply Sound.parts))

theorem setReq_sound (s : State) (n : Nat) (r : HReq) (hs_ : Sound q_ k_ s) :
    Sound q_ k_ (setReq s n r) := by
  unfold setReq
  try dsimp only
  repeat' (first
    | with_reducible assumption
    | with_reducible apply updFun_sound
    | with_reducible apply Sound.ite
    | with_reducible apply Sound.foldl
    | with_reducible apply Sound.foldl_fst
    | intro _
    | split
    | (simp only [Sound.lit]; with_reducible apply Sound.parts))

theorem dropReqH_sound (s : State) (n : Nat) (ser : Nat) (hs_ : Sound q_ k_ s) :
    Sound q_ k_ (dropReqH s n ser) := by
  unfold dropReqH
  try dsimp only
  repeat' (first
    | with_reducible assumption
    | with_reducible apply updFun_sound
    | with_reducible apply Sound.ite
    | with_reducible apply Sound.foldl
    | with_reducible apply Sound.foldl_fst
    | intro _
    | split
    | (simp only [Sound.lit]; with_reducible apply Sound.parts))

theorem finishReq_sound (s : State) (n : Nat) (ser : Nat) (status : Nat) (len : Nat) (hs_ : Sound q_ k_ s) :
    Sound q_ k_ (finishReq s n ser status len) := by
  unfold finishReq
  try dsimp only
  repeat' (first
    | with_reducible assumption
    | with_reducible apply dropReqH_sound
    | with_reducible apply slotGen_sound
    | with_reducible apply setSlot_sound
    | with_reducible apply writeHeader_sound
    | with_reducible apply wrapCsrFld_sound
    | with_reducible apply writeRec_sound
    | with_reducible apply notice_sound
    | with_reducible apply Sound.ite
    | with_reducible apply Sound.foldl
    | with_reducible apply Sound.foldl_fst
    | intro _
    | split
    | (simp only [Sound.lit]; with_reducible apply Sound.parts))

theorem finishAll_sound (s : State) (n : Nat) (status : Nat) (l : List HReq) (hs_ : Sound q_ k_ s) :
    Sound q_ k_ (finishAll s n status l) := by
  unfold finishAll
  try dsimp only
  repeat' (first
    | with_reducible assumption
    | with_reducible apply finishReq_sound
    | with_reducible apply Sound.ite
    | with_reducible apply Sound.foldl
    | with_reducible apply Sound.foldl_fst
    | intro _
    | split
    | (simp only [Sound.lit]; with_reducible apply Sound.parts))

theorem setLanded_sound (s : State) (n : Nat) (r : Nat) (l : List Landed) (hs_ : Sound q_ k_ s) :
    Sound q_ k_ (setLanded s n r l) := by
  unfold setLanded
  try dsimp only
  repeat' (first
    | with_reducible assumption
    | with_reducible apply updFun_sound
    | with_reducible apply Sound.ite
    | with_reducible apply Sound.foldl
    | with_reducible apply Sound.foldl_fst
    | intro _
    | split
    | (simp only [Sound.lit]; with_reducible apply Sound.parts))

theorem landTail_sound (s : State) (n : Nat) (r : Nat) (tc : Option Nat) (hs_ : Sound q_ k_ s) :
    Sound q_ k_ (landTail s n r tc) := by
  unfold landTail
  try dsimp only
  repeat' (first
    | with_reducible assumption
    | with_reducible apply setLanded_sound
    | with_reducible apply setCsrFld_sound
    | with_reducible apply Sound.ite
    | with_reducible apply Sound.foldl
    | with_reducible apply Sound.foldl_fst
    | intro _
    | split
    | (simp only [Sound.lit]; with_reducible apply Sound.parts))

theorem landEntry_sound (s : State) (n : Nat) (r : Nat) (entry : List Word) (tc : Option Nat) (hs_ : Sound q_ k_ s) :
    Sound q_ k_ (landEntry s n r entry tc).1 := by
  unfold landEntry
  try dsimp only
  repeat' (first
    | with_reducible assumption
    | with_reducible apply countFn_sound
    | with_reducible apply landTail_sound
    | with_reducible apply memWriteWords_sound
    | with_reducible apply Sound.ite
    | with_reducible apply Sound.foldl
    | with_reducible apply Sound.foldl_fst
    | intro _
    | split
    | (simp only [Sound.lit]; with_reducible apply Sound.parts))

theorem coverWrite_sound (s : State) (n : Nat) (off : Nat) (ws : List Word) (tc : Option Nat) (hs_ : Sound q_ k_ s) :
    Sound q_ k_ (coverWrite s n off ws tc) := by
  unfold coverWrite
  try dsimp only
  repeat' (first
    | with_reducible assumption
    | with_reducible apply landTail_sound
    | with_reducible apply countFn_sound
    | with_reducible apply Sound.ite
    | with_reducible apply Sound.foldl
    | with_reducible apply Sound.foldl_fst
    | intro _
    | split
    | (simp only [Sound.lit]; with_reducible apply Sound.parts))

theorem headEntry_sound {s : State} {n r : Nat} {x : Landed} {y : State} {z : List PWord}
    (e_ : headEntry s n r = some (x, y, z)) (h : Sound q_ k_ s) : Sound q_ k_ y := by
  unfold headEntry at e_
  split at e_
  · cases e_
  · cases e_; exact memReadWords_sound _ _ _ h

theorem consume_sound (s : State) (n : Nat) (r : Nat) (hs_ : Sound q_ k_ s) :
    Sound q_ k_ (consume s n r) := by
  unfold consume
  try dsimp only
  repeat' (first
    | with_reducible assumption
    | with_reducible apply setCsrFld_sound
    | with_reducible apply setLanded_sound
    | with_reducible apply Sound.ite
    | with_reducible apply Sound.foldl
    | with_reducible apply Sound.foldl_fst
    | intro _
    | split
    | (simp only [Sound.lit]; with_reducible apply Sound.parts))

theorem applyAck_sound (s : State) (n : Nat) (slot : Nat) (gen : Nat) (hs_ : Sound q_ k_ s) :
    Sound q_ k_ (applyAck s n slot gen) := by
  unfold applyAck
  try dsimp only
  repeat' (first
    | with_reducible assumption
    | with_reducible apply slotGen_sound
    | with_reducible apply setSlot_sound
    | with_reducible apply countFn_sound
    | with_reducible apply Sound.ite
    | with_reducible apply Sound.foldl
    | with_reducible apply Sound.foldl_fst
    | intro _
    | split
    | (simp only [Sound.lit]; with_reducible apply Sound.parts))

theorem acceptReq_sound (s : State) (n : Nat) (r : Nat) (x : Landed) (e : List PWord) (status : Nat) (hs_ : Sound q_ k_ s) :
    Sound q_ k_ (acceptReq s n r x e status).1 := by
  unfold acceptReq
  try dsimp only
  repeat' (first
    | with_reducible assumption
    | with_reducible apply slotGen_sound
    | with_reducible apply wrapCsrFld_sound
    | with_reducible apply writeRec_sound
    | with_reducible apply setSlot_sound
    | with_reducible apply writeHeader_sound
    | with_reducible apply updFun_sound
    | with_reducible apply finishReq_sound
    | with_reducible apply dropReqH_sound
    | with_reducible apply notice_sound
    | with_reducible apply Sound.ite
    | with_reducible apply Sound.foldl
    | with_reducible apply Sound.foldl_fst
    | intro _
    | split
    | (simp only [Sound.lit]; with_reducible apply Sound.parts))

theorem intake_sound (s : State) (n : Nat) (r : Nat) (forced : Bool) (stall : State → List PWord → Bool) (hs_ : Sound q_ k_ s) :
    Sound q_ k_ (intake s n r forced stall).1 := by
  unfold intake
  try dsimp only
  repeat' (first
    | with_reducible assumption
    | refine headEntry_sound (by with_reducible assumption) ?_
    | with_reducible apply consume_sound
    | with_reducible apply satCsrFld_sound
    | with_reducible apply memReadWords_sound
    | with_reducible apply countFn_sound
    | with_reducible apply notice_sound
    | with_reducible apply updFun_sound
    | with_reducible apply applyAck_sound
    | with_reducible apply acceptReq_sound
    | with_reducible apply Sound.ite
    | with_reducible apply Sound.foldl
    | with_reducible apply Sound.foldl_fst
    | intro _
    | split
    | (simp only [Sound.lit]; with_reducible apply Sound.parts))

theorem intakeNow_sound (n : Nat) (r : Nat) (sel : List PWord → Bool) (s : State) (hs_ : Sound q_ k_ s) :
    Sound q_ k_ (intakeNow n r sel s) := by
  unfold intakeNow
  try dsimp only
  repeat' (first
    | with_reducible assumption
    | with_reducible apply intake_sound
    | with_reducible apply finishReq_sound
    | with_reducible apply Sound.ite
    | with_reducible apply Sound.foldl
    | with_reducible apply Sound.foldl_fst
    | intro _
    | split
    | (simp only [Sound.lit]; with_reducible apply Sound.parts))

theorem fnCompleteW_sound (n : Nat) (who : Who) (v : Word) (s : State) (hs_ : Sound q_ k_ s) :
    Sound q_ k_ (fnCompleteW n who v s).1 := by
  unfold fnCompleteW
  try dsimp only
  repeat' (first
    | with_reducible assumption
    | with_reducible apply finishReq_sound
    | with_reducible apply countFn_sound
    | with_reducible apply Sound.ite
    | with_reducible apply Sound.foldl
    | with_reducible apply Sound.foldl_fst
    | intro _
    | split
    | (simp only [Sound.lit]; with_reducible apply Sound.parts))

theorem flushRing_sound (s : State) (n r f : Nat) (h : Sound q_ k_ s) :
    Sound q_ k_ (flushRing s n r f) := by
  induction f generalizing s with
  | zero => simp only [flushRing]; assumption
  | succ f_ ih =>
    simp only [flushRing]
    repeat' (first
      | with_reducible assumption
      | with_reducible apply ih
      | with_reducible apply intake_sound
      | with_reducible apply Sound.ite
      | with_reducible apply Sound.foldl
      | with_reducible apply Sound.foldl_fst
      | intro _
      | split
      | (simp only [Sound.lit]; with_reducible apply Sound.parts))

theorem functionDisable_sound (n : Nat) (s : State) (hs_ : Sound q_ k_ s) :
    Sound q_ k_ (functionDisable n s) := by
  unfold functionDisable
  try dsimp only
  repeat' (first
    | with_reducible assumption
    | with_reducible apply setCsrFld_sound
    | with_reducible apply updFun_sound
    | with_reducible apply flushRing_sound
    | with_reducible apply Sound.ite
    | with_reducible apply Sound.foldl
    | with_reducible apply Sound.foldl_fst
    | intro _
    | split
    | (simp only [Sound.lit]; with_reducible apply Sound.parts))

theorem zeroWords_sound (s : State) (off : Nat) (n : Nat) (hs_ : Sound q_ k_ s) :
    Sound q_ k_ (zeroWords s off n) := by
  unfold zeroWords
  try dsimp only
  repeat' (first
    | with_reducible assumption
    | with_reducible apply memWriteWords_sound
    | with_reducible apply Sound.ite
    | with_reducible apply Sound.foldl
    | with_reducible apply Sound.foldl_fst
    | intro _
    | split
    | (simp only [Sound.lit]; with_reducible apply Sound.parts))

theorem functionEnable_sound (n : Nat) (s : State) (hs_ : Sound q_ k_ s) :
    Sound q_ k_ (functionEnable n s) := by
  unfold functionEnable
  try dsimp only
  repeat' (first
    | with_reducible assumption
    | with_reducible apply memWriteWords_sound
    | with_reducible apply zeroWords_sound
    | with_reducible apply setCsrFld_sound
    | with_reducible apply updFun_sound
    | with_reducible apply Sound.ite
    | with_reducible apply Sound.foldl
    | with_reducible apply Sound.foldl_fst
    | intro _
    | split
    | (simp only [Sound.lit]; with_reducible apply Sound.parts))

end Sys2Proof.Machine
end

