-- ==== Sys2Proof/Laws/KeepsImages.lean ====
section
/-! SUPPORT. What every operation of Machine/Images.lean keeps (Laws/Sound.lean). -/

namespace Sys2Proof.Machine

variable {q_ : List Instr} {k_ : Nat}

theorem readImage_sound (s : State) (base : Nat) (hs_ : Sound q_ k_ s) :
    Sound q_ k_ (readImage s base).1 := by
  unfold readImage
  try dsimp only
  repeat' (first
    | with_reducible assumption
    | with_reducible apply memReadBytes_sound
    | with_reducible apply Sound.ite
    | with_reducible apply Sound.foldl
    | with_reducible apply Sound.foldl_fst
    | intro _
    | split
    | (simp only [Sound.lit]; with_reducible apply Sound.parts))

theorem storeImg_sound (s : State) (n : Nat) (l : Nat) (i : Img) (hs_ : Sound q_ k_ s) :
    Sound q_ k_ (storeImg s n l i) := by
  unfold storeImg
  try dsimp only
  repeat' (first
    | with_reducible assumption
    | with_reducible apply updFun_sound
    | with_reducible apply csrSet_sound
    | with_reducible apply Sound.ite
    | with_reducible apply Sound.foldl
    | with_reducible apply Sound.foldl_fst
    | intro _
    | split
    | (simp only [Sound.lit]; with_reducible apply Sound.parts))

theorem evictImg_sound (s : State) (n : Nat) (l : Nat) (hs_ : Sound q_ k_ s) :
    Sound q_ k_ (evictImg s n l) := by
  unfold evictImg
  try dsimp only
  repeat' (first
    | with_reducible assumption
    | with_reducible apply csrSet_sound
    | with_reducible apply updFun_sound
    | with_reducible apply Sound.ite
    | with_reducible apply Sound.foldl
    | with_reducible apply Sound.foldl_fst
    | intro _
    | split
    | (simp only [Sound.lit]; with_reducible apply Sound.parts))

end Sys2Proof.Machine
end

