-- ==== Sys2Proof/Laws/KeepsContexts.lean ====
section
/-! SUPPORT. What every operation of Machine/Contexts.lean keeps (Laws/Sound.lean). -/

namespace Sys2Proof.Machine

variable {q_ : List Instr} {k_ : Nat}

theorem syncCore_sound (s : State) (n : Nat) (c : Nat) (code : Nat) (arg : Nat) (hs_ : Sound q_ k_ s) :
    Sound q_ k_ (syncCore s n c code arg) := by
  unfold syncCore
  try dsimp only
  repeat' (first
    | with_reducible assumption
    | with_reducible apply injectAt_sound
    | with_reducible apply Sound.ite
    | with_reducible apply Sound.foldl
    | with_reducible apply Sound.foldl_fst
    | intro _
    | split
    | (simp only [Sound.lit]; with_reducible apply Sound.parts))

theorem syncAll_sound (s : State) (n : Nat) (code : Nat) (arg : Nat) (hs_ : Sound q_ k_ s) :
    Sound q_ k_ (syncAll s n code arg) := by
  unfold syncAll
  try dsimp only
  repeat' (first
    | with_reducible assumption
    | with_reducible apply syncCore_sound
    | with_reducible apply Sound.ite
    | with_reducible apply Sound.foldl
    | with_reducible apply Sound.foldl_fst
    | intro _
    | split
    | (simp only [Sound.lit]; with_reducible apply Sound.parts))

theorem syncCtl_sound (s : State) (n : Nat) (c : Nat) (code : Nat) (arg : Nat) (hs_ : Sound q_ k_ s) :
    Sound q_ k_ (syncCtl s n c code arg) := by
  unfold syncCtl
  try dsimp only
  repeat' (first
    | with_reducible assumption
    | with_reducible apply injectAt_sound
    | with_reducible apply Sound.ite
    | with_reducible apply Sound.foldl
    | with_reducible apply Sound.foldl_fst
    | intro _
    | split
    | (simp only [Sound.lit]; with_reducible apply Sound.parts))

theorem setCtxState_sound (s : State) (n : Nat) (v : Nat) (hs_ : Sound q_ k_ s) :
    Sound q_ k_ (setCtxState s n v) := by
  unfold setCtxState
  try dsimp only
  repeat' (first
    | with_reducible assumption
    | with_reducible apply setCsrFld_sound
    | with_reducible apply Sound.ite
    | with_reducible apply Sound.foldl
    | with_reducible apply Sound.foldl_fst
    | intro _
    | split
    | (simp only [Sound.lit]; with_reducible apply Sound.parts))

theorem nextPair_sound {s : State} {n : Nat} {x0_ : State} (e_ : nextPair s n = some x0_) (hs_ : Sound q_ k_ s) :
    Sound q_ k_ x0_ := by
  unfold nextPair at e_
  try dsimp only at e_
  repeat' (first
    | with_reducible assumption
    | with_reducible apply setCsrFld_sound
    | with_reducible apply Sound.ite
    | with_reducible apply Sound.foldl
    | with_reducible apply Sound.foldl_fst
    | intro _
    | (simp only [Option.map_eq_some_iff] at e_; obtain ⟨_, _, e_⟩ := e_; subst e_)
    | split at e_
    | (cases e_; done)
    | (injection e_ with e_; subst e_)
    | (injection e_ with e_; injection e_ with e_; subst e_)
    | split
    | (simp only [Sound.lit]; with_reducible apply Sound.parts))

theorem dropOld_sound (s : State) (c : Nat) (hs_ : Sound q_ k_ s) :
    Sound q_ k_ (dropOld s c) := by
  unfold dropOld
  try dsimp only
  repeat' (first
    | with_reducible assumption
    | with_reducible apply completeReq_sound
    | with_reducible apply updCore_sound
    | with_reducible apply Sound.ite
    | with_reducible apply Sound.foldl
    | with_reducible apply Sound.foldl_fst
    | intro _
    | split
    | (simp only [Sound.lit]; with_reducible apply Sound.parts))

theorem setPair_sound (s : State) (c : Nat) (ctx : Nat) (gen : Nat) (hs_ : Sound q_ k_ s) :
    Sound q_ k_ (setPair s c ctx gen) := by
  unfold setPair
  try dsimp only
  repeat' (first
    | with_reducible assumption
    | with_reducible apply updCore_sound
    | with_reducible apply Sound.ite
    | with_reducible apply Sound.foldl
    | with_reducible apply Sound.foldl_fst
    | intro _
    | split
    | (simp only [Sound.lit]; with_reducible apply Sound.parts))

theorem pairToCores_sound (s : State) (n : Nat) (hs_ : Sound q_ k_ s) :
    Sound q_ k_ (pairToCores s n) := by
  unfold pairToCores
  try dsimp only
  repeat' (first
    | with_reducible assumption
    | with_reducible apply setPair_sound
    | with_reducible apply dropOld_sound
    | with_reducible apply Sound.ite
    | with_reducible apply Sound.foldl
    | with_reducible apply Sound.foldl_fst
    | intro _
    | split
    | (simp only [Sound.lit]; with_reducible apply Sound.parts))

theorem contextIdQuiet_sound (b : Nat) (s : State) (hs_ : Sound q_ k_ s) :
    Sound q_ k_ (contextIdQuiet b s) := by
  unfold contextIdQuiet
  try dsimp only
  repeat' (first
    | with_reducible assumption
    | with_reducible apply updFun_sound
    | with_reducible apply Sound.ite
    | with_reducible apply Sound.foldl
    | with_reducible apply Sound.foldl_fst
    | intro _
    | split
    | (simp only [Sound.lit]; with_reducible apply Sound.parts))

theorem sendDispatch_sound (s : State) (n : Nat) (r : HReq) (hs_ : Sound q_ k_ s) :
    Sound q_ k_ (sendDispatch s n r) := by
  unfold sendDispatch
  try dsimp only
  repeat' (first
    | with_reducible assumption
    | with_reducible apply setReq_sound
    | with_reducible apply updFun_sound
    | with_reducible apply injectEdge_sound
    | with_reducible apply Sound.ite
    | with_reducible apply Sound.foldl
    | with_reducible apply Sound.foldl_fst
    | intro _
    | split
    | (simp only [Sound.lit]; with_reducible apply Sound.parts))

theorem queueSwitch_sound (s : State) (n : Nat) (sw : Switch) (hs_ : Sound q_ k_ s) :
    Sound q_ k_ (queueSwitch s n sw) := by
  unfold queueSwitch
  try dsimp only
  repeat' (first
    | with_reducible assumption
    | with_reducible apply updFun_sound
    | with_reducible apply Sound.ite
    | with_reducible apply Sound.foldl
    | with_reducible apply Sound.foldl_fst
    | intro _
    | split
    | (simp only [Sound.lit]; with_reducible apply Sound.parts))

theorem runGo_sound (s : State) (n : Nat) (ser : Nat) (hs_ : Sound q_ k_ s) :
    Sound q_ k_ (runGo s n ser) := by
  unfold runGo
  try dsimp only
  repeat' (first
    | with_reducible assumption
    | with_reducible apply finishReq_sound
    | with_reducible apply satCsrFld_sound
    | with_reducible apply queueSwitch_sound
    | with_reducible apply setReq_sound
    | with_reducible apply sendDispatch_sound
    | with_reducible apply Sound.ite
    | with_reducible apply Sound.foldl
    | with_reducible apply Sound.foldl_fst
    | intro _
    | split
    | (simp only [Sound.lit]; with_reducible apply Sound.parts))

theorem runCmd_sound (n : Nat) (r : Nat) (s : State) (hs_ : Sound q_ k_ s) :
    Sound q_ k_ (runCmd n r s) := by
  unfold runCmd
  try dsimp only
  repeat' (first
    | with_reducible assumption
    | with_reducible apply intake_sound
    | with_reducible apply runGo_sound
    | with_reducible apply Sound.ite
    | with_reducible apply Sound.foldl
    | with_reducible apply Sound.foldl_fst
    | intro _
    | split
    | (simp only [Sound.lit]; with_reducible apply Sound.parts))

theorem landNotice_sound (s : State) (n : Nat) (tag : Nat) (w0 : Word) (w1 : Word) (hs_ : Sound q_ k_ s) :
    Sound q_ k_ (landNotice s n tag w0 w1) := by
  unfold landNotice
  try dsimp only
  repeat' (first
    | with_reducible assumption
    | with_reducible apply injectAt_sound
    | with_reducible apply Sound.ite
    | with_reducible apply Sound.foldl
    | with_reducible apply Sound.foldl_fst
    | intro _
    | split
    | (simp only [Sound.lit]; with_reducible apply Sound.parts))

theorem sendStart_sound (s : State) (n : Nat) (c : SeedCtl) (hs_ : Sound q_ k_ s) :
    Sound q_ k_ (sendStart s n c) := by
  unfold sendStart
  try dsimp only
  repeat' (first
    | with_reducible assumption
    | with_reducible apply syncAll_sound
    | with_reducible apply setCsrFld_sound
    | with_reducible apply setCtxState_sound
    | with_reducible apply updFun_sound
    | with_reducible apply landNotice_sound
    | with_reducible apply finishReq_sound
    | with_reducible apply Sound.ite
    | with_reducible apply Sound.foldl
    | with_reducible apply Sound.foldl_fst
    | intro _
    | split
    | (simp only [Sound.lit]; with_reducible apply Sound.parts))

theorem trySendStart_sound (s : State) (n : Nat) (hs_ : Sound q_ k_ s) :
    Sound q_ k_ (trySendStart s n) := by
  unfold trySendStart
  try dsimp only
  repeat' (first
    | with_reducible assumption
    | with_reducible apply sendStart_sound
    | with_reducible apply sendDispatch_sound
    | with_reducible apply Sound.ite
    | with_reducible apply Sound.foldl
    | with_reducible apply Sound.foldl_fst
    | intro _
    | split
    | (simp only [Sound.lit]; with_reducible apply Sound.parts))

theorem dispatchRetry_sound (n : Nat) (ser : Nat) (s : State) (hs_ : Sound q_ k_ s) :
    Sound q_ k_ (dispatchRetry n ser s) := by
  unfold dispatchRetry
  try dsimp only
  repeat' (first
    | with_reducible assumption
    | with_reducible apply trySendStart_sound
    | with_reducible apply finishReq_sound
    | with_reducible apply sendDispatch_sound
    | with_reducible apply Sound.ite
    | with_reducible apply Sound.foldl
    | with_reducible apply Sound.foldl_fst
    | intro _
    | split
    | (simp only [Sound.lit]; with_reducible apply Sound.parts))

theorem afterLand_sound (s : State) (c : Nat) (hs_ : Sound q_ k_ s) :
    Sound q_ k_ (afterLand s c) := by
  unfold afterLand
  try dsimp only
  repeat' (first
    | with_reducible assumption
    | with_reducible apply trySendStart_sound
    | with_reducible apply Sound.ite
    | with_reducible apply Sound.foldl
    | with_reducible apply Sound.foldl_fst
    | intro _
    | split
    | (simp only [Sound.lit]; with_reducible apply Sound.parts))

theorem writeNode_sound (s : State) (n : Nat) (base : Nat) (pw : Nat) (h : Nat) (x : List Word) (hs_ : Sound q_ k_ s) :
    Sound q_ k_ (writeNode s n base pw h x) := by
  unfold writeNode
  try dsimp only
  repeat' (first
    | with_reducible assumption
    | with_reducible apply updPlot_sound
    | with_reducible apply setNode_sound
    | with_reducible apply Sound.ite
    | with_reducible apply Sound.foldl
    | with_reducible apply Sound.foldl_fst
    | intro _
    | split
    | (simp only [Sound.lit]; with_reducible apply Sound.parts))

theorem clearSheaves_sound (s : State) (n : Nat) (hs_ : Sound q_ k_ s) :
    Sound q_ k_ (clearSheaves s n) := by
  unfold clearSheaves
  try dsimp only
  repeat' (first
    | with_reducible assumption
    | with_reducible apply updPlot_sound
    | with_reducible apply clearNodes_sound
    | with_reducible apply updFun_sound
    | with_reducible apply Sound.ite
    | with_reducible apply Sound.foldl
    | with_reducible apply Sound.foldl_fst
    | intro _
    | split
    | (simp only [Sound.lit]; with_reducible apply Sound.parts))

theorem writeSheaves_sound (s : State) (n : Nat) (i : Img) (base : Nat) (hs_ : Sound q_ k_ s) :
    Sound q_ k_ (writeSheaves s n i base) := by
  unfold writeSheaves
  try dsimp only
  repeat' (first
    | with_reducible assumption
    | with_reducible apply writeNode_sound
    | with_reducible apply updPlot_sound
    | with_reducible apply updFun_sound
    | with_reducible apply Sound.ite
    | with_reducible apply Sound.foldl
    | with_reducible apply Sound.foldl_fst
    | intro _
    | split
    | (simp only [Sound.lit]; with_reducible apply Sound.parts))

theorem writeSeats_sound (s : State) (n : Nat) (i : Img) (base : Nat) (hs_ : Sound q_ k_ s) :
    Sound q_ k_ (writeSeats s n i base) := by
  unfold writeSeats
  try dsimp only
  repeat' (first
    | with_reducible assumption
    | with_reducible apply updCore_sound
    | with_reducible apply Sound.ite
    | with_reducible apply Sound.foldl
    | with_reducible apply Sound.foldl_fst
    | intro _
    | split
    | (simp only [Sound.lit]; with_reducible apply Sound.parts))

theorem switchFails_sound (s : State) (n : Nat) (sw : Switch) (reason : Nat) (hs_ : Sound q_ k_ s) :
    Sound q_ k_ (switchFails s n sw reason) := by
  unfold switchFails
  try dsimp only
  repeat' (first
    | with_reducible assumption
    | with_reducible apply setCsrFld_sound
    | with_reducible apply finishReq_sound
    | with_reducible apply Sound.ite
    | with_reducible apply Sound.foldl
    | with_reducible apply Sound.foldl_fst
    | intro _
    | split
    | (simp only [Sound.lit]; with_reducible apply Sound.parts))

theorem widen_sound (s : State) (n : Nat) (img : Option Img) (hs_ : Sound q_ k_ s) :
    Sound q_ k_ (widen s n img) := by
  unfold widen
  try dsimp only
  repeat' (first
    | with_reducible assumption
    | with_reducible apply updFun_sound
    | with_reducible apply csrSet_sound
    | with_reducible apply Sound.ite
    | with_reducible apply Sound.foldl
    | with_reducible apply Sound.foldl_fst
    | intro _
    | split
    | (simp only [Sound.lit]; with_reducible apply Sound.parts))

theorem beginSwitch_sound (s : State) (n : Nat) (sw : Switch) (hs_ : Sound q_ k_ s) :
    Sound q_ k_ (beginSwitch s n sw) := by
  unfold beginSwitch
  try dsimp only
  repeat' (first
    | with_reducible assumption
    | with_reducible apply widen_sound
    | with_reducible apply switchFails_sound
    | refine nextPair_sound (by with_reducible assumption) ?_
    | with_reducible apply finishReq_sound
    | with_reducible apply setReq_sound
    | with_reducible apply writeSheaves_sound
    | with_reducible apply clearSheaves_sound
    | with_reducible apply writeSeats_sound
    | with_reducible apply setCtxState_sound
    | with_reducible apply wrapCsrFld_sound
    | with_reducible apply setCsrFld_sound
    | with_reducible apply updFun_sound
    | with_reducible apply syncAll_sound
    | with_reducible apply Sound.ite
    | with_reducible apply Sound.foldl
    | with_reducible apply Sound.foldl_fst
    | intro _
    | split
    | (simp only [Sound.lit]; with_reducible apply Sound.parts))

theorem switchStart_sound (n : Nat) (s : State) (hs_ : Sound q_ k_ s) :
    Sound q_ k_ (switchStart n s) := by
  unfold switchStart
  try dsimp only
  repeat' (first
    | with_reducible assumption
    | with_reducible apply beginSwitch_sound
    | with_reducible apply updFun_sound
    | with_reducible apply Sound.ite
    | with_reducible apply Sound.foldl
    | with_reducible apply Sound.foldl_fst
    | intro _
    | split
    | (simp only [Sound.lit]; with_reducible apply Sound.parts))

theorem fnSwitchW_sound (n : Nat) (who : Who) (v : Word) (s : State) (hs_ : Sound q_ k_ s) :
    Sound q_ k_ (fnSwitchW n who v s).1 := by
  unfold fnSwitchW
  try dsimp only
  repeat' (first
    | with_reducible assumption
    | with_reducible apply switchStart_sound
    | with_reducible apply queueSwitch_sound
    | with_reducible apply Sound.ite
    | with_reducible apply Sound.foldl
    | with_reducible apply Sound.foldl_fst
    | intro _
    | split
    | (simp only [Sound.lit]; with_reducible apply Sound.parts))

theorem refuseSeed_sound (s : State) (n : Nat) (ser : Nat) (reason : Nat) (hs_ : Sound q_ k_ s) :
    Sound q_ k_ (refuseSeed s n ser reason) := by
  unfold refuseSeed
  try dsimp only
  repeat' (first
    | with_reducible assumption
    | with_reducible apply finishReq_sound
    | with_reducible apply setCsrFld_sound
    | with_reducible apply Sound.ite
    | with_reducible apply Sound.foldl
    | with_reducible apply Sound.foldl_fst
    | intro _
    | split
    | (simp only [Sound.lit]; with_reducible apply Sound.parts))

theorem seedAdmitted_sound (s : State) (n : Nat) (a : Adm) (hs_ : Sound q_ k_ s) :
    Sound q_ k_ (seedAdmitted s n a) := by
  unfold seedAdmitted
  try dsimp only
  repeat' (first
    | with_reducible assumption
    | with_reducible apply finishReq_sound
    | with_reducible apply updFun_sound
    | with_reducible apply Sound.ite
    | with_reducible apply Sound.foldl
    | with_reducible apply Sound.foldl_fst
    | intro _
    | split
    | (simp only [Sound.lit]; with_reducible apply Sound.parts))

theorem seedRefused_sound (s : State) (n : Nat) (a : Adm) (reason : Nat) (hs_ : Sound q_ k_ s) :
    Sound q_ k_ (seedRefused s n a reason) := by
  unfold seedRefused
  try dsimp only
  repeat' (first
    | with_reducible assumption
    | with_reducible apply updFun_sound
    | with_reducible apply refuseSeed_sound
    | with_reducible apply Sound.ite
    | with_reducible apply Sound.foldl
    | with_reducible apply Sound.foldl_fst
    | intro _
    | split
    | (simp only [Sound.lit]; with_reducible apply Sound.parts))

theorem beginAdmission_sound (s : State) (n : Nat) (a : Adm) (hs_ : Sound q_ k_ s) :
    Sound q_ k_ (beginAdmission s n a) := by
  unfold beginAdmission
  try dsimp only
  repeat' (first
    | with_reducible assumption
    | with_reducible apply seedAdmitted_sound
    | with_reducible apply setFun_sound
    | with_reducible apply Sound.ite
    | with_reducible apply Sound.foldl
    | with_reducible apply Sound.foldl_fst
    | intro _
    | split
    | (simp only [Sound.lit]; with_reducible apply Sound.parts))

theorem seedQueued_sound (s : State) (n : Nat) (a : Adm) (hs_ : Sound q_ k_ s) :
    Sound q_ k_ (seedQueued s n a) := by
  unfold seedQueued
  try dsimp only
  repeat' (first
    | with_reducible assumption
    | with_reducible apply setCsrFld_sound
    | with_reducible apply queueSwitch_sound
    | with_reducible apply Sound.ite
    | with_reducible apply Sound.foldl
    | with_reducible apply Sound.foldl_fst
    | intro _
    | split
    | (simp only [Sound.lit]; with_reducible apply Sound.parts))

theorem seedGo_sound (s : State) (n : Nat) (ser : Nat) (hs_ : Sound q_ k_ s) :
    Sound q_ k_ (seedGo s n ser) := by
  unfold seedGo
  try dsimp only
  repeat' (first
    | with_reducible assumption
    | with_reducible apply finishReq_sound
    | with_reducible apply refuseSeed_sound
    | with_reducible apply beginAdmission_sound
    | with_reducible apply seedQueued_sound
    | with_reducible apply Sound.ite
    | with_reducible apply Sound.foldl
    | with_reducible apply Sound.foldl_fst
    | intro _
    | split
    | (simp only [Sound.lit]; with_reducible apply Sound.parts))

theorem evictGo_sound (s : State) (n : Nat) (ser : Nat) (hs_ : Sound q_ k_ s) :
    Sound q_ k_ (evictGo s n ser) := by
  unfold evictGo
  try dsimp only
  repeat' (first
    | with_reducible assumption
    | with_reducible apply finishReq_sound
    | with_reducible apply evictImg_sound
    | with_reducible apply Sound.ite
    | with_reducible apply Sound.foldl
    | with_reducible apply Sound.foldl_fst
    | intro _
    | split
    | (simp only [Sound.lit]; with_reducible apply Sound.parts))

theorem seedCmd_sound (n : Nat) (r : Nat) (sel : Word → Bool) (go : State → Nat → Nat → State) (s : State) (hs_ : Sound q_ k_ s) (h_go : ∀ x0 x1 x2, Sound q_ k_ x0 → Sound q_ k_ (go x0 x1 x2)) :
    Sound q_ k_ (seedCmd n r sel go s) := by
  unfold seedCmd
  try dsimp only
  repeat' (first
    | with_reducible assumption
    | with_reducible apply intake_sound
    | with_reducible apply h_go
    | with_reducible apply Sound.ite
    | with_reducible apply Sound.foldl
    | with_reducible apply Sound.foldl_fst
    | intro _
    | split
    | (simp only [Sound.lit]; with_reducible apply Sound.parts))

theorem imageAdmitted_sound (n : Nat) (s : State) (hs_ : Sound q_ k_ s) :
    Sound q_ k_ (imageAdmitted n s) := by
  unfold imageAdmitted
  try dsimp only
  repeat' (first
    | with_reducible assumption
    | with_reducible apply updFun_sound
    | with_reducible apply readImage_sound
    | with_reducible apply seedAdmitted_sound
    | with_reducible apply storeImg_sound
    | with_reducible apply satCsrFld_sound
    | with_reducible apply seedRefused_sound
    | with_reducible apply Sound.ite
    | with_reducible apply Sound.foldl
    | with_reducible apply Sound.foldl_fst
    | intro _
    | split
    | (simp only [Sound.lit]; with_reducible apply Sound.parts))

theorem drainPart_sound (s : State) (n : Nat) (hs_ : Sound q_ k_ s) :
    Sound q_ k_ (drainPart s n) := by
  unfold drainPart
  try dsimp only
  repeat' (first
    | with_reducible assumption
    | with_reducible apply abandonRounds_sound
    | with_reducible apply discardDrain_sound
    | with_reducible apply Sound.ite
    | with_reducible apply Sound.foldl
    | with_reducible apply Sound.foldl_fst
    | intro _
    | split
    | (simp only [Sound.lit]; with_reducible apply Sound.parts))

theorem endContext_sound (s : State) (n : Nat) (hs_ : Sound q_ k_ s) :
    Sound q_ k_ (endContext s n) := by
  unfold endContext
  try dsimp only
  repeat' (first
    | with_reducible assumption
    | with_reducible apply drainPart_sound
    | with_reducible apply setPair_sound
    | with_reducible apply dropOld_sound
    | with_reducible apply clearSheaves_sound
    | with_reducible apply setCsrFld_sound
    | with_reducible apply updFun_sound
    | with_reducible apply setCtxState_sound
    | with_reducible apply Sound.ite
    | with_reducible apply Sound.foldl
    | with_reducible apply Sound.foldl_fst
    | intro _
    | split
    | (simp only [Sound.lit]; with_reducible apply Sound.parts))

theorem teardownNow_sound (s : State) (n : Nat) (ser : Nat) (hs_ : Sound q_ k_ s) :
    Sound q_ k_ (teardownNow s n ser) := by
  unfold teardownNow
  try dsimp only
  repeat' (first
    | with_reducible assumption
    | with_reducible apply finishAll_sound
    | with_reducible apply finishReq_sound
    | with_reducible apply endContext_sound
    | with_reducible apply Sound.ite
    | with_reducible apply Sound.foldl
    | with_reducible apply Sound.foldl_fst
    | intro _
    | split
    | (simp only [Sound.lit]; with_reducible apply Sound.parts))

theorem teardownGo_sound (s : State) (n : Nat) (ser : Nat) (hs_ : Sound q_ k_ s) :
    Sound q_ k_ (teardownGo s n ser) := by
  unfold teardownGo
  try dsimp only
  repeat' (first
    | with_reducible assumption
    | with_reducible apply finishReq_sound
    | with_reducible apply updFun_sound
    | with_reducible apply setCtxState_sound
    | with_reducible apply setCsrFld_sound
    | with_reducible apply quiescentPass_sound
    | with_reducible apply teardownNow_sound
    | with_reducible apply Sound.ite
    | with_reducible apply Sound.foldl
    | with_reducible apply Sound.foldl_fst
    | intro _
    | split
    | (simp only [Sound.lit]; with_reducible apply Sound.parts))

theorem teardownCmd_sound (n : Nat) (r : Nat) (s : State) (hs_ : Sound q_ k_ s) :
    Sound q_ k_ (teardownCmd n r s) := by
  unfold teardownCmd
  try dsimp only
  repeat' (first
    | with_reducible assumption
    | with_reducible apply intake_sound
    | with_reducible apply teardownGo_sound
    | with_reducible apply Sound.ite
    | with_reducible apply Sound.foldl
    | with_reducible apply Sound.foldl_fst
    | intro _
    | split
    | (simp only [Sound.lit]; with_reducible apply Sound.parts))

theorem afterDrain_sound (s : State) (n : Nat) (hs_ : Sound q_ k_ s) :
    Sound q_ k_ (afterDrain s n) := by
  unfold afterDrain
  try dsimp only
  repeat' (first
    | with_reducible assumption
    | with_reducible apply teardownNow_sound
    | with_reducible apply Sound.ite
    | with_reducible apply Sound.foldl
    | with_reducible apply Sound.foldl_fst
    | intro _
    | split
    | (simp only [Sound.lit]; with_reducible apply Sound.parts))

theorem startRecoveryAt_sound (s : State) (n : Nat) (cause : Nat) (task : Option Nat) (hs_ : Sound q_ k_ s) :
    Sound q_ k_ (startRecoveryAt s n cause task) := by
  unfold startRecoveryAt
  try dsimp only
  repeat' (first
    | with_reducible assumption
    | with_reducible apply satCsrFld_sound
    | with_reducible apply setCsrFld_sound
    | with_reducible apply updCore_sound
    | with_reducible apply syncAll_sound
    | with_reducible apply updFun_sound
    | with_reducible apply Sound.ite
    | with_reducible apply Sound.foldl
    | with_reducible apply Sound.foldl_fst
    | intro _
    | split
    | (simp only [Sound.lit]; with_reducible apply Sound.parts))

theorem startRecovery_sound (s : State) (n : Nat) (cause : Nat) (hs_ : Sound q_ k_ s) :
    Sound q_ k_ (startRecovery s n cause) := by
  unfold startRecovery
  try dsimp only
  repeat' (first
    | with_reducible assumption
    | with_reducible apply startRecoveryAt_sound
    | with_reducible apply Sound.ite
    | with_reducible apply Sound.foldl
    | with_reducible apply Sound.foldl_fst
    | intro _
    | split
    | (simp only [Sound.lit]; with_reducible apply Sound.parts))

theorem seedFails_sound (s : State) (n : Nat) (core : Nat) (reason : Nat) (hs_ : Sound q_ k_ s) :
    Sound q_ k_ (seedFails s n core reason) := by
  unfold seedFails
  try dsimp only
  repeat' (first
    | with_reducible assumption
    | with_reducible apply setCsrFld_sound
    | with_reducible apply finishReq_sound
    | with_reducible apply startRecovery_sound
    | with_reducible apply updFun_sound
    | with_reducible apply Sound.ite
    | with_reducible apply Sound.foldl
    | with_reducible apply Sound.foldl_fst
    | intro _
    | split
    | (simp only [Sound.lit]; with_reducible apply Sound.parts))

end Sys2Proof.Machine
end

