-- ==== Sys2Proof/Laws/KeepsSeeding.lean ====
section
/-! SUPPORT. What every operation of Machine/Seeding.lean keeps (Laws/Sound.lean). -/

namespace Sys2Proof.Machine

variable {q_ : List Instr} {k_ : Nat}

theorem writeWindows_sound (s : State) (n : Nat) (c : Nat) (hs_ : Sound q_ k_ s) :
    Sound q_ k_ (writeWindows s n c) := by
  unfold writeWindows
  try dsimp only
  repeat' (first
    | with_reducible assumption
    | with_reducible apply coreWrite_sound
    | with_reducible apply Sound.ite
    | with_reducible apply Sound.foldl
    | with_reducible apply Sound.foldl_fst
    | intro _
    | split
    | (simp only [Sound.lit]; with_reducible apply Sound.parts))

theorem fetchLoads_sound (s : State) (c : Nat) (fe : SeedFetch) (hs_ : Sound q_ k_ s) :
    Sound q_ k_ (fetchLoads s c fe) := by
  unfold fetchLoads
  try dsimp only
  repeat' (first
    | with_reducible assumption
    | with_reducible apply injectAt_sound
    | with_reducible apply Sound.ite
    | with_reducible apply Sound.foldl
    | with_reducible apply Sound.foldl_fst
    | intro _
    | split
    | (simp only [Sound.lit]; with_reducible apply Sound.parts))

theorem setSeeding_sound (s : State) (c : Nat) (f : Seeding → Seeding) (hs_ : Sound q_ k_ s) :
    Sound q_ k_ (setSeeding s c f) := by
  unfold setSeeding
  try dsimp only
  repeat' (first
    | with_reducible assumption
    | with_reducible apply updCore_sound
    | with_reducible apply Sound.ite
    | with_reducible apply Sound.foldl
    | with_reducible apply Sound.foldl_fst
    | intro _
    | split
    | (simp only [Sound.lit]; with_reducible apply Sound.parts))

theorem fillFetches_sound (c f : Nat) (s : State) (h : Sound q_ k_ s) :
    Sound q_ k_ (fillFetches c f s) := by
  induction f generalizing s with
  | zero => simp only [fillFetches]; assumption
  | succ f_ ih =>
    simp only [fillFetches]
    repeat' (first
      | with_reducible assumption
      | with_reducible apply ih
      | with_reducible apply setSeeding_sound
      | with_reducible apply fetchLoads_sound
      | with_reducible apply Sound.ite
      | with_reducible apply Sound.foldl
      | with_reducible apply Sound.foldl_fst
      | intro _
      | split
      | (simp only [Sound.lit]; with_reducible apply Sound.parts))

theorem seedReport_sound (s : State) (c : Nat) (fail : Nat) (reason : Nat) (hs_ : Sound q_ k_ s) :
    Sound q_ k_ (seedReport s c fail reason) := by
  unfold seedReport
  try dsimp only
  repeat' (first
    | with_reducible assumption
    | with_reducible apply setSeeding_sound
    | with_reducible apply updCore_sound
    | with_reducible apply syncCtl_sound
    | with_reducible apply Sound.ite
    | with_reducible apply Sound.foldl
    | with_reducible apply Sound.foldl_fst
    | intro _
    | split
    | (simp only [Sound.lit]; with_reducible apply Sound.parts))

theorem seedProceed_sound (s : State) (c : Nat) (v : Seeding) (hs_ : Sound q_ k_ s) :
    Sound q_ k_ (seedProceed s c v) := by
  unfold seedProceed
  try dsimp only
  repeat' (first
    | with_reducible assumption
    | with_reducible apply discardDrain_sound
    | with_reducible apply setPair_sound
    | with_reducible apply dropOld_sound
    | with_reducible apply updCore_sound
    | with_reducible apply writeWindows_sound
    | with_reducible apply fillFetches_sound
    | with_reducible apply Sound.ite
    | with_reducible apply Sound.foldl
    | with_reducible apply Sound.foldl_fst
    | intro _
    | split
    | (simp only [Sound.lit]; with_reducible apply Sound.parts))

theorem cleanDone_sound (s : State) (n : Nat) (v : SeedCtl) (hs_ : Sound q_ k_ s) :
    Sound q_ k_ (cleanDone s n v) := by
  unfold cleanDone
  try dsimp only
  repeat' (first
    | with_reducible assumption
    | with_reducible apply finishAll_sound
    | with_reducible apply satCsrFld_sound
    | with_reducible apply updFun_sound
    | with_reducible apply setCtxState_sound
    | with_reducible apply landNotice_sound
    | with_reducible apply Sound.ite
    | with_reducible apply Sound.foldl
    | with_reducible apply Sound.foldl_fst
    | intro _
    | split
    | (simp only [Sound.lit]; with_reducible apply Sound.parts))

theorem coreCleaned_sound (s : State) (c : Nat) (hs_ : Sound q_ k_ s) :
    Sound q_ k_ (coreCleaned s c) := by
  unfold coreCleaned
  try dsimp only
  repeat' (first
    | with_reducible assumption
    | with_reducible apply updFun_sound
    | with_reducible apply cleanDone_sound
    | with_reducible apply Sound.ite
    | with_reducible apply Sound.foldl
    | with_reducible apply Sound.foldl_fst
    | intro _
    | split
    | (simp only [Sound.lit]; with_reducible apply Sound.parts))

theorem cleanProceed_sound (s : State) (c : Nat) (v : Seeding) (hs_ : Sound q_ k_ s) :
    Sound q_ k_ (cleanProceed s c v) := by
  unfold cleanProceed
  try dsimp only
  repeat' (first
    | with_reducible assumption
    | with_reducible apply abandonRounds_sound
    | with_reducible apply discardDrain_sound
    | with_reducible apply setPair_sound
    | with_reducible apply dropOld_sound
    | with_reducible apply updCore_sound
    | with_reducible apply startSwitch_sound
    | with_reducible apply coreCleaned_sound
    | with_reducible apply Sound.ite
    | with_reducible apply Sound.foldl
    | with_reducible apply Sound.foldl_fst
    | intro _
    | split
    | (simp only [Sound.lit]; with_reducible apply Sound.parts))

theorem stopDone_sound (s : State) (c : Nat) (hs_ : Sound q_ k_ s) :
    Sound q_ k_ (stopDone s c) := by
  unfold stopDone
  try dsimp only
  repeat' (first
    | with_reducible assumption
    | with_reducible apply cleanProceed_sound
    | with_reducible apply seedProceed_sound
    | with_reducible apply Sound.ite
    | with_reducible apply Sound.foldl
    | with_reducible apply Sound.foldl_fst
    | intro _
    | split
    | (simp only [Sound.lit]; with_reducible apply Sound.parts))

theorem stopCheck_sound (s : State) (c : Nat) (hs_ : Sound q_ k_ s) :
    Sound q_ k_ (stopCheck s c) := by
  unfold stopCheck
  try dsimp only
  repeat' (first
    | with_reducible assumption
    | with_reducible apply stopDone_sound
    | with_reducible apply Sound.ite
    | with_reducible apply Sound.foldl
    | with_reducible apply Sound.foldl_fst
    | intro _
    | split
    | (simp only [Sound.lit]; with_reducible apply Sound.parts))

theorem beginStop_sound (s : State) (c : Nat) (v : Seeding) (hs_ : Sound q_ k_ s) :
    Sound q_ k_ (beginStop s c v) := by
  unfold beginStop
  try dsimp only
  repeat' (first
    | with_reducible assumption
    | with_reducible apply stopCheck_sound
    | with_reducible apply updCore_sound
    | with_reducible apply Sound.ite
    | with_reducible apply Sound.foldl
    | with_reducible apply Sound.foldl_fst
    | intro _
    | split
    | (simp only [Sound.lit]; with_reducible apply Sound.parts))

theorem seedStart_sound (id : Nat) (s : State) (hs_ : Sound q_ k_ s) :
    Sound q_ k_ (seedStart id s) := by
  unfold seedStart
  try dsimp only
  repeat' (first
    | with_reducible assumption
    | with_reducible apply beginStop_sound
    | with_reducible apply dropPkt_sound
    | with_reducible apply Sound.ite
    | with_reducible apply Sound.foldl
    | with_reducible apply Sound.foldl_fst
    | intro _
    | split
    | (simp only [Sound.lit]; with_reducible apply Sound.parts))

theorem cleanCore_sound (id : Nat) (s : State) (hs_ : Sound q_ k_ s) :
    Sound q_ k_ (cleanCore id s) := by
  unfold cleanCore
  try dsimp only
  repeat' (first
    | with_reducible assumption
    | with_reducible apply beginStop_sound
    | with_reducible apply dropPkt_sound
    | with_reducible apply Sound.ite
    | with_reducible apply Sound.foldl
    | with_reducible apply Sound.foldl_fst
    | intro _
    | split
    | (simp only [Sound.lit]; with_reducible apply Sound.parts))

theorem seedStopTimeout_sound (c : Nat) (s : State) (hs_ : Sound q_ k_ s) :
    Sound q_ k_ (seedStopTimeout c s) := by
  unfold seedStopTimeout
  try dsimp only
  repeat' (first
    | with_reducible assumption
    | with_reducible apply stopDone_sound
    | with_reducible apply abandonMatrix_sound
    | with_reducible apply updCore_sound
    | with_reducible apply Sound.ite
    | with_reducible apply Sound.foldl
    | with_reducible apply Sound.foldl_fst
    | intro _
    | split
    | (simp only [Sound.lit]; with_reducible apply Sound.parts))

theorem spdWriteSeed_sound (s : State) (c : Nat) (addr : Nat) (l : List Byte) (hs_ : Sound q_ k_ s) :
    Sound q_ k_ (spdWriteSeed s c addr l) := by
  unfold spdWriteSeed
  try dsimp only
  repeat' (first
    | with_reducible assumption
    | with_reducible apply spdWrite_sound
    | with_reducible apply Sound.ite
    | with_reducible apply Sound.foldl
    | with_reducible apply Sound.foldl_fst
    | intro _
    | split
    | (simp only [Sound.lit]; with_reducible apply Sound.parts))

theorem csrSeed_sound (s : State) (c : Nat) (p : Nat × Word) (hs_ : Sound q_ k_ s) :
    Sound q_ k_ (csrSeed s c p).1 := by
  unfold csrSeed
  try dsimp only
  repeat' (first
    | with_reducible assumption
    | with_reducible apply updCore_sound
    | with_reducible apply coreWrite_sound
    | with_reducible apply Sound.ite
    | with_reducible apply Sound.foldl
    | with_reducible apply Sound.foldl_fst
    | intro _
    | split
    | (simp only [Sound.lit]; with_reducible apply Sound.parts))

theorem applyRec_sound (s : State) (c : Nat) (r : SeedRec) (hs_ : Sound q_ k_ s) :
    Sound q_ k_ (applyRec s c r).1 := by
  unfold applyRec
  try dsimp only
  repeat' (first
    | with_reducible assumption
    | with_reducible apply setSeeding_sound
    | with_reducible apply updCore_sound
    | with_reducible apply csrSeed_sound
    | with_reducible apply spdWriteSeed_sound
    | with_reducible apply Sound.ite
    | with_reducible apply Sound.foldl
    | with_reducible apply Sound.foldl_fst
    | intro _
    | split
    | (simp only [Sound.lit]; with_reducible apply Sound.parts))

theorem parseStream_sound (c f : Nat) (s : State) (h : Sound q_ k_ s) :
    Sound q_ k_ (parseStream c f s).1 := by
  induction f generalizing s with
  | zero => simp only [parseStream]; assumption
  | succ f_ ih =>
    simp only [parseStream]
    repeat' (first
      | with_reducible assumption
      | with_reducible apply ih
      | with_reducible apply setSeeding_sound
      | with_reducible apply applyRec_sound
      | with_reducible apply Sound.ite
      | with_reducible apply Sound.foldl
      | with_reducible apply Sound.foldl_fst
      | intro _
      | split
      | (simp only [Sound.lit]; with_reducible apply Sound.parts))

theorem seedFinish_sound (s : State) (c : Nat) (v : Seeding) (hs_ : Sound q_ k_ s) :
    Sound q_ k_ (seedFinish s c v) := by
  unfold seedFinish
  try dsimp only
  repeat' (first
    | with_reducible assumption
    | with_reducible apply startSwitch_sound
    | with_reducible apply updCore_sound
    | with_reducible apply coreWrite_sound
    | with_reducible apply seedReport_sound
    | with_reducible apply Sound.ite
    | with_reducible apply Sound.foldl
    | with_reducible apply Sound.foldl_fst
    | intro _
    | split
    | (simp only [Sound.lit]; with_reducible apply Sound.parts))

theorem seedProgress_sound (c f : Nat) (s : State) (h : Sound q_ k_ s) :
    Sound q_ k_ (seedProgress c f s) := by
  induction f generalizing s with
  | zero => simp only [seedProgress]; assumption
  | succ f_ ih =>
    simp only [seedProgress]
    repeat' (first
      | with_reducible assumption
      | with_reducible apply ih
      | with_reducible apply parseStream_sound
      | with_reducible apply setSeeding_sound
      | with_reducible apply seedReport_sound
      | with_reducible apply fillFetches_sound
      | with_reducible apply seedFinish_sound
      | with_reducible apply Sound.ite
      | with_reducible apply Sound.foldl
      | with_reducible apply Sound.foldl_fst
      | intro _
      | split
      | (simp only [Sound.lit]; with_reducible apply Sound.parts))

theorem dropBeats_sound (s : State) (c : Nat) (slot : Nat) (hs_ : Sound q_ k_ s) :
    Sound q_ k_ (dropBeats s c slot) := by
  unfold dropBeats
  try dsimp only
  repeat' (first
    | with_reducible assumption
    | with_reducible apply updCore_sound
    | with_reducible apply Sound.ite
    | with_reducible apply Sound.foldl
    | with_reducible apply Sound.foldl_fst
    | intro _
    | split
    | (simp only [Sound.lit]; with_reducible apply Sound.parts))

theorem putFetch_sound (s : State) (c : Nat) (fe : SeedFetch) (hs_ : Sound q_ k_ s) :
    Sound q_ k_ (putFetch s c fe) := by
  unfold putFetch
  try dsimp only
  repeat' (first
    | with_reducible assumption
    | with_reducible apply setSeeding_sound
    | with_reducible apply Sound.ite
    | with_reducible apply Sound.foldl
    | with_reducible apply Sound.foldl_fst
    | intro _
    | split
    | (simp only [Sound.lit]; with_reducible apply Sound.parts))

theorem attemptFails_sound (s : State) (c : Nat) (fe : SeedFetch) (hs_ : Sound q_ k_ s) :
    Sound q_ k_ (attemptFails s c fe) := by
  unfold attemptFails
  try dsimp only
  repeat' (first
    | with_reducible assumption
    | with_reducible apply dropBeats_sound
    | with_reducible apply seedReport_sound
    | with_reducible apply satCsrFld_sound
    | with_reducible apply fetchLoads_sound
    | with_reducible apply putFetch_sound
    | with_reducible apply Sound.ite
    | with_reducible apply Sound.foldl
    | with_reducible apply Sound.foldl_fst
    | intro _
    | split
    | (simp only [Sound.lit]; with_reducible apply Sound.parts))

theorem chunkPassed_sound (s : State) (c : Nat) (fe : SeedFetch) (payload : List Byte) (hs_ : Sound q_ k_ s) :
    Sound q_ k_ (chunkPassed s c fe payload) := by
  unfold chunkPassed
  try dsimp only
  repeat' (first
    | with_reducible assumption
    | with_reducible apply dropBeats_sound
    | with_reducible apply setSeeding_sound
    | with_reducible apply spdWriteSeed_sound
    | with_reducible apply seedProgress_sound
    | with_reducible apply Sound.ite
    | with_reducible apply Sound.foldl
    | with_reducible apply Sound.foldl_fst
    | intro _
    | split
    | (simp only [Sound.lit]; with_reducible apply Sound.parts))

theorem chunkCheck_sound (c : Nat) (isRef : Bool) (chunk : Nat) (s : State) (hs_ : Sound q_ k_ s) :
    Sound q_ k_ (chunkCheck c isRef chunk s) := by
  unfold chunkCheck
  try dsimp only
  repeat' (first
    | with_reducible assumption
    | with_reducible apply attemptFails_sound
    | with_reducible apply chunkPassed_sound
    | with_reducible apply Sound.ite
    | with_reducible apply Sound.foldl
    | with_reducible apply Sound.foldl_fst
    | intro _
    | split
    | (simp only [Sound.lit]; with_reducible apply Sound.parts))

theorem seedClearComplete_sound (c : Nat) (s : State) (hs_ : Sound q_ k_ s) :
    Sound q_ k_ (seedClearComplete c s) := by
  unfold seedClearComplete
  try dsimp only
  repeat' (first
    | with_reducible assumption
    | with_reducible apply seedProgress_sound
    | with_reducible apply updCore_sound
    | with_reducible apply Sound.ite
    | with_reducible apply Sound.foldl
    | with_reducible apply Sound.foldl_fst
    | intro _
    | split
    | (simp only [Sound.lit]; with_reducible apply Sound.parts))

theorem seedFetchTimeout_sound (c : Nat) (i : Nat) (s : State) (hs_ : Sound q_ k_ s) :
    Sound q_ k_ (seedFetchTimeout c i s) := by
  unfold seedFetchTimeout
  try dsimp only
  repeat' (first
    | with_reducible assumption
    | with_reducible apply fetchLoads_sound
    | with_reducible apply putFetch_sound
    | with_reducible apply attemptFails_sound
    | with_reducible apply Sound.ite
    | with_reducible apply Sound.foldl
    | with_reducible apply Sound.foldl_fst
    | intro _
    | split
    | (simp only [Sound.lit]; with_reducible apply Sound.parts))

theorem seededIn_sound (id : Nat) (s : State) (hs_ : Sound q_ k_ s) :
    Sound q_ k_ (seededIn id s) := by
  unfold seededIn
  try dsimp only
  repeat' (first
    | with_reducible assumption
    | with_reducible apply dropPkt_sound
    | with_reducible apply seedFails_sound
    | with_reducible apply trySendStart_sound
    | with_reducible apply updFun_sound
    | with_reducible apply Sound.ite
    | with_reducible apply Sound.foldl
    | with_reducible apply Sound.foldl_fst
    | intro _
    | split
    | (simp only [Sound.lit]; with_reducible apply Sound.parts))

theorem startIn_sound (id : Nat) (s : State) (hs_ : Sound q_ k_ s) :
    Sound q_ k_ (startIn id s) := by
  unfold startIn
  try dsimp only
  repeat' (first
    | with_reducible assumption
    | with_reducible apply dropPkt_sound
    | with_reducible apply setCore_sound
    | with_reducible apply Sound.ite
    | with_reducible apply Sound.foldl
    | with_reducible apply Sound.foldl_fst
    | intro _
    | split
    | (simp only [Sound.lit]; with_reducible apply Sound.parts))

theorem seedTimeout_sound (n : Nat) (s : State) (hs_ : Sound q_ k_ s) :
    Sound q_ k_ (seedTimeout n s) := by
  unfold seedTimeout
  try dsimp only
  repeat' (first
    | with_reducible assumption
    | with_reducible apply seedFails_sound
    | with_reducible apply Sound.ite
    | with_reducible apply Sound.foldl
    | with_reducible apply Sound.foldl_fst
    | intro _
    | split
    | (simp only [Sound.lit]; with_reducible apply Sound.parts))

end Sys2Proof.Machine
end

