-- ==== Sys2Proof/Laws/KeepsSwath.lean ====
section
/-! SUPPORT. What every operation of Machine/Swath.lean keeps (Laws/Sound.lean). -/

namespace Sys2Proof.Machine

variable {q_ : List Instr} {k_ : Nat}

theorem stewardSync_sound (s : State) (n : Nat) (code : Nat) (arg : Nat) (hs_ : Sound q_ k_ s) :
    Sound q_ k_ (stewardSync s n code arg) := by
  unfold stewardSync
  try dsimp only
  repeat' (first
    | with_reducible assumption
    | with_reducible apply injectEdge_sound
    | with_reducible apply Sound.ite
    | with_reducible apply Sound.foldl
    | with_reducible apply Sound.foldl_fst
    | intro _
    | split
    | (simp only [Sound.lit]; with_reducible apply Sound.parts))

theorem beginClean_sound (s : State) (n : Nat) (dropped : Nat) (hs_ : Sound q_ k_ s) :
    Sound q_ k_ (beginClean s n dropped) := by
  unfold beginClean
  try dsimp only
  repeat' (first
    | with_reducible assumption
    | refine nextPair_sound (by with_reducible assumption) ?_
    | with_reducible apply updFun_sound
    | with_reducible apply setCtxState_sound
    | with_reducible apply syncAll_sound
    | with_reducible apply Sound.ite
    | with_reducible apply Sound.foldl
    | with_reducible apply Sound.foldl_fst
    | intro _
    | split
    | (simp only [Sound.lit]; with_reducible apply Sound.parts))

theorem endSwathFn_sound (swath : Nat) (s : State) (n : Nat) (hs_ : Sound q_ k_ s) :
    Sound q_ k_ (endSwathFn swath s n) := by
  unfold endSwathFn
  try dsimp only
  repeat' (first
    | with_reducible assumption
    | with_reducible apply satCsrFld_sound
    | with_reducible apply finishAll_sound
    | with_reducible apply beginClean_sound
    | with_reducible apply Sound.ite
    | with_reducible apply Sound.foldl
    | with_reducible apply Sound.foldl_fst
    | intro _
    | split
    | (simp only [Sound.lit]; with_reducible apply Sound.parts))

theorem applyPeriod_sound (s : State) (swath : Nat) (hs_ : Sound q_ k_ s) :
    Sound q_ k_ (applyPeriod s swath) := by
  unfold applyPeriod
  try dsimp only
  repeat' (first
    | with_reducible assumption
    | with_reducible apply setCsrFld_sound
    | with_reducible apply csrSet_sound
    | with_reducible apply Sound.ite
    | with_reducible apply Sound.foldl
    | with_reducible apply Sound.foldl_fst
    | intro _
    | split
    | (simp only [Sound.lit]; with_reducible apply Sound.parts))

theorem deliverDue_sound (s : State) (swath : Nat) (hs_ : Sound q_ k_ s) :
    Sound q_ k_ (deliverDue s swath) := by
  unfold deliverDue
  try dsimp only
  repeat' (first
    | with_reducible assumption
    | with_reducible apply stewardSync_sound
    | with_reducible apply deliverChange_sound
    | with_reducible apply Sound.ite
    | with_reducible apply Sound.foldl
    | with_reducible apply Sound.foldl_fst
    | intro _
    | split
    | (simp only [Sound.lit]; with_reducible apply Sound.parts))

theorem swathBoundary_sound (s : State) (hs_ : Sound q_ k_ s) :
    Sound q_ k_ (swathBoundary s) := by
  unfold swathBoundary
  try dsimp only
  repeat' (first
    | with_reducible assumption
    | with_reducible apply endSwathFn_sound
    | with_reducible apply applyPeriod_sound
    | with_reducible apply shadowSwathEnd_sound
    | with_reducible apply csrSet_sound
    | with_reducible apply stewardSync_sound
    | with_reducible apply deliverDue_sound
    | with_reducible apply holdSeams_sound
    | with_reducible apply Sound.ite
    | with_reducible apply Sound.foldl
    | with_reducible apply Sound.foldl_fst
    | intro _
    | split
    | (simp only [Sound.lit]; with_reducible apply Sound.parts))

theorem swathApply_sound (v : Word) (s : State) (hs_ : Sound q_ k_ s) :
    Sound q_ k_ (swathApply v s) := by
  unfold swathApply
  try dsimp only
  repeat' (first
    | with_reducible assumption
    | with_reducible apply csrSet_sound
    | with_reducible apply Sound.ite
    | with_reducible apply Sound.foldl
    | with_reducible apply Sound.foldl_fst
    | intro _
    | split
    | (simp only [Sound.lit]; with_reducible apply Sound.parts))

theorem atController_sound (s : State) (id : Nat) (code : Nat) (act : State → Packet → Nat → State) (hs_ : Sound q_ k_ s) (h_act : ∀ x0 x1 x2, Sound q_ k_ x0 → Sound q_ k_ (act x0 x1 x2)) :
    Sound q_ k_ (atController s id code act) := by
  unfold atController
  try dsimp only
  repeat' (first
    | with_reducible assumption
    | with_reducible apply dropPkt_sound
    | with_reducible apply h_act
    | with_reducible apply Sound.ite
    | with_reducible apply Sound.foldl
    | with_reducible apply Sound.foldl_fst
    | intro _
    | split
    | (simp only [Sound.lit]; with_reducible apply Sound.parts))

theorem swathSync_sound (id : Nat) (s : State) (hs_ : Sound q_ k_ s) :
    Sound q_ k_ (swathSync id s) := by
  unfold swathSync
  try dsimp only
  repeat' (first
    | with_reducible assumption
    | with_reducible apply atController_sound
    | with_reducible apply landNotice_sound
    | with_reducible apply Sound.ite
    | with_reducible apply Sound.foldl
    | with_reducible apply Sound.foldl_fst
    | intro _
    | split
    | (simp only [Sound.lit]; with_reducible apply Sound.parts))

theorem memberIn_sound (id : Nat) (s : State) (hs_ : Sound q_ k_ s) :
    Sound q_ k_ (memberIn id s) := by
  unfold memberIn
  try dsimp only
  repeat' (first
    | with_reducible assumption
    | with_reducible apply atController_sound
    | with_reducible apply updFun_sound
    | with_reducible apply landNotice_sound
    | with_reducible apply Sound.ite
    | with_reducible apply Sound.foldl
    | with_reducible apply Sound.foldl_fst
    | intro _
    | split
    | (simp only [Sound.lit]; with_reducible apply Sound.parts))

end Sys2Proof.Machine
end

