-- ==== Sys2Proof/Laws/KeepsRecovery.lean ====
section
/-! SUPPORT. What every operation of Machine/Recovery.lean keeps (Laws/Sound.lean). -/

namespace Sys2Proof.Machine

variable {q_ : List Instr} {k_ : Nat}

theorem longFiring_sound (c : Nat) (t : Nat) (s : State) (hs_ : Sound q_ k_ s) :
    Sound q_ k_ (longFiring c t s) := by
  unfold longFiring
  try dsimp only
  repeat' (first
    | with_reducible assumption
    | with_reducible apply startRecoveryAt_sound
    | with_reducible apply Sound.ite
    | with_reducible apply Sound.foldl
    | with_reducible apply Sound.foldl_fst
    | intro _
    | split
    | (simp only [Sound.lit]; with_reducible apply Sound.parts))

theorem clearProgress_sound (s : State) (n : Nat) (hs_ : Sound q_ k_ s) :
    Sound q_ k_ (clearProgress s n) := by
  unfold clearProgress
  try dsimp only
  repeat' (first
    | with_reducible assumption
    | with_reducible apply updPlot_sound
    | with_reducible apply Sound.ite
    | with_reducible apply Sound.foldl
    | with_reducible apply Sound.foldl_fst
    | intro _
    | split
    | (simp only [Sound.lit]; with_reducible apply Sound.parts))

theorem noProgress_sound (n : Nat) (s : State) (hs_ : Sound q_ k_ s) :
    Sound q_ k_ (noProgress n s) := by
  unfold noProgress
  try dsimp only
  repeat' (first
    | with_reducible assumption
    | with_reducible apply clearProgress_sound
    | with_reducible apply updFun_sound
    | with_reducible apply startRecovery_sound
    | with_reducible apply Sound.ite
    | with_reducible apply Sound.foldl
    | with_reducible apply Sound.foldl_fst
    | intro _
    | split
    | (simp only [Sound.lit]; with_reducible apply Sound.parts))

theorem overdueRequest_sound (n : Nat) (ser : Nat) (s : State) (hs_ : Sound q_ k_ s) :
    Sound q_ k_ (overdueRequest n ser s) := by
  unfold overdueRequest
  try dsimp only
  repeat' (first
    | with_reducible assumption
    | with_reducible apply startRecovery_sound
    | with_reducible apply Sound.ite
    | with_reducible apply Sound.foldl
    | with_reducible apply Sound.foldl_fst
    | intro _
    | split
    | (simp only [Sound.lit]; with_reducible apply Sound.parts))

theorem hbmFail_sound (s : State) (j : MemJob) (hs_ : Sound q_ k_ s) :
    Sound q_ k_ (hbmFail s j) := by
  unfold hbmFail
  try dsimp only
  repeat' (first
    | with_reducible assumption
    | with_reducible apply fillAnswer_sound
    | with_reducible apply hbmPerform_sound
    | with_reducible apply loadError_sound
    | with_reducible apply replySlice_sound
    | with_reducible apply Sound.ite
    | with_reducible apply Sound.foldl
    | with_reducible apply Sound.foldl_fst
    | intro _
    | split
    | (simp only [Sound.lit]; with_reducible apply Sound.parts))

theorem resetSlice_sound (s : State) (f : Nat) (hs_ : Sound q_ k_ s) :
    Sound q_ k_ (resetSlice s f) := by
  unfold resetSlice
  try dsimp only
  repeat' (first
    | with_reducible assumption
    | with_reducible apply setSlice_sound
    | with_reducible apply loadError_sound
    | with_reducible apply Sound.ite
    | with_reducible apply Sound.foldl
    | with_reducible apply Sound.foldl_fst
    | intro _
    | split
    | (simp only [Sound.lit]; with_reducible apply Sound.parts))

theorem resetTcs_sound (s : State) (l : List Tc) (hs_ : Sound q_ k_ s) :
    Sound q_ k_ (resetTcs s l) := by
  unfold resetTcs
  try dsimp only
  repeat' (first
    | with_reducible assumption
    | with_reducible apply dropTc_sound
    | with_reducible apply resetOut_sound
    | with_reducible apply Sound.ite
    | with_reducible apply Sound.foldl
    | with_reducible apply Sound.foldl_fst
    | intro _
    | split
    | (simp only [Sound.lit]; with_reducible apply Sound.parts))

theorem resetBlock_sound (s : State) (b : Block) (h : Sound q_ k_ s) : Sound q_ k_ (resetBlock s b) := by
  cases b
  case slice => exact resetSlice_sound _ _ h
  case group => exact Sound.foldl (setHbmJobs_sound _ _ _ h) (fun a j ha => hbmFail_sound _ _ ha)
  case engine => exact resetTcs_sound _ _ h
  case yoke => exact linkDown_sound _ _ _ h
  case cxl => exact cxlLinkDown_sound _ _ _ (cxlLinkDown_sound _ _ _ h)

theorem sharedBlockHang_sound (b : Block) (s : State) (hs_ : Sound q_ k_ s) :
    Sound q_ k_ (sharedBlockHang b s) := by
  unfold sharedBlockHang
  try dsimp only
  repeat' (first
    | with_reducible assumption
    | with_reducible apply satCsrFld_sound
    | with_reducible apply resetBlock_sound
    | with_reducible apply Sound.ite
    | with_reducible apply Sound.foldl
    | with_reducible apply Sound.foldl_fst
    | intro _
    | split
    | (simp only [Sound.lit]; with_reducible apply Sound.parts))

theorem freeze_sound (id : Nat) (s : State) (hs_ : Sound q_ k_ s) :
    Sound q_ k_ (freeze id s) := by
  unfold freeze
  try dsimp only
  repeat' (first
    | with_reducible assumption
    | with_reducible apply dropPkt_sound
    | with_reducible apply updCore_sound
    | with_reducible apply abandonMatrix_sound
    | with_reducible apply syncCtl_sound
    | with_reducible apply Sound.ite
    | with_reducible apply Sound.foldl
    | with_reducible apply Sound.foldl_fst
    | intro _
    | split
    | (simp only [Sound.lit]; with_reducible apply Sound.parts))

theorem setRecov_sound (s : State) (n : Nat) (r : Recovery) (hs_ : Sound q_ k_ s) :
    Sound q_ k_ (setRecov s n r) := by
  unfold setRecov
  try dsimp only
  repeat' (first
    | with_reducible assumption
    | with_reducible apply updFun_sound
    | with_reducible apply Sound.ite
    | with_reducible apply Sound.foldl
    | with_reducible apply Sound.foldl_fst
    | intro _
    | split
    | (simp only [Sound.lit]; with_reducible apply Sound.parts))

theorem frozenAll_sound (s : State) (n : Nat) (r : Recovery) (hs_ : Sound q_ k_ s) :
    Sound q_ k_ (frozenAll s n r) := by
  unfold frozenAll
  try dsimp only
  repeat' (first
    | with_reducible assumption
    | with_reducible apply setRecov_sound
    | with_reducible apply satCsrFld_sound
    | with_reducible apply setCsrFld_sound
    | with_reducible apply injectAt_sound
    | with_reducible apply Sound.ite
    | with_reducible apply Sound.foldl
    | with_reducible apply Sound.foldl_fst
    | intro _
    | split
    | (simp only [Sound.lit]; with_reducible apply Sound.parts))

theorem coresFrozen_sound (s : State) (n : Nat) (l : List Nat) (hs_ : Sound q_ k_ s) :
    Sound q_ k_ (coresFrozen s n l) := by
  unfold coresFrozen
  try dsimp only
  repeat' (first
    | with_reducible assumption
    | with_reducible apply frozenAll_sound
    | with_reducible apply Sound.ite
    | with_reducible apply Sound.foldl
    | with_reducible apply Sound.foldl_fst
    | intro _
    | split
    | (simp only [Sound.lit]; with_reducible apply Sound.parts))

theorem frozenIn_sound (id : Nat) (s : State) (hs_ : Sound q_ k_ s) :
    Sound q_ k_ (frozenIn id s) := by
  unfold frozenIn
  try dsimp only
  repeat' (first
    | with_reducible assumption
    | with_reducible apply atController_sound
    | with_reducible apply coresFrozen_sound
    | with_reducible apply Sound.ite
    | with_reducible apply Sound.foldl
    | with_reducible apply Sound.foldl_fst
    | intro _
    | split
    | (simp only [Sound.lit]; with_reducible apply Sound.parts))

theorem freezeTimeout_sound (n : Nat) (c : Nat) (s : State) (hs_ : Sound q_ k_ s) :
    Sound q_ k_ (freezeTimeout n c s) := by
  unfold freezeTimeout
  try dsimp only
  repeat' (first
    | with_reducible assumption
    | with_reducible apply satCsrFld_sound
    | with_reducible apply setRecov_sound
    | with_reducible apply injectEdge_sound
    | with_reducible apply Sound.ite
    | with_reducible apply Sound.foldl
    | with_reducible apply Sound.foldl_fst
    | intro _
    | split
    | (simp only [Sound.lit]; with_reducible apply Sound.parts))

theorem coreReset1_sound (s : State) (c : Nat) (hs_ : Sound q_ k_ s) :
    Sound q_ k_ (coreReset1 s c) := by
  unfold coreReset1
  try dsimp only
  repeat' (first
    | with_reducible assumption
    | with_reducible apply abandonMatrix_sound
    | with_reducible apply updCore_sound
    | with_reducible apply setPair_sound
    | with_reducible apply dropOld_sound
    | with_reducible apply Sound.ite
    | with_reducible apply Sound.foldl
    | with_reducible apply Sound.foldl_fst
    | intro _
    | split
    | (simp only [Sound.lit]; with_reducible apply Sound.parts))

theorem coreResetIn_sound (id : Nat) (s : State) (hs_ : Sound q_ k_ s) :
    Sound q_ k_ (coreResetIn id s) := by
  unfold coreResetIn
  try dsimp only
  repeat' (first
    | with_reducible assumption
    | with_reducible apply injectAt_sound
    | with_reducible apply coreReset1_sound
    | with_reducible apply dropPkt_sound
    | with_reducible apply Sound.ite
    | with_reducible apply Sound.foldl
    | with_reducible apply Sound.foldl_fst
    | intro _
    | split
    | (simp only [Sound.lit]; with_reducible apply Sound.parts))

theorem plotReset1_sound (s : State) (j : Nat) (router : Bool) (hs_ : Sound q_ k_ s) :
    Sound q_ k_ (plotReset1 s j router) := by
  unfold plotReset1
  try dsimp only
  repeat' (first
    | with_reducible assumption
    | with_reducible apply coreReset1_sound
    | with_reducible apply clearNodes_sound
    | with_reducible apply updPlot_sound
    | with_reducible apply passToLanding_sound
    | with_reducible apply Sound.ite
    | with_reducible apply Sound.foldl
    | with_reducible apply Sound.foldl_fst
    | intro _
    | split
    | (simp only [Sound.lit]; with_reducible apply Sound.parts))

theorem plotResetIn_sound (id : Nat) (s : State) (hs_ : Sound q_ k_ s) :
    Sound q_ k_ (plotResetIn id s) := by
  unfold plotResetIn
  try dsimp only
  repeat' (first
    | with_reducible assumption
    | with_reducible apply injectAt_sound
    | with_reducible apply plotReset1_sound
    | with_reducible apply dropPkt_sound
    | with_reducible apply Sound.ite
    | with_reducible apply Sound.foldl
    | with_reducible apply Sound.foldl_fst
    | intro _
    | split
    | (simp only [Sound.lit]; with_reducible apply Sound.parts))

theorem sendPlotReset_sound (s : State) (j : Nat) (router : Nat) (hs_ : Sound q_ k_ s) :
    Sound q_ k_ (sendPlotReset s j router) := by
  unfold sendPlotReset
  try dsimp only
  repeat' (first
    | with_reducible assumption
    | with_reducible apply satCsrFld_sound
    | with_reducible apply note_sound
    | with_reducible apply injectEdge_sound
    | with_reducible apply Sound.ite
    | with_reducible apply Sound.foldl
    | with_reducible apply Sound.foldl_fst
    | intro _
    | split
    | (simp only [Sound.lit]; with_reducible apply Sound.parts))

theorem resetsDone_sound (s : State) (n : Nat) (hs_ : Sound q_ k_ s) :
    Sound q_ k_ (resetsDone s n) := by
  unfold resetsDone
  try dsimp only
  repeat' (first
    | with_reducible assumption
    | with_reducible apply setCsrFld_sound
    | with_reducible apply queueSwitch_sound
    | with_reducible apply Sound.ite
    | with_reducible apply Sound.foldl
    | with_reducible apply Sound.foldl_fst
    | intro _
    | split
    | (simp only [Sound.lit]; with_reducible apply Sound.parts))

theorem plotZeroed_sound (s : State) (n : Nat) (j : Nat) (hs_ : Sound q_ k_ s) :
    Sound q_ k_ (plotZeroed s n j) := by
  unfold plotZeroed
  try dsimp only
  repeat' (first
    | with_reducible assumption
    | with_reducible apply updCore_sound
    | with_reducible apply updFun_sound
    | with_reducible apply resetsDone_sound
    | with_reducible apply Sound.ite
    | with_reducible apply Sound.foldl
    | with_reducible apply Sound.foldl_fst
    | intro _
    | split
    | (simp only [Sound.lit]; with_reducible apply Sound.parts))

theorem recovPlot_sound (s : State) (n : Nat) (j : Nat) (hs_ : Sound q_ k_ s) :
    Sound q_ k_ (recovPlot s n j) := by
  unfold recovPlot
  try dsimp only
  repeat' (first
    | with_reducible assumption
    | with_reducible apply coresFrozen_sound
    | with_reducible apply setRecov_sound
    | with_reducible apply Sound.ite
    | with_reducible apply Sound.foldl
    | with_reducible apply Sound.foldl_fst
    | intro _
    | split
    | (simp only [Sound.lit]; with_reducible apply Sound.parts))

theorem resetDoneIn_sound (id : Nat) (s : State) (hs_ : Sound q_ k_ s) :
    Sound q_ k_ (resetDoneIn id s) := by
  unfold resetDoneIn
  try dsimp only
  repeat' (first
    | with_reducible assumption
    | with_reducible apply dropPkt_sound
    | with_reducible apply plotZeroed_sound
    | with_reducible apply recovPlot_sound
    | with_reducible apply coresFrozen_sound
    | with_reducible apply Sound.ite
    | with_reducible apply Sound.foldl
    | with_reducible apply Sound.foldl_fst
    | intro _
    | split
    | (simp only [Sound.lit]; with_reducible apply Sound.parts))

theorem resetMissing_sound (plot : Bool) (u : Nat) (s : State) (hs_ : Sound q_ k_ s) :
    Sound q_ k_ (resetMissing plot u s) := by
  unfold resetMissing
  try dsimp only
  repeat' (first
    | with_reducible assumption
    | with_reducible apply recovPlot_sound
    | with_reducible apply note_sound
    | with_reducible apply setRecov_sound
    | with_reducible apply sendPlotReset_sound
    | with_reducible apply Sound.ite
    | with_reducible apply Sound.foldl
    | with_reducible apply Sound.foldl_fst
    | intro _
    | split
    | (simp only [Sound.lit]; with_reducible apply Sound.parts))

theorem writeEntry_sound (s : State) (o : Nat) (lim : Nat) (l : List PWord) (hs_ : Sound q_ k_ s) :
    Sound q_ k_ (writeEntry s o lim l).1 := by
  unfold writeEntry
  try dsimp only
  repeat' (first
    | with_reducible assumption
    | with_reducible apply memWriteWords_sound
    | with_reducible apply Sound.ite
    | with_reducible apply Sound.foldl
    | with_reducible apply Sound.foldl_fst
    | intro _
    | split
    | (simp only [Sound.lit]; with_reducible apply Sound.parts))

theorem gleanIn_sound (id : Nat) (s : State) (hs_ : Sound q_ k_ s) :
    Sound q_ k_ (gleanIn id s) := by
  unfold gleanIn
  try dsimp only
  repeat' (first
    | with_reducible assumption
    | with_reducible apply dropPkt_sound
    | with_reducible apply writeEntry_sound
    | with_reducible apply injectAt_sound
    | with_reducible apply Sound.ite
    | with_reducible apply Sound.foldl
    | with_reducible apply Sound.foldl_fst
    | intro _
    | split
    | (simp only [Sound.lit]; with_reducible apply Sound.parts))

theorem gleanedIn_sound (id : Nat) (s : State) (hs_ : Sound q_ k_ s) :
    Sound q_ k_ (gleanedIn id s) := by
  unfold gleanedIn
  try dsimp only
  repeat' (first
    | with_reducible assumption
    | with_reducible apply atController_sound
    | with_reducible apply setRecov_sound
    | with_reducible apply writeEntry_sound
    | with_reducible apply csrSet_sound
    | with_reducible apply Sound.ite
    | with_reducible apply Sound.foldl
    | with_reducible apply Sound.foldl_fst
    | intro _
    | split
    | (simp only [Sound.lit]; with_reducible apply Sound.parts))

theorem queueReplay_sound (s : State) (n : Nat) (cause : Nat) (task : Option Nat) (three : Bool) (hs_ : Sound q_ k_ s) :
    Sound q_ k_ (queueReplay s n cause task three) := by
  unfold queueReplay
  try dsimp only
  repeat' (first
    | with_reducible assumption
    | with_reducible apply updFun_sound
    | with_reducible apply setCsrFld_sound
    | with_reducible apply Sound.ite
    | with_reducible apply Sound.foldl
    | with_reducible apply Sound.foldl_fst
    | intro _
    | split
    | (simp only [Sound.lit]; with_reducible apply Sound.parts))

theorem autoSwitch_sound (s : State) (n : Nat) (hs_ : Sound q_ k_ s) :
    Sound q_ k_ (autoSwitch s n) := by
  unfold autoSwitch
  try dsimp only
  repeat' (first
    | with_reducible assumption
    | with_reducible apply setCsrFld_sound
    | with_reducible apply queueSwitch_sound
    | with_reducible apply Sound.ite
    | with_reducible apply Sound.foldl
    | with_reducible apply Sound.foldl_fst
    | intro _
    | split
    | (simp only [Sound.lit]; with_reducible apply Sound.parts))

theorem suspectPeers_sound (s : State) (n : Nat) (cause : Nat) (hs_ : Sound q_ k_ s) :
    Sound q_ k_ (suspectPeers s n cause) := by
  unfold suspectPeers
  try dsimp only
  repeat' (first
    | with_reducible assumption
    | with_reducible apply queueReplay_sound
    | with_reducible apply Sound.ite
    | with_reducible apply Sound.foldl
    | with_reducible apply Sound.foldl_fst
    | intro _
    | split
    | (simp only [Sound.lit]; with_reducible apply Sound.parts))

theorem afterFailure_sound (s : State) (n : Nat) (cause : Nat) (task : Option Nat) (hs_ : Sound q_ k_ s) :
    Sound q_ k_ (afterFailure s n cause task) := by
  unfold afterFailure
  try dsimp only
  repeat' (first
    | with_reducible assumption
    | with_reducible apply updFun_sound
    | with_reducible apply setCsrFld_sound
    | with_reducible apply suspectPeers_sound
    | with_reducible apply queueReplay_sound
    | with_reducible apply autoSwitch_sound
    | with_reducible apply Sound.ite
    | with_reducible apply Sound.foldl
    | with_reducible apply Sound.foldl_fst
    | intro _
    | split
    | (simp only [Sound.lit]; with_reducible apply Sound.parts))

theorem failNow_sound (s : State) (n : Nat) (r : Recovery) (hs_ : Sound q_ k_ s) :
    Sound q_ k_ (failNow s n r) := by
  unfold failNow
  try dsimp only
  repeat' (first
    | with_reducible assumption
    | with_reducible apply drainPart_sound
    | with_reducible apply setCtxState_sound
    | refine nextPair_sound (by with_reducible assumption) ?_
    | with_reducible apply setCsrFld_sound
    | with_reducible apply finishAll_sound
    | with_reducible apply pairToCores_sound
    | with_reducible apply updFun_sound
    | with_reducible apply afterFailure_sound
    | with_reducible apply Sound.ite
    | with_reducible apply Sound.foldl
    | with_reducible apply Sound.foldl_fst
    | intro _
    | split
    | (simp only [Sound.lit]; with_reducible apply Sound.parts))

theorem contextFail_sound (n : Nat) (s : State) (hs_ : Sound q_ k_ s) :
    Sound q_ k_ (contextFail n s) := by
  unfold contextFail
  try dsimp only
  repeat' (first
    | with_reducible assumption
    | with_reducible apply failNow_sound
    | with_reducible apply frozenAll_sound
    | with_reducible apply startRecoveryAt_sound
    | with_reducible apply Sound.ite
    | with_reducible apply Sound.foldl
    | with_reducible apply Sound.foldl_fst
    | intro _
    | split
    | (simp only [Sound.lit]; with_reducible apply Sound.parts))

theorem resetPartition_sound (s : State) (n : Nat) (fn : Bool) (hs_ : Sound q_ k_ s) :
    Sound q_ k_ (resetPartition s n fn) := by
  unfold resetPartition
  try dsimp only
  repeat' (first
    | with_reducible assumption
    | with_reducible apply satCsrFld_sound
    | with_reducible apply updFun_sound
    | with_reducible apply resetsDone_sound
    | with_reducible apply injectEdge_sound
    | with_reducible apply Sound.ite
    | with_reducible apply Sound.foldl
    | with_reducible apply Sound.foldl_fst
    | intro _
    | split
    | (simp only [Sound.lit]; with_reducible apply Sound.parts))

theorem endTcs_sound (s : State) (n : Nat) (hs_ : Sound q_ k_ s) :
    Sound q_ k_ (endTcs s n) := by
  unfold endTcs
  try dsimp only
  repeat' (first
    | with_reducible assumption
    | with_reducible apply putTc_sound
    | with_reducible apply quietTc_sound
    | with_reducible apply resetOut_sound
    | with_reducible apply Sound.ite
    | with_reducible apply Sound.foldl
    | with_reducible apply Sound.foldl_fst
    | intro _
    | split
    | (simp only [Sound.lit]; with_reducible apply Sound.parts))

theorem drainLimit_sound (n : Nat) (s : State) (hs_ : Sound q_ k_ s) :
    Sound q_ k_ (drainLimit n s) := by
  unfold drainLimit
  try dsimp only
  repeat' (first
    | with_reducible assumption
    | with_reducible apply finishAll_sound
    | with_reducible apply setCsrFld_sound
    | with_reducible apply endTcs_sound
    | with_reducible apply zeroWords_sound
    | with_reducible apply drainPart_sound
    | with_reducible apply endContext_sound
    | with_reducible apply updFun_sound
    | with_reducible apply resetPartition_sound
    | with_reducible apply Sound.ite
    | with_reducible apply Sound.foldl
    | with_reducible apply Sound.foldl_fst
    | intro _
    | split
    | (simp only [Sound.lit]; with_reducible apply Sound.parts))

theorem replayVerdict_sound (s : State) (n : Nat) (verdict : Nat) (phase : Nat) (hs_ : Sound q_ k_ s) :
    Sound q_ k_ (replayVerdict s n verdict phase) := by
  unfold replayVerdict
  try dsimp only
  repeat' (first
    | with_reducible assumption
    | with_reducible apply updFun_sound
    | with_reducible apply setCsrFld_sound
    | with_reducible apply Sound.ite
    | with_reducible apply Sound.foldl
    | with_reducible apply Sound.foldl_fst
    | intro _
    | split
    | (simp only [Sound.lit]; with_reducible apply Sound.parts))

theorem landReplay_sound (s : State) (n : Nat) (r : Replay) (hs_ : Sound q_ k_ s) :
    Sound q_ k_ (landReplay s n r) := by
  unfold landReplay
  try dsimp only
  repeat' (first
    | with_reducible assumption
    | with_reducible apply updFun_sound
    | with_reducible apply injectAt_sound
    | with_reducible apply Sound.ite
    | with_reducible apply Sound.foldl
    | with_reducible apply Sound.foldl_fst
    | intro _
    | split
    | (simp only [Sound.lit]; with_reducible apply Sound.parts))

theorem replayHardware_sound (s : State) (n : Nat) (bad : List Nat) (hs_ : Sound q_ k_ s) :
    Sound q_ k_ (replayHardware s n bad) := by
  unfold replayHardware
  try dsimp only
  repeat' (first
    | with_reducible assumption
    | with_reducible apply autoSwitch_sound
    | with_reducible apply replayVerdict_sound
    | with_reducible apply note_sound
    | with_reducible apply Sound.ite
    | with_reducible apply Sound.foldl
    | with_reducible apply Sound.foldl_fst
    | intro _
    | split
    | (simp only [Sound.lit]; with_reducible apply Sound.parts))

theorem suspectReplay_sound (n : Nat) (bad : List Nat) (s : State) (hs_ : Sound q_ k_ s) :
    Sound q_ k_ (suspectReplay n bad s) := by
  unfold suspectReplay
  try dsimp only
  repeat' (first
    | with_reducible assumption
    | with_reducible apply landReplay_sound
    | with_reducible apply replayHardware_sound
    | with_reducible apply updFun_sound
    | with_reducible apply setCsrFld_sound
    | with_reducible apply beginSwitch_sound
    | with_reducible apply Sound.ite
    | with_reducible apply Sound.foldl
    | with_reducible apply Sound.foldl_fst
    | intro _
    | split
    | (simp only [Sound.lit]; with_reducible apply Sound.parts))

theorem notReproduced_sound (s : State) (n : Nat) (r : Replay) (hs_ : Sound q_ k_ s) :
    Sound q_ k_ (notReproduced s n r) := by
  unfold notReproduced
  try dsimp only
  repeat' (first
    | with_reducible assumption
    | with_reducible apply replayVerdict_sound
    | with_reducible apply drainPart_sound
    | with_reducible apply setCtxState_sound
    | with_reducible apply updFun_sound
    | with_reducible apply resetPartition_sound
    | with_reducible apply clearSheaves_sound
    | with_reducible apply autoSwitch_sound
    | with_reducible apply Sound.ite
    | with_reducible apply Sound.foldl
    | with_reducible apply Sound.foldl_fst
    | intro _
    | split
    | (simp only [Sound.lit]; with_reducible apply Sound.parts))

theorem replayVerdictStep_sound (n : Nat) (s : State) (hs_ : Sound q_ k_ s) :
    Sound q_ k_ (replayVerdictStep n s) := by
  unfold replayVerdictStep
  try dsimp only
  repeat' (first
    | with_reducible assumption
    | with_reducible apply setCsrFld_sound
    | with_reducible apply updFun_sound
    | with_reducible apply replayVerdict_sound
    | with_reducible apply notReproduced_sound
    | with_reducible apply Sound.ite
    | with_reducible apply Sound.foldl
    | with_reducible apply Sound.foldl_fst
    | intro _
    | split
    | (simp only [Sound.lit]; with_reducible apply Sound.parts))

end Sys2Proof.Machine
end

