-- ==== Sys2Proof/Laws/KeepsClock.lean ====
section
/-! SUPPORT. What every operation of Machine/Clock.lean keeps (Laws/Sound.lean). -/

namespace Sys2Proof.Machine

variable {q_ : List Instr} {k_ : Nat}

theorem setServo_sound (s : State) (f : Servo → Servo) (hs_ : Sound q_ k_ s) :
    Sound q_ k_ (setServo s f) := by
  unfold setServo
  try dsimp only
  repeat' (first
    | with_reducible assumption
    | with_reducible apply Sound.ite
    | with_reducible apply Sound.foldl
    | with_reducible apply Sound.foldl_fst
    | intro _
    | split
    | (simp only [Sound.lit]; with_reducible apply Sound.parts))

theorem reloadCopies_sound (s : State) (hs_ : Sound q_ k_ s) :
    Sound q_ k_ (reloadCopies s) := by
  unfold reloadCopies
  try dsimp only
  repeat' (first
    | with_reducible assumption
    | with_reducible apply Sound.ite
    | with_reducible apply Sound.foldl
    | with_reducible apply Sound.foldl_fst
    | intro _
    | split
    | (simp only [Sound.lit]; with_reducible apply Sound.parts))

theorem setServoState_sound (s : State) (v : Nat) (hs_ : Sound q_ k_ s) :
    Sound q_ k_ (setServoState s v) := by
  unfold setServoState
  try dsimp only
  repeat' (first
    | with_reducible assumption
    | with_reducible apply setCsrFld_sound
    | with_reducible apply Sound.ite
    | with_reducible apply Sound.foldl
    | with_reducible apply Sound.foldl_fst
    | intro _
    | split
    | (simp only [Sound.lit]; with_reducible apply Sound.parts))

theorem timeValid_sound (s : State) (hs_ : Sound q_ k_ s) :
    Sound q_ k_ (timeValid s) := by
  unfold timeValid
  try dsimp only
  repeat' (first
    | with_reducible assumption
    | with_reducible apply setCsrFld_sound
    | with_reducible apply csrSet_sound
    | with_reducible apply Sound.ite
    | with_reducible apply Sound.foldl
    | with_reducible apply Sound.foldl_fst
    | intro _
    | split
    | (simp only [Sound.lit]; with_reducible apply Sound.parts))

theorem stepTime_sound (s : State) (v : Word) (hs_ : Sound q_ k_ s) :
    Sound q_ k_ (stepTime s v) := by
  unfold stepTime
  try dsimp only
  repeat' (first
    | with_reducible assumption
    | with_reducible apply setServo_sound
    | with_reducible apply reloadCopies_sound
    | with_reducible apply satCsrFld_sound
    | with_reducible apply setServoState_sound
    | with_reducible apply Sound.ite
    | with_reducible apply Sound.foldl
    | with_reducible apply Sound.foldl_fst
    | intro _
    | split
    | (simp only [Sound.lit]; with_reducible apply Sound.parts))

theorem measure_sound (s : State) (off : Int) (hs_ : Sound q_ k_ s) :
    Sound q_ k_ (measure s off) := by
  unfold measure
  try dsimp only
  repeat' (first
    | with_reducible assumption
    | with_reducible apply csrSet_sound
    | with_reducible apply stepTime_sound
    | with_reducible apply setServo_sound
    | with_reducible apply setServoState_sound
    | with_reducible apply timeValid_sound
    | with_reducible apply Sound.ite
    | with_reducible apply Sound.foldl
    | with_reducible apply Sound.foldl_fst
    | intro _
    | split
    | (simp only [Sound.lit]; with_reducible apply Sound.parts))

theorem ptpPortState_sound (s : State) (hs_ : Sound q_ k_ s) :
    Sound q_ k_ (ptpPortState s) := by
  unfold ptpPortState
  try dsimp only
  repeat' (first
    | with_reducible assumption
    | with_reducible apply setCsrFld_sound
    | with_reducible apply Sound.ite
    | with_reducible apply Sound.foldl
    | with_reducible apply Sound.foldl_fst
    | intro _
    | split
    | (simp only [Sound.lit]; with_reducible apply Sound.parts))

theorem sendDelayReq_sound (s : State) (hs_ : Sound q_ k_ s) :
    Sound q_ k_ (sendDelayReq s) := by
  unfold sendDelayReq
  try dsimp only
  repeat' (first
    | with_reducible assumption
    | with_reducible apply emit_sound
    | with_reducible apply setServo_sound
    | with_reducible apply Sound.ite
    | with_reducible apply Sound.foldl
    | with_reducible apply Sound.foldl_fst
    | intro _
    | split
    | (simp only [Sound.lit]; with_reducible apply Sound.parts))

theorem syncMeasured_sound (s : State) (t1 : Word) (t2 : Word) (hs_ : Sound q_ k_ s) :
    Sound q_ k_ (syncMeasured s t1 t2) := by
  unfold syncMeasured
  try dsimp only
  repeat' (first
    | with_reducible assumption
    | with_reducible apply setServo_sound
    | with_reducible apply setCsrFld_sound
    | with_reducible apply measure_sound
    | with_reducible apply sendDelayReq_sound
    | with_reducible apply ptpPortState_sound
    | with_reducible apply Sound.ite
    | with_reducible apply Sound.foldl
    | with_reducible apply Sound.foldl_fst
    | intro _
    | split
    | (simp only [Sound.lit]; with_reducible apply Sound.parts))

theorem ptpSync_sound (port : Nat) (transport : Nat) (domain : Nat) (seq : Nat) (kind : Nat) (t1 : Word) (err : Int) (s : State) (hs_ : Sound q_ k_ s) :
    Sound q_ k_ (ptpSync port transport domain seq kind t1 err s) := by
  unfold ptpSync
  try dsimp only
  repeat' (first
    | with_reducible assumption
    | with_reducible apply syncMeasured_sound
    | with_reducible apply setServo_sound
    | with_reducible apply Sound.ite
    | with_reducible apply Sound.foldl
    | with_reducible apply Sound.foldl_fst
    | intro _
    | split
    | (simp only [Sound.lit]; with_reducible apply Sound.parts))

theorem ptpDelayResp_sound (port : Nat) (transport : Nat) (domain : Nat) (seq : Nat) (t4 : Word) (err : Int) (s : State) (hs_ : Sound q_ k_ s) :
    Sound q_ k_ (ptpDelayResp port transport domain seq t4 err s) := by
  unfold ptpDelayResp
  try dsimp only
  repeat' (first
    | with_reducible assumption
    | with_reducible apply setCsrFld_sound
    | with_reducible apply setServo_sound
    | with_reducible apply Sound.ite
    | with_reducible apply Sound.foldl
    | with_reducible apply Sound.foldl_fst
    | intro _
    | split
    | (simp only [Sound.lit]; with_reducible apply Sound.parts))

theorem ppsEdge_sound (s : State) (hs_ : Sound q_ k_ s) :
    Sound q_ k_ (ppsEdge s) := by
  unfold ppsEdge
  try dsimp only
  repeat' (first
    | with_reducible assumption
    | with_reducible apply setServo_sound
    | with_reducible apply measure_sound
    | with_reducible apply csrSet_sound
    | with_reducible apply Sound.ite
    | with_reducible apply Sound.foldl
    | with_reducible apply Sound.foldl_fst
    | intro _
    | split
    | (simp only [Sound.lit]; with_reducible apply Sound.parts))

theorem timeHoldover_sound (ref10Absent : Bool) (s : State) (hs_ : Sound q_ k_ s) :
    Sound q_ k_ (timeHoldover ref10Absent s) := by
  unfold timeHoldover
  try dsimp only
  repeat' (first
    | with_reducible assumption
    | with_reducible apply ptpPortState_sound
    | with_reducible apply setServo_sound
    | with_reducible apply setServoState_sound
    | with_reducible apply Sound.ite
    | with_reducible apply Sound.foldl
    | with_reducible apply Sound.foldl_fst
    | intro _
    | split
    | (simp only [Sound.lit]; with_reducible apply Sound.parts))

theorem timeCopyCorrect_sound (f : Nat) (s : State) (hs_ : Sound q_ k_ s) :
    Sound q_ k_ (timeCopyCorrect f s) := by
  unfold timeCopyCorrect
  try dsimp only
  repeat' (first
    | with_reducible assumption
    | with_reducible apply Sound.ite
    | with_reducible apply Sound.foldl
    | with_reducible apply Sound.foldl_fst
    | intro _
    | split
    | (simp only [Sound.lit]; with_reducible apply Sound.parts))

theorem timeSet_sound (v : Word) (s : State) (hs_ : Sound q_ k_ s) :
    Sound q_ k_ (timeSet v s) := by
  unfold timeSet
  try dsimp only
  repeat' (first
    | with_reducible assumption
    | with_reducible apply stepTime_sound
    | with_reducible apply timeValid_sound
    | with_reducible apply Sound.ite
    | with_reducible apply Sound.foldl
    | with_reducible apply Sound.foldl_fst
    | intro _
    | split
    | (simp only [Sound.lit]; with_reducible apply Sound.parts))

theorem refreshSets_sound (s : State) (hs_ : Sound q_ k_ s) :
    Sound q_ k_ (refreshSets s) := by
  unfold refreshSets
  try dsimp only
  repeat' (first
    | with_reducible assumption
    | with_reducible apply setCsrFld_sound
    | with_reducible apply Sound.ite
    | with_reducible apply Sound.foldl
    | with_reducible apply Sound.foldl_fst
    | intro _
    | split
    | (simp only [Sound.lit]; with_reducible apply Sound.parts))

theorem refreshLimits_sound (s : State) (hs_ : Sound q_ k_ s) :
    Sound q_ k_ (refreshLimits s) := by
  unfold refreshLimits
  try dsimp only
  repeat' (first
    | with_reducible assumption
    | with_reducible apply setCsrFld_sound
    | with_reducible apply Sound.ite
    | with_reducible apply Sound.foldl
    | with_reducible apply Sound.foldl_fst
    | intro _
    | split
    | (simp only [Sound.lit]; with_reducible apply Sound.parts))

theorem setTestFail_sound (s : State) (unit : Nat) (x : Nat) (source : Nat) (hs_ : Sound q_ k_ s) :
    Sound q_ k_ (setTestFail s unit x source) := by
  unfold setTestFail
  try dsimp only
  repeat' (first
    | with_reducible assumption
    | with_reducible apply csrSet_sound
    | with_reducible apply Sound.ite
    | with_reducible apply Sound.foldl
    | with_reducible apply Sound.foldl_fst
    | intro _
    | split
    | (simp only [Sound.lit]; with_reducible apply Sound.parts))

theorem groupFails_sound (s : State) (g : Nat) (back : Bool) (hs_ : Sound q_ k_ s) :
    Sound q_ k_ (groupFails s g back) := by
  unfold groupFails
  try dsimp only
  repeat' (first
    | with_reducible assumption
    | with_reducible apply setTestFail_sound
    | with_reducible apply setSeam_sound
    | with_reducible apply startRecovery_sound
    | with_reducible apply setCsrFld_sound
    | with_reducible apply note_sound
    | with_reducible apply Sound.ite
    | with_reducible apply Sound.foldl
    | with_reducible apply Sound.foldl_fst
    | intro _
    | split
    | (simp only [Sound.lit]; with_reducible apply Sound.parts))

theorem recalibrate_sound (s : State) (g : Nat) (x : Sweep) (hs_ : Sound q_ k_ s) :
    Sound q_ k_ (recalibrate s g x) := by
  unfold recalibrate
  try dsimp only
  repeat' (first
    | with_reducible assumption
    | with_reducible apply calibrate_sound
    | with_reducible apply setSeam_sound
    | with_reducible apply groupFails_sound
    | with_reducible apply Sound.ite
    | with_reducible apply Sound.foldl
    | with_reducible apply Sound.foldl_fst
    | intro _
    | split
    | (simp only [Sound.lit]; with_reducible apply Sound.parts))

theorem changeSeams_sound (s : State) (fs : List Nat) (sweeps : List Sweep) (hs_ : Sound q_ k_ s) :
    Sound q_ k_ (changeSeams s fs sweeps) := by
  unfold changeSeams
  try dsimp only
  repeat' (first
    | with_reducible assumption
    | with_reducible apply recalibrate_sound
    | with_reducible apply setSeam_sound
    | with_reducible apply Sound.ite
    | with_reducible apply Sound.foldl
    | with_reducible apply Sound.foldl_fst
    | intro _
    | split
    | (simp only [Sound.lit]; with_reducible apply Sound.parts))

theorem changeN_sound (s : State) (fs : List Nat) (n : Nat) (sweeps : List Sweep) (hs_ : Sound q_ k_ s) :
    Sound q_ k_ (changeN s fs n sweeps) := by
  unfold changeN
  try dsimp only
  repeat' (first
    | with_reducible assumption
    | with_reducible apply setCsrFld_sound
    | with_reducible apply reloadCopies_sound
    | with_reducible apply changeSeams_sound
    | with_reducible apply refreshSets_sound
    | with_reducible apply Sound.ite
    | with_reducible apply Sound.foldl
    | with_reducible apply Sound.foldl_fst
    | intro _
    | split
    | (simp only [Sound.lit]; with_reducible apply Sound.parts))

theorem frequencyChange_sound (fs : List Nat) (n : Nat) (sweeps : List Sweep) (s : State) (hs_ : Sound q_ k_ s) :
    Sound q_ k_ (frequencyChange fs n sweeps s) := by
  unfold frequencyChange
  try dsimp only
  repeat' (first
    | with_reducible assumption
    | with_reducible apply changeN_sound
    | with_reducible apply Sound.ite
    | with_reducible apply Sound.foldl
    | with_reducible apply Sound.foldl_fst
    | intro _
    | split
    | (simp only [Sound.lit]; with_reducible apply Sound.parts))

theorem nReqWrite_sound (f : Nat) (v : Word) (s : State) (hs_ : Sound q_ k_ s) :
    Sound q_ k_ (nReqWrite f v s) := by
  unfold nReqWrite
  try dsimp only
  repeat' (first
    | with_reducible assumption
    | with_reducible apply setCsrFld_sound
    | with_reducible apply Sound.ite
    | with_reducible apply Sound.foldl
    | with_reducible apply Sound.foldl_fst
    | intro _
    | split
    | (simp only [Sound.lit]; with_reducible apply Sound.parts))

theorem seamRecal_sound (g : Nat) (e : SeamEv) (s : State) (hs_ : Sound q_ k_ s) :
    Sound q_ k_ (seamRecal g e s) := by
  unfold seamRecal
  try dsimp only
  repeat' (first
    | with_reducible assumption
    | with_reducible apply seamMonitor_sound
    | with_reducible apply recalibrate_sound
    | with_reducible apply satCsrFld_sound
    | with_reducible apply Sound.ite
    | with_reducible apply Sound.foldl
    | with_reducible apply Sound.foldl_fst
    | intro _
    | split
    | (simp only [Sound.lit]; with_reducible apply Sound.parts))

end Sys2Proof.Machine
end

