-- ==== Sys2Proof/Laws/KeepsArrange.lean ====
section
/-! SUPPORT. What every operation of Machine/Arrange.lean keeps (Laws/Sound.lean). -/

namespace Sys2Proof.Machine

variable {q_ : List Instr} {k_ : Nat}

theorem setStw_sound (s : State) (f : Steward → Steward) (hs_ : Sound q_ k_ s) :
    Sound q_ k_ (setStw s f) := by
  unfold setStw
  try dsimp only
  repeat' (first
    | with_reducible assumption
    | with_reducible apply Sound.ite
    | with_reducible apply Sound.foldl
    | with_reducible apply Sound.foldl_fst
    | intro _
    | split
    | (simp only [Sound.lit]; with_reducible apply Sound.parts))

theorem setPins_sound (s : State) (f : Pins → Pins) (hs_ : Sound q_ k_ s) :
    Sound q_ k_ (setPins s f) := by
  unfold setPins
  try dsimp only
  repeat' (first
    | with_reducible assumption
    | with_reducible apply Sound.ite
    | with_reducible apply Sound.foldl
    | with_reducible apply Sound.foldl_fst
    | intro _
    | split
    | (simp only [Sound.lit]; with_reducible apply Sound.parts))

theorem logEvent_sound (s : State) (hs_ : Sound q_ k_ s) :
    Sound q_ k_ (logEvent s) := by
  unfold logEvent
  try dsimp only
  repeat' (first
    | with_reducible assumption
    | with_reducible apply setPins_sound
    | with_reducible apply Sound.ite
    | with_reducible apply Sound.foldl
    | with_reducible apply Sound.foldl_fst
    | intro _
    | split
    | (simp only [Sound.lit]; with_reducible apply Sound.parts))

theorem addRepair_sound (s : State) (w0 : Word) (unit : Nat) (hs_ : Sound q_ k_ s) :
    Sound q_ k_ (addRepair s w0 unit) := by
  unfold addRepair
  try dsimp only
  repeat' (first
    | with_reducible assumption
    | with_reducible apply setStw_sound
    | with_reducible apply Sound.ite
    | with_reducible apply Sound.foldl
    | with_reducible apply Sound.foldl_fst
    | intro _
    | split
    | (simp only [Sound.lit]; with_reducible apply Sound.parts))

theorem recordFailed_sound (s : State) (x : Nat) (origin : Nat) (unit : Nat) (hs_ : Sound q_ k_ s) :
    Sound q_ k_ (recordFailed s x origin unit) := by
  unfold recordFailed
  try dsimp only
  repeat' (first
    | with_reducible assumption
    | with_reducible apply setStw_sound
    | with_reducible apply addRepair_sound
    | with_reducible apply Sound.ite
    | with_reducible apply Sound.foldl
    | with_reducible apply Sound.foldl_fst
    | intro _
    | split
    | (simp only [Sound.lit]; with_reducible apply Sound.parts))

theorem defectSeen_sound (s : State) (d : Defect) (source : Nat) (hs_ : Sound q_ k_ s) :
    Sound q_ k_ (defectSeen s d source) := by
  unfold defectSeen
  try dsimp only
  repeat' (first
    | with_reducible assumption
    | with_reducible apply setTestFail_sound
    | with_reducible apply csrSet_sound
    | with_reducible apply Sound.ite
    | with_reducible apply Sound.foldl
    | with_reducible apply Sound.foldl_fst
    | intro _
    | split
    | (simp only [Sound.lit]; with_reducible apply Sound.parts))

theorem repairDefect_sound (origin : Nat) (source : Nat) (s : State) (d : Defect) (hs_ : Sound q_ k_ s) :
    Sound q_ k_ (repairDefect origin source s d) := by
  unfold repairDefect
  try dsimp only
  repeat' (first
    | with_reducible assumption
    | with_reducible apply defectSeen_sound
    | with_reducible apply addRepair_sound
    | with_reducible apply recordFailed_sound
    | with_reducible apply Sound.ite
    | with_reducible apply Sound.foldl
    | with_reducible apply Sound.foldl_fst
    | intro _
    | split
    | (simp only [Sound.lit]; with_reducible apply Sound.parts))

theorem repairAll_sound (s : State) (origin : Nat) (source : Nat) (l : List Defect) (hs_ : Sound q_ k_ s) :
    Sound q_ k_ (repairAll s origin source l) := by
  unfold repairAll
  try dsimp only
  repeat' (first
    | with_reducible assumption
    | with_reducible apply repairDefect_sound
    | with_reducible apply Sound.ite
    | with_reducible apply Sound.foldl
    | with_reducible apply Sound.foldl_fst
    | intro _
    | split
    | (simp only [Sound.lit]; with_reducible apply Sound.parts))

theorem refreshReserve_sound (s : State) (hs_ : Sound q_ k_ s) :
    Sound q_ k_ (refreshReserve s) := by
  unfold refreshReserve
  try dsimp only
  repeat' (first
    | with_reducible assumption
    | with_reducible apply csrSet_sound
    | with_reducible apply Sound.ite
    | with_reducible apply Sound.foldl
    | with_reducible apply Sound.foldl_fst
    | intro _
    | split
    | (simp only [Sound.lit]; with_reducible apply Sound.parts))

theorem setOn_sound (s : State) (d : Nat) (v : Nat) (hs_ : Sound q_ k_ s) :
    Sound q_ k_ (setOn s d v) := by
  unfold setOn
  try dsimp only
  repeat' (first
    | with_reducible assumption
    | with_reducible apply setCsrFld_sound
    | with_reducible apply Sound.ite
    | with_reducible apply Sound.foldl
    | with_reducible apply Sound.foldl_fst
    | intro _
    | split
    | (simp only [Sound.lit]; with_reducible apply Sound.parts))

theorem setFenced_sound (s : State) (d : Nat) (v : Nat) (hs_ : Sound q_ k_ s) :
    Sound q_ k_ (setFenced s d v) := by
  unfold setFenced
  try dsimp only
  repeat' (first
    | with_reducible assumption
    | with_reducible apply setCsrFld_sound
    | with_reducible apply Sound.ite
    | with_reducible apply Sound.foldl
    | with_reducible apply Sound.foldl_fst
    | intro _
    | split
    | (simp only [Sound.lit]; with_reducible apply Sound.parts))

theorem dropWays_sound (s : State) (d : Nat) (hs_ : Sound q_ k_ s) :
    Sound q_ k_ (dropWays s d) := by
  unfold dropWays
  try dsimp only
  repeat' (first
    | with_reducible assumption
    | with_reducible apply updSlice_sound
    | with_reducible apply Sound.ite
    | with_reducible apply Sound.foldl
    | with_reducible apply Sound.foldl_fst
    | intro _
    | split
    | (simp only [Sound.lit]; with_reducible apply Sound.parts))

theorem quadLost_sound (s : State) (d : Nat) (hs_ : Sound q_ k_ s) :
    Sound q_ k_ (quadLost s d) := by
  unfold quadLost
  try dsimp only
  repeat' (first
    | with_reducible assumption
    | with_reducible apply dropWays_sound
    | with_reducible apply Sound.ite
    | with_reducible apply Sound.foldl
    | with_reducible apply Sound.foldl_fst
    | intro _
    | split
    | (simp only [Sound.lit]; with_reducible apply Sound.parts)
    | with_reducible apply fwf_fset
    | with_reducible apply fwf_fupd
    | with_reducible apply wrLE_wf
    | with_reducible apply wrBytes_wf
    | with_reducible apply fwf_filter
    | with_reducible apply fwf_ferase
    | with_reducible apply fwf_nil
    | with_reducible apply Sound.foldl_wf
    | with_reducible apply Sound.ite_wf
    | with_reducible apply Sound.pending (q_ := q_) (k_ := k_)
    | with_reducible apply Sound.code (q_ := q_) (k_ := k_)
    | with_reducible apply Sound.hbm (q_ := q_) (k_ := k_)
    | with_reducible apply Sound.hbmPoi (q_ := q_) (k_ := k_)
    | with_reducible apply Sound.cxl (q_ := q_) (k_ := k_)
    | with_reducible apply Sound.cxlPoi (q_ := q_) (k_ := k_)
    | with_reducible apply Sound.csr (q_ := q_) (k_ := k_)
    | with_reducible apply Sound.cores (q_ := q_) (k_ := k_)
    | with_reducible apply Sound.plots (q_ := q_) (k_ := k_)
    | with_reducible apply Sound.funs (q_ := q_) (k_ := k_)
    | with_reducible apply Sound.yports (q_ := q_) (k_ := k_)
    | with_reducible apply Sound.slices (q_ := q_) (k_ := k_)
    | (simp only [Sound.lit]; refine ⟨?_, ?_, ?_, ?_, ?_, ?_, ?_, ?_, ?_, ?_, ?_, ?_⟩))

theorem portsDown_sound (s : State) (hs_ : Sound q_ k_ s) :
    Sound q_ k_ (portsDown s) := by
  unfold portsDown
  try dsimp only
  repeat' (first
    | with_reducible assumption
    | with_reducible apply setCsrFld_sound
    | with_reducible apply Sound.ite
    | with_reducible apply Sound.foldl
    | with_reducible apply Sound.foldl_fst
    | intro _
    | split
    | (simp only [Sound.lit]; with_reducible apply Sound.parts))

theorem deviceDown_sound (s : State) (hs_ : Sound q_ k_ s) :
    Sound q_ k_ (deviceDown s) := by
  unfold deviceDown
  try dsimp only
  repeat' (first
    | with_reducible assumption
    | with_reducible apply portsDown_sound
    | with_reducible apply csrSet_sound
    | with_reducible apply updFun_sound
    | with_reducible apply setStw_sound
    | with_reducible apply Sound.ite
    | with_reducible apply Sound.foldl
    | with_reducible apply Sound.foldl_fst
    | intro _
    | split
    | (simp only [Sound.lit]; with_reducible apply Sound.parts)
    | with_reducible apply fwf_fset
    | with_reducible apply fwf_fupd
    | with_reducible apply wrLE_wf
    | with_reducible apply wrBytes_wf
    | with_reducible apply fwf_filter
    | with_reducible apply fwf_ferase
    | with_reducible apply fwf_nil
    | with_reducible apply Sound.foldl_wf
    | with_reducible apply Sound.ite_wf
    | with_reducible apply Sound.pending (q_ := q_) (k_ := k_)
    | with_reducible apply Sound.code (q_ := q_) (k_ := k_)
    | with_reducible apply Sound.hbm (q_ := q_) (k_ := k_)
    | with_reducible apply Sound.hbmPoi (q_ := q_) (k_ := k_)
    | with_reducible apply Sound.cxl (q_ := q_) (k_ := k_)
    | with_reducible apply Sound.cxlPoi (q_ := q_) (k_ := k_)
    | with_reducible apply Sound.csr (q_ := q_) (k_ := k_)
    | with_reducible apply Sound.cores (q_ := q_) (k_ := k_)
    | with_reducible apply Sound.plots (q_ := q_) (k_ := k_)
    | with_reducible apply Sound.funs (q_ := q_) (k_ := k_)
    | with_reducible apply Sound.yports (q_ := q_) (k_ := k_)
    | with_reducible apply Sound.slices (q_ := q_) (k_ := k_)
    | (simp only [Sound.lit]; refine ⟨?_, ?_, ?_, ?_, ?_, ?_, ?_, ?_, ?_, ?_, ?_, ?_⟩))

end Sys2Proof.Machine
end

