-- ==== Sys2Proof/Laws/KeepsDrove.lean ====
section
/-! SUPPORT. What every operation of Machine/Drove.lean keeps (Laws/Sound.lean). -/

namespace Sys2Proof.Machine

variable {q_ : List Instr} {k_ : Nat}

theorem routeCount_sound (s : State) (x : Nat) (hi : Nat) (lo : Nat) (n : Nat) (hs_ : Sound q_ k_ s) :
    Sound q_ k_ (routeCount s x hi lo n) := by
  unfold routeCount
  try dsimp only
  repeat' (first
    | with_reducible assumption
    | with_reducible apply updPlot_sound
    | with_reducible apply Sound.ite
    | with_reducible apply Sound.foldl
    | with_reducible apply Sound.foldl_fst
    | intro _
    | split
    | (simp only [Sound.lit]; with_reducible apply Sound.parts))

theorem escapePkt_sound (s : State) (p : Packet) (hs_ : Sound q_ k_ s) :
    Sound q_ k_ (escapePkt s p) := by
  unfold escapePkt
  try dsimp only
  repeat' (first
    | with_reducible assumption
    | with_reducible apply routeCount_sound
    | with_reducible apply Sound.ite
    | with_reducible apply Sound.foldl
    | with_reducible apply Sound.foldl_fst
    | intro _
    | split
    | (simp only [Sound.lit]; with_reducible apply Sound.parts))

theorem servedOut_sound (s : State) (x : Nat) (y : Nat) (chan : Nat) (port : Nat) (hs_ : Sound q_ k_ s) :
    Sound q_ k_ (servedOut s x y chan port) := by
  unfold servedOut
  try dsimp only
  repeat' (first
    | with_reducible assumption
    | with_reducible apply Sound.ite
    | with_reducible apply Sound.foldl
    | with_reducible apply Sound.foldl_fst
    | intro _
    | split
    | (simp only [Sound.lit]; with_reducible apply Sound.parts))

theorem enterL_sound (s : State) (p : Packet) (hs_ : Sound q_ k_ s) :
    Sound q_ k_ (enterL s p) := by
  unfold enterL
  try dsimp only
  repeat' (first
    | with_reducible assumption
    | with_reducible apply Sound.ite
    | with_reducible apply Sound.foldl
    | with_reducible apply Sound.foldl_fst
    | intro _
    | split
    | (simp only [Sound.lit]; with_reducible apply Sound.parts))

theorem packetHop_sound (id : Nat) (hdr : List (Nat × Fetch)) (pay : List (Nat × Fetch)) (s : State) (hs_ : Sound q_ k_ s) :
    Sound q_ k_ (packetHop id hdr pay s) := by
  unfold packetHop
  try dsimp only
  repeat' (first
    | with_reducible assumption
    | with_reducible apply enterL_sound
    | with_reducible apply escapePkt_sound
    | with_reducible apply servedOut_sound
    | with_reducible apply routeCount_sound
    | with_reducible apply hdrDrop_sound
    | with_reducible apply Sound.ite
    | with_reducible apply Sound.foldl
    | with_reducible apply Sound.foldl_fst
    | intro _
    | split
    | (simp only [Sound.lit]; with_reducible apply Sound.parts))

theorem escapeTimeout_sound (id : Nat) (s : State) (hs_ : Sound q_ k_ s) :
    Sound q_ k_ (escapeTimeout id s) := by
  unfold escapeTimeout
  try dsimp only
  repeat' (first
    | with_reducible assumption
    | with_reducible apply escapePkt_sound
    | with_reducible apply Sound.ite
    | with_reducible apply Sound.foldl
    | with_reducible apply Sound.foldl_fst
    | intro _
    | split
    | (simp only [Sound.lit]; with_reducible apply Sound.parts))

theorem epochSwitch_sound (id : Nat) (s : State) (hs_ : Sound q_ k_ s) :
    Sound q_ k_ (epochSwitch id s) := by
  unfold epochSwitch
  try dsimp only
  repeat' (first
    | with_reducible assumption
    | with_reducible apply dropPkt_sound
    | with_reducible apply updPlot_sound
    | with_reducible apply Sound.ite
    | with_reducible apply Sound.foldl
    | with_reducible apply Sound.foldl_fst
    | intro _
    | split
    | (simp only [Sound.lit]; with_reducible apply Sound.parts))

theorem finishChange_sound (s : State) (hs_ : Sound q_ k_ s) :
    Sound q_ k_ (finishChange s) := by
  unfold finishChange
  try dsimp only
  repeat' (first
    | with_reducible assumption
    | with_reducible apply setVer_sound
    | with_reducible apply updPlot_sound
    | with_reducible apply Sound.ite
    | with_reducible apply Sound.foldl
    | with_reducible apply Sound.foldl_fst
    | intro _
    | split
    | (simp only [Sound.lit]; with_reducible apply Sound.parts))

theorem loadVer_sound (s : State) (e : Nat) (v : RouteVer) (hs_ : Sound q_ k_ s) :
    Sound q_ k_ (loadVer s e v) := by
  unfold loadVer
  try dsimp only
  repeat' (first
    | with_reducible assumption
    | with_reducible apply setVer_sound
    | with_reducible apply Sound.ite
    | with_reducible apply Sound.foldl
    | with_reducible apply Sound.foldl_fst
    | intro _
    | split
    | (simp only [Sound.lit]; with_reducible apply Sound.parts))

theorem routingPlanned_sound (v : RouteVer) (s : State) (hs_ : Sound q_ k_ s) :
    Sound q_ k_ (routingPlanned v s) := by
  unfold routingPlanned
  try dsimp only
  repeat' (first
    | with_reducible assumption
    | with_reducible apply loadVer_sound
    | with_reducible apply injectEdge_sound
    | with_reducible apply finishChange_sound
    | with_reducible apply Sound.ite
    | with_reducible apply Sound.foldl
    | with_reducible apply Sound.foldl_fst
    | intro _
    | split
    | (simp only [Sound.lit]; with_reducible apply Sound.parts))

theorem injectRouter_sound (s : State) (x : Nat) (p : Packet) (hs_ : Sound q_ k_ s) :
    Sound q_ k_ (injectRouter s x p) := by
  unfold injectRouter
  try dsimp only
  repeat' (first
    | with_reducible assumption
    | with_reducible apply injectAt_sound
    | with_reducible apply putPacket_sound
    | with_reducible apply Sound.ite
    | with_reducible apply Sound.foldl
    | with_reducible apply Sound.foldl_fst
    | intro _
    | split
    | (simp only [Sound.lit]; with_reducible apply Sound.parts))

theorem unreachable_sound (s : State) (p : Packet) (hs_ : Sound q_ k_ s) :
    Sound q_ k_ (unreachable s p) := by
  unfold unreachable
  try dsimp only
  repeat' (first
    | with_reducible assumption
    | with_reducible apply fillAnswer_sound
    | with_reducible apply dropPkt_sound
    | with_reducible apply injectRouter_sound
    | with_reducible apply dropUnsent_sound
    | with_reducible apply hdrDrop_sound
    | with_reducible apply Sound.ite
    | with_reducible apply Sound.foldl
    | with_reducible apply Sound.foldl_fst
    | intro _
    | split
    | (simp only [Sound.lit]; with_reducible apply Sound.parts))

theorem abruptSwitch_sound (s : State) (e : Nat) (hs_ : Sound q_ k_ s) :
    Sound q_ k_ (abruptSwitch s e) := by
  unfold abruptSwitch
  try dsimp only
  repeat' (first
    | with_reducible assumption
    | with_reducible apply updPlot_sound
    | with_reducible apply finishChange_sound
    | with_reducible apply unreachable_sound
    | with_reducible apply Sound.ite
    | with_reducible apply Sound.foldl
    | with_reducible apply Sound.foldl_fst
    | intro _
    | split
    | (simp only [Sound.lit]; with_reducible apply Sound.parts))

theorem epochDrainTimeout_sound (s : State) (hs_ : Sound q_ k_ s) :
    Sound q_ k_ (epochDrainTimeout s) := by
  unfold epochDrainTimeout
  try dsimp only
  repeat' (first
    | with_reducible assumption
    | with_reducible apply abruptSwitch_sound
    | with_reducible apply Sound.ite
    | with_reducible apply Sound.foldl
    | with_reducible apply Sound.foldl_fst
    | intro _
    | split
    | (simp only [Sound.lit]; with_reducible apply Sound.parts))

theorem routingAbrupt_sound (v : RouteVer) (s : State) (hs_ : Sound q_ k_ s) :
    Sound q_ k_ (routingAbrupt v s) := by
  unfold routingAbrupt
  try dsimp only
  repeat' (first
    | with_reducible assumption
    | with_reducible apply abruptSwitch_sound
    | with_reducible apply loadVer_sound
    | with_reducible apply Sound.ite
    | with_reducible apply Sound.foldl
    | with_reducible apply Sound.foldl_fst
    | intro _
    | split
    | (simp only [Sound.lit]; with_reducible apply Sound.parts))

end Sys2Proof.Machine
end

