-- ==== Sys2Proof/Laws/KeepsPower.lean ====
section
/-! SUPPORT. What every operation of Machine/Power.lean keeps (Laws/Sound.lean). -/

namespace Sys2Proof.Machine

variable {q_ : List Instr} {k_ : Nat}

theorem lowerSets_sound (s : State) (hs_ : Sound q_ k_ s) :
    Sound q_ k_ (lowerSets s) := by
  unfold lowerSets
  try dsimp only
  repeat' (first
    | with_reducible assumption
    | with_reducible apply changeN_sound
    | with_reducible apply Sound.ite
    | with_reducible apply Sound.foldl
    | with_reducible apply Sound.foldl_fst
    | intro _
    | split
    | (simp only [Sound.lit]; with_reducible apply Sound.parts))

theorem applyProfile_sound (s : State) (hs_ : Sound q_ k_ s) :
    Sound q_ k_ (applyProfile s) := by
  unfold applyProfile
  try dsimp only
  repeat' (first
    | with_reducible assumption
    | with_reducible apply setStw_sound
    | with_reducible apply setCsrFld_sound
    | with_reducible apply lowerSets_sound
    | with_reducible apply refreshLimits_sound
    | with_reducible apply Sound.ite
    | with_reducible apply Sound.foldl
    | with_reducible apply Sound.foldl_fst
    | intro _
    | split
    | (simp only [Sound.lit]; with_reducible apply Sound.parts))

theorem setDeclared_sound (s : State) (c : Nat) (hs_ : Sound q_ k_ s) :
    Sound q_ k_ (setDeclared s c) := by
  unfold setDeclared
  try dsimp only
  repeat' (first
    | with_reducible assumption
    | with_reducible apply applyProfile_sound
    | with_reducible apply setCsrFld_sound
    | with_reducible apply Sound.ite
    | with_reducible apply Sound.foldl
    | with_reducible apply Sound.foldl_fst
    | intro _
    | split
    | (simp only [Sound.lit]; with_reducible apply Sound.parts))

theorem setCooling_sound (s : State) (c : Cooling) (hs_ : Sound q_ k_ s) :
    Sound q_ k_ (setCooling s c) := by
  unfold setCooling
  try dsimp only
  repeat' (first
    | with_reducible assumption
    | with_reducible apply setStw_sound
    | with_reducible apply Sound.ite
    | with_reducible apply Sound.foldl
    | with_reducible apply Sound.foldl_fst
    | intro _
    | split
    | (simp only [Sound.lit]; with_reducible apply Sound.parts))

theorem declareClass_sound (s : State) (c : Nat) (hs_ : Sound q_ k_ s) :
    Sound q_ k_ (declareClass s c) := by
  unfold declareClass
  try dsimp only
  repeat' (first
    | with_reducible assumption
    | with_reducible apply setDeclared_sound
    | with_reducible apply setCooling_sound
    | with_reducible apply Sound.ite
    | with_reducible apply Sound.foldl
    | with_reducible apply Sound.foldl_fst
    | intro _
    | split
    | (simp only [Sound.lit]; with_reducible apply Sound.parts))

theorem sbReply_sound (s : State) (cmd : Nat) (seq : Nat) (status : Nat) (payload : List Byte) (hs_ : Sound q_ k_ s) :
    Sound q_ k_ (sbReply s cmd seq status payload) := by
  unfold sbReply
  try dsimp only
  repeat' (first
    | with_reducible assumption
    | with_reducible apply emit_sound
    | with_reducible apply Sound.ite
    | with_reducible apply Sound.foldl
    | with_reducible apply Sound.foldl_fst
    | intro _
    | split
    | (simp only [Sound.lit]; with_reducible apply Sound.parts))

theorem coolingMsg_sound (seq : Nat) (cls : Nat) (s : State) (hs_ : Sound q_ k_ s) :
    Sound q_ k_ (coolingMsg seq cls s) := by
  unfold coolingMsg
  try dsimp only
  repeat' (first
    | with_reducible assumption
    | with_reducible apply declareClass_sound
    | with_reducible apply sbReply_sound
    | with_reducible apply Sound.ite
    | with_reducible apply Sound.foldl
    | with_reducible apply Sound.foldl_fst
    | intro _
    | split
    | (simp only [Sound.lit]; with_reducible apply Sound.parts))

theorem coolingTimeout_sound (s : State) (hs_ : Sound q_ k_ s) :
    Sound q_ k_ (coolingTimeout s) := by
  unfold coolingTimeout
  try dsimp only
  repeat' (first
    | with_reducible assumption
    | with_reducible apply setDeclared_sound
    | with_reducible apply setCooling_sound
    | with_reducible apply Sound.ite
    | with_reducible apply Sound.foldl
    | with_reducible apply Sound.foldl_fst
    | intro _
    | split
    | (simp only [Sound.lit]; with_reducible apply Sound.parts))

theorem profileReplace_sound (b : List Byte) (s : State) (hs_ : Sound q_ k_ s) :
    Sound q_ k_ (profileReplace b s) := by
  unfold profileReplace
  try dsimp only
  repeat' (first
    | with_reducible assumption
    | with_reducible apply setStw_sound
    | with_reducible apply applyProfile_sound
    | with_reducible apply setCsrFld_sound
    | with_reducible apply satCsrFld_sound
    | with_reducible apply Sound.ite
    | with_reducible apply Sound.foldl
    | with_reducible apply Sound.foldl_fst
    | intro _
    | split
    | (simp only [Sound.lit]; with_reducible apply Sound.parts))

theorem recordTemps_sound (s : State) (die : List Nat) (hs_ : Sound q_ k_ s) :
    Sound q_ k_ (recordTemps s die) := by
  unfold recordTemps
  try dsimp only
  repeat' (first
    | with_reducible assumption
    | with_reducible apply setStw_sound
    | with_reducible apply setCsrFld_sound
    | with_reducible apply Sound.ite
    | with_reducible apply Sound.foldl
    | with_reducible apply Sound.foldl_fst
    | intro _
    | split
    | (simp only [Sound.lit]; with_reducible apply Sound.parts))

theorem recordStacks_sound (s : State) (hbm : List Nat) (hs_ : Sound q_ k_ s) :
    Sound q_ k_ (recordStacks s hbm) := by
  unfold recordStacks
  try dsimp only
  repeat' (first
    | with_reducible assumption
    | with_reducible apply setCsrFld_sound
    | with_reducible apply setStw_sound
    | with_reducible apply Sound.ite
    | with_reducible apply Sound.foldl
    | with_reducible apply Sound.foldl_fst
    | intro _
    | split
    | (simp only [Sound.lit]; with_reducible apply Sound.parts))

theorem hotFails_sound (s : State) (d : Nat) (hs_ : Sound q_ k_ s) :
    Sound q_ k_ (hotFails s d) := by
  unfold hotFails
  try dsimp only
  repeat' (first
    | with_reducible assumption
    | with_reducible apply startRecovery_sound
    | with_reducible apply Sound.ite
    | with_reducible apply Sound.foldl
    | with_reducible apply Sound.foldl_fst
    | intro _
    | split
    | (simp only [Sound.lit]; with_reducible apply Sound.parts))

theorem tripNow_sound (s : State) (cause : Nat) (hs_ : Sound q_ k_ s) :
    Sound q_ k_ (tripNow s cause) := by
  unfold tripNow
  try dsimp only
  repeat' (first
    | with_reducible assumption
    | with_reducible apply setStw_sound
    | with_reducible apply setCsrFld_sound
    | with_reducible apply setPins_sound
    | with_reducible apply logEvent_sound
    | with_reducible apply deviceDown_sound
    | with_reducible apply Sound.ite
    | with_reducible apply Sound.foldl
    | with_reducible apply Sound.foldl_fst
    | intro _
    | split
    | (simp only [Sound.lit]; with_reducible apply Sound.parts))

theorem thermalSample_sound (die : List Nat) (hbm : List Nat) (s : State) (hs_ : Sound q_ k_ s) :
    Sound q_ k_ (thermalSample die hbm s) := by
  unfold thermalSample
  try dsimp only
  repeat' (first
    | with_reducible assumption
    | with_reducible apply recordStacks_sound
    | with_reducible apply recordTemps_sound
    | with_reducible apply hotFails_sound
    | with_reducible apply tripNow_sound
    | with_reducible apply Sound.ite
    | with_reducible apply Sound.foldl
    | with_reducible apply Sound.foldl_fst
    | intro _
    | split
    | (simp only [Sound.lit]; with_reducible apply Sound.parts))

theorem stepMark_sound (s : State) (fs : List Nat) (hs_ : Sound q_ k_ s) :
    Sound q_ k_ (stepMark s fs) := by
  unfold stepMark
  try dsimp only
  repeat' (first
    | with_reducible assumption
    | with_reducible apply setStw_sound
    | with_reducible apply Sound.ite
    | with_reducible apply Sound.foldl
    | with_reducible apply Sound.foldl_fst
    | intro _
    | split
    | (simp only [Sound.lit]; with_reducible apply Sound.parts))

theorem throttleStep_sound (f : Nat) (sweeps : List Sweep) (s : State) (hs_ : Sound q_ k_ s) :
    Sound q_ k_ (throttleStep f sweeps s) := by
  unfold throttleStep
  try dsimp only
  repeat' (first
    | with_reducible assumption
    | with_reducible apply satCsrFld_sound
    | with_reducible apply stepMark_sound
    | with_reducible apply changeN_sound
    | with_reducible apply Sound.ite
    | with_reducible apply Sound.foldl
    | with_reducible apply Sound.foldl_fst
    | intro _
    | split
    | (simp only [Sound.lit]; with_reducible apply Sound.parts))

theorem leavePart_sound (s : State) (cs : List Nat) (hs_ : Sound q_ k_ s) :
    Sound q_ k_ (leavePart s cs) := by
  unfold leavePart
  try dsimp only
  repeat' (first
    | with_reducible assumption
    | with_reducible apply setPair_sound
    | with_reducible apply dropOld_sound
    | with_reducible apply discardDrain_sound
    | with_reducible apply Sound.ite
    | with_reducible apply Sound.foldl
    | with_reducible apply Sound.foldl_fst
    | intro _
    | split
    | (simp only [Sound.lit]; with_reducible apply Sound.parts))

theorem carrySwitch_sound (s : State) (n : Nat) (l : Nat) (hs_ : Sound q_ k_ s) :
    Sound q_ k_ (carrySwitch s n l) := by
  unfold carrySwitch
  try dsimp only
  repeat' (first
    | with_reducible assumption
    | with_reducible apply switchStart_sound
    | with_reducible apply updFun_sound
    | with_reducible apply Sound.ite
    | with_reducible apply Sound.foldl
    | with_reducible apply Sound.foldl_fst
    | intro _
    | split
    | (simp only [Sound.lit]; with_reducible apply Sound.parts))

theorem narrowFn_sound {s : State} {n : Nat} {d : Nat} {x0_ : State} (e_ : narrowFn s n d = some x0_) (hs_ : Sound q_ k_ s) :
    Sound q_ k_ x0_ := by
  unfold narrowFn at e_
  try dsimp only at e_
  repeat' (first
    | with_reducible assumption
    | with_reducible apply updFun_sound
    | with_reducible apply csrSet_sound
    | with_reducible apply carrySwitch_sound
    | with_reducible apply leavePart_sound
    | with_reducible apply Sound.ite
    | with_reducible apply Sound.foldl
    | with_reducible apply Sound.foldl_fst
    | intro _
    | (simp only [Option.map_eq_some_iff] at e_; obtain ⟨_, _, e_⟩ := e_; subst e_)
    | split at e_
    | (cases e_; done)
    | (injection e_ with e_; subst e_)
    | (injection e_ with e_; injection e_ with e_; subst e_)
    | split
    | (simp only [Sound.lit]; with_reducible apply Sound.parts))

theorem quadStop_sound (d : Nat) (s : State) (n : Nat) (hs_ : Sound q_ k_ s) :
    Sound q_ k_ (quadStop d s n) := by
  unfold quadStop
  try dsimp only
  repeat' (first
    | with_reducible assumption
    | refine narrowFn_sound (by with_reducible assumption) ?_
    | with_reducible apply quiescentPass_sound
    | with_reducible apply Sound.ite
    | with_reducible apply Sound.foldl
    | with_reducible apply Sound.foldl_fst
    | intro _
    | split
    | (simp only [Sound.lit]; with_reducible apply Sound.parts))

theorem suspendFn_sound (d : Nat) (s : State) (n : Nat) (hs_ : Sound q_ k_ s) :
    Sound q_ k_ (suspendFn d s n) := by
  unfold suspendFn
  try dsimp only
  repeat' (first
    | with_reducible assumption
    | with_reducible apply setCtxState_sound
    | with_reducible apply finishReq_sound
    | with_reducible apply updFun_sound
    | with_reducible apply Sound.ite
    | with_reducible apply Sound.foldl
    | with_reducible apply Sound.foldl_fst
    | intro _
    | split
    | (simp only [Sound.lit]; with_reducible apply Sound.parts))

theorem setQuads_sound (s : State) (l : List QuadSeq) (hs_ : Sound q_ k_ s) :
    Sound q_ k_ (setQuads s l) := by
  unfold setQuads
  try dsimp only
  repeat' (first
    | with_reducible assumption
    | with_reducible apply setStw_sound
    | with_reducible apply Sound.ite
    | with_reducible apply Sound.foldl
    | with_reducible apply Sound.foldl_fst
    | intro _
    | split
    | (simp only [Sound.lit]; with_reducible apply Sound.parts))

theorem setQuadStep_sound (s : State) (d : Nat) (k : Nat) (hs_ : Sound q_ k_ s) :
    Sound q_ k_ (setQuadStep s d k) := by
  unfold setQuadStep
  try dsimp only
  repeat' (first
    | with_reducible assumption
    | with_reducible apply setQuads_sound
    | with_reducible apply Sound.ite
    | with_reducible apply Sound.foldl
    | with_reducible apply Sound.foldl_fst
    | intro _
    | split
    | (simp only [Sound.lit]; with_reducible apply Sound.parts))

theorem quadrantOff_sound (d : Nat) (v : RouteVer) (s : State) (hs_ : Sound q_ k_ s) :
    Sound q_ k_ (quadrantOff d v s) := by
  unfold quadrantOff
  try dsimp only
  repeat' (first
    | with_reducible assumption
    | with_reducible apply setQuads_sound
    | with_reducible apply satCsrFld_sound
    | with_reducible apply setQuadStep_sound
    | with_reducible apply quadStop_sound
    | with_reducible apply suspendFn_sound
    | with_reducible apply routingPlanned_sound
    | with_reducible apply quadLost_sound
    | with_reducible apply setFenced_sound
    | with_reducible apply setOn_sound
    | with_reducible apply Sound.ite
    | with_reducible apply Sound.foldl
    | with_reducible apply Sound.foldl_fst
    | intro _
    | split
    | (simp only [Sound.lit]; with_reducible apply Sound.parts))

theorem resumeFn_sound (s : State) (n : Nat) (hs_ : Sound q_ k_ s) :
    Sound q_ k_ (resumeFn s n) := by
  unfold resumeFn
  try dsimp only
  repeat' (first
    | with_reducible assumption
    | with_reducible apply updFun_sound
    | with_reducible apply beginSwitch_sound
    | with_reducible apply Sound.ite
    | with_reducible apply Sound.foldl
    | with_reducible apply Sound.foldl_fst
    | intro _
    | split
    | (simp only [Sound.lit]; with_reducible apply Sound.parts))

theorem unsuspend_sound (d : Nat) (s : State) (n : Nat) (hs_ : Sound q_ k_ s) :
    Sound q_ k_ (unsuspend d s n) := by
  unfold unsuspend
  try dsimp only
  repeat' (first
    | with_reducible assumption
    | with_reducible apply updFun_sound
    | with_reducible apply resumeFn_sound
    | with_reducible apply Sound.ite
    | with_reducible apply Sound.foldl
    | with_reducible apply Sound.foldl_fst
    | intro _
    | split
    | (simp only [Sound.lit]; with_reducible apply Sound.parts))

theorem restoreFn_sound (d : Nat) (s : State) (n : Nat) (hs_ : Sound q_ k_ s) :
    Sound q_ k_ (restoreFn d s n) := by
  unfold restoreFn
  try dsimp only
  repeat' (first
    | with_reducible assumption
    | with_reducible apply carrySwitch_sound
    | with_reducible apply Sound.ite
    | with_reducible apply Sound.foldl
    | with_reducible apply Sound.foldl_fst
    | intro _
    | split
    | (simp only [Sound.lit]; with_reducible apply Sound.parts))

theorem quadUp_sound (s : State) (d : Nat) (hs_ : Sound q_ k_ s) :
    Sound q_ k_ (quadUp s d) := by
  unfold quadUp
  try dsimp only
  repeat' (first
    | with_reducible assumption
    | with_reducible apply setOn_sound
    | with_reducible apply updPlot_sound
    | with_reducible apply Sound.ite
    | with_reducible apply Sound.foldl
    | with_reducible apply Sound.foldl_fst
    | intro _
    | split
    | (simp only [Sound.lit]; with_reducible apply Sound.parts))

theorem quadFailed_sound (s : State) (d : Nat) (hs_ : Sound q_ k_ s) :
    Sound q_ k_ (quadFailed s d) := by
  unfold quadFailed
  try dsimp only
  repeat' (first
    | with_reducible assumption
    | with_reducible apply recordFailed_sound
    | with_reducible apply Sound.ite
    | with_reducible apply Sound.foldl
    | with_reducible apply Sound.foldl_fst
    | intro _
    | split
    | (simp only [Sound.lit]; with_reducible apply Sound.parts))

theorem quadTested_sound (s : State) (d : Nat) (testOk : Bool) (v : RouteVer) (hs_ : Sound q_ k_ s) :
    Sound q_ k_ (quadTested s d testOk v) := by
  unfold quadTested
  try dsimp only
  repeat' (first
    | with_reducible assumption
    | with_reducible apply setQuads_sound
    | with_reducible apply setOn_sound
    | with_reducible apply quadFailed_sound
    | with_reducible apply routingPlanned_sound
    | with_reducible apply setQuadStep_sound
    | with_reducible apply quadUp_sound
    | with_reducible apply Sound.ite
    | with_reducible apply Sound.foldl
    | with_reducible apply Sound.foldl_fst
    | intro _
    | split
    | (simp only [Sound.lit]; with_reducible apply Sound.parts))

theorem quadrantReturn_sound (d : Nat) (testOk : Bool) (v : RouteVer) (s : State) (hs_ : Sound q_ k_ s) :
    Sound q_ k_ (quadrantReturn d testOk v s) := by
  unfold quadrantReturn
  try dsimp only
  repeat' (first
    | with_reducible assumption
    | with_reducible apply setQuads_sound
    | with_reducible apply setOn_sound
    | with_reducible apply quadTested_sound
    | with_reducible apply unsuspend_sound
    | with_reducible apply setFenced_sound
    | with_reducible apply restoreFn_sound
    | with_reducible apply Sound.ite
    | with_reducible apply Sound.foldl
    | with_reducible apply Sound.foldl_fst
    | intro _
    | split
    | (simp only [Sound.lit]; with_reducible apply Sound.parts))

theorem loseField_sound (f : Nat) (v : RouteVer) (s : State) (hs_ : Sound q_ k_ s) :
    Sound q_ k_ (loseField f v s) := by
  unfold loseField
  try dsimp only
  repeat' (first
    | with_reducible assumption
    | with_reducible apply setCsrFld_sound
    | with_reducible apply setSeam_sound
    | with_reducible apply setStw_sound
    | with_reducible apply routingAbrupt_sound
    | with_reducible apply startRecovery_sound
    | with_reducible apply setOn_sound
    | with_reducible apply quadLost_sound
    | with_reducible apply addRepair_sound
    | with_reducible apply logEvent_sound
    | with_reducible apply note_sound
    | with_reducible apply refreshSets_sound
    | with_reducible apply refreshReserve_sound
    | with_reducible apply Sound.ite
    | with_reducible apply Sound.foldl
    | with_reducible apply Sound.foldl_fst
    | intro _
    | split
    | (simp only [Sound.lit]; with_reducible apply Sound.parts))

theorem setPower_sound (s : State) (g : Power → Power) (hs_ : Sound q_ k_ s) :
    Sound q_ k_ (setPower s g) := by
  unfold setPower
  try dsimp only
  repeat' (first
    | with_reducible assumption
    | with_reducible apply setStw_sound
    | with_reducible apply Sound.ite
    | with_reducible apply Sound.foldl
    | with_reducible apply Sound.foldl_fst
    | intro _
    | split
    | (simp only [Sound.lit]; with_reducible apply Sound.parts))

theorem stepAll_sound (s : State) (down : Bool) (sweeps : List Sweep) (hs_ : Sound q_ k_ s) :
    Sound q_ k_ (stepAll s down sweeps) := by
  unfold stepAll
  try dsimp only
  repeat' (first
    | with_reducible assumption
    | with_reducible apply satCsrFld_sound
    | with_reducible apply changeN_sound
    | with_reducible apply Sound.ite
    | with_reducible apply Sound.foldl
    | with_reducible apply Sound.foldl_fst
    | intro _
    | split
    | (simp only [Sound.lit]; with_reducible apply Sound.parts))

theorem limiter_sound (w : Nat) (s : State) (hs_ : Sound q_ k_ s) :
    Sound q_ k_ (limiter w s) := by
  unfold limiter
  try dsimp only
  repeat' (first
    | with_reducible assumption
    | with_reducible apply satCsrFld_sound
    | with_reducible apply setPower_sound
    | with_reducible apply Sound.ite
    | with_reducible apply Sound.foldl
    | with_reducible apply Sound.foldl_fst
    | intro _
    | split
    | (simp only [Sound.lit]; with_reducible apply Sound.parts))

theorem powerSample_sound (w : Nat) (sweeps : List Sweep) (s : State) (hs_ : Sound q_ k_ s) :
    Sound q_ k_ (powerSample w sweeps s) := by
  unfold powerSample
  try dsimp only
  repeat' (first
    | with_reducible assumption
    | with_reducible apply limiter_sound
    | with_reducible apply setCsrFld_sound
    | with_reducible apply setPower_sound
    | with_reducible apply stepAll_sound
    | with_reducible apply Sound.ite
    | with_reducible apply Sound.foldl
    | with_reducible apply Sound.foldl_fst
    | intro _
    | split
    | (simp only [Sound.lit]; with_reducible apply Sound.parts))

theorem powerReply_sound (s : State) (sb : Option Nat) (status : Nat) (hs_ : Sound q_ k_ s) :
    Sound q_ k_ (powerReply s sb status) := by
  unfold powerReply
  try dsimp only
  repeat' (first
    | with_reducible assumption
    | with_reducible apply sbReply_sound
    | with_reducible apply Sound.ite
    | with_reducible apply Sound.foldl
    | with_reducible apply Sound.foldl_fst
    | intro _
    | split
    | (simp only [Sound.lit]; with_reducible apply Sound.parts))

theorem dormantEnter_sound (sb : Option Nat) (s : State) (hs_ : Sound q_ k_ s) :
    Sound q_ k_ (dormantEnter sb s) := by
  unfold dormantEnter
  try dsimp only
  repeat' (first
    | with_reducible assumption
    | with_reducible apply powerReply_sound
    | with_reducible apply satCsrFld_sound
    | with_reducible apply quadLost_sound
    | with_reducible apply setOn_sound
    | with_reducible apply setCsrFld_sound
    | with_reducible apply setStw_sound
    | with_reducible apply Sound.ite
    | with_reducible apply Sound.foldl
    | with_reducible apply Sound.foldl_fst
    | intro _
    | split
    | (simp only [Sound.lit]; with_reducible apply Sound.parts)
    | with_reducible apply fwf_fset
    | with_reducible apply fwf_fupd
    | with_reducible apply wrLE_wf
    | with_reducible apply wrBytes_wf
    | with_reducible apply fwf_filter
    | with_reducible apply fwf_ferase
    | with_reducible apply fwf_nil
    | with_reducible apply Sound.foldl_wf
    | with_reducible apply Sound.ite_wf
    | with_reducible apply Sound.pending (q_ := q_) (k_ := k_)
    | with_reducible apply Sound.code (q_ := q_) (k_ := k_)
    | with_reducible apply Sound.hbm (q_ := q_) (k_ := k_)
    | with_reducible apply Sound.hbmPoi (q_ := q_) (k_ := k_)
    | with_reducible apply Sound.cxl (q_ := q_) (k_ := k_)
    | with_reducible apply Sound.cxlPoi (q_ := q_) (k_ := k_)
    | with_reducible apply Sound.csr (q_ := q_) (k_ := k_)
    | with_reducible apply Sound.cores (q_ := q_) (k_ := k_)
    | with_reducible apply Sound.plots (q_ := q_) (k_ := k_)
    | with_reducible apply Sound.funs (q_ := q_) (k_ := k_)
    | with_reducible apply Sound.yports (q_ := q_) (k_ := k_)
    | with_reducible apply Sound.slices (q_ := q_) (k_ := k_)
    | (simp only [Sound.lit]; refine ⟨?_, ?_, ?_, ?_, ?_, ?_, ?_, ?_, ?_, ?_, ?_, ?_⟩))

theorem quadsUp_sound (s : State) (hs_ : Sound q_ k_ s) :
    Sound q_ k_ (quadsUp s) := by
  unfold quadsUp
  try dsimp only
  repeat' (first
    | with_reducible assumption
    | with_reducible apply setFenced_sound
    | with_reducible apply quadUp_sound
    | with_reducible apply Sound.ite
    | with_reducible apply Sound.foldl
    | with_reducible apply Sound.foldl_fst
    | intro _
    | split
    | (simp only [Sound.lit]; with_reducible apply Sound.parts))

theorem atPlaces_sound (s : State) (a : FMap Nat × List Nat) (hs_ : Sound q_ k_ s) :
    Sound q_ k_ (atPlaces s a) := by
  unfold atPlaces
  try dsimp only
  repeat' (first
    | with_reducible assumption
    | with_reducible apply Sound.ite
    | with_reducible apply Sound.foldl
    | with_reducible apply Sound.foldl_fst
    | intro _
    | split
    | (simp only [Sound.lit]; with_reducible apply Sound.parts))

theorem seamDefect_sound (s : State) (g : Nat) (back : Bool) (hs_ : Sound q_ k_ s) :
    Sound q_ k_ (seamDefect s g back) := by
  unfold seamDefect
  try dsimp only
  repeat' (first
    | with_reducible assumption
    | with_reducible apply recordFailed_sound
    | with_reducible apply addRepair_sound
    | with_reducible apply setSeam_sound
    | with_reducible apply setStw_sound
    | with_reducible apply Sound.ite
    | with_reducible apply Sound.foldl
    | with_reducible apply Sound.foldl_fst
    | intro _
    | split
    | (simp only [Sound.lit]; with_reducible apply Sound.parts))

theorem seamReset_sound (s : State) (g : Nat) (x : Sweep) (hs_ : Sound q_ k_ s) :
    Sound q_ k_ (seamReset s g x) := by
  unfold seamReset
  try dsimp only
  repeat' (first
    | with_reducible assumption
    | with_reducible apply calibrate_sound
    | with_reducible apply setSeam_sound
    | with_reducible apply seamDefect_sound
    | with_reducible apply Sound.ite
    | with_reducible apply Sound.foldl
    | with_reducible apply Sound.foldl_fst
    | intro _
    | split
    | (simp only [Sound.lit]; with_reducible apply Sound.parts))

theorem clocksUp_sound (s : State) (sweeps : List Sweep) (hs_ : Sound q_ k_ s) :
    Sound q_ k_ (clocksUp s sweeps) := by
  unfold clocksUp
  try dsimp only
  repeat' (first
    | with_reducible assumption
    | with_reducible apply refreshLimits_sound
    | with_reducible apply setCsrFld_sound
    | with_reducible apply refreshSets_sound
    | with_reducible apply reloadCopies_sound
    | with_reducible apply seamReset_sound
    | with_reducible apply Sound.ite
    | with_reducible apply Sound.foldl
    | with_reducible apply Sound.foldl_fst
    | intro _
    | split
    | (simp only [Sound.lit]; with_reducible apply Sound.parts))

theorem testFails_sound (s : State) (origin : Nat) (source : Nat) (l : List (Nat × Nat)) (hs_ : Sound q_ k_ s) :
    Sound q_ k_ (testFails s origin source l) := by
  unfold testFails
  try dsimp only
  repeat' (first
    | with_reducible assumption
    | with_reducible apply recordFailed_sound
    | with_reducible apply setTestFail_sound
    | with_reducible apply addRepair_sound
    | with_reducible apply Sound.ite
    | with_reducible apply Sound.foldl
    | with_reducible apply Sound.foldl_fst
    | intro _
    | split
    | (simp only [Sound.lit]; with_reducible apply Sound.parts))

theorem rearrange_sound (s : State) (e : Nat) (v : RouteVer) (hs_ : Sound q_ k_ s) :
    Sound q_ k_ (rearrange s e v) := by
  unfold rearrange
  try dsimp only
  repeat' (first
    | with_reducible assumption
    | with_reducible apply atPlaces_sound
    | with_reducible apply refreshReserve_sound
    | with_reducible apply loadVer_sound
    | with_reducible apply Sound.ite
    | with_reducible apply Sound.foldl
    | with_reducible apply Sound.foldl_fst
    | intro _
    | split
    | (simp only [Sound.lit]; with_reducible apply Sound.parts))

theorem reportCxl_sound (s : State) (x : CxlLink) (hs_ : Sound q_ k_ s) :
    Sound q_ k_ (reportCxl s x) := by
  unfold reportCxl
  try dsimp only
  repeat' (first
    | with_reducible assumption
    | with_reducible apply note_sound
    | with_reducible apply Sound.ite
    | with_reducible apply Sound.foldl
    | with_reducible apply Sound.foldl_fst
    | intro _
    | split
    | (simp only [Sound.lit]; with_reducible apply Sound.parts))

theorem linksTrained_sound (s : State) (cold : Bool) (l : List CxlLink) (hs_ : Sound q_ k_ s) :
    Sound q_ k_ (linksTrained s cold l) := by
  unfold linksTrained
  try dsimp only
  repeat' (first
    | with_reducible assumption
    | with_reducible apply reportCxl_sound
    | with_reducible apply csrSet_sound
    | with_reducible apply setOn_sound
    | with_reducible apply Sound.ite
    | with_reducible apply Sound.foldl
    | with_reducible apply Sound.foldl_fst
    | intro _
    | split
    | (simp only [Sound.lit]; with_reducible apply Sound.parts)
    | with_reducible apply fwf_fset
    | with_reducible apply fwf_fupd
    | with_reducible apply wrLE_wf
    | with_reducible apply wrBytes_wf
    | with_reducible apply fwf_filter
    | with_reducible apply fwf_ferase
    | with_reducible apply fwf_nil
    | with_reducible apply Sound.foldl_wf
    | with_reducible apply Sound.ite_wf
    | with_reducible apply Sound.pending (q_ := q_) (k_ := k_)
    | with_reducible apply Sound.code (q_ := q_) (k_ := k_)
    | with_reducible apply Sound.hbm (q_ := q_) (k_ := k_)
    | with_reducible apply Sound.hbmPoi (q_ := q_) (k_ := k_)
    | with_reducible apply Sound.cxl (q_ := q_) (k_ := k_)
    | with_reducible apply Sound.cxlPoi (q_ := q_) (k_ := k_)
    | with_reducible apply Sound.csr (q_ := q_) (k_ := k_)
    | with_reducible apply Sound.cores (q_ := q_) (k_ := k_)
    | with_reducible apply Sound.plots (q_ := q_) (k_ := k_)
    | with_reducible apply Sound.funs (q_ := q_) (k_ := k_)
    | with_reducible apply Sound.yports (q_ := q_) (k_ := k_)
    | with_reducible apply Sound.slices (q_ := q_) (k_ := k_)
    | (simp only [Sound.lit]; refine ⟨?_, ?_, ?_, ?_, ?_, ?_, ?_, ?_, ?_, ?_, ?_, ?_⟩))

theorem wake_sound (sb : Option Nat) (us : Nat) (bad : List (Nat × Nat)) (defects : List Defect) (sweeps : List Sweep) (links : List CxlLink) (v : RouteVer) (s : State) (hs_ : Sound q_ k_ s) :
    Sound q_ k_ (wake sb us bad defects sweeps links v s) := by
  unfold wake
  try dsimp only
  repeat' (first
    | with_reducible assumption
    | with_reducible apply powerReply_sound
    | with_reducible apply testFails_sound
    | with_reducible apply repairAll_sound
    | with_reducible apply setOn_sound
    | with_reducible apply clocksUp_sound
    | with_reducible apply quadsUp_sound
    | with_reducible apply rearrange_sound
    | with_reducible apply loadVer_sound
    | with_reducible apply linksTrained_sound
    | with_reducible apply setCsrFld_sound
    | with_reducible apply Sound.ite
    | with_reducible apply Sound.foldl
    | with_reducible apply Sound.foldl_fst
    | intro _
    | split
    | (simp only [Sound.lit]; with_reducible apply Sound.parts))

end Sys2Proof.Machine
end

