-- ==== Sys2Proof/Laws/KeepsTestRepair.lean ====
section
/-! SUPPORT. What every operation of Machine/TestRepair.lean keeps (Laws/Sound.lean). -/

namespace Sys2Proof.Machine

variable {q_ : List Instr} {k_ : Nat}

theorem declareFailed_sound (s : State) (j : Nat) (unit : Nat) (hs_ : Sound q_ k_ s) :
    Sound q_ k_ (declareFailed s j unit) := by
  unfold declareFailed
  try dsimp only
  repeat' (first
    | with_reducible assumption
    | with_reducible apply recordFailed_sound
    | with_reducible apply setStw_sound
    | with_reducible apply startRecovery_sound
    | with_reducible apply logEvent_sound
    | with_reducible apply refreshReserve_sound
    | with_reducible apply Sound.ite
    | with_reducible apply Sound.foldl
    | with_reducible apply Sound.foldl_fst
    | intro _
    | split
    | (simp only [Sound.lit]; with_reducible apply Sound.parts))

theorem testedFailed_sound (s : State) (j : Nat) (unit : Nat) (hs_ : Sound q_ k_ s) :
    Sound q_ k_ (testedFailed s j unit) := by
  unfold testedFailed
  try dsimp only
  repeat' (first
    | with_reducible assumption
    | with_reducible apply declareFailed_sound
    | with_reducible apply setTestFail_sound
    | with_reducible apply Sound.ite
    | with_reducible apply Sound.foldl
    | with_reducible apply Sound.foldl_fst
    | intro _
    | split
    | (simp only [Sound.lit]; with_reducible apply Sound.parts))

theorem plotFailedStep_sound (j : Nat) (tested : Option Nat) (s : State) (hs_ : Sound q_ k_ s) :
    Sound q_ k_ (plotFailedStep j tested s) := by
  unfold plotFailedStep
  try dsimp only
  repeat' (first
    | with_reducible assumption
    | with_reducible apply testedFailed_sound
    | with_reducible apply declareFailed_sound
    | with_reducible apply Sound.ite
    | with_reducible apply Sound.foldl
    | with_reducible apply Sound.foldl_fst
    | intro _
    | split
    | (simp only [Sound.lit]; with_reducible apply Sound.parts))

theorem setMove_sound (s : State) (m : Option Move) (hs_ : Sound q_ k_ s) :
    Sound q_ k_ (setMove s m) := by
  unfold setMove
  try dsimp only
  repeat' (first
    | with_reducible assumption
    | with_reducible apply setStw_sound
    | with_reducible apply Sound.ite
    | with_reducible apply Sound.foldl
    | with_reducible apply Sound.foldl_fst
    | intro _
    | split
    | (simp only [Sound.lit]; with_reducible apply Sound.parts))

theorem startMove_sound (s : State) (kind : Nat) (l : List (Nat × Nat)) (v : RouteVer) (bare : List Nat) (hs_ : Sound q_ k_ s) :
    Sound q_ k_ (startMove s kind l v bare) := by
  unfold startMove
  try dsimp only
  repeat' (first
    | with_reducible assumption
    | with_reducible apply quiescentPass_sound
    | with_reducible apply setMove_sound
    | with_reducible apply Sound.ite
    | with_reducible apply Sound.foldl
    | with_reducible apply Sound.foldl_fst
    | intro _
    | split
    | (simp only [Sound.lit]; with_reducible apply Sound.parts))

theorem resumeWork_sound (m : Move) (s : State) (hs_ : Sound q_ k_ s) :
    Sound q_ k_ (resumeWork m s) := by
  unfold resumeWork
  try dsimp only
  repeat' (first
    | with_reducible assumption
    | with_reducible apply updCore_sound
    | with_reducible apply Sound.ite
    | with_reducible apply Sound.foldl
    | with_reducible apply Sound.foldl_fst
    | intro _
    | split
    | (simp only [Sound.lit]; with_reducible apply Sound.parts))

theorem rebase_sound (s : State) (j : Nat) (f : Nat) (g : Nat) (hs_ : Sound q_ k_ s) :
    Sound q_ k_ (rebase s j f g) := by
  unfold rebase
  try dsimp only
  repeat' (first
    | with_reducible assumption
    | with_reducible apply updCore_sound
    | with_reducible apply Sound.ite
    | with_reducible apply Sound.foldl
    | with_reducible apply Sound.foldl_fst
    | intro _
    | split
    | (simp only [Sound.lit]; with_reducible apply Sound.parts))

theorem copyPlots_sound (m : Move) (s : State) (hs_ : Sound q_ k_ s) :
    Sound q_ k_ (copyPlots m s) := by
  unfold copyPlots
  try dsimp only
  repeat' (first
    | with_reducible assumption
    | with_reducible apply updPlot_sound
    | with_reducible apply rebase_sound
    | with_reducible apply Sound.ite
    | with_reducible apply Sound.foldl
    | with_reducible apply Sound.foldl_fst
    | intro _
    | split
    | (simp only [Sound.lit]; with_reducible apply Sound.parts)
    | with_reducible apply fwf_fset
    | with_reducible apply fwf_fupd
    | with_reducible apply wrLE_wf
    | with_reducible apply wrBytes_wf
    | with_reducible apply fwf_filter
    | with_reducible apply fwf_ferase
    | with_reducible apply fwf_nil
    | with_reducible apply Sound.foldl_wf
    | with_reducible apply Sound.ite_wf
    | with_reducible apply Sound.pending (q_ := q_) (k_ := k_)
    | with_reducible apply Sound.code (q_ := q_) (k_ := k_)
    | with_reducible apply Sound.hbm (q_ := q_) (k_ := k_)
    | with_reducible apply Sound.hbmPoi (q_ := q_) (k_ := k_)
    | with_reducible apply Sound.cxl (q_ := q_) (k_ := k_)
    | with_reducible apply Sound.cxlPoi (q_ := q_) (k_ := k_)
    | with_reducible apply Sound.csr (q_ := q_) (k_ := k_)
    | with_reducible apply Sound.cores (q_ := q_) (k_ := k_)
    | with_reducible apply Sound.plots (q_ := q_) (k_ := k_)
    | with_reducible apply Sound.funs (q_ := q_) (k_ := k_)
    | with_reducible apply Sound.yports (q_ := q_) (k_ := k_)
    | with_reducible apply Sound.slices (q_ := q_) (k_ := k_)
    | (simp only [Sound.lit]; refine ⟨?_, ?_, ?_, ?_, ?_, ?_, ?_, ?_, ?_, ?_, ?_, ?_⟩))

theorem endMove_sound (m : Move) (s : State) (hs_ : Sound q_ k_ s) :
    Sound q_ k_ (endMove m s) := by
  unfold endMove
  try dsimp only
  repeat' (first
    | with_reducible assumption
    | with_reducible apply setMove_sound
    | with_reducible apply resumeWork_sound
    | with_reducible apply copyPlots_sound
    | with_reducible apply wrapCsrFld_sound
    | with_reducible apply setStw_sound
    | with_reducible apply refreshReserve_sound
    | with_reducible apply Sound.ite
    | with_reducible apply Sound.foldl
    | with_reducible apply Sound.foldl_fst
    | intro _
    | split
    | (simp only [Sound.lit]; with_reducible apply Sound.parts))

theorem plotMove_sound (s : State) (hs_ : Sound q_ k_ s) :
    Sound q_ k_ (plotMove s) := by
  unfold plotMove
  try dsimp only
  repeat' (first
    | with_reducible assumption
    | with_reducible apply setMove_sound
    | with_reducible apply routingPlanned_sound
    | with_reducible apply endMove_sound
    | with_reducible apply Sound.ite
    | with_reducible apply Sound.foldl
    | with_reducible apply Sound.foldl_fst
    | intro _
    | split
    | (simp only [Sound.lit]; with_reducible apply Sound.parts))

theorem moveDrainTimeout_sound (s : State) (hs_ : Sound q_ k_ s) :
    Sound q_ k_ (moveDrainTimeout s) := by
  unfold moveDrainTimeout
  try dsimp only
  repeat' (first
    | with_reducible assumption
    | with_reducible apply satCsrFld_sound
    | with_reducible apply setMove_sound
    | with_reducible apply resumeWork_sound
    | with_reducible apply startRecovery_sound
    | with_reducible apply drainPart_sound
    | with_reducible apply Sound.ite
    | with_reducible apply Sound.foldl
    | with_reducible apply Sound.foldl_fst
    | intro _
    | split
    | (simp only [Sound.lit]; with_reducible apply Sound.parts))

theorem loseInRow_sound (s : State) (r : Nat) (v : RouteVer) (bare : List Nat) (hs_ : Sound q_ k_ s) :
    Sound q_ k_ (loseInRow s r v bare) := by
  unfold loseInRow
  try dsimp only
  repeat' (first
    | with_reducible assumption
    | with_reducible apply startRecovery_sound
    | with_reducible apply startMove_sound
    | with_reducible apply Sound.ite
    | with_reducible apply Sound.foldl
    | with_reducible apply Sound.foldl_fst
    | intro _
    | split
    | (simp only [Sound.lit]; with_reducible apply Sound.parts))

theorem retireRow_sound (s : State) (r : Nat) (t : Nat) (v : RouteVer) (bare : List Nat) (hs_ : Sound q_ k_ s) :
    Sound q_ k_ (retireRow s r t v bare) := by
  unfold retireRow
  try dsimp only
  repeat' (first
    | with_reducible assumption
    | with_reducible apply startMove_sound
    | with_reducible apply addRepair_sound
    | with_reducible apply Sound.ite
    | with_reducible apply Sound.foldl
    | with_reducible apply Sound.foldl_fst
    | intro _
    | split
    | (simp only [Sound.lit]; with_reducible apply Sound.parts))

theorem loseRow_sound (s : State) (r : Nat) (hs_ : Sound q_ k_ s) :
    Sound q_ k_ (loseRow s r) := by
  unfold loseRow
  try dsimp only
  repeat' (first
    | with_reducible assumption
    | with_reducible apply startRecovery_sound
    | with_reducible apply setStw_sound
    | with_reducible apply refreshReserve_sound
    | with_reducible apply addRepair_sound
    | with_reducible apply Sound.ite
    | with_reducible apply Sound.foldl
    | with_reducible apply Sound.foldl_fst
    | intro _
    | split
    | (simp only [Sound.lit]; with_reducible apply Sound.parts))

theorem retireOrLose_sound (s : State) (r : Nat) (v : RouteVer) (bare : List Nat) (hs_ : Sound q_ k_ s) :
    Sound q_ k_ (retireOrLose s r v bare) := by
  unfold retireOrLose
  try dsimp only
  repeat' (first
    | with_reducible assumption
    | with_reducible apply retireRow_sound
    | with_reducible apply loseRow_sound
    | with_reducible apply Sound.ite
    | with_reducible apply Sound.foldl
    | with_reducible apply Sound.foldl_fst
    | intro _
    | split
    | (simp only [Sound.lit]; with_reducible apply Sound.parts))

theorem placeFailed_sound (s : State) (j : Nat) (v : RouteVer) (hs_ : Sound q_ k_ s) :
    Sound q_ k_ (placeFailed s j v) := by
  unfold placeFailed
  try dsimp only
  repeat' (first
    | with_reducible assumption
    | with_reducible apply retireOrLose_sound
    | with_reducible apply startMove_sound
    | with_reducible apply retireRow_sound
    | with_reducible apply loseInRow_sound
    | with_reducible apply Sound.ite
    | with_reducible apply Sound.foldl
    | with_reducible apply Sound.foldl_fst
    | intro _
    | split
    | (simp only [Sound.lit]; with_reducible apply Sound.parts))

theorem rePlacement_sound (dead : Bool) (v : RouteVer) (s : State) (hs_ : Sound q_ k_ s) :
    Sound q_ k_ (rePlacement dead v s) := by
  unfold rePlacement
  try dsimp only
  repeat' (first
    | with_reducible assumption
    | with_reducible apply retireOrLose_sound
    | with_reducible apply placeFailed_sound
    | with_reducible apply routingAbrupt_sound
    | with_reducible apply Sound.ite
    | with_reducible apply Sound.foldl
    | with_reducible apply Sound.foldl_fst
    | intro _
    | split
    | (simp only [Sound.lit]; with_reducible apply Sound.parts))

theorem idleFails_sound (s : State) (bad : List (Nat × Nat)) (hs_ : Sound q_ k_ s) :
    Sound q_ k_ (idleFails s bad) := by
  unfold idleFails
  try dsimp only
  repeat' (first
    | with_reducible assumption
    | with_reducible apply recordFailed_sound
    | with_reducible apply setTestFail_sound
    | with_reducible apply Sound.ite
    | with_reducible apply Sound.foldl
    | with_reducible apply Sound.foldl_fst
    | intro _
    | split
    | (simp only [Sound.lit]; with_reducible apply Sound.parts))

theorem idleDefects_sound (s : State) (l : List Defect) (hs_ : Sound q_ k_ s) :
    Sound q_ k_ (idleDefects s l) := by
  unfold idleDefects
  try dsimp only
  repeat' (first
    | with_reducible assumption
    | with_reducible apply repairAll_sound
    | with_reducible apply Sound.ite
    | with_reducible apply Sound.foldl
    | with_reducible apply Sound.foldl_fst
    | intro _
    | split
    | (simp only [Sound.lit]; with_reducible apply Sound.parts))

theorem rotationStep_sound (bad : List (Nat × Nat)) (defects : List Defect) (v : RouteVer) (s : State) (hs_ : Sound q_ k_ s) :
    Sound q_ k_ (rotationStep bad defects v s) := by
  unfold rotationStep
  try dsimp only
  repeat' (first
    | with_reducible assumption
    | with_reducible apply refreshReserve_sound
    | with_reducible apply idleFails_sound
    | with_reducible apply idleDefects_sound
    | with_reducible apply setStw_sound
    | with_reducible apply setCsrFld_sound
    | with_reducible apply retireRow_sound
    | with_reducible apply startMove_sound
    | with_reducible apply Sound.ite
    | with_reducible apply Sound.foldl
    | with_reducible apply Sound.foldl_fst
    | intro _
    | split
    | (simp only [Sound.lit]; with_reducible apply Sound.parts))

theorem idleCheck_sound (l : IdleLink) (sb : Fetch) (s : State) (hs_ : Sound q_ k_ s) :
    Sound q_ k_ (idleCheck l sb s) := by
  unfold idleCheck
  try dsimp only
  repeat' (first
    | with_reducible assumption
    | with_reducible apply updCore_sound
    | with_reducible apply furrowFail_sound
    | with_reducible apply routeCount_sound
    | with_reducible apply note_sound
    | with_reducible apply updPlot_sound
    | with_reducible apply hdrDrop_sound
    | with_reducible apply Sound.ite
    | with_reducible apply Sound.foldl
    | with_reducible apply Sound.foldl_fst
    | intro _
    | split
    | (simp only [Sound.lit]; with_reducible apply Sound.parts))

theorem pairFails_sound (s : State) (n : Nat) (c : Nat) (d : Nat) (hi : Nat) (l : List PairPkt) (bad : List (Nat × Nat)) (hs_ : Sound q_ k_ s) :
    Sound q_ k_ (pairFails s n c d hi l bad) := by
  unfold pairFails
  try dsimp only
  repeat' (first
    | with_reducible assumption
    | with_reducible apply satCsrFld_sound
    | with_reducible apply startRecovery_sound
    | with_reducible apply setTestFail_sound
    | with_reducible apply testedFailed_sound
    | with_reducible apply Sound.ite
    | with_reducible apply Sound.foldl
    | with_reducible apply Sound.foldl_fst
    | intro _
    | split
    | (simp only [Sound.lit]; with_reducible apply Sound.parts))

theorem pairCompare_sound (c : Nat) (bad : List (Nat × Nat)) (s : State) (hs_ : Sound q_ k_ s) :
    Sound q_ k_ (pairCompare c bad s) := by
  unfold pairCompare
  try dsimp only
  repeat' (first
    | with_reducible assumption
    | with_reducible apply injectAt_sound
    | with_reducible apply pairFails_sound
    | with_reducible apply Sound.ite
    | with_reducible apply Sound.foldl
    | with_reducible apply Sound.foldl_fst
    | intro _
    | split
    | (simp only [Sound.lit]; with_reducible apply Sound.parts))

theorem pairTimeout_sound (c : Nat) (bad : List (Nat × Nat)) (s : State) (hs_ : Sound q_ k_ s) :
    Sound q_ k_ (pairTimeout c bad s) := by
  unfold pairTimeout
  try dsimp only
  repeat' (first
    | with_reducible assumption
    | with_reducible apply pairFails_sound
    | with_reducible apply Sound.ite
    | with_reducible apply Sound.foldl
    | with_reducible apply Sound.foldl_fst
    | intro _
    | split
    | (simp only [Sound.lit]; with_reducible apply Sound.parts))

theorem digestStart_sound (n : Nat) (r : Nat) (s : State) (hs_ : Sound q_ k_ s) :
    Sound q_ k_ (digestStart n r s) := by
  unfold digestStart
  try dsimp only
  repeat' (first
    | with_reducible assumption
    | with_reducible apply setCsrFld_sound
    | with_reducible apply Sound.ite
    | with_reducible apply Sound.foldl
    | with_reducible apply Sound.foldl_fst
    | intro _
    | split
    | (simp only [Sound.lit]; with_reducible apply Sound.parts))

theorem digestComplete_sound (n : Nat) (r : Nat) (s : State) (hs_ : Sound q_ k_ s) :
    Sound q_ k_ (digestComplete n r s) := by
  unfold digestComplete
  try dsimp only
  repeat' (first
    | with_reducible assumption
    | with_reducible apply memReadBytes_sound
    | with_reducible apply csrSet_sound
    | with_reducible apply Sound.ite
    | with_reducible apply Sound.foldl
    | with_reducible apply Sound.foldl_fst
    | intro _
    | split
    | (simp only [Sound.lit]; with_reducible apply Sound.parts))

theorem wearMeasure_sound (q : Nat) (margin : BitVec 16) (trend : BitVec 16) (eol : BitVec 16) (v : RouteVer) (s : State) (hs_ : Sound q_ k_ s) :
    Sound q_ k_ (wearMeasure q margin trend eol v s) := by
  unfold wearMeasure
  try dsimp only
  repeat' (first
    | with_reducible assumption
    | with_reducible apply csrSet_sound
    | with_reducible apply loseField_sound
    | with_reducible apply setCsrFld_sound
    | with_reducible apply addRepair_sound
    | with_reducible apply logEvent_sound
    | with_reducible apply lowerSets_sound
    | with_reducible apply refreshLimits_sound
    | with_reducible apply Sound.ite
    | with_reducible apply Sound.foldl
    | with_reducible apply Sound.foldl_fst
    | intro _
    | split
    | (simp only [Sound.lit]; with_reducible apply Sound.parts))

end Sys2Proof.Machine
end

