-- ==== Sys2Proof/Laws/KeepsSecurity.lean ====
section
/-! SUPPORT. What every operation of Machine/Security.lean keeps (Laws/Sound.lean). -/

namespace Sys2Proof.Machine

variable {q_ : List Instr} {k_ : Nat}

theorem setSec_sound (s : State) (f : Sec → Sec) (hs_ : Sound q_ k_ s) :
    Sound q_ k_ (setSec s f) := by
  unfold setSec
  try dsimp only
  repeat' (first
    | with_reducible assumption
    | with_reducible apply Sound.ite
    | with_reducible apply Sound.foldl
    | with_reducible apply Sound.foldl_fst
    | intro _
    | split
    | (simp only [Sound.lit]; with_reducible apply Sound.parts))

theorem setBoot_sound (s : State) (b : Option BootFetch) (hs_ : Sound q_ k_ s) :
    Sound q_ k_ (setBoot s b) := by
  unfold setBoot
  try dsimp only
  repeat' (first
    | with_reducible assumption
    | with_reducible apply setSec_sound
    | with_reducible apply Sound.ite
    | with_reducible apply Sound.foldl
    | with_reducible apply Sound.foldl_fst
    | intro _
    | split
    | (simp only [Sound.lit]; with_reducible apply Sound.parts))

theorem askService_sound (s : State) (hs_ : Sound q_ k_ s) :
    Sound q_ k_ (askService s) := by
  unfold askService
  try dsimp only
  repeat' (first
    | with_reducible assumption
    | with_reducible apply setPins_sound
    | with_reducible apply setBoot_sound
    | with_reducible apply sbReply_sound
    | with_reducible apply Sound.ite
    | with_reducible apply Sound.foldl
    | with_reducible apply Sound.foldl_fst
    | intro _
    | split
    | (simp only [Sound.lit]; with_reducible apply Sound.parts))

theorem attemptEnds_sound (s : State) (b : BootFetch) (hs_ : Sound q_ k_ s) :
    Sound q_ k_ (attemptEnds s b) := by
  unfold attemptEnds
  try dsimp only
  repeat' (first
    | with_reducible assumption
    | with_reducible apply logEvent_sound
    | with_reducible apply setBoot_sound
    | with_reducible apply Sound.ite
    | with_reducible apply Sound.foldl
    | with_reducible apply Sound.foldl_fst
    | intro _
    | split
    | (simp only [Sound.lit]; with_reducible apply Sound.parts))

theorem fetchPump_sound (k : Nat) (s : State) (b : BootFetch) (h : Sound q_ k_ s) :
    Sound q_ k_ (fetchPump k s b).1 := by
  induction k generalizing s b with
  | zero => simp only [fetchPump]; assumption
  | succ f_ ih =>
    simp only [fetchPump]
    repeat' (first
      | with_reducible assumption
      | with_reducible apply ih
      | with_reducible apply emit_sound
      | with_reducible apply bootFetch_sound
      | with_reducible apply Sound.ite
      | with_reducible apply Sound.foldl
      | with_reducible apply Sound.foldl_fst
      | intro _
      | split
      | (simp only [Sound.lit]; with_reducible apply Sound.parts))

theorem bootFetch_sound (s : State) (hs_ : Sound q_ k_ s) :
    Sound q_ k_ (bootFetch s) := by
  unfold bootFetch
  try dsimp only
  repeat' (first
    | with_reducible assumption
    | with_reducible apply askService_sound
    | with_reducible apply setBoot_sound
    | with_reducible apply setSec_sound
    | with_reducible apply attemptEnds_sound
    | with_reducible apply Sound.ite
    | with_reducible apply Sound.foldl
    | with_reducible apply Sound.foldl_fst
    | intro _
    | split
    | (simp only [Sound.lit]; with_reducible apply Sound.parts))

theorem bootService_sound (r : List Byte) (s : State) (hs_ : Sound q_ k_ s) :
    Sound q_ k_ (bootService r s) := by
  unfold bootService
  try dsimp only
  repeat' (first
    | with_reducible assumption
    | with_reducible apply setPins_sound
    | with_reducible apply attemptEnds_sound
    | with_reducible apply fetchPump_sound
    | with_reducible apply setBoot_sound
    | with_reducible apply Sound.ite
    | with_reducible apply Sound.foldl
    | with_reducible apply Sound.foldl_fst
    | intro _
    | split
    | (simp only [Sound.lit]; with_reducible apply Sound.parts))

theorem fetchData_sound (offset : Nat) (units : Nat) (nonce : Word) (data : List Byte) (s : State) (hs_ : Sound q_ k_ s) :
    Sound q_ k_ (fetchData offset units nonce data s) := by
  unfold fetchData
  try dsimp only
  repeat' (first
    | with_reducible assumption
    | with_reducible apply setSec_sound
    | with_reducible apply fetchPump_sound
    | with_reducible apply setBoot_sound
    | with_reducible apply Sound.ite
    | with_reducible apply Sound.foldl
    | with_reducible apply Sound.foldl_fst
    | intro _
    | split
    | (simp only [Sound.lit]; with_reducible apply Sound.parts))

theorem fetchError_sound (offset : Nat) (len : Nat) (nonce : Word) (s : State) (hs_ : Sound q_ k_ s) :
    Sound q_ k_ (fetchError offset len nonce s) := by
  unfold fetchError
  try dsimp only
  repeat' (first
    | with_reducible assumption
    | with_reducible apply attemptEnds_sound
    | with_reducible apply Sound.ite
    | with_reducible apply Sound.foldl
    | with_reducible apply Sound.foldl_fst
    | intro _
    | split
    | (simp only [Sound.lit]; with_reducible apply Sound.parts))

theorem fetchResend_sound (offset : Nat) (s : State) (hs_ : Sound q_ k_ s) :
    Sound q_ k_ (fetchResend offset s) := by
  unfold fetchResend
  try dsimp only
  repeat' (first
    | with_reducible assumption
    | with_reducible apply setBoot_sound
    | with_reducible apply emit_sound
    | with_reducible apply bootFetch_sound
    | with_reducible apply Sound.ite
    | with_reducible apply Sound.foldl
    | with_reducible apply Sound.foldl_fst
    | intro _
    | split
    | (simp only [Sound.lit]; with_reducible apply Sound.parts))

theorem fetchTimeout_sound (s : State) (hs_ : Sound q_ k_ s) :
    Sound q_ k_ (fetchTimeout s) := by
  unfold fetchTimeout
  try dsimp only
  repeat' (first
    | with_reducible assumption
    | with_reducible apply attemptEnds_sound
    | with_reducible apply Sound.ite
    | with_reducible apply Sound.foldl
    | with_reducible apply Sound.foldl_fst
    | intro _
    | split
    | (simp only [Sound.lit]; with_reducible apply Sound.parts))

theorem fwState_sound (s : State) (st : Nat) (err : Nat) (hs_ : Sound q_ k_ s) :
    Sound q_ k_ (fwState s st err) := by
  unfold fwState
  try dsimp only
  repeat' (first
    | with_reducible assumption
    | with_reducible apply setCsrFld_sound
    | with_reducible apply Sound.ite
    | with_reducible apply Sound.foldl
    | with_reducible apply Sound.foldl_fst
    | intro _
    | split
    | (simp only [Sound.lit]; with_reducible apply Sound.parts))

theorem newImage_sound (s : State) (hs_ : Sound q_ k_ s) :
    Sound q_ k_ (newImage s).1 := by
  unfold newImage
  try dsimp only
  repeat' (first
    | with_reducible assumption
    | with_reducible apply memReadBytes_sound
    | with_reducible apply Sound.ite
    | with_reducible apply Sound.foldl
    | with_reducible apply Sound.foldl_fst
    | intro _
    | split
    | (simp only [Sound.lit]; with_reducible apply Sound.parts))

theorem firmwareUpdate_sound (x : FwStep) (s : State) (hs_ : Sound q_ k_ s) :
    Sound q_ k_ (firmwareUpdate x s) := by
  unfold firmwareUpdate
  try dsimp only
  repeat' (first
    | with_reducible assumption
    | with_reducible apply fwState_sound
    | with_reducible apply setSec_sound
    | with_reducible apply newImage_sound
    | with_reducible apply satCsrFld_sound
    | with_reducible apply Sound.ite
    | with_reducible apply Sound.foldl
    | with_reducible apply Sound.foldl_fst
    | intro _
    | split
    | (simp only [Sound.lit]; with_reducible apply Sound.parts))

theorem commitSvn_sound (who : Who) (s : State) (hs_ : Sound q_ k_ s) :
    Sound q_ k_ (commitSvn who s) := by
  unfold commitSvn
  try dsimp only
  repeat' (first
    | with_reducible assumption
    | with_reducible apply setCsrFld_sound
    | with_reducible apply setSec_sound
    | with_reducible apply Sound.ite
    | with_reducible apply Sound.foldl
    | with_reducible apply Sound.foldl_fst
    | intro _
    | split
    | (simp only [Sound.lit]; with_reducible apply Sound.parts))

theorem setLms_sound (s : State) (t : Nat) (b : Nat) (l : Nat) (hs_ : Sound q_ k_ s) :
    Sound q_ k_ (setLms s t b l) := by
  unfold setLms
  try dsimp only
  repeat' (first
    | with_reducible assumption
    | with_reducible apply setCsrFld_sound
    | with_reducible apply Sound.ite
    | with_reducible apply Sound.foldl
    | with_reducible apply Sound.foldl_fst
    | intro _
    | split
    | (simp only [Sound.lit]; with_reducible apply Sound.parts))

theorem lmsStop_sound (s : State) (bitNo : Nat) (hs_ : Sound q_ k_ s) :
    Sound q_ k_ (lmsStop s bitNo) := by
  unfold lmsStop
  try dsimp only
  repeat' (first
    | with_reducible assumption
    | with_reducible apply setCsrFld_sound
    | with_reducible apply Sound.ite
    | with_reducible apply Sound.foldl
    | with_reducible apply Sound.foldl_fst
    | intro _
    | split
    | (simp only [Sound.lit]; with_reducible apply Sound.parts))

theorem useLeaf_sound {s : State} {x0_ : State} {x1_ : Nat} (e_ : useLeaf s = some (x0_, x1_)) (hs_ : Sound q_ k_ s) :
    Sound q_ k_ x0_ := by
  unfold useLeaf at e_
  try dsimp only at e_
  repeat' (first
    | with_reducible assumption
    | with_reducible apply setLms_sound
    | with_reducible apply setCsrFld_sound
    | with_reducible apply lmsStop_sound
    | with_reducible apply Sound.ite
    | with_reducible apply Sound.foldl
    | with_reducible apply Sound.foldl_fst
    | intro _
    | (simp only [Option.map_eq_some_iff] at e_; obtain ⟨_, _, e_⟩ := e_; subst e_)
    | split at e_
    | (cases e_; done)
    | (injection e_ with e_; subst e_)
    | (injection e_ with e_; injection e_ with e_; subst e_)
    | split
    | (simp only [Sound.lit]; with_reducible apply Sound.parts))

theorem lmsReserve_sound (back : List Byte) (s : State) (hs_ : Sound q_ k_ s) :
    Sound q_ k_ (lmsReserve back s) := by
  unfold lmsReserve
  try dsimp only
  repeat' (first
    | with_reducible assumption
    | with_reducible apply setCsrFld_sound
    | with_reducible apply setSec_sound
    | with_reducible apply satCsrFld_sound
    | with_reducible apply lmsStop_sound
    | with_reducible apply Sound.ite
    | with_reducible apply Sound.foldl
    | with_reducible apply Sound.foldl_fst
    | intro _
    | split
    | (simp only [Sound.lit]; with_reducible apply Sound.parts))

theorem nextTree_sound (s : State) (hs_ : Sound q_ k_ s) :
    Sound q_ k_ (nextTree s) := by
  unfold nextTree
  try dsimp only
  repeat' (first
    | with_reducible assumption
    | with_reducible apply setCsrFld_sound
    | with_reducible apply Sound.ite
    | with_reducible apply Sound.foldl
    | with_reducible apply Sound.foldl_fst
    | intro _
    | split
    | (simp only [Sound.lit]; with_reducible apply Sound.parts))

theorem lmsResume_sound (s : State) (hs_ : Sound q_ k_ s) :
    Sound q_ k_ (lmsResume s) := by
  unfold lmsResume
  try dsimp only
  repeat' (first
    | with_reducible assumption
    | with_reducible apply csrSet_sound
    | with_reducible apply setLms_sound
    | with_reducible apply lmsStop_sound
    | with_reducible apply Sound.ite
    | with_reducible apply Sound.foldl
    | with_reducible apply Sound.foldl_fst
    | intro _
    | split
    | (simp only [Sound.lit]; with_reducible apply Sound.parts))

theorem spdmSend_sound (s : State) (x : SpdmFrom) (seq : Nat) (r : SpdmResp) (half : Option Nat) (hs_ : Sound q_ k_ s) :
    Sound q_ k_ (spdmSend s x seq r half) := by
  unfold spdmSend
  try dsimp only
  repeat' (first
    | with_reducible assumption
    | with_reducible apply emit_sound
    | with_reducible apply setSec_sound
    | with_reducible apply Sound.ite
    | with_reducible apply Sound.foldl
    | with_reducible apply Sound.foldl_fst
    | intro _
    | split
    | (simp only [Sound.lit]; with_reducible apply Sound.parts))

theorem spdmAnswer_sound (x : SpdmFrom) (seq : Nat) (go : State → Option Nat → State × SpdmResp × Option Nat) (s : State) (hs_ : Sound q_ k_ s) (h_go : ∀ x0 x1, Sound q_ k_ x0 → Sound q_ k_ (go x0 x1).1) :
    Sound q_ k_ (spdmAnswer x seq go s) := by
  unfold spdmAnswer
  try dsimp only
  repeat' (first
    | with_reducible assumption
    | with_reducible apply spdmSend_sound
    | with_reducible apply emit_sound
    | with_reducible apply h_go
    | with_reducible apply Sound.ite
    | with_reducible apply Sound.foldl
    | with_reducible apply Sound.foldl_fst
    | intro _
    | split
    | (simp only [Sound.lit]; with_reducible apply Sound.parts))

theorem plainResp_sound (r : SpdmResp) (s : State) (half : Option Nat) (hs_ : Sound q_ k_ s) :
    Sound q_ k_ (plainResp r s half).1 := by
  unfold plainResp
  try dsimp only
  repeat' (first
    | with_reducible assumption
    | with_reducible apply Sound.ite
    | with_reducible apply Sound.foldl
    | with_reducible apply Sound.foldl_fst
    | intro _
    | split
    | (simp only [Sound.lit]; with_reducible apply Sound.parts))

theorem signedResp_sound (x : SpdmFrom) (mk : Nat → Nat → SpdmResp) (s : State) (half : Option Nat) (hs_ : Sound q_ k_ s) :
    Sound q_ k_ (signedResp x mk s half).1 := by
  unfold signedResp
  try dsimp only
  repeat' (first
    | with_reducible assumption
    | refine useLeaf_sound (by with_reducible assumption) ?_
    | with_reducible apply setSec_sound
    | with_reducible apply Sound.ite
    | with_reducible apply Sound.foldl
    | with_reducible apply Sound.foldl_fst
    | intro _
    | split
    | (simp only [Sound.lit]; with_reducible apply Sound.parts))

theorem getCertificate_sound (x : SpdmFrom) (seq : Nat) (s : State) (hs_ : Sound q_ k_ s) :
    Sound q_ k_ (getCertificate x seq s) := by
  unfold getCertificate
  try dsimp only
  repeat' (first
    | with_reducible assumption
    | with_reducible apply spdmAnswer_sound
    | with_reducible apply plainResp_sound
    | with_reducible apply Sound.ite
    | with_reducible apply Sound.foldl
    | with_reducible apply Sound.foldl_fst
    | intro _
    | split
    | (simp only [Sound.lit]; with_reducible apply Sound.parts))

theorem hssHalf_sound (x : SpdmFrom) (seq : Nat) (s : State) (hs_ : Sound q_ k_ s) :
    Sound q_ k_ (hssHalf x seq s) := by
  unfold hssHalf
  try dsimp only
  repeat' (first
    | with_reducible assumption
    | with_reducible apply spdmAnswer_sound
    | with_reducible apply plainResp_sound
    | with_reducible apply Sound.ite
    | with_reducible apply Sound.foldl
    | with_reducible apply Sound.foldl_fst
    | intro _
    | split
    | (simp only [Sound.lit]; with_reducible apply Sound.parts))

theorem debugChallenge_sound (sb : Option Nat) (s : State) (hs_ : Sound q_ k_ s) :
    Sound q_ k_ (debugChallenge sb s) := by
  unfold debugChallenge
  try dsimp only
  repeat' (first
    | with_reducible assumption
    | with_reducible apply setSec_sound
    | with_reducible apply sbReply_sound
    | with_reducible apply emit_sound
    | with_reducible apply Sound.ite
    | with_reducible apply Sound.foldl
    | with_reducible apply Sound.foldl_fst
    | intro _
    | split
    | (simp only [Sound.lit]; with_reducible apply Sound.parts))

theorem nonceExpire_sound (s : State) (hs_ : Sound q_ k_ s) :
    Sound q_ k_ (nonceExpire s) := by
  unfold nonceExpire
  try dsimp only
  repeat' (first
    | with_reducible assumption
    | with_reducible apply setSec_sound
    | with_reducible apply Sound.ite
    | with_reducible apply Sound.foldl
    | with_reducible apply Sound.foldl_fst
    | intro _
    | split
    | (simp only [Sound.lit]; with_reducible apply Sound.parts))

theorem tokenFails_sound (s : State) (hs_ : Sound q_ k_ s) :
    Sound q_ k_ (tokenFails s) := by
  unfold tokenFails
  try dsimp only
  repeat' (first
    | with_reducible assumption
    | with_reducible apply satCsrFld_sound
    | with_reducible apply setCsrFld_sound
    | with_reducible apply Sound.ite
    | with_reducible apply Sound.foldl
    | with_reducible apply Sound.foldl_fst
    | intro _
    | split
    | (simp only [Sound.lit]; with_reducible apply Sound.parts))

theorem spendNonce_sound (s : State) (hs_ : Sound q_ k_ s) :
    Sound q_ k_ (spendNonce s) := by
  unfold spendNonce
  try dsimp only
  repeat' (first
    | with_reducible assumption
    | with_reducible apply setSec_sound
    | with_reducible apply Sound.ite
    | with_reducible apply Sound.foldl
    | with_reducible apply Sound.foldl_fst
    | intro _
    | split
    | (simp only [Sound.lit]; with_reducible apply Sound.parts))

theorem raiseDebug_sound (s : State) (l : Nat) (hs_ : Sound q_ k_ s) :
    Sound q_ k_ (raiseDebug s l) := by
  unfold raiseDebug
  try dsimp only
  repeat' (first
    | with_reducible assumption
    | with_reducible apply setCsrFld_sound
    | with_reducible apply setSec_sound
    | with_reducible apply Sound.ite
    | with_reducible apply Sound.foldl
    | with_reducible apply Sound.foldl_fst
    | intro _
    | split
    | (simp only [Sound.lit]; with_reducible apply Sound.parts))

theorem tokenReply_sound (s : State) (sb : Option Nat) (ok : Bool) (hs_ : Sound q_ k_ s) :
    Sound q_ k_ (tokenReply s sb ok) := by
  unfold tokenReply
  try dsimp only
  repeat' (first
    | with_reducible assumption
    | with_reducible apply sbReply_sound
    | with_reducible apply Sound.ite
    | with_reducible apply Sound.foldl
    | with_reducible apply Sound.foldl_fst
    | intro _
    | split
    | (simp only [Sound.lit]; with_reducible apply Sound.parts))

theorem debugToken_sound (sb : Option Nat) (b : List Byte) (s : State) (hs_ : Sound q_ k_ s) :
    Sound q_ k_ (debugToken sb b s) := by
  unfold debugToken
  try dsimp only
  repeat' (first
    | with_reducible assumption
    | with_reducible apply tokenReply_sound
    | with_reducible apply raiseDebug_sound
    | with_reducible apply spendNonce_sound
    | with_reducible apply tokenFails_sound
    | with_reducible apply Sound.ite
    | with_reducible apply Sound.foldl
    | with_reducible apply Sound.foldl_fst
    | intro _
    | split
    | (simp only [Sound.lit]; with_reducible apply Sound.parts))

theorem decommission_sound (sb : Option Nat) (b : List Byte) (s : State) (hs_ : Sound q_ k_ s) :
    Sound q_ k_ (decommission sb b s) := by
  unfold decommission
  try dsimp only
  repeat' (first
    | with_reducible assumption
    | with_reducible apply setSec_sound
    | with_reducible apply spendNonce_sound
    | with_reducible apply tokenReply_sound
    | with_reducible apply setCsrFld_sound
    | with_reducible apply tokenFails_sound
    | with_reducible apply Sound.ite
    | with_reducible apply Sound.foldl
    | with_reducible apply Sound.foldl_fst
    | intro _
    | split
    | (simp only [Sound.lit]; with_reducible apply Sound.parts))

end Sys2Proof.Machine
end

