-- ==== Sys2Proof/Laws/KeepsRegStore.lean ====
section
/-! SUPPORT. What every operation of Machine/RegStore.lean keeps (Laws/Sound.lean). -/

namespace Sys2Proof.Machine

variable {q_ : List Instr} {k_ : Nat}

theorem blockRead_sound (s : State) (a : Nat) (clear : Bool) (hs_ : Sound q_ k_ s) :
    Sound q_ k_ (blockRead s a clear).1 := by
  unfold blockRead
  try dsimp only
  repeat' (first
    | with_reducible assumption
    | with_reducible apply csrSet_sound
    | with_reducible apply Sound.ite
    | with_reducible apply Sound.foldl
    | with_reducible apply Sound.foldl_fst
    | intro _
    | split
    | (simp only [Sound.lit]; with_reducible apply Sound.parts))

theorem storeReg_sound (s : State) (a : Nat) (v : Word) (hs_ : Sound q_ k_ s) :
    Sound q_ k_ (storeReg s a v) := by
  unfold storeReg
  try dsimp only
  repeat' (first
    | with_reducible assumption
    | with_reducible apply csrSet_sound
    | with_reducible apply Sound.ite
    | with_reducible apply Sound.foldl
    | with_reducible apply Sound.foldl_fst
    | intro _
    | split
    | (simp only [Sound.lit]; with_reducible apply Sound.parts))

end Sys2Proof.Machine
end

