-- ==== Sys2Proof/Laws/KeepsBringUp.lean ====
section
/-! SUPPORT. What every operation of Machine/BringUp.lean keeps (Laws/Sound.lean). -/

namespace Sys2Proof.Machine

variable {q_ : List Instr} {k_ : Nat}

theorem writePtpCfg_sound (s : State) (v : Word) (hs_ : Sound q_ k_ s) :
    Sound q_ k_ (writePtpCfg s v) := by
  unfold writePtpCfg
  try dsimp only
  repeat' (first
    | with_reducible assumption
    | with_reducible apply storeReg_sound
    | with_reducible apply setCsrFld_sound
    | with_reducible apply Sound.ite
    | with_reducible apply Sound.foldl
    | with_reducible apply Sound.foldl_fst
    | intro _
    | split
    | (simp only [Sound.lit]; with_reducible apply Sound.parts))

theorem writePair_sound (n : Nat) (s : State) (p : Word × Word) (hs_ : Sound q_ k_ s) :
    Sound q_ k_ (writePair n s p) := by
  unfold writePair
  try dsimp only
  repeat' (first
    | with_reducible assumption
    | with_reducible apply storeReg_sound
    | with_reducible apply writePtpCfg_sound
    | with_reducible apply updFun_sound
    | with_reducible apply Sound.ite
    | with_reducible apply Sound.foldl
    | with_reducible apply Sound.foldl_fst
    | intro _
    | split
    | (simp only [Sound.lit]; with_reducible apply Sound.parts))

theorem applyRecord_sound (s : State) (r : FnRecord) (hs_ : Sound q_ k_ s) :
    Sound q_ k_ (applyRecord s r) := by
  unfold applyRecord
  try dsimp only
  repeat' (first
    | with_reducible assumption
    | with_reducible apply writePair_sound
    | with_reducible apply updFun_sound
    | with_reducible apply setCsrFld_sound
    | with_reducible apply functionEnable_sound
    | with_reducible apply Sound.ite
    | with_reducible apply Sound.foldl
    | with_reducible apply Sound.foldl_fst
    | intro _
    | split
    | (simp only [Sound.lit]; with_reducible apply Sound.parts))

theorem takeRecord_sound (s : State) (r : FnRecord) (hs_ : Sound q_ k_ s) :
    Sound q_ k_ (takeRecord s r).1 := by
  unfold takeRecord
  try dsimp only
  repeat' (first
    | with_reducible assumption
    | with_reducible apply applyRecord_sound
    | with_reducible apply setStw_sound
    | with_reducible apply Sound.ite
    | with_reducible apply Sound.foldl
    | with_reducible apply Sound.foldl_fst
    | intro _
    | split
    | (simp only [Sound.lit]; with_reducible apply Sound.parts))

theorem keepRegs_wf (s : State) (l : List (Nat × Word)) : fwf csrReset (keepRegs s l) = true :=
  Sound.foldl_wf rfl (fun m _ hm => fwf_fset _ m _ _ hm)

theorem restart_sound (s : State) (csr : FMap Word) (stw : Steward) (pins : Pins) (h : Sound q_ k_ s)
    (hc : fwf csrReset csr = true) : Sound q_ k_ (restart s csr stw pins) :=
  ⟨h.pending, h.code, ⟨rfl, rfl, h.wf.cxl, h.wf.cxlPoi, hc, rfl, rfl, rfl, rfl, rfl⟩⟩

theorem powerOff_sound (s : State) (pins : Pins) (h : Sound q_ k_ s) : Sound q_ k_ (powerOff s pins) :=
  restart_sound _ _ _ _ h (keepRegs_wf _ _)

theorem keepSuspect_sound (old : State) (s : State) (n : Nat) (hs_ : Sound q_ k_ s) :
    Sound q_ k_ (keepSuspect old s n) := by
  unfold keepSuspect
  try dsimp only
  repeat' (first
    | with_reducible assumption
    | with_reducible apply csrSet_sound
    | with_reducible apply setCtxState_sound
    | with_reducible apply queueReplay_sound
    | with_reducible apply updFun_sound
    | with_reducible apply Sound.ite
    | with_reducible apply Sound.foldl
    | with_reducible apply Sound.foldl_fst
    | intro _
    | split
    | (simp only [Sound.lit]; with_reducible apply Sound.parts))

theorem warmDown_sound (s : State) (suspects : Bool) (cxlKept : Bool) (hs_ : Sound q_ k_ s) :
    Sound q_ k_ (warmDown s suspects cxlKept) := by
  unfold warmDown
  try dsimp only
  repeat' (first
    | with_reducible assumption
    | with_reducible apply restart_sound
    | with_reducible apply keepSuspect_sound
    | with_reducible apply satCsrFld_sound
    | with_reducible apply setCsrFld_sound
    | with_reducible apply Sound.ite
    | with_reducible apply Sound.foldl
    | with_reducible apply Sound.foldl_fst
    | intro _
    | split
    | (simp only [Sound.lit]; with_reducible apply Sound.parts)
    | with_reducible apply keepRegs_wf
    | with_reducible apply fwf_fset
    | with_reducible apply fwf_fupd
    | with_reducible apply wrLE_wf
    | with_reducible apply wrBytes_wf
    | with_reducible apply fwf_filter
    | with_reducible apply fwf_ferase
    | with_reducible apply fwf_nil
    | with_reducible apply Sound.foldl_wf
    | with_reducible apply Sound.ite_wf
    | with_reducible apply Sound.pending (q_ := q_) (k_ := k_)
    | with_reducible apply Sound.code (q_ := q_) (k_ := k_)
    | with_reducible apply Sound.hbm (q_ := q_) (k_ := k_)
    | with_reducible apply Sound.hbmPoi (q_ := q_) (k_ := k_)
    | with_reducible apply Sound.cxl (q_ := q_) (k_ := k_)
    | with_reducible apply Sound.cxlPoi (q_ := q_) (k_ := k_)
    | with_reducible apply Sound.csr (q_ := q_) (k_ := k_)
    | with_reducible apply Sound.cores (q_ := q_) (k_ := k_)
    | with_reducible apply Sound.plots (q_ := q_) (k_ := k_)
    | with_reducible apply Sound.funs (q_ := q_) (k_ := k_)
    | with_reducible apply Sound.yports (q_ := q_) (k_ := k_)
    | with_reducible apply Sound.slices (q_ := q_) (k_ := k_)
    | (simp only [Sound.lit]; refine ⟨?_, ?_, ?_, ?_, ?_, ?_, ?_, ?_, ?_, ?_, ?_, ?_⟩))

theorem setStart_sound (s : State) (x : Option Start) (hs_ : Sound q_ k_ s) :
    Sound q_ k_ (setStart s x) := by
  unfold setStart
  try dsimp only
  repeat' (first
    | with_reducible assumption
    | with_reducible apply setStw_sound
    | with_reducible apply Sound.ite
    | with_reducible apply Sound.foldl
    | with_reducible apply Sound.foldl_fst
    | intro _
    | split
    | (simp only [Sound.lit]; with_reducible apply Sound.parts))

theorem toStep_sound (s : State) (k : Nat) (hs_ : Sound q_ k_ s) :
    Sound q_ k_ (toStep s k) := by
  unfold toStep
  try dsimp only
  repeat' (first
    | with_reducible assumption
    | with_reducible apply setStart_sound
    | with_reducible apply Sound.ite
    | with_reducible apply Sound.foldl
    | with_reducible apply Sound.foldl_fst
    | intro _
    | split
    | (simp only [Sound.lit]; with_reducible apply Sound.parts))

theorem beginStart_sound (s : State) (warm : Bool) (hs_ : Sound q_ k_ s) :
    Sound q_ k_ (beginStart s warm) := by
  unfold beginStart
  try dsimp only
  repeat' (first
    | with_reducible assumption
    | with_reducible apply setStw_sound
    | with_reducible apply setPins_sound
    | with_reducible apply wrapCsrFld_sound
    | with_reducible apply setCsrFld_sound
    | with_reducible apply setStart_sound
    | with_reducible apply Sound.ite
    | with_reducible apply Sound.foldl
    | with_reducible apply Sound.foldl_fst
    | intro _
    | split
    | (simp only [Sound.lit]; with_reducible apply Sound.parts))

theorem onlyD29_sound (s : State) (host : Bool) (hs_ : Sound q_ k_ s) :
    Sound q_ k_ (onlyD29 s host) := by
  unfold onlyD29
  try dsimp only
  repeat' (first
    | with_reducible assumption
    | with_reducible apply setOn_sound
    | with_reducible apply deviceDown_sound
    | with_reducible apply Sound.ite
    | with_reducible apply Sound.foldl
    | with_reducible apply Sound.foldl_fst
    | intro _
    | split
    | (simp only [Sound.lit]; with_reducible apply Sound.parts))

theorem serviceAdmin_sound (s : State) (hs_ : Sound q_ k_ s) :
    Sound q_ k_ (serviceAdmin s) := by
  unfold serviceAdmin
  try dsimp only
  repeat' (first
    | with_reducible assumption
    | with_reducible apply writePair_sound
    | with_reducible apply setCsrFld_sound
    | with_reducible apply Sound.ite
    | with_reducible apply Sound.foldl
    | with_reducible apply Sound.foldl_fst
    | intro _
    | split
    | (simp only [Sound.lit]; with_reducible apply Sound.parts))

theorem startFails_sound (s : State) (hs_ : Sound q_ k_ s) :
    Sound q_ k_ (startFails s) := by
  unfold startFails
  try dsimp only
  repeat' (first
    | with_reducible assumption
    | with_reducible apply setStw_sound
    | with_reducible apply setStart_sound
    | with_reducible apply setCsrFld_sound
    | with_reducible apply logEvent_sound
    | with_reducible apply serviceAdmin_sound
    | with_reducible apply onlyD29_sound
    | with_reducible apply Sound.ite
    | with_reducible apply Sound.foldl
    | with_reducible apply Sound.foldl_fst
    | intro _
    | split
    | (simp only [Sound.lit]; with_reducible apply Sound.parts))

theorem recordRows_sound (s : State) (l : List Word) (hs_ : Sound q_ k_ s) :
    Sound q_ k_ (recordRows s l) := by
  unfold recordRows
  try dsimp only
  repeat' (first
    | with_reducible assumption
    | with_reducible apply addRepair_sound
    | with_reducible apply Sound.ite
    | with_reducible apply Sound.foldl
    | with_reducible apply Sound.foldl_fst
    | intro _
    | split
    | (simp only [Sound.lit]; with_reducible apply Sound.parts))

theorem firmwareRuns_sound (s : State) (prof : List (List Byte)) (dbg : List (List Byte)) (hs_ : Sound q_ k_ s) :
    Sound q_ k_ (firmwareRuns s prof dbg) := by
  unfold firmwareRuns
  try dsimp only
  repeat' (first
    | with_reducible assumption
    | with_reducible apply setSec_sound
    | with_reducible apply csrSet_sound
    | with_reducible apply toStep_sound
    | with_reducible apply lmsResume_sound
    | with_reducible apply Sound.ite
    | with_reducible apply Sound.foldl
    | with_reducible apply Sound.foldl_fst
    | intro _
    | split
    | (simp only [Sound.lit]; with_reducible apply Sound.parts))

theorem recordsRead_sound (s : State) (hs_ : Sound q_ k_ s) :
    Sound q_ k_ (recordsRead s) := by
  unfold recordsRead
  try dsimp only
  repeat' (first
    | with_reducible assumption
    | with_reducible apply satCsrFld_sound
    | with_reducible apply setStw_sound
    | with_reducible apply applyProfile_sound
    | with_reducible apply setCsrFld_sound
    | with_reducible apply toStep_sound
    | with_reducible apply setOn_sound
    | with_reducible apply Sound.ite
    | with_reducible apply Sound.foldl
    | with_reducible apply Sound.foldl_fst
    | intro _
    | split
    | (simp only [Sound.lit]; with_reducible apply Sound.parts))

theorem arranged_sound (s : State) (v : RouteVer) (hs_ : Sound q_ k_ s) :
    Sound q_ k_ (arranged s v) := by
  unfold arranged
  try dsimp only
  repeat' (first
    | with_reducible assumption
    | with_reducible apply rearrange_sound
    | with_reducible apply Sound.ite
    | with_reducible apply Sound.foldl
    | with_reducible apply Sound.foldl_fst
    | intro _
    | split
    | (simp only [Sound.lit]; with_reducible apply Sound.parts))

theorem repairedSector_sound (s : State) (sec : Nat) (hs_ : Sound q_ k_ s) :
    Sound q_ k_ (repairedSector s sec) := by
  unfold repairedSector
  try dsimp only
  repeat' (first
    | with_reducible assumption
    | with_reducible apply sectorStore_sound
    | with_reducible apply Sound.ite
    | with_reducible apply Sound.foldl
    | with_reducible apply Sound.foldl_fst
    | intro _
    | split
    | (simp only [Sound.lit]; with_reducible apply Sound.parts))

theorem memoryTested_sound (s : State) (cold : Bool) (pages : List Nat) (hs_ : Sound q_ k_ s) :
    Sound q_ k_ (memoryTested s cold pages) := by
  unfold memoryTested
  try dsimp only
  repeat' (first
    | with_reducible assumption
    | with_reducible apply repairedSector_sound
    | with_reducible apply setStw_sound
    | with_reducible apply addRepair_sound
    | with_reducible apply Sound.ite
    | with_reducible apply Sound.foldl
    | with_reducible apply Sound.foldl_fst
    | intro _
    | split
    | (simp only [Sound.lit]; with_reducible apply Sound.parts)
    | with_reducible apply keepRegs_wf
    | with_reducible apply fwf_fset
    | with_reducible apply fwf_fupd
    | with_reducible apply wrLE_wf
    | with_reducible apply wrBytes_wf
    | with_reducible apply fwf_filter
    | with_reducible apply fwf_ferase
    | with_reducible apply fwf_nil
    | with_reducible apply Sound.foldl_wf
    | with_reducible apply Sound.ite_wf
    | with_reducible apply Sound.pending (q_ := q_) (k_ := k_)
    | with_reducible apply Sound.code (q_ := q_) (k_ := k_)
    | with_reducible apply Sound.hbm (q_ := q_) (k_ := k_)
    | with_reducible apply Sound.hbmPoi (q_ := q_) (k_ := k_)
    | with_reducible apply Sound.cxl (q_ := q_) (k_ := k_)
    | with_reducible apply Sound.cxlPoi (q_ := q_) (k_ := k_)
    | with_reducible apply Sound.csr (q_ := q_) (k_ := k_)
    | with_reducible apply Sound.cores (q_ := q_) (k_ := k_)
    | with_reducible apply Sound.plots (q_ := q_) (k_ := k_)
    | with_reducible apply Sound.funs (q_ := q_) (k_ := k_)
    | with_reducible apply Sound.yports (q_ := q_) (k_ := k_)
    | with_reducible apply Sound.slices (q_ := q_) (k_ := k_)
    | (simp only [Sound.lit]; refine ⟨?_, ?_, ?_, ?_, ?_, ?_, ?_, ?_, ?_, ?_, ?_, ?_⟩))

theorem moduleReady_sound (s : State) (x : Start) (hs_ : Sound q_ k_ s) :
    Sound q_ k_ (moduleReady s x) := by
  unfold moduleReady
  try dsimp only
  repeat' (first
    | with_reducible assumption
    | with_reducible apply applyRecord_sound
    | with_reducible apply setCsrFld_sound
    | with_reducible apply setStw_sound
    | with_reducible apply Sound.ite
    | with_reducible apply Sound.foldl
    | with_reducible apply Sound.foldl_fst
    | intro _
    | split
    | (simp only [Sound.lit]; with_reducible apply Sound.parts))

theorem startStep_sound (s : State) (x : Start) (e : StartEv) (hs_ : Sound q_ k_ s) :
    Sound q_ k_ (startStep s x e) := by
  unfold startStep
  try dsimp only
  repeat' (first
    | with_reducible assumption
    | with_reducible apply firmwareRuns_sound
    | with_reducible apply recordsRead_sound
    | with_reducible apply toStep_sound
    | with_reducible apply setOn_sound
    | with_reducible apply startFails_sound
    | with_reducible apply testFails_sound
    | with_reducible apply clocksUp_sound
    | with_reducible apply repairAll_sound
    | with_reducible apply quadsUp_sound
    | with_reducible apply arranged_sound
    | with_reducible apply memoryTested_sound
    | with_reducible apply recordRows_sound
    | with_reducible apply linksTrained_sound
    | with_reducible apply moduleReady_sound
    | with_reducible apply Sound.ite
    | with_reducible apply Sound.foldl
    | with_reducible apply Sound.foldl_fst
    | intro _
    | split
    | (simp only [Sound.lit]; with_reducible apply Sound.parts))

theorem startSequence_sound (e : StartEv) (s : State) (hs_ : Sound q_ k_ s) :
    Sound q_ k_ (startSequence e s) := by
  unfold startSequence
  try dsimp only
  repeat' (first
    | with_reducible assumption
    | with_reducible apply beginStart_sound
    | with_reducible apply startStep_sound
    | with_reducible apply Sound.ite
    | with_reducible apply Sound.foldl
    | with_reducible apply Sound.foldl_fst
    | intro _
    | split
    | (simp only [Sound.lit]; with_reducible apply Sound.parts))

theorem startTimeout_sound (s : State) (hs_ : Sound q_ k_ s) :
    Sound q_ k_ (startTimeout s) := by
  unfold startTimeout
  try dsimp only
  repeat' (first
    | with_reducible assumption
    | with_reducible apply startFails_sound
    | with_reducible apply Sound.ite
    | with_reducible apply Sound.foldl
    | with_reducible apply Sound.foldl_fst
    | intro _
    | split
    | (simp only [Sound.lit]; with_reducible apply Sound.parts))

theorem warmReset_sound (s : State) (suspects : Bool) (cxlKept : Bool) (hs_ : Sound q_ k_ s) :
    Sound q_ k_ (warmReset s suspects cxlKept) := by
  unfold warmReset
  try dsimp only
  repeat' (first
    | with_reducible assumption
    | with_reducible apply warmDown_sound
    | with_reducible apply beginStart_sound
    | with_reducible apply Sound.ite
    | with_reducible apply Sound.foldl
    | with_reducible apply Sound.foldl_fst
    | intro _
    | split
    | (simp only [Sound.lit]; with_reducible apply Sound.parts))

theorem deviceWarmReset_sound (hw : Bool) (cxlKept : Bool) (s : State) (hs_ : Sound q_ k_ s) :
    Sound q_ k_ (deviceWarmReset hw cxlKept s) := by
  unfold deviceWarmReset
  try dsimp only
  repeat' (first
    | with_reducible assumption
    | with_reducible apply warmReset_sound
    | with_reducible apply Sound.ite
    | with_reducible apply Sound.foldl
    | with_reducible apply Sound.foldl_fst
    | intro _
    | split
    | (simp only [Sound.lit]; with_reducible apply Sound.parts))

theorem powerAnswer_sound (s : State) (sb : Option Nat) (status : Nat) (hs_ : Sound q_ k_ s) :
    Sound q_ k_ (powerAnswer s sb status) := by
  unfold powerAnswer
  try dsimp only
  repeat' (first
    | with_reducible assumption
    | with_reducible apply sbReply_sound
    | with_reducible apply Sound.ite
    | with_reducible apply Sound.foldl
    | with_reducible apply Sound.foldl_fst
    | intro _
    | split
    | (simp only [Sound.lit]; with_reducible apply Sound.parts))

theorem setPlan_sound (s : State) (k : Nat) (hs_ : Sound q_ k_ s) :
    Sound q_ k_ (setPlan s k) := by
  unfold setPlan
  try dsimp only
  repeat' (first
    | with_reducible assumption
    | with_reducible apply setStw_sound
    | with_reducible apply Sound.ite
    | with_reducible apply Sound.foldl
    | with_reducible apply Sound.foldl_fst
    | intro _
    | split
    | (simp only [Sound.lit]; with_reducible apply Sound.parts))

theorem planAsk_sound (sb : Option Nat) (cold : Bool) (s : State) (hs_ : Sound q_ k_ s) :
    Sound q_ k_ (planAsk sb cold s) := by
  unfold planAsk
  try dsimp only
  repeat' (first
    | with_reducible assumption
    | with_reducible apply powerAnswer_sound
    | with_reducible apply setCsrFld_sound
    | with_reducible apply finishAll_sound
    | with_reducible apply setStw_sound
    | with_reducible apply Sound.ite
    | with_reducible apply Sound.foldl
    | with_reducible apply Sound.foldl_fst
    | intro _
    | split
    | (simp only [Sound.lit]; with_reducible apply Sound.parts))

theorem planFreeze_sound (s : State) (hs_ : Sound q_ k_ s) :
    Sound q_ k_ (planFreeze s) := by
  unfold planFreeze
  try dsimp only
  repeat' (first
    | with_reducible assumption
    | with_reducible apply setPlan_sound
    | with_reducible apply startRecovery_sound
    | with_reducible apply Sound.ite
    | with_reducible apply Sound.foldl
    | with_reducible apply Sound.foldl_fst
    | intro _
    | split
    | (simp only [Sound.lit]; with_reducible apply Sound.parts))

theorem planReset_sound (cxlKept : Bool) (s : State) (hs_ : Sound q_ k_ s) :
    Sound q_ k_ (planReset cxlKept s) := by
  unfold planReset
  try dsimp only
  repeat' (first
    | with_reducible assumption
    | with_reducible apply warmReset_sound
    | with_reducible apply Sound.ite
    | with_reducible apply Sound.foldl
    | with_reducible apply Sound.foldl_fst
    | intro _
    | split
    | (simp only [Sound.lit]; with_reducible apply Sound.parts))

theorem plannedWarmReset_sound (e : PlanEv) (s : State) (hs_ : Sound q_ k_ s) :
    Sound q_ k_ (plannedWarmReset e s) := by
  unfold plannedWarmReset
  try dsimp only
  repeat' (first
    | with_reducible assumption
    | with_reducible apply planAsk_sound
    | with_reducible apply freeze_sound
    | with_reducible apply planFreeze_sound
    | with_reducible apply planReset_sound
    | with_reducible apply Sound.ite
    | with_reducible apply Sound.foldl
    | with_reducible apply Sound.foldl_fst
    | intro _
    | split
    | (simp only [Sound.lit]; with_reducible apply Sound.parts))

theorem coldStartRequest_sound (seq : Nat) (s : State) (hs_ : Sound q_ k_ s) :
    Sound q_ k_ (coldStartRequest seq s) := by
  unfold coldStartRequest
  try dsimp only
  repeat' (first
    | with_reducible assumption
    | with_reducible apply powerAnswer_sound
    | with_reducible apply beginStart_sound
    | with_reducible apply setStw_sound
    | with_reducible apply Sound.ite
    | with_reducible apply Sound.foldl
    | with_reducible apply Sound.foldl_fst
    | intro _
    | split
    | (simp only [Sound.lit]; with_reducible apply Sound.parts))

theorem powerCycle_sound (s : State) (hs_ : Sound q_ k_ s) :
    Sound q_ k_ (powerCycle s) := by
  unfold powerCycle
  try dsimp only
  repeat' (first
    | with_reducible assumption
    | with_reducible apply sbReply_sound
    | with_reducible apply setPins_sound
    | with_reducible apply Sound.ite
    | with_reducible apply Sound.foldl
    | with_reducible apply Sound.foldl_fst
    | intro _
    | split
    | (simp only [Sound.lit]; with_reducible apply Sound.parts))

theorem powerUp_sound (vin : Nat) (s : State) (hs_ : Sound q_ k_ s) :
    Sound q_ k_ (powerUp vin s) := by
  unfold powerUp
  try dsimp only
  repeat' (first
    | with_reducible assumption
    | with_reducible apply setPins_sound
    | with_reducible apply Sound.ite
    | with_reducible apply Sound.foldl
    | with_reducible apply Sound.foldl_fst
    | intro _
    | split
    | (simp only [Sound.lit]; with_reducible apply Sound.parts))

theorem resetPin_sound (high : Bool) (cxlKept : Bool) (s : State) (hs_ : Sound q_ k_ s) :
    Sound q_ k_ (resetPin high cxlKept s) := by
  unfold resetPin
  try dsimp only
  repeat' (first
    | with_reducible assumption
    | with_reducible apply setPins_sound
    | with_reducible apply warmDown_sound
    | with_reducible apply Sound.ite
    | with_reducible apply Sound.foldl
    | with_reducible apply Sound.foldl_fst
    | intro _
    | split
    | (simp only [Sound.lit]; with_reducible apply Sound.parts))

theorem undervoltage_sound (vin : Nat) (s : State) (hs_ : Sound q_ k_ s) :
    Sound q_ k_ (undervoltage vin s) := by
  unfold undervoltage
  try dsimp only
  repeat' (first
    | with_reducible assumption
    | with_reducible apply setPins_sound
    | with_reducible apply tripNow_sound
    | with_reducible apply Sound.ite
    | with_reducible apply Sound.foldl
    | with_reducible apply Sound.foldl_fst
    | intro _
    | split
    | (simp only [Sound.lit]; with_reducible apply Sound.parts))

theorem overvoltage_sound (vin : Nat) (s : State) (hs_ : Sound q_ k_ s) :
    Sound q_ k_ (overvoltage vin s) := by
  unfold overvoltage
  try dsimp only
  repeat' (first
    | with_reducible assumption
    | with_reducible apply powerOff_sound
    | with_reducible apply Sound.ite
    | with_reducible apply Sound.foldl
    | with_reducible apply Sound.foldl_fst
    | intro _
    | split
    | (simp only [Sound.lit]; with_reducible apply Sound.parts))

theorem alertReassert_sound (s : State) (hs_ : Sound q_ k_ s) :
    Sound q_ k_ (alertReassert s) := by
  unfold alertReassert
  try dsimp only
  repeat' (first
    | with_reducible assumption
    | with_reducible apply setPins_sound
    | with_reducible apply Sound.ite
    | with_reducible apply Sound.foldl
    | with_reducible apply Sound.foldl_fst
    | intro _
    | split
    | (simp only [Sound.lit]; with_reducible apply Sound.parts))

theorem poisonFold_sound (s : State) (j : Nat) (n : Nat) (round : Nat) (i : Nat) (hs_ : Sound q_ k_ s) :
    Sound q_ k_ (poisonFold s j n round i) := by
  unfold poisonFold
  try dsimp only
  repeat' (first
    | with_reducible assumption
    | with_reducible apply setNode_sound
    | with_reducible apply Sound.ite
    | with_reducible apply Sound.foldl
    | with_reducible apply Sound.foldl_fst
    | intro _
    | split
    | (simp only [Sound.lit]; with_reducible apply Sound.parts))

theorem adderMismatch_sound (s : State) (j : Nat) (n : Nat) (round : Nat) (i : Nat) (hs_ : Sound q_ k_ s) :
    Sound q_ k_ (adderMismatch s j n round i) := by
  unfold adderMismatch
  try dsimp only
  repeat' (first
    | with_reducible assumption
    | with_reducible apply poisonFold_sound
    | with_reducible apply satCsrFld_sound
    | with_reducible apply setStw_sound
    | with_reducible apply Sound.ite
    | with_reducible apply Sound.foldl
    | with_reducible apply Sound.foldl_fst
    | intro _
    | split
    | (simp only [Sound.lit]; with_reducible apply Sound.parts))

theorem privMismatch_sound (u : PrivUnit) (s : State) (hs_ : Sound q_ k_ s) :
    Sound q_ k_ (privMismatch u s) := by
  unfold privMismatch
  try dsimp only
  repeat' (first
    | with_reducible assumption
    | with_reducible apply satCsrFld_sound
    | with_reducible apply setStw_sound
    | with_reducible apply deviceWarmReset_sound
    | with_reducible apply adderMismatch_sound
    | with_reducible apply Sound.ite
    | with_reducible apply Sound.foldl
    | with_reducible apply Sound.foldl_fst
    | intro _
    | split
    | (simp only [Sound.lit]; with_reducible apply Sound.parts))

end Sys2Proof.Machine
end

