-- ==== Sys2Proof/Laws/KeepsRegisters.lean ====
section
/-! SUPPORT. What every operation of Machine/Registers.lean keeps (Laws/Sound.lean). -/

namespace Sys2Proof.Machine

variable {q_ : List Instr} {k_ : Nat}

theorem countDenied_sound (s : State) (who : Who) (hs_ : Sound q_ k_ s) :
    Sound q_ k_ (countDenied s who) := by
  unfold countDenied
  try dsimp only
  repeat' (first
    | with_reducible assumption
    | with_reducible apply updFun_sound
    | with_reducible apply Sound.ite
    | with_reducible apply Sound.foldl
    | with_reducible apply Sound.foldl_fst
    | intro _
    | split
    | (simp only [Sound.lit]; with_reducible apply Sound.parts))

theorem readReg_sound (s : State) (who : Who) (a : Nat) (size : Nat) (hs_ : Sound q_ k_ s) :
    Sound q_ k_ (readReg s who a size).1 := by
  unfold readReg
  try dsimp only
  repeat' (first
    | with_reducible assumption
    | with_reducible apply countDenied_sound
    | with_reducible apply coreRead_sound
    | with_reducible apply plotRead_sound
    | with_reducible apply blockRead_sound
    | with_reducible apply Sound.ite
    | with_reducible apply Sound.foldl
    | with_reducible apply Sound.foldl_fst
    | intro _
    | split
    | (simp only [Sound.lit]; with_reducible apply Sound.parts))

theorem rcRead_sound (who : Who) (a : Nat) (size : Nat) (s : State) (hs_ : Sound q_ k_ s) :
    Sound q_ k_ (rcRead who a size s) := by
  unfold rcRead
  try dsimp only
  repeat' (first
    | with_reducible assumption
    | with_reducible apply readReg_sound
    | with_reducible apply emit_sound
    | with_reducible apply Sound.ite
    | with_reducible apply Sound.foldl
    | with_reducible apply Sound.foldl_fst
    | intro _
    | split
    | (simp only [Sound.lit]; with_reducible apply Sound.parts))

theorem writeFnCtl_sound (s : State) (n : Nat) (v : Word) (hs_ : Sound q_ k_ s) :
    Sound q_ k_ (writeFnCtl s n v) := by
  unfold writeFnCtl
  try dsimp only
  repeat' (first
    | with_reducible assumption
    | with_reducible apply storeReg_sound
    | with_reducible apply functionEnable_sound
    | with_reducible apply functionDisable_sound
    | with_reducible apply Sound.ite
    | with_reducible apply Sound.foldl
    | with_reducible apply Sound.foldl_fst
    | intro _
    | split
    | (simp only [Sound.lit]; with_reducible apply Sound.parts))

theorem writeFnPart_sound (s : State) (n : Nat) (v : Word) (hs_ : Sound q_ k_ s) :
    Sound q_ k_ (writeFnPart s n v) := by
  unfold writeFnPart
  try dsimp only
  repeat' (first
    | with_reducible assumption
    | with_reducible apply storeReg_sound
    | with_reducible apply updFun_sound
    | with_reducible apply resumeFn_sound
    | with_reducible apply Sound.ite
    | with_reducible apply Sound.foldl
    | with_reducible apply Sound.foldl_fst
    | intro _
    | split
    | (simp only [Sound.lit]; with_reducible apply Sound.parts))

theorem writeTimeCfg_sound (s : State) (v : Word) (hs_ : Sound q_ k_ s) :
    Sound q_ k_ (writeTimeCfg s v) := by
  unfold writeTimeCfg
  try dsimp only
  repeat' (first
    | with_reducible assumption
    | with_reducible apply storeReg_sound
    | with_reducible apply setServo_sound
    | with_reducible apply setServoState_sound
    | with_reducible apply Sound.ite
    | with_reducible apply Sound.foldl
    | with_reducible apply Sound.foldl_fst
    | intro _
    | split
    | (simp only [Sound.lit]; with_reducible apply Sound.parts))

theorem writeStwReset_sound (s : State) (v : Word) (hs_ : Sound q_ k_ s) :
    Sound q_ k_ (writeStwReset s v) := by
  unfold writeStwReset
  try dsimp only
  repeat' (first
    | with_reducible assumption
    | with_reducible apply planAsk_sound
    | with_reducible apply powerCycle_sound
    | with_reducible apply Sound.ite
    | with_reducible apply Sound.foldl
    | with_reducible apply Sound.foldl_fst
    | intro _
    | split
    | (simp only [Sound.lit]; with_reducible apply Sound.parts))

theorem writeFwupd_sound (s : State) (who : Who) (v : Word) (hs_ : Sound q_ k_ s) :
    Sound q_ k_ (writeFwupd s who v) := by
  unfold writeFwupd
  try dsimp only
  repeat' (first
    | with_reducible assumption
    | with_reducible apply firmwareUpdate_sound
    | with_reducible apply commitSvn_sound
    | with_reducible apply Sound.ite
    | with_reducible apply Sound.foldl
    | with_reducible apply Sound.foldl_fst
    | intro _
    | split
    | (simp only [Sound.lit]; with_reducible apply Sound.parts))

theorem writeDormant_sound (s : State) (v : Word) (hs_ : Sound q_ k_ s) :
    Sound q_ k_ (writeDormant s v) := by
  unfold writeDormant
  try dsimp only
  repeat' (first
    | with_reducible assumption
    | with_reducible apply dormantEnter_sound
    | with_reducible apply setCsrFld_sound
    | with_reducible apply Sound.ite
    | with_reducible apply Sound.foldl
    | with_reducible apply Sound.foldl_fst
    | intro _
    | split
    | (simp only [Sound.lit]; with_reducible apply Sound.parts))

theorem writeTestCfg_sound (s : State) (v : Word) (hs_ : Sound q_ k_ s) :
    Sound q_ k_ (writeTestCfg s v) := by
  unfold writeTestCfg
  try dsimp only
  repeat' (first
    | with_reducible assumption
    | with_reducible apply storeReg_sound
    | with_reducible apply setStw_sound
    | with_reducible apply Sound.ite
    | with_reducible apply Sound.foldl
    | with_reducible apply Sound.foldl_fst
    | intro _
    | split
    | (simp only [Sound.lit]; with_reducible apply Sound.parts))

theorem writePpsSec_sound (s : State) (v : Word) (hs_ : Sound q_ k_ s) :
    Sound q_ k_ (writePpsSec s v) := by
  unfold writePpsSec
  try dsimp only
  repeat' (first
    | with_reducible assumption
    | with_reducible apply setServo_sound
    | with_reducible apply storeReg_sound
    | with_reducible apply Sound.ite
    | with_reducible apply Sound.foldl
    | with_reducible apply Sound.foldl_fst
    | intro _
    | split
    | (simp only [Sound.lit]; with_reducible apply Sound.parts))

theorem writeFnReg_sound (s : State) (who : Who) (n : Nat) (x : Nat) (v : Word) (hs_ : Sound q_ k_ s) :
    Sound q_ k_ (writeFnReg s who n x v).1 := by
  unfold writeFnReg
  try dsimp only
  repeat' (first
    | with_reducible assumption
    | with_reducible apply writeFnCtl_sound
    | with_reducible apply fnCompleteW_sound
    | with_reducible apply fnSwitchW_sound
    | with_reducible apply storeReg_sound
    | with_reducible apply writeFnPart_sound
    | with_reducible apply Sound.ite
    | with_reducible apply Sound.foldl
    | with_reducible apply Sound.foldl_fst
    | intro _
    | split
    | (simp only [Sound.lit]; with_reducible apply Sound.parts))

theorem writeBlock_sound (s : State) (who : Who) (a : Nat) (v : Word) (hs_ : Sound q_ k_ s) :
    Sound q_ k_ (writeBlock s who a v).1 := by
  unfold writeBlock
  try dsimp only
  repeat' (first
    | with_reducible assumption
    | with_reducible apply writeFnReg_sound
    | with_reducible apply grnInv_sound
    | with_reducible apply grnInvAll_sound
    | with_reducible apply swathApply_sound
    | with_reducible apply timeSet_sound
    | with_reducible apply writeTimeCfg_sound
    | with_reducible apply writePpsSec_sound
    | with_reducible apply writePtpCfg_sound
    | with_reducible apply nReqWrite_sound
    | with_reducible apply writeFwupd_sound
    | with_reducible apply writeStwReset_sound
    | with_reducible apply writeDormant_sound
    | with_reducible apply writeTestCfg_sound
    | with_reducible apply storeReg_sound
    | with_reducible apply Sound.ite
    | with_reducible apply Sound.foldl
    | with_reducible apply Sound.foldl_fst
    | intro _
    | split
    | (simp only [Sound.lit]; with_reducible apply Sound.parts))

theorem writeReg_sound (s : State) (who : Who) (a : Nat) (v : Word) (size : Nat) (hs_ : Sound q_ k_ s) :
    Sound q_ k_ (writeReg s who a v size).1 := by
  unfold writeReg
  try dsimp only
  repeat' (first
    | with_reducible assumption
    | with_reducible apply countDenied_sound
    | with_reducible apply coreWrite_sound
    | with_reducible apply plotWrite_sound
    | with_reducible apply writeBlock_sound
    | with_reducible apply Sound.ite
    | with_reducible apply Sound.foldl
    | with_reducible apply Sound.foldl_fst
    | intro _
    | split
    | (simp only [Sound.lit]; with_reducible apply Sound.parts))

theorem registerWrite_sound (who : Who) (a : Nat) (v : Word) (size : Nat) (s : State) (hs_ : Sound q_ k_ s) :
    Sound q_ k_ (registerWrite who a v size s) := by
  unfold registerWrite
  try dsimp only
  repeat' (first
    | with_reducible assumption
    | with_reducible apply writeReg_sound
    | with_reducible apply emit_sound
    | with_reducible apply Sound.ite
    | with_reducible apply Sound.foldl
    | with_reducible apply Sound.foldl_fst
    | intro _
    | split
    | (simp only [Sound.lit]; with_reducible apply Sound.parts))

theorem jtagAccess_sound (op : JtagOp) (s : State) (hs_ : Sound q_ k_ s) :
    Sound q_ k_ (jtagAccess op s) := by
  unfold jtagAccess
  try dsimp only
  repeat' (first
    | with_reducible assumption
    | with_reducible apply readReg_sound
    | with_reducible apply emit_sound
    | with_reducible apply writeReg_sound
    | with_reducible apply setStw_sound
    | with_reducible apply Sound.ite
    | with_reducible apply Sound.foldl
    | with_reducible apply Sound.foldl_fst
    | intro _
    | split
    | (simp only [Sound.lit]; with_reducible apply Sound.parts))

end Sys2Proof.Machine
end

