-- ==== Sys2Proof/Laws/KeepsPackets.lean ====
section
/-! SUPPORT. What every operation of Machine/Packets.lean keeps (Laws/Sound.lean). -/

namespace Sys2Proof.Machine

variable {q_ : List Instr} {k_ : Nat}

theorem atRouter_sound (typ : Nat) (id : Nat) (step : State → State) (s : State) (hs_ : Sound q_ k_ s) (h_step : ∀ s, Sound q_ k_ s → Sound q_ k_ (step s)) :
    Sound q_ k_ (atRouter typ id step s) := by
  unfold atRouter
  try dsimp only
  repeat' (first
    | with_reducible assumption
    | with_reducible apply leaveDevice_sound
    | with_reducible apply h_step
    | with_reducible apply Sound.ite
    | with_reducible apply Sound.foldl
    | with_reducible apply Sound.foldl_fst
    | intro _
    | split
    | (simp only [Sound.lit]; with_reducible apply Sound.parts))

theorem answerAt_sound (s : State) (p : Packet) (q : Packet) (hs_ : Sound q_ k_ s) :
    Sound q_ k_ (answerAt s p q) := by
  unfold answerAt
  try dsimp only
  repeat' (first
    | with_reducible assumption
    | with_reducible apply injectAt_sound
    | with_reducible apply injectEdge_sound
    | with_reducible apply Sound.ite
    | with_reducible apply Sound.foldl
    | with_reducible apply Sound.foldl_fst
    | intro _
    | split
    | (simp only [Sound.lit]; with_reducible apply Sound.parts))

theorem spdPerform_sound (s : State) (c : Nat) (p : Packet) (hs_ : Sound q_ k_ s) :
    Sound q_ k_ (spdPerform s c p).1 := by
  unfold spdPerform
  try dsimp only
  repeat' (first
    | with_reducible assumption
    | with_reducible apply spdReadWords_sound
    | with_reducible apply spdWriteWords_sound
    | with_reducible apply Sound.ite
    | with_reducible apply Sound.foldl
    | with_reducible apply Sound.foldl_fst
    | intro _
    | split
    | (simp only [Sound.lit]; with_reducible apply Sound.parts))

theorem spdTwin_sound (s : State) (c : Nat) (p : Packet) (hs_ : Sound q_ k_ s) :
    Sound q_ k_ (spdTwin s c p) := by
  unfold spdTwin
  try dsimp only
  repeat' (first
    | with_reducible assumption
    | with_reducible apply spdPerform_sound
    | with_reducible apply Sound.ite
    | with_reducible apply Sound.foldl
    | with_reducible apply Sound.foldl_fst
    | intro _
    | split
    | (simp only [Sound.lit]; with_reducible apply Sound.parts))

theorem spdRequest_sound (s : State) (c : Nat) (p : Packet) (hs_ : Sound q_ k_ s) :
    Sound q_ k_ (spdRequest s c p) := by
  unfold spdRequest
  try dsimp only
  repeat' (first
    | with_reducible assumption
    | with_reducible apply answerAt_sound
    | with_reducible apply spdPerform_sound
    | with_reducible apply spdTwin_sound
    | with_reducible apply Sound.ite
    | with_reducible apply Sound.foldl
    | with_reducible apply Sound.foldl_fst
    | intro _
    | split
    | (simp only [Sound.lit]; with_reducible apply Sound.parts))

theorem regRequest_sound (s : State) (p : Packet) (hs_ : Sound q_ k_ s) :
    Sound q_ k_ (regRequest s p) := by
  unfold regRequest
  try dsimp only
  repeat' (first
    | with_reducible assumption
    | with_reducible apply answerAt_sound
    | with_reducible apply readReg_sound
    | with_reducible apply writeReg_sound
    | with_reducible apply Sound.ite
    | with_reducible apply Sound.foldl
    | with_reducible apply Sound.foldl_fst
    | intro _
    | split
    | (simp only [Sound.lit]; with_reducible apply Sound.parts))

theorem requestStep_sound (id : Nat) (s : State) (hs_ : Sound q_ k_ s) :
    Sound q_ k_ (requestStep id s) := by
  unfold requestStep
  try dsimp only
  repeat' (first
    | with_reducible assumption
    | with_reducible apply granaryAccept_sound
    | with_reducible apply dropPkt_sound
    | with_reducible apply spdRequest_sound
    | with_reducible apply regRequest_sound
    | with_reducible apply answerAt_sound
    | with_reducible apply Sound.ite
    | with_reducible apply Sound.foldl
    | with_reducible apply Sound.foldl_fst
    | intro _
    | split
    | (simp only [Sound.lit]; with_reducible apply Sound.parts))

end Sys2Proof.Machine
end

