-- ==== Sys2Proof/Laws/KeepsHostOps.lean ====
section
/-! SUPPORT. What every operation of Machine/HostOps.lean keeps (Laws/Sound.lean). -/

namespace Sys2Proof.Machine

variable {q_ : List Instr} {k_ : Nat}

theorem hostWords_sound (s : State) (a : Word) (n : Nat) (hs_ : Sound q_ k_ s) :
    Sound q_ k_ (hostWords s a n).1 := by
  unfold hostWords
  try dsimp only
  repeat' (first
    | with_reducible assumption
    | with_reducible apply spdRead_sound
    | with_reducible apply memReadWords_sound
    | with_reducible apply Sound.ite
    | with_reducible apply Sound.foldl
    | with_reducible apply Sound.foldl_fst
    | intro _
    | split
    | (simp only [Sound.lit]; with_reducible apply Sound.parts))

theorem hostRead_sound (s : State) (a : Word) (len : Nat) (hs_ : Sound q_ k_ s) :
    Sound q_ k_ (hostRead s a len).1 := by
  unfold hostRead
  try dsimp only
  repeat' (first
    | with_reducible assumption
    | with_reducible apply hostWords_sound
    | with_reducible apply Sound.ite
    | with_reducible apply Sound.foldl
    | with_reducible apply Sound.foldl_fst
    | intro _
    | split
    | (simp only [Sound.lit]; with_reducible apply Sound.parts))

theorem hostSpdByte_sound (s : State) (o : Nat) (b : Byte) (hs_ : Sound q_ k_ s) :
    Sound q_ k_ (hostSpdByte s o b) := by
  unfold hostSpdByte
  try dsimp only
  repeat' (first
    | with_reducible assumption
    | with_reducible apply spdWriteIn_sound
    | with_reducible apply Sound.ite
    | with_reducible apply Sound.foldl
    | with_reducible apply Sound.foldl_fst
    | intro _
    | split
    | (simp only [Sound.lit]; with_reducible apply Sound.parts))

theorem hostSpdWord_sound (s : State) (o : Nat) (v : Word) (hs_ : Sound q_ k_ s) :
    Sound q_ k_ (hostSpdWord s o v) := by
  unfold hostSpdWord
  try dsimp only
  repeat' (first
    | with_reducible assumption
    | with_reducible apply spdWrite_sound
    | with_reducible apply Sound.ite
    | with_reducible apply Sound.foldl
    | with_reducible apply Sound.foldl_fst
    | intro _
    | split
    | (simp only [Sound.lit]; with_reducible apply Sound.parts))

theorem hostWriteBytes_sound (s : State) (a : Word) (bs : List Byte) (hs_ : Sound q_ k_ s) :
    Sound q_ k_ (hostWriteBytes s a bs) := by
  unfold hostWriteBytes
  try dsimp only
  repeat' (first
    | with_reducible assumption
    | with_reducible apply hostSpdWord_sound
    | with_reducible apply hostSpdByte_sound
    | with_reducible apply memWriteBytes_sound
    | with_reducible apply Sound.ite
    | with_reducible apply Sound.foldl
    | with_reducible apply Sound.foldl_fst
    | intro _
    | split
    | (simp only [Sound.lit]; with_reducible apply Sound.parts))

theorem coverPart_sound (s : State) (n : Nat) (off : Nat) (len : Nat) (hs_ : Sound q_ k_ s) :
    Sound q_ k_ (coverPart s n off len) := by
  unfold coverPart
  try dsimp only
  repeat' (first
    | with_reducible assumption
    | with_reducible apply countFn_sound
    | with_reducible apply Sound.ite
    | with_reducible apply Sound.foldl
    | with_reducible apply Sound.foldl_fst
    | intro _
    | split
    | (simp only [Sound.lit]; with_reducible apply Sound.parts))

theorem hostStore_sound (s : State) (n : Nat) (a : Word) (bs : List Byte) (tc : Option Nat) (whole : Bool) (hs_ : Sound q_ k_ s) :
    Sound q_ k_ (hostStore s n a bs tc whole) := by
  unfold hostStore
  try dsimp only
  repeat' (first
    | with_reducible assumption
    | with_reducible apply hostWriteBytes_sound
    | with_reducible apply coverWrite_sound
    | with_reducible apply coverPart_sound
    | with_reducible apply Sound.ite
    | with_reducible apply Sound.foldl
    | with_reducible apply Sound.foldl_fst
    | intro _
    | split
    | (simp only [Sound.lit]; with_reducible apply Sound.parts))

theorem commandLand_sound (n : Nat) (r : Nat) (i : Nat) (entry : List Word) (tc : Option Nat) (s : State) (hs_ : Sound q_ k_ s) :
    Sound q_ k_ (commandLand n r i entry tc s) := by
  unfold commandLand
  try dsimp only
  repeat' (first
    | with_reducible assumption
    | with_reducible apply coverWrite_sound
    | with_reducible apply memWriteWords_sound
    | with_reducible apply Sound.ite
    | with_reducible apply Sound.foldl
    | with_reducible apply Sound.foldl_fst
    | intro _
    | split
    | (simp only [Sound.lit]; with_reducible apply Sound.parts))

theorem modTc_sound (s : State) (n : Nat) (t : Nat) (g : Tc → Tc) (hs_ : Sound q_ k_ s) :
    Sound q_ k_ (modTc s n t g) := by
  unfold modTc
  try dsimp only
  repeat' (first
    | with_reducible assumption
    | with_reducible apply putTc_sound
    | with_reducible apply Sound.ite
    | with_reducible apply Sound.foldl
    | with_reducible apply Sound.foldl_fst
    | intro _
    | split
    | (simp only [Sound.lit]; with_reducible apply Sound.parts))

theorem khtStore_sound (s : State) (n : Nat) (t : Nat) (a : Word) (data : List Word) (hs_ : Sound q_ k_ s) :
    Sound q_ k_ (khtStore s n t a data).1 := by
  unfold khtStore
  try dsimp only
  repeat' (first
    | with_reducible assumption
    | with_reducible apply writeReg_sound
    | with_reducible apply hostStore_sound
    | with_reducible apply Sound.ite
    | with_reducible apply Sound.foldl
    | with_reducible apply Sound.foldl_fst
    | intro _
    | split
    | (simp only [Sound.lit]; with_reducible apply Sound.parts))

theorem poisonOut_sound (s : State) (hs_ : Sound q_ k_ s) :
    Sound q_ k_ (poisonOut s) := by
  unfold poisonOut
  try dsimp only
  repeat' (first
    | with_reducible assumption
    | with_reducible apply satCsrFld_sound
    | with_reducible apply Sound.ite
    | with_reducible apply Sound.foldl
    | with_reducible apply Sound.foldl_fst
    | intro _
    | split
    | (simp only [Sound.lit]; with_reducible apply Sound.parts))

theorem poisonSlot_sound (s : State) (n : Nat) (a : Word) (len : Nat) (hs_ : Sound q_ k_ s) :
    Sound q_ k_ (poisonSlot s n a len) := by
  unfold poisonSlot
  try dsimp only
  repeat' (first
    | with_reducible assumption
    | with_reducible apply memReadWords_sound
    | with_reducible apply startRecovery_sound
    | with_reducible apply Sound.ite
    | with_reducible apply Sound.foldl
    | with_reducible apply Sound.foldl_fst
    | intro _
    | split
    | (simp only [Sound.lit]; with_reducible apply Sound.parts))

theorem readChunks_sound (f : Nat) (s : State) (a : Word) (left : Nat) (h : Sound q_ k_ s) :
    Sound q_ k_ (readChunks f s a left).1 := by
  induction f generalizing s a left with
  | zero => simp only [readChunks]; assumption
  | succ f_ ih =>
    simp only [readChunks]
    repeat' (first
      | with_reducible assumption
      | with_reducible apply ih
      | with_reducible apply hostRead_sound
      | with_reducible apply Sound.ite
      | with_reducible apply Sound.foldl
      | with_reducible apply Sound.foldl_fst
      | intro _
      | split
      | (simp only [Sound.lit]; with_reducible apply Sound.parts))

theorem khtLoad_sound (s : State) (n : Nat) (a : Word) (len : Nat) (hs_ : Sound q_ k_ s) :
    Sound q_ k_ (khtLoad s n a len).1 := by
  unfold khtLoad
  try dsimp only
  repeat' (first
    | with_reducible assumption
    | with_reducible apply readReg_sound
    | with_reducible apply readChunks_sound
    | with_reducible apply poisonSlot_sound
    | with_reducible apply poisonOut_sound
    | with_reducible apply Sound.ite
    | with_reducible apply Sound.foldl
    | with_reducible apply Sound.foldl_fst
    | intro _
    | split
    | (simp only [Sound.lit]; with_reducible apply Sound.parts))

theorem sendRead_sound (s : State) (n : Nat) (t : Nat) (l : List TxPkt) (hs_ : Sound q_ k_ s) :
    Sound q_ k_ (sendRead s n t l) := by
  unfold sendRead
  try dsimp only
  repeat' (first
    | with_reducible assumption
    | with_reducible apply queueTx_sound
    | with_reducible apply putTc_sound
    | with_reducible apply Sound.ite
    | with_reducible apply Sound.foldl
    | with_reducible apply Sound.foldl_fst
    | intro _
    | split
    | (simp only [Sound.lit]; with_reducible apply Sound.parts))

theorem deliverOp_sound (s : State) (n : Nat) (t : Nat) (h : KhtHdr) (data : List Word) (hs_ : Sound q_ k_ s) :
    Sound q_ k_ (deliverOp s n t h data).1 := by
  unfold deliverOp
  try dsimp only
  repeat' (first
    | with_reducible assumption
    | with_reducible apply khtStore_sound
    | with_reducible apply khtLoad_sound
    | with_reducible apply sendRead_sound
    | with_reducible apply landEntry_sound
    | with_reducible apply modTc_sound
    | with_reducible apply Sound.ite
    | with_reducible apply Sound.foldl
    | with_reducible apply Sound.foldl_fst
    | intro _
    | split
    | (simp only [Sound.lit]; with_reducible apply Sound.parts))

theorem ackAfter_sound (s : State) (n : Nat) (t : Nat) (ar : Bool) (x : Option (Word × Nat)) (hs_ : Sound q_ k_ s) :
    Sound q_ k_ (ackAfter s n t ar x) := by
  unfold ackAfter
  try dsimp only
  repeat' (first
    | with_reducible assumption
    | with_reducible apply tcAck_sound
    | with_reducible apply putTc_sound
    | with_reducible apply Sound.ite
    | with_reducible apply Sound.foldl
    | with_reducible apply Sound.foldl_fst
    | intro _
    | split
    | (simp only [Sound.lit]; with_reducible apply Sound.parts))

theorem deliverHeld_sound (n t k : Nat) (s : State) (h : Sound q_ k_ s) :
    Sound q_ k_ (deliverHeld n t k s) := by
  induction k generalizing s with
  | zero => simp only [deliverHeld]; assumption
  | succ f_ ih =>
    simp only [deliverHeld]
    repeat' (first
      | with_reducible assumption
      | with_reducible apply ih
      | with_reducible apply putTc_sound
      | with_reducible apply deliverOp_sound
      | with_reducible apply ackAfter_sound
      | with_reducible apply Sound.ite
      | with_reducible apply Sound.foldl
      | with_reducible apply Sound.foldl_fst
      | intro _
      | split
      | (simp only [Sound.lit]; with_reducible apply Sound.parts))

theorem serveHeld_sound (s : State) (n : Nat) (t : Nat) (hs_ : Sound q_ k_ s) :
    Sound q_ k_ (serveHeld s n t) := by
  unfold serveHeld
  try dsimp only
  repeat' (first
    | with_reducible assumption
    | with_reducible apply tryClose_sound
    | with_reducible apply deliverHeld_sound
    | with_reducible apply Sound.ite
    | with_reducible apply Sound.foldl
    | with_reducible apply Sound.foldl_fst
    | intro _
    | split
    | (simp only [Sound.lit]; with_reducible apply Sound.parts))

theorem orderedIn_sound (s : State) (v : Tc) (f : HFrame) (h : KhtHdr) (hs_ : Sound q_ k_ s) :
    Sound q_ k_ (orderedIn s v f h) := by
  unfold orderedIn
  try dsimp only
  repeat' (first
    | with_reducible assumption
    | with_reducible apply tcAck_sound
    | with_reducible apply putTc_sound
    | with_reducible apply serveHeld_sound
    | with_reducible apply Sound.ite
    | with_reducible apply Sound.foldl
    | with_reducible apply Sound.foldl_fst
    | intro _
    | split
    | (simp only [Sound.lit]; with_reducible apply Sound.parts))

theorem roceOut_sound (s : State) (v : Tc) (op : RoceOp) (psn : Nat) (data : List Word) (hs_ : Sound q_ k_ s) :
    Sound q_ k_ (roceOut s v op psn data) := by
  unfold roceOut
  try dsimp only
  repeat' (first
    | with_reducible assumption
    | with_reducible apply sendHost_sound
    | with_reducible apply Sound.ite
    | with_reducible apply Sound.foldl
    | with_reducible apply Sound.foldl_fst
    | intro _
    | split
    | (simp only [Sound.lit]; with_reducible apply Sound.parts))

theorem roceFail_sound (s : State) (v : Tc) (code : Nat) (psn : Nat) (hs_ : Sound q_ k_ s) :
    Sound q_ k_ (roceFail s v code psn) := by
  unfold roceFail
  try dsimp only
  repeat' (first
    | with_reducible assumption
    | with_reducible apply putTc_sound
    | with_reducible apply roceOut_sound
    | with_reducible apply Sound.ite
    | with_reducible apply Sound.foldl
    | with_reducible apply Sound.foldl_fst
    | intro _
    | split
    | (simp only [Sound.lit]; with_reducible apply Sound.parts))

theorem roceMark_sound (s : State) (v : Tc) (f : HFrame) (hs_ : Sound q_ k_ s) :
    Sound q_ k_ (roceMark s v f).1 := by
  unfold roceMark
  try dsimp only
  repeat' (first
    | with_reducible assumption
    | with_reducible apply roceOut_sound
    | with_reducible apply Sound.ite
    | with_reducible apply Sound.foldl
    | with_reducible apply Sound.foldl_fst
    | intro _
    | split
    | (simp only [Sound.lit]; with_reducible apply Sound.parts))

theorem onQp_sound (s : State) (id : Nat) (sel : RoceOp → Bool) (miss : Bool) (go : State → Tc → Roce → State) (h_go : ∀ x0 x1 x2, Sound q_ k_ x0 → Sound q_ k_ (go x0 x1 x2)) (hs_ : Sound q_ k_ s) :
    Sound q_ k_ (onQp s id sel miss go) := by
  unfold onQp
  try dsimp only
  repeat' (first
    | with_reducible assumption
    | with_reducible apply h_go
    | with_reducible apply takeFrame_sound
    | with_reducible apply roceOut_sound
    | with_reducible apply serve_sound
    | with_reducible apply roceMark_sound
    | with_reducible apply putTc_sound
    | with_reducible apply Sound.ite
    | with_reducible apply Sound.foldl
    | with_reducible apply Sound.foldl_fst
    | intro _
    | split
    | (simp only [Sound.lit]; with_reducible apply Sound.parts))

theorem inOrder_sound (s : State) (v : Tc) (r : Roce) (go : State → State) (hs_ : Sound q_ k_ s) (h_go : ∀ s, Sound q_ k_ s → Sound q_ k_ (go s)) :
    Sound q_ k_ (inOrder s v r go) := by
  unfold inOrder
  try dsimp only
  repeat' (first
    | with_reducible assumption
    | with_reducible apply roceOut_sound
    | with_reducible apply h_go
    | with_reducible apply Sound.ite
    | with_reducible apply Sound.foldl
    | with_reducible apply Sound.foldl_fst
    | intro _
    | split
    | (simp only [Sound.lit]; with_reducible apply Sound.parts))

theorem roceAck_sound (s : State) (v : Tc) (r : Roce) (hs_ : Sound q_ k_ s) :
    Sound q_ k_ (roceAck s v r) := by
  unfold roceAck
  try dsimp only
  repeat' (first
    | with_reducible assumption
    | with_reducible apply roceOut_sound
    | with_reducible apply Sound.ite
    | with_reducible apply Sound.foldl
    | with_reducible apply Sound.foldl_fst
    | intro _
    | split
    | (simp only [Sound.lit]; with_reducible apply Sound.parts))

theorem sendLanded_sound (s : State) (v : Tc) (r : Roce) (entry : List Word) (hs_ : Sound q_ k_ s) :
    Sound q_ k_ (sendLanded s v r entry) := by
  unfold sendLanded
  try dsimp only
  repeat' (first
    | with_reducible assumption
    | with_reducible apply landEntry_sound
    | with_reducible apply roceAck_sound
    | with_reducible apply putTc_sound
    | with_reducible apply roceOut_sound
    | with_reducible apply roceFail_sound
    | with_reducible apply Sound.ite
    | with_reducible apply Sound.foldl
    | with_reducible apply Sound.foldl_fst
    | intro _
    | split
    | (simp only [Sound.lit]; with_reducible apply Sound.parts))

theorem roceSendIn_sound (s : State) (v : Tc) (r : Roce) (hs_ : Sound q_ k_ s) :
    Sound q_ k_ (roceSendIn s v r) := by
  unfold roceSendIn
  try dsimp only
  repeat' (first
    | with_reducible assumption
    | with_reducible apply inOrder_sound
    | with_reducible apply roceFail_sound
    | with_reducible apply sendLanded_sound
    | with_reducible apply roceAck_sound
    | with_reducible apply putTc_sound
    | with_reducible apply Sound.ite
    | with_reducible apply Sound.foldl
    | with_reducible apply Sound.foldl_fst
    | intro _
    | split
    | (simp only [Sound.lit]; with_reducible apply Sound.parts))

theorem rdmaWriteIn_sound (s : State) (v : Tc) (r : Roce) (hs_ : Sound q_ k_ s) :
    Sound q_ k_ (rdmaWriteIn s v r) := by
  unfold rdmaWriteIn
  try dsimp only
  repeat' (first
    | with_reducible assumption
    | with_reducible apply inOrder_sound
    | with_reducible apply roceFail_sound
    | with_reducible apply hostStore_sound
    | with_reducible apply roceAck_sound
    | with_reducible apply putTc_sound
    | with_reducible apply Sound.ite
    | with_reducible apply Sound.foldl
    | with_reducible apply Sound.foldl_fst
    | intro _
    | split
    | (simp only [Sound.lit]; with_reducible apply Sound.parts))

theorem roceChunks_sound (v : Tc) (f : Nat) (s : State) (a : Word) (left psn : Nat) (h : Sound q_ k_ s) :
    Sound q_ k_ (roceChunks v f s a left psn).1 := by
  induction f generalizing s a left psn with
  | zero => simp only [roceChunks]; assumption
  | succ f_ ih =>
    simp only [roceChunks]
    repeat' (first
      | with_reducible assumption
      | with_reducible apply ih
      | with_reducible apply hostRead_sound
      | with_reducible apply roceOut_sound
      | with_reducible apply Sound.ite
      | with_reducible apply Sound.foldl
      | with_reducible apply Sound.foldl_fst
      | intro _
      | split
      | (simp only [Sound.lit]; with_reducible apply Sound.parts))

theorem rdmaReadIn_sound (s : State) (v : Tc) (r : Roce) (hs_ : Sound q_ k_ s) :
    Sound q_ k_ (rdmaReadIn s v r) := by
  unfold rdmaReadIn
  try dsimp only
  repeat' (first
    | with_reducible assumption
    | with_reducible apply roceOut_sound
    | with_reducible apply roceFail_sound
    | with_reducible apply roceChunks_sound
    | with_reducible apply poisonSlot_sound
    | with_reducible apply poisonOut_sound
    | with_reducible apply putTc_sound
    | with_reducible apply Sound.ite
    | with_reducible apply Sound.foldl
    | with_reducible apply Sound.foldl_fst
    | intro _
    | split
    | (simp only [Sound.lit]; with_reducible apply Sound.parts))

end Sys2Proof.Machine
end

