-- ==== Sys2Proof/Laws/KeepsSideband.lean ====
section
/-! SUPPORT. What every operation of Machine/Sideband.lean keeps (Laws/Sound.lean). -/

namespace Sys2Proof.Machine

variable {q_ : List Instr} {k_ : Nat}

theorem pairPorts_sound (s : State) (hs_ : Sound q_ k_ s) :
    Sound q_ k_ (pairPorts s) := by
  unfold pairPorts
  try dsimp only
  repeat' (first
    | with_reducible assumption
    | with_reducible apply setPortState_sound
    | with_reducible apply Sound.ite
    | with_reducible apply Sound.foldl
    | with_reducible apply Sound.foldl_fst
    | intro _
    | split
    | (simp only [Sound.lit]; with_reducible apply Sound.parts))

theorem joinTeam_sound (s : State) (hs_ : Sound q_ k_ s) :
    Sound q_ k_ (joinTeam s) := by
  unfold joinTeam
  try dsimp only
  repeat' (first
    | with_reducible assumption
    | with_reducible apply pairPorts_sound
    | with_reducible apply setOn_sound
    | with_reducible apply setCsrFld_sound
    | with_reducible apply updateRole_sound
    | with_reducible apply syncYoke_sound
    | with_reducible apply csrSet_sound
    | with_reducible apply Sound.ite
    | with_reducible apply Sound.foldl
    | with_reducible apply Sound.foldl_fst
    | intro _
    | split
    | (simp only [Sound.lit]; with_reducible apply Sound.parts))

theorem teamRecord_sound (seq : Nat) (w : Word) (s : State) (hs_ : Sound q_ k_ s) :
    Sound q_ k_ (teamRecord seq w s) := by
  unfold teamRecord
  try dsimp only
  repeat' (first
    | with_reducible assumption
    | with_reducible apply sbReply_sound
    | with_reducible apply joinTeam_sound
    | with_reducible apply storeReg_sound
    | with_reducible apply Sound.ite
    | with_reducible apply Sound.foldl
    | with_reducible apply Sound.foldl_fst
    | intro _
    | split
    | (simp only [Sound.lit]; with_reducible apply Sound.parts))

theorem functionRecord_sound (seq : Nat) (b : List Byte) (s : State) (hs_ : Sound q_ k_ s) :
    Sound q_ k_ (functionRecord seq b s) := by
  unfold functionRecord
  try dsimp only
  repeat' (first
    | with_reducible assumption
    | with_reducible apply sbReply_sound
    | with_reducible apply takeRecord_sound
    | with_reducible apply Sound.ite
    | with_reducible apply Sound.foldl
    | with_reducible apply Sound.foldl_fst
    | intro _
    | split
    | (simp only [Sound.lit]; with_reducible apply Sound.parts))

theorem statusMsg_sound (seq : Nat) (s : State) (hs_ : Sound q_ k_ s) :
    Sound q_ k_ (statusMsg seq s) := by
  unfold statusMsg
  try dsimp only
  repeat' (first
    | with_reducible assumption
    | with_reducible apply sbReply_sound
    | with_reducible apply setPins_sound
    | with_reducible apply Sound.ite
    | with_reducible apply Sound.foldl
    | with_reducible apply Sound.foldl_fst
    | intro _
    | split
    | (simp only [Sound.lit]; with_reducible apply Sound.parts))

theorem logRead_sound (seq : Nat) (len : Nat) (s : State) (hs_ : Sound q_ k_ s) :
    Sound q_ k_ (logRead seq len s) := by
  unfold logRead
  try dsimp only
  repeat' (first
    | with_reducible assumption
    | with_reducible apply sbReply_sound
    | with_reducible apply Sound.ite
    | with_reducible apply Sound.foldl
    | with_reducible apply Sound.foldl_fst
    | intro _
    | split
    | (simp only [Sound.lit]; with_reducible apply Sound.parts))

theorem retiredPages_sound (seq : Nat) (first : Nat) (s : State) (hs_ : Sound q_ k_ s) :
    Sound q_ k_ (retiredPages seq first s) := by
  unfold retiredPages
  try dsimp only
  repeat' (first
    | with_reducible assumption
    | with_reducible apply sbReply_sound
    | with_reducible apply Sound.ite
    | with_reducible apply Sound.foldl
    | with_reducible apply Sound.foldl_fst
    | intro _
    | split
    | (simp only [Sound.lit]; with_reducible apply Sound.parts))

end Sys2Proof.Machine
end

