-- ==== Sys2Proof/Laws/KeepsTick.lean ====
section
/-! SUPPORT. What every operation of Machine/Tick.lean keeps (Laws/Sound.lean). -/

namespace Sys2Proof.Machine

variable {q_ : List Instr} {k_ : Nat}

theorem tickTime_sound (s : State) (hs_ : Sound q_ k_ s) :
    Sound q_ k_ (tickTime s) := by
  unfold tickTime
  try dsimp only
  repeat' (first
    | with_reducible assumption
    | with_reducible apply setServo_sound
    | with_reducible apply Sound.ite
    | with_reducible apply Sound.foldl
    | with_reducible apply Sound.foldl_fst
    | intro _
    | split
    | (simp only [Sound.lit]; with_reducible apply Sound.parts))

theorem tickFields_sound (s : State) (hs_ : Sound q_ k_ s) :
    Sound q_ k_ (tickFields s) := by
  unfold tickFields
  try dsimp only
  repeat' (first
    | with_reducible assumption
    | with_reducible apply Sound.ite
    | with_reducible apply Sound.foldl
    | with_reducible apply Sound.foldl_fst
    | intro _
    | split
    | (simp only [Sound.lit]; with_reducible apply Sound.parts))

theorem tickCores_sound (old : State) (s : State) (hs_ : Sound q_ k_ s) :
    Sound q_ k_ (tickCores old s) := by
  unfold tickCores
  try dsimp only
  repeat' (first
    | with_reducible assumption
    | with_reducible apply updCore_sound
    | with_reducible apply Sound.ite
    | with_reducible apply Sound.foldl
    | with_reducible apply Sound.foldl_fst
    | intro _
    | split
    | (simp only [Sound.lit]; with_reducible apply Sound.parts))

theorem tickStops_sound (s : State) (hs_ : Sound q_ k_ s) :
    Sound q_ k_ (tickStops s) := by
  unfold tickStops
  try dsimp only
  repeat' (first
    | with_reducible assumption
    | with_reducible apply stopCheck_sound
    | with_reducible apply Sound.ite
    | with_reducible apply Sound.foldl
    | with_reducible apply Sound.foldl_fst
    | intro _
    | split
    | (simp only [Sound.lit]; with_reducible apply Sound.parts))

theorem tickTimers_sound (s : State) (hs_ : Sound q_ k_ s) :
    Sound q_ k_ (tickTimers s) := by
  unfold tickTimers
  try dsimp only
  repeat' (first
    | with_reducible assumption
    | with_reducible apply setPins_sound
    | with_reducible apply setStw_sound
    | with_reducible apply Sound.ite
    | with_reducible apply Sound.foldl
    | with_reducible apply Sound.foldl_fst
    | intro _
    | split
    | (simp only [Sound.lit]; with_reducible apply Sound.parts))

theorem tick_sound (s : State) (hs_ : Sound q_ k_ s) :
    Sound q_ k_ (tick s) := by
  unfold tick
  try dsimp only
  repeat' (first
    | with_reducible assumption
    | with_reducible apply tickStops_sound
    | with_reducible apply tickCores_sound
    | with_reducible apply ageWaiting_sound
    | with_reducible apply tickFields_sound
    | with_reducible apply tickTime_sound
    | with_reducible apply tickTimers_sound
    | with_reducible apply Sound.ite
    | with_reducible apply Sound.foldl
    | with_reducible apply Sound.foldl_fst
    | intro _
    | split
    | (simp only [Sound.lit]; with_reducible apply Sound.parts))

end Sys2Proof.Machine
end

