-- ==== Sys2Proof/Laws/MemAccess.lean ====
section
/-! SUPPORT. What an access to memory through its home slice can change, said once: memory with its poison, the slices, the
queues toward memory, packets, reports, draws, and the counters of blocks HBM and CXL; every other register and everything
else of the module stays (R233 to R252). -/

namespace Sys2Proof.Machine

/-- State s with what an access to memory may change taken from u, the registers apart. -/
def memParts (s u : State) : State :=
  { s with
    free := u.free, net := u.net, nextId := u.nextId, notes := u.notes, slices := u.slices
    hbmQ := u.hbmQ, cxlQ := u.cxlQ, hbm := u.hbm, hbmPoi := u.hbmPoi, hbmErr := u.hbmErr, hbmRepair := u.hbmRepair
    cxl := u.cxl, cxlPoi := u.cxlPoi }

/-- State u is state s after accesses to memory. -/
structure MemStep (s u : State) : Prop where
  frame : u = { memParts s u with csr := u.csr }
  csr : ∀ a, 0x000500000000 ≤ a → csrGet u a = csrGet s a

theorem MemStep.refl (s : State) : MemStep s s := ⟨rfl, fun _ _ => rfl⟩

theorem MemStep.trans {a b c : State} (h : MemStep a b) (g : MemStep b c) : MemStep a c :=
  ⟨by rw [g.frame, h.frame]; rfl, fun x hx => (g.csr x hx).trans (h.csr x hx)⟩

theorem MemStep.fld {s u : State} (h : MemStep s u) (a hi lo : Nat) (ha : 0x000500000000 ≤ a) :
    csrFld u a hi lo = csrFld s a hi lo := by unfold csrFld; rw [h.csr a ha]

/-- A change that leaves all registers alone. -/
theorem MemStep.of {s u : State} (h : u = memParts s u) : MemStep s u := by
  have hc : u.csr = s.csr := by rw [h]; rfl
  refine ⟨?_, fun x _ => csrGet_eq_csr s u hc x⟩
  rw [hc]; exact h

/-- A change of one low register. -/
theorem MemStep.set (s : State) (o hi lo v : Nat) (h : o < 0x000500000000) : MemStep s (setCsrFld s o hi lo v) :=
  ⟨rfl, fun x hx => csrGet_setFld_ne s o x hi lo v (by omega)⟩

theorem MemStep.sat (s : State) (o hi lo v : Nat) (h : o < 0x000500000000) : MemStep s (satCsrFld s o hi lo v) :=
  MemStep.set _ _ _ _ _ h

theorem MemStep.foldl {β : Type} {f : State → β → State} (hf : ∀ s b, MemStep s (f s b)) (l : List β) :
    ∀ s, MemStep s (l.foldl f s) := by
  induction l with
  | nil => exact MemStep.refl
  | cons a l ih => exact fun s => (hf s a).trans (ih (f s a))

theorem MemStep.foldl_fst {β γ : Type} {f : State × γ → β → State × γ} (hf : ∀ s b, MemStep s.1 (f s b).1) (l : List β) :
    ∀ s, MemStep s.1 (l.foldl f s).1 := by
  induction l with
  | nil => exact fun s => MemStep.refl s.1
  | cons a l ih => exact fun s => (hf s a).trans (ih (f s a))

theorem hbmStack_lt (s : State) (a : Nat) : hbmStack s a < 12 := by
  have h : 0 < hbmN s ∧ hbmN s ≤ 6 := by unfold hbmN; split <;> omega
  unfold hbmStack
  have := Nat.mod_lt (a / 4096) h.1
  have := Nat.mod_lt ((a - hbmG s) / 4096) h.1
  split <;> omega

theorem keyOff_lt (k : Nat) : keyOff k < 2 ^ 46 := by
  unfold keyOff adOff bits
  exact Nat.mod_lt _ (by decide)

theorem sectorStore_mem (s : State) (n : Nat) (ws : List PWord) : MemStep s (sectorStore s n ws) := MemStep.of rfl

theorem sectorUE_mem (s : State) (n : Nat) : MemStep s (sectorUE s n) := by
  have hk := hbmStack_lt s (32 * n)
  unfold sectorUE
  extract_lets k s1 s2 s3
  have h1 : MemStep s s1 := MemStep.sat _ _ _ _ _ (by unfold aHbmStat; omega)
  have h2 : MemStep s1 s2 :=
    (MemStep.set _ _ _ _ _ (by unfold aHbmLastUe; omega)).trans (MemStep.set _ _ _ _ _ (by unfold aHbmLastUe; omega))
  have h3 : MemStep s2 s3 := MemStep.of rfl
  refine h1.trans (h2.trans (h3.trans (.trans (.of ?_) (sectorStore_mem _ _ _))))
  rfl

theorem sectorRead_mem (s : State) (sec : Nat) : MemStep s (sectorRead s sec).1 := by
  have hce : ∀ u : State, MemStep u (satCsrFld u (aHbmStat (hbmStack u (32 * sec))) 63 48 1) := fun u =>
    MemStep.sat _ _ _ _ _ (by have := hbmStack_lt u (32 * sec); unfold aHbmStat; omega)
  have hfree : MemStep s { s with free := s.free + 5 } := MemStep.of rfl
  unfold sectorRead
  dsimp only
  split
  · exact MemStep.refl s
  · split
    · exact (sectorStore_mem _ _ _).trans (hce _)
    · split
      · exact sectorUE_mem _ _
      · split
        · exact hfree.trans (sectorUE_mem _ _)
        · exact (hfree.trans (sectorStore_mem _ _ _)).trans (hce _)
        · exact hfree.trans (sectorStore_mem _ _ _)

theorem hbmLineRead_mem (s : State) (o : Nat) : MemStep s (hbmLineRead s o).1 :=
  MemStep.foldl_fst (f := fun (a : State × List PWord) i => ((sectorRead a.1 (o / 32 + i)).1,
    a.2 ++ (sectorRead a.1 (o / 32 + i)).2)) (fun _ _ => sectorRead_mem _ _) _ (s, [])

theorem hbmPartRead_mem (s : State) (o off n : Nat) : MemStep s (hbmPartRead s o off n).1 := by
  unfold hbmPartRead
  dsimp only
  refine MemStep.foldl_fst (fun a i => ?_) _ (s, [])
  exact sectorRead_mem _ _

theorem hbmLineWrite_mem (s : State) (o off : Nat) (ws : List PWord) :
    MemStep s (hbmLineWrite s o off ws) := by
  refine MemStep.foldl (fun s i => ?_) _ _
  dsimp only
  split
  · exact MemStep.refl s
  · split
    · exact sectorStore_mem _ _ _
    · split
      · exact sectorRead_mem _ _
      · exact (sectorRead_mem _ _).trans (sectorStore_mem _ _ _)

theorem cxlLineRead_mem (s : State) (o off n : Nat) (poi : List Nat) (h : o < 2 ^ 46) : MemStep s (cxlLineRead s o off n poi).1 := by
  refine MemStep.foldl_fst (fun a i => ?_) _ (s, _)
  dsimp only
  split
  · exact MemStep.sat _ _ _ _ _ (by unfold aCxlErr; omega)
  · exact MemStep.refl _

theorem cxlLineWrite_mem (s : State) (o off : Nat) (ws : List PWord) : MemStep s (cxlLineWrite s o off ws) := by
  refine MemStep.foldl (fun s i => ?_) _ _
  dsimp only
  split
  · exact MemStep.refl s
  · exact MemStep.of rfl

theorem replySlice_mem (s : State) (f : Nat) (q : Packet) : MemStep s (replySlice s f q) := by
  unfold replySlice injectEdge
  dsimp only
  split
  · exact MemStep.of rfl
  · exact MemStep.refl s

theorem fillAnswer_mem (s : State) (id st : Nat) (ws : List PWord) : MemStep s (fillAnswer s id st ws) := MemStep.of rfl

theorem hbmPerform_mem (s : State) (j : MemJob) : MemStep s (hbmPerform s j) := by
  unfold hbmPerform
  dsimp only
  split
  · split
    · exact (hbmLineRead_mem _ _).trans (fillAnswer_mem _ _ _ _)
    · exact hbmLineRead_mem _ _
  · exact hbmLineWrite_mem _ _ _ _
  · exact (hbmPartRead_mem _ _ _ _).trans (hbmLineWrite_mem _ _ _ _)
  · split
    · split
      · exact (hbmPartRead_mem _ _ _ _).trans (replySlice_mem _ _ _)
      · exact ((hbmPartRead_mem _ _ _ _).trans (hbmLineWrite_mem _ _ _ _)).trans (replySlice_mem _ _ _)
    · split
      · exact hbmPartRead_mem _ _ _ _
      · exact (hbmPartRead_mem _ _ _ _).trans (hbmLineWrite_mem _ _ _ _)

theorem cxlReply_mem (s : State) (p : Nat) (j : MemJob) (st : Nat) (old : List PWord) : MemStep s (cxlReply s p j st old) := by
  unfold cxlReply
  dsimp only
  split
  · exact MemStep.refl s
  · split
    · refine .trans (.of ?_) (replySlice_mem _ _ _)
      rfl
    · split
      · exact MemStep.refl s
      · exact replySlice_mem _ _ _

theorem cxlPerform_mem (s : State) (p : Nat) (j : MemJob) (poi : List Nat) : MemStep s (cxlPerform s p j poi) := by
  have h : ∀ u off n l, MemStep u (cxlLineRead u (keyOff j.addr) off n l).1 := fun u off n l =>
    cxlLineRead_mem u _ off n l (keyOff_lt _)
  unfold cxlPerform
  dsimp only
  split
  · split
    · exact (h _ _ _ _).trans (fillAnswer_mem _ _ _ _)
    · exact h _ _ _ _
  · exact (cxlLineWrite_mem _ _ _ _).trans (cxlReply_mem _ _ _ _ _)
  · exact ((h _ _ _ _).trans (cxlLineWrite_mem _ _ _ _)).trans (cxlReply_mem _ _ _ _ _)
  · split
    · exact (h _ _ _ _).trans (cxlReply_mem _ _ _ _ _)
    · exact ((h _ _ _ _).trans (cxlLineWrite_mem _ _ _ _)).trans (cxlReply_mem _ _ _ _ _)

theorem settleLine_mem (s : State) (k : Nat) : MemStep s (settleLine s k) := by
  unfold settleLine
  dsimp only
  split
  · refine .trans (.of ?_) (MemStep.foldl (fun _ _ => hbmPerform_mem _ _) _ _)
    rfl
  · refine .trans (.of ?_) (MemStep.foldl (fun _ _ => cxlPerform_mem _ _ _ _) _ _)
    rfl

theorem applyAtSlice_mem (s : State) (f k : Nat) (o : LineOp) : MemStep s (applyAtSlice s f k o) := by
  unfold applyAtSlice
  dsimp only
  split <;> exact MemStep.of rfl

theorem homeOf_lt (s : State) (k : Nat) : homeOf s k < 6 := by
  have := hbmStack_lt s (keyOff k)
  unfold homeOf stackSlice portSlice
  repeat' split
  all_goals omega

theorem wordEcc_mem (f k : Nat) (s : State) (i : Nat) (hf : f < 6) : MemStep s (wordEcc f k s i) := by
  have hsat : ∀ (u : State) (hi lo : Nat), MemStep u (satCsrFld u (aGrnEcc f) hi lo 1) := fun u hi lo =>
    MemStep.sat _ _ _ _ _ (by unfold aGrnEcc aGrn; omega)
  have hfix : ∀ (u : State) (w : PWord), MemStep u (fixWord u f k i w) := fun _ _ => MemStep.of rfl
  have hdrop : ∀ u : State, MemStep u (dropLine u f k) := fun _ => MemStep.of rfl
  have hfree : MemStep s { s with free := s.free + 2 } := MemStep.of rfl
  unfold wordEcc
  split
  · exact MemStep.refl s
  · dsimp only
    repeat' split
    · exact MemStep.refl s
    · exact (hfix _ _).trans (hsat _ _ _)
    · exact (hdrop _).trans (hsat _ _ _)
    · exact (hfree.trans (hdrop _)).trans (hsat _ _ _)
    · exact (hfree.trans (hfix _ _)).trans (hsat _ _ _)
    · exact hfree.trans (hfix _ _)

/-- Checking the words of a line that are read. -/
theorem lineEcc_mem (s : State) (f k off n : Nat) (hf : f < 6) : MemStep s (lineEcc s f k off n) :=
  MemStep.foldl (fun s i => wordEcc_mem f k s (off + i) hf) _ s

theorem lineReadNow_mem (s : State) (k off n : Nat) : MemStep s (lineReadNow s k off n).1 := by
  have h := (settleLine_mem s k).trans (lineEcc_mem _ _ k off n (homeOf_lt (settleLine s k) k))
  delta lineReadNow
  dsimp only
  generalize lineEcc (settleLine s k) (homeOf (settleLine s k) k) k off n = u at h ⊢
  split
  · exact h
  · split
    · exact h.trans (hbmPartRead_mem _ _ _ _)
    · exact h.trans (cxlLineRead_mem _ _ _ _ _ (keyOff_lt _))

theorem lineWriteNow_mem (s : State) (k off : Nat) (ws : List PWord) : MemStep s (lineWriteNow s k off ws) := by
  have h := (settleLine_mem s k).trans (applyAtSlice_mem _ (homeOf s k) k (.store off ws))
  delta lineWriteNow
  dsimp only
  generalize applyAtSlice (settleLine s k) (homeOf s k) k (.store off ws) = u at h ⊢
  generalize keyOff k = o
  generalize keyTier k = n
  split
  · exact h.trans (hbmLineWrite_mem u _ _ _)
  · exact h.trans (cxlLineWrite_mem u _ _ _)

/-- Reading words of memory. -/
theorem memReadWords_mem (s : State) (a : Word) (n : Nat) : MemStep s (memReadWords s a n).1 := by
  delta memReadWords
  generalize piecesOf s (n + 2) a n = l
  have h := MemStep.foldl_fst (f := fun (x : State × List PWord) y => ((lineReadNow x.1 y.1 y.2.1 y.2.2).1,
    x.2 ++ (lineReadNow x.1 y.1 y.2.1 y.2.2).2)) (fun x y => by dsimp only; exact lineReadNow_mem x.1 y.1 y.2.1 y.2.2) l (s, [])
  exact h

/-- Writing words of memory. -/
theorem memWriteWords_mem (s : State) (a : Word) (ws : List PWord) : MemStep s (memWriteWords s a ws) := by
  delta memWriteWords
  generalize piecesOf s (ws.length + 2) a ws.length = l
  have h := MemStep.foldl_fst (f := fun (x : State × List PWord) y =>
    (lineWriteNow x.1 y.1 y.2.1 (x.2.take y.2.2), x.2.drop y.2.2))
    (fun x y => by dsimp only; exact lineWriteNow_mem x.1 y.1 y.2.1 (x.2.take y.2.2)) l (s, ws)
  exact h

end Sys2Proof.Machine
end

