-- ==== Sys2Proof/Laws/Scratchpad.lean ====
section
/-! SUPPORT. What an access to the scratchpad of a core can change, said once: the scratchpad, its error counts and the
report of a bad word; everything else stays. -/

namespace Sys2Proof.Machine

/-- Core `m` is core `k` but for its scratchpad and CORE_SPD_ECC. -/
structure SpdOnly (k m : Core) : Prop where
  core : m = { k with spd := m.spd, spdPoi := m.spdPoi, spdFlip := m.spdFlip, regs := m.regs }
  regs : ∀ o, o ≠ oSpdEcc → creg m o = creg k o

/-- State `u` is state `s` but for the scratchpad of core c, the steward's list of bad lines, reports and draws. -/
structure SpdStep (c : Nat) (s u : State) : Prop where
  state : u = { s with cores := u.cores, notes := u.notes, free := u.free,
                       stw := { s.stw with ueLines := u.stw.ueLines } }
  core : SpdOnly (getCore s c) (getCore u c)
  others : ∀ d, d ≠ c → getCore u d = getCore s d

theorem SpdOnly.refl (k : Core) : SpdOnly k k := ⟨rfl, fun _ _ => rfl⟩

theorem SpdOnly.trans {a b c : Core} (h : SpdOnly a b) (g : SpdOnly b c) : SpdOnly a c := by
  refine ⟨?_, fun o ho => (g.regs o ho).trans (h.regs o ho)⟩
  rw [g.core, h.core]

theorem SpdStep.refl (c : Nat) (s : State) : SpdStep c s s := ⟨rfl, .refl _, fun _ _ => rfl⟩

theorem SpdStep.trans {c : Nat} {a b d : State} (h : SpdStep c a b) (g : SpdStep c b d) : SpdStep c a d := by
  refine ⟨?_, h.core.trans g.core, fun x hx => (g.others x hx).trans (h.others x hx)⟩
  rw [g.state, h.state]

/-- A change of one core that is `SpdOnly`. -/
theorem SpdStep.upd (c : Nat) (s : State) (k : Core) (h : SpdOnly (getCore s c) k) : SpdStep c s (setCore s c k) :=
  ⟨rfl, by rw [getCore_setCore]; exact h, fun _ hd => getCore_setCore_ne _ _ _ _ hd⟩

theorem spdStore_only (k : Core) (w : Nat) (v : PWord) : SpdOnly k (spdStore k w v) := ⟨rfl, fun _ _ => rfl⟩

theorem setCreg_ecc_only (k : Core) (v : Word) : SpdOnly k (setCreg k oSpdEcc v) :=
  ⟨rfl, fun o ho => creg_setCreg_ne k oSpdEcc o v ho⟩

theorem setCfld_ecc_only (k : Core) (hi lo v : Nat) : SpdOnly k (setCfld k oSpdEcc hi lo v) := setCreg_ecc_only k _

theorem satCfld_ecc_only (k : Core) (hi lo v : Nat) : SpdOnly k (satCfld k oSpdEcc hi lo v) := setCreg_ecc_only k _

theorem spdCE_only (k : Core) : SpdOnly k (spdCE k) := satCfld_ecc_only k _ _ _

theorem spdUE_only (k : Core) (w : Nat) : SpdOnly k (spdUE k w) :=
  (((spdStore_only k w ⟨0#64, true⟩).trans (satCfld_ecc_only _ _ _ _)).trans (setCfld_ecc_only _ _ _ _)).trans
    (setCfld_ecc_only _ _ _ _)

theorem spdBad_step (c : Nat) (s : State) (w : Nat) : SpdStep c s (spdBad s c w) := by
  have h := SpdStep.upd c s (spdUE (getCore s c) w) (spdUE_only _ _)
  exact ⟨rfl, h.core, h.others⟩

/-- Reading a word changes only the scratchpad's own state (R141). -/
theorem spdRead_step (c : Nat) (s : State) (w : Nat) : SpdStep c s (spdRead s c w).1 := by
  have hf : ∀ n, SpdStep c s { s with free := n } := fun n => ⟨rfl, .refl _, fun _ _ => rfl⟩
  unfold spdRead
  dsimp only
  split
  · exact .refl c s
  · split
    · exact spdBad_step c s w
    · split
      · exact .upd c s _ ((spdStore_only _ _ _).trans (spdCE_only _))
      · split
        · exact spdBad_step c s w
        · split
          · exact (hf _).trans (spdBad_step c _ w)
          · exact (hf _).trans (.upd c _ _ ((spdStore_only _ _ _).trans (spdCE_only _)))
          · exact hf _
          · exact hf _

/-- Writing a word changes only the scratchpad's own state (R142). -/
theorem spdWrite_step (c : Nat) (s : State) (w : Nat) (mask : Word) (v : PWord) :
    SpdStep c s (spdWrite s c w mask v) := by
  unfold spdWrite
  split
  · exact .upd c s _ (spdStore_only _ _ _)
  · split
    · exact .upd c s _ (spdStore_only _ _ _)
    · dsimp only
      split
      · exact spdRead_step c s w
      · exact (spdRead_step c s w).trans (.upd c _ _ (spdStore_only _ _ _))

theorem spdReadWords_step (c : Nat) (s : State) (w n : Nat) : SpdStep c s (spdReadWords s c w n).1 := by
  induction n generalizing s w with
  | zero => exact .refl c s
  | succ n ih => exact (spdRead_step c s _).trans (ih _ _)

theorem spdWriteWords_step (c : Nat) (s : State) (w : Nat) (l : List PWord) : SpdStep c s (spdWriteWords s c w l) := by
  induction l generalizing s w with
  | nil => exact .refl c s
  | cons v l ih => exact (spdWrite_step c s _ _ _).trans (ih _ _)

theorem spdReadIn_step (c : Nat) (s : State) (a n : Nat) : SpdStep c s (spdReadIn s c a n).1 := spdRead_step c s _

theorem spdWriteIn_step (c : Nat) (s : State) (a n : Nat) (v : PWord) : SpdStep c s (spdWriteIn s c a n v) :=
  spdWrite_step c s _ _ _

theorem readParts_step (c : Nat) (s : State) (l : List (Nat × Nat)) : SpdStep c s (readParts s c l).1 := by
  induction l generalizing s with
  | nil => exact .refl c s
  | cons e l ih => exact (spdReadIn_step c s _ _).trans (ih _)

theorem readLanes_step (c : Nat) (s : State) (form : Nat) (a b : Word) (m : BitVec 16) (l : List Nat) :
    SpdStep c s (readLanes s c form a b m l).1 := by
  induction l generalizing s with
  | nil => exact .refl c s
  | cons k l ih =>
    unfold readLanes
    split
    · exact (readParts_step c s _).trans (ih _)
    · exact ih _

theorem writePuts_step (c : Nat) (s : State) (l : List WordPut) : SpdStep c s (writePuts s c l) := by
  induction l generalizing s with
  | nil => exact .refl c s
  | cons e l ih => exact (spdWrite_step c s _ _ _).trans (ih _)

theorem freeRow_step (c : Nat) (s : State) (w m n : Nat) : SpdStep c s (freeRow s c w m n) := by
  induction n generalizing s w m with
  | zero => exact .refl c s
  | succ n ih =>
    unfold freeRow
    dsimp only
    split
    · exact ih _ _ _
    · refine SpdStep.trans ?_ ((spdWrite_step c _ _ _ _).trans (ih _ _ _))
      exact ⟨rfl, .refl _, fun _ _ => rfl⟩

theorem freeDrain_step (m : MatCmd) (c : Nat) (s : State) (r : Nat) : SpdStep c s (freeDrain m c s r) := by
  have draw : ∀ u : State, SpdStep c u { u with free := u.free + 1 } := fun u => ⟨rfl, .refl _, fun _ _ => rfl⟩
  have scale : SpdStep c s (if outIsMX (bits m.b 3 0) && !(drainCols m r).isEmpty then
      spdWriteIn { freeRow s c (drainWord m r) (drainMask m r) (outRowBytes (bits m.b 3 0) / 8) with
          free := (freeRow s c (drainWord m r) (drainMask m r) (outRowBytes (bits m.b 3 0) / 8)).free + 1 } c
        (bits m.a 62 48 * 8 + r) 1
        ⟨Config.freeWord (freeRow s c (drainWord m r) (drainMask m r) (outRowBytes (bits m.b 3 0) / 8)).free, false⟩
      else freeRow s c (drainWord m r) (drainMask m r) (outRowBytes (bits m.b 3 0) / 8)) := by
    split
    · exact (freeRow_step c s _ _ _).trans ((draw _).trans (spdWriteIn_step c _ _ _ _))
    · exact freeRow_step c s _ _ _
  unfold freeDrain
  dsimp only
  by_cases h : (bit m.b 14 && bit m.c r) = true
  · rw [if_pos h]
    exact scale.trans ((draw _).trans (spdWrite_step c _ _ _ _))
  · rw [if_neg h]
    exact scale

/-! What an access leaves, by the parts of a core that instructions use. -/

theorem SpdStep.threads {c : Nat} {s u : State} (h : SpdStep c s u) : (getCore u c).threads = (getCore s c).threads := by
  rw [h.core.core]

theorem SpdStep.thread {c : Nat} {s u : State} (h : SpdStep c s u) (t : Nat) :
    getThread (getCore u c) t = getThread (getCore s c) t := by
  unfold getThread
  rw [h.threads]

theorem SpdStep.stopped {c : Nat} {s u : State} (h : SpdStep c s u) : (getCore u c).stopped = (getCore s c).stopped := by
  rw [h.core.core]

end Sys2Proof.Machine
end

