-- ==== Sys2Proof/Laws/PadBytes.lean ====
section
/-! SUPPORT. Byte by byte: what a read of part of a scratchpad word answers, and what a write of part of one leaves, where the
word carries no error and no poison. -/

namespace Sys2Proof.Machine

theorem rdLE_add (m : FMap Byte) (b i n : Nat) : rdLE m b (i + n) = rdLE m b i + 256 ^ i * rdLE m (b + i) n := by
  induction i generalizing b with
  | zero => simp [rdLE]
  | succ i ih =>
    have : i + 1 + n = i + n + 1 := by omega
    rw [this, rdLE, rdLE, ih (b + 1), Nat.pow_succ]
    have e : b + 1 + i = b + (i + 1) := by omega
    rw [e, Nat.mul_add, ← Nat.mul_assoc, Nat.mul_comm 256 (256 ^ i)]
    omega

theorem rdLE_lt (m : FMap Byte) (a n : Nat) : rdLE m a n < 256 ^ n := by
  induction n generalizing a with
  | zero => simp [rdLE]
  | succ n ih =>
    have h := ih (a + 1)
    have h1 := (rdByte m a).isLt
    rw [rdLE, Nat.pow_succ]
    omega

theorem rdByte_wrLE_in (m : FMap Byte) (a v n j : Nat) (h : j < n) :
    rdByte (wrLE m a v n) (a + j) = BitVec.ofNat 8 (v / 256 ^ j) := by
  induction n generalizing m a v j with
  | zero => omega
  | succ n ih =>
    rw [wrLE]
    cases j with
    | zero => rw [rdByte_wrLE_out _ _ _ _ _ (by omega), rdByte_wrByte]; simp
    | succ j =>
      have e : a + (j + 1) = a + 1 + j := by omega
      rw [e, ih _ _ _ _ (by omega), Nat.div_div_eq_div_mul, Nat.pow_succ, Nat.mul_comm]

/-- Byte j of a scratchpad word is bits [8j+7:8j] of the word. -/
theorem getLsbD_raw (k : Core) (w j i : Nat) (hj : j < 8) (hi : i < 8) :
    (spdRaw k w).getLsbD (8 * j + i) = (rdByte k.spd (8 * w + j)).getLsbD i := by
  have h8 : (8 : Nat) = j + (1 + (7 - j)) := by omega
  have hr : rdLE k.spd (8 * w) 8 = rdLE k.spd (8 * w) j + 256 ^ j * ((rdByte k.spd (8 * w + j)).toNat
      + 256 * rdLE k.spd (8 * w + j + 1) (7 - j)) := by
    have h8' : rdLE k.spd (8 * w) 8 = rdLE k.spd (8 * w) (j + (1 + (7 - j))) := by rw [← h8]
    rw [h8', rdLE_add, Nat.add_comm 1 (7 - j), rdLE]
  unfold spdRaw
  rw [BitVec.getLsbD_ofNat, hr]
  have hlt := rdLE_lt k.spd (8 * w) j
  have h64 : 8 * j + i < 64 := by omega
  have hp : (256 : Nat) ^ j = 2 ^ (8 * j) := by rw [Nat.pow_mul]
  rw [hp] at hlt ⊢
  rw [Nat.add_comm (rdLE k.spd (8 * w) j), Nat.testBit_two_pow_mul_add _ hlt]
  have : ¬ (8 * j + i < 8 * j) := by omega
  have e : 8 * j + i - 8 * j = i := by omega
  simp only [h64, this, if_false, e, decide_true, Bool.true_and]
  have h256 : (256 : Nat) = 2 ^ 8 := rfl
  rw [Nat.add_comm, h256, Nat.testBit_two_pow_mul_add _ (rdByte k.spd (8 * w + j)).isLt, if_pos hi]
  rfl

theorem popcount_zero : popcount (0#72) = 0 := by decide

/-- A word without flipped bits reads as it stands (R141). -/
theorem spdRead_clean (s : State) (c w : Nat) (h : fget noFlip (getCore s c).spdFlip w = 0#72) :
    spdRead s c w = (s, ⟨spdRaw (getCore s c) w, fget noPoi (getCore s c).spdPoi w⟩) := by
  unfold spdRead
  simp only [h, popcount_zero, if_true]

/-- The n bytes at an address inside one clean word. -/
theorem spdReadIn_clean (s : State) (c a n : Nat) (ha : a < 262144) (hn : a % 8 + n ≤ 8)
    (h : fget noFlip (getCore s c).spdFlip (a / 8) = 0#72) (hp : fget noPoi (getCore s c).spdPoi (a / 8) = false) :
    spdReadIn s c a n = (s, ⟨BitVec.ofNat 64 (rdLE (getCore s c).spd a n), false⟩) := by
  unfold spdReadIn
  rw [Nat.mod_eq_of_lt ha]
  dsimp only
  rw [spdRead_clean s c (a / 8) h, hp]
  have hraw : (spdRaw (getCore s c) (a / 8)).toNat = rdLE (getCore s c).spd (8 * (a / 8)) 8 := by
    unfold spdRaw
    rw [BitVec.toNat_ofNat]
    apply Nat.mod_eq_of_lt
    have := rdLE_lt (getCore s c).spd (8 * (a / 8)) 8
    simpa using this
  have h8 : (8 : Nat) = a % 8 + (n + (8 - a % 8 - n)) := by omega
  have hb : 8 * (a / 8) + a % 8 = a := Nat.div_add_mod a 8
  have hr : rdLE (getCore s c).spd (8 * (a / 8)) 8 = rdLE (getCore s c).spd (8 * (a / 8)) (a % 8)
      + 256 ^ (a % 8) * (rdLE (getCore s c).spd a n + 256 ^ n * rdLE (getCore s c).spd (a + n) (8 - a % 8 - n)) := by
    have h8' : rdLE (getCore s c).spd (8 * (a / 8)) 8 =
        rdLE (getCore s c).spd (8 * (a / 8)) (a % 8 + (n + (8 - a % 8 - n))) := by rw [← h8]
    rw [h8', rdLE_add, hb, rdLE_add]
  have e : (spdRaw (getCore s c) (a / 8)).toNat >>> (8 * (a % 8)) % 2 ^ (8 * n) = rdLE (getCore s c).spd a n := by
    rw [hraw, hr, Nat.shiftRight_eq_div_pow]
    have hp2 : (2 : Nat) ^ (8 * (a % 8)) = 256 ^ (a % 8) := by rw [Nat.pow_mul]
    have hp3 : (2 : Nat) ^ (8 * n) = 256 ^ n := by rw [Nat.pow_mul]
    rw [hp2, hp3, Nat.add_mul_div_left _ _ (Nat.pow_pos (by omega)),
      Nat.div_eq_of_lt (rdLE_lt _ _ _), Nat.zero_add, Nat.add_mul_mod_self_left,
      Nat.mod_eq_of_lt (rdLE_lt _ _ _)]
  rw [e]

theorem getLsbD_byteOf (v j i : Nat) (hi : i < 8) : (BitVec.ofNat 8 (v / 256 ^ j)).getLsbD i = v.testBit (8 * j + i) := by
  have : (256 : Nat) ^ j = 2 ^ (8 * j) := by rw [Nat.pow_mul]
  rw [BitVec.getLsbD_ofNat, this, Nat.testBit_div_two_pow]
  simp [hi, Nat.add_comm]

/-- The core after a write of n < 8 bytes inside one clean word: the word stays clean and each byte of the scratchpad is the
written one or what it was. -/
theorem spdWriteIn_clean (s : State) (c a n v : Nat) (ha : a < 262144) (hn : a % 8 + n ≤ 8) (h0 : 0 < n) (h7 : n < 8)
    (hv : v < 2 ^ 64)
    (h : fget noFlip (getCore s c).spdFlip (a / 8) = 0#72) (hp : fget noPoi (getCore s c).spdPoi (a / 8) = false) :
    ∃ k, spdWriteIn s c a n ⟨BitVec.ofNat 64 v, false⟩ = setCore s c k
      ∧ (∀ w, fget noFlip k.spdFlip w = if w = a / 8 then 0#72 else fget noFlip (getCore s c).spdFlip w)
      ∧ (∀ w, fget noPoi k.spdPoi w = if w = a / 8 then false else fget noPoi (getCore s c).spdPoi w)
      ∧ (∀ x, rdByte k.spd x = if a ≤ x ∧ x < a + n then BitVec.ofNat 8 (v / 256 ^ (x - a))
          else rdByte (getCore s c).spd x) := by
  have hmask : BitVec.ofNat 64 ((2 ^ (8 * n) - 1) <<< (8 * (a % 8))) ≠ BitVec.allOnes 64 := by
    intro e
    by_cases hz : a % 8 = 0
    · have := congrArg (fun b => b.getLsbD 63) e
      simp only [BitVec.getLsbD_ofNat, Nat.testBit_shiftLeft, Nat.testBit_two_pow_sub_one, BitVec.getLsbD_allOnes] at this
      rw [hz] at this
      have h1 : ¬ (63 < 8 * n) := by omega
      simp [h1] at this
    · have := congrArg (fun b => b.getLsbD 0) e
      simp only [BitVec.getLsbD_ofNat, Nat.testBit_shiftLeft, Nat.testBit_two_pow_sub_one, BitVec.getLsbD_allOnes] at this
      have h1 : ¬ (8 * (a % 8) ≤ 0) := by omega
      simp [h1] at this
  unfold spdWriteIn
  rw [Nat.mod_eq_of_lt ha]
  dsimp only
  unfold spdWrite
  simp only [Bool.false_eq_true, if_false, hmask, spdRead_clean s c (a / 8) h, hp]
  generalize hW : (((spdRaw (getCore s c) (a / 8) &&& ~~~BitVec.ofNat 64 ((2 ^ (8 * n) - 1) <<< (8 * (a % 8)))) |||
    (BitVec.ofNat 64 (((BitVec.ofNat 64 v).toNat % 2 ^ (8 * n)) <<< (8 * (a % 8)))
      &&& BitVec.ofNat 64 ((2 ^ (8 * n) - 1) <<< (8 * (a % 8)))))) = W
  refine ⟨spdStore (getCore s c) (a / 8) ⟨W, false⟩, rfl, ?_, ?_, ?_⟩
  · intro w
    show fget noFlip (fset noFlip (getCore s c).spdFlip (a / 8) 0#72) w = _
    rw [fget_fset]
    by_cases e : w = a / 8
    · simp [e]
    · have : ¬ a / 8 = w := fun h => e h.symm
      simp [e, this]
  · intro w
    show fget noPoi (fset noPoi (getCore s c).spdPoi (a / 8) false) w = _
    rw [fget_fset]
    by_cases e : w = a / 8
    · simp [e]
    · have : ¬ a / 8 = w := fun h => e h.symm
      simp [e, this]
  · intro x
    show rdByte (wrLE (getCore s c).spd (8 * (a / 8)) W.toNat 8) x = _
    by_cases hx : x / 8 = a / 8
    · obtain ⟨j, hj, rfl⟩ : ∃ j, j < 8 ∧ x = 8 * (a / 8) + j := ⟨x % 8, by omega, by omega⟩
      rw [rdByte_wrLE_in _ _ _ _ _ hj]
      apply BitVec.eq_of_getLsbD_eq
      intro i hi
      rw [getLsbD_byteOf _ _ _ hi]
      have hWb : W.toNat.testBit (8 * j + i) = W.getLsbD (8 * j + i) := rfl
      rw [hWb, ← hW]
      have h64 : 8 * j + i < 64 := by omega
      simp only [BitVec.getLsbD_or, BitVec.getLsbD_and, BitVec.getLsbD_not, BitVec.getLsbD_ofNat, Nat.testBit_shiftLeft,
        Nat.testBit_two_pow_sub_one, Nat.testBit_mod_two_pow, h64, decide_true, Bool.true_and, BitVec.toNat_ofNat,
        Nat.mod_eq_of_lt hv]
      have hsh : (8 * (a % 8) ≤ 8 * j + i) ↔ a % 8 ≤ j := by omega
      by_cases h1 : a ≤ 8 * (a / 8) + j ∧ 8 * (a / 8) + j < a + n
      · have h2 : a % 8 ≤ j := by omega
        have h3 : 8 * j + i - 8 * (a % 8) < 8 * n := by omega
        have h4 : 8 * (a / 8) + j - a = j - a % 8 := by omega
        rw [if_pos h1, h4, getLsbD_byteOf _ _ _ hi]
        have h5 : 8 * j + i - 8 * (a % 8) = 8 * (j - a % 8) + i := by omega
        rw [h5] at h3
        simp only [hsh.mpr h2, h5, h3, decide_true, Bool.true_and, Bool.not_true, Bool.and_false, Bool.false_or,
          Bool.and_true]
      · rw [if_neg h1, ← getLsbD_raw _ _ _ _ hj hi]
        have h2 : ¬ (a % 8 ≤ j ∧ 8 * j + i - 8 * (a % 8) < 8 * n) := by omega
        by_cases h3 : a % 8 ≤ j
        · have h4 : ¬ (8 * j + i - 8 * (a % 8) < 8 * n) := fun h => h2 ⟨h3, h⟩
          simp [h4]
        · have h4 : ¬ (8 * (a % 8) ≤ 8 * j + i) := fun h => h3 (hsh.mp h)
          simp [h4]
    · rw [rdByte_wrLE_out _ _ _ _ _ (by omega)]
      have : ¬ (a ≤ x ∧ x < a + n) := by omega
      rw [if_neg this]

end Sys2Proof.Machine
end

