-- ==== Sys2Proof/Laws/State.lean ====
section
/-! SUPPORT. One lemma for each field of the state and each named update of it; the same for the fields of a core. Each is
true by definition and rewrites, so that no proof unfolds a record update. -/

namespace Sys2Proof.Machine

/-! `setCore` -/

@[simp] theorem setCore_pending (s : State) (c : Nat) (k : Core) : (setCore s c k).pending = s.pending := rfl
@[simp] theorem setCore_free (s : State) (c : Nat) (k : Core) : (setCore s c k).free = s.free := rfl
@[simp] theorem setCore_code (s : State) (c : Nat) (k : Core) : (setCore s c k).code = s.code := rfl
@[simp] theorem setCore_now (s : State) (c : Nat) (k : Core) : (setCore s c k).now = s.now := rfl
@[simp] theorem setCore_qcyc (s : State) (c : Nat) (k : Core) : (setCore s c k).qcyc = s.qcyc := rfl
@[simp] theorem setCore_cores (s : State) (c : Nat) (k : Core) : (setCore s c k).cores = fset core0 s.cores c k := rfl
@[simp] theorem setCore_plots (s : State) (c : Nat) (k : Core) : (setCore s c k).plots = s.plots := rfl
@[simp] theorem setCore_csr (s : State) (c : Nat) (k : Core) : (setCore s c k).csr = s.csr := rfl
@[simp] theorem setCore_net (s : State) (c : Nat) (k : Core) : (setCore s c k).net = s.net := rfl
@[simp] theorem setCore_nextId (s : State) (c : Nat) (k : Core) : (setCore s c k).nextId = s.nextId := rfl
@[simp] theorem setCore_arb (s : State) (c : Nat) (k : Core) : (setCore s c k).arb = s.arb := rfl
@[simp] theorem setCore_place (s : State) (c : Nat) (k : Core) : (setCore s c k).place = s.place := rfl
@[simp] theorem setCore_lost (s : State) (c : Nat) (k : Core) : (setCore s c k).lost = s.lost := rfl
@[simp] theorem setCore_notes (s : State) (c : Nat) (k : Core) : (setCore s c k).notes = s.notes := rfl
@[simp] theorem setCore_swathNow (s : State) (c : Nat) (k : Core) : (setCore s c k).swathNow = s.swathNow := rfl
@[simp] theorem setCore_swA (s : State) (c : Nat) (k : Core) : (setCore s c k).swA = s.swA := rfl
@[simp] theorem setCore_swT (s : State) (c : Nat) (k : Core) : (setCore s c k).swT = s.swT := rfl
@[simp] theorem setCore_pairQ (s : State) (c : Nat) (k : Core) : (setCore s c k).pairQ = s.pairQ := rfl
@[simp] theorem setCore_pairTags (s : State) (c : Nat) (k : Core) : (setCore s c k).pairTags = s.pairTags := rfl
@[simp] theorem setCore_edgeEpoch (s : State) (c : Nat) (k : Core) : (setCore s c k).edgeEpoch = s.edgeEpoch := rfl
@[simp] theorem setCore_ver0 (s : State) (c : Nat) (k : Core) : (setCore s c k).ver0 = s.ver0 := rfl
@[simp] theorem setCore_ver1 (s : State) (c : Nat) (k : Core) : (setCore s c k).ver1 = s.ver1 := rfl
@[simp] theorem setCore_chg (s : State) (c : Nat) (k : Core) : (setCore s c k).chg = s.chg := rfl
@[simp] theorem setCore_drains (s : State) (c : Nat) (k : Core) : (setCore s c k).drains = s.drains := rfl
@[simp] theorem setCore_slices (s : State) (c : Nat) (k : Core) : (setCore s c k).slices = s.slices := rfl
@[simp] theorem setCore_hbmQ (s : State) (c : Nat) (k : Core) : (setCore s c k).hbmQ = s.hbmQ := rfl
@[simp] theorem setCore_cxlQ (s : State) (c : Nat) (k : Core) : (setCore s c k).cxlQ = s.cxlQ := rfl
@[simp] theorem setCore_hbm (s : State) (c : Nat) (k : Core) : (setCore s c k).hbm = s.hbm := rfl
@[simp] theorem setCore_hbmPoi (s : State) (c : Nat) (k : Core) : (setCore s c k).hbmPoi = s.hbmPoi := rfl
@[simp] theorem setCore_hbmErr (s : State) (c : Nat) (k : Core) : (setCore s c k).hbmErr = s.hbmErr := rfl
@[simp] theorem setCore_hbmRepair (s : State) (c : Nat) (k : Core) : (setCore s c k).hbmRepair = s.hbmRepair := rfl
@[simp] theorem setCore_scrubPos (s : State) (c : Nat) (k : Core) : (setCore s c k).scrubPos = s.scrubPos := rfl
@[simp] theorem setCore_scrubT (s : State) (c : Nat) (k : Core) : (setCore s c k).scrubT = s.scrubT := rfl
@[simp] theorem setCore_cxl (s : State) (c : Nat) (k : Core) : (setCore s c k).cxl = s.cxl := rfl
@[simp] theorem setCore_cxlPoi (s : State) (c : Nat) (k : Core) : (setCore s c k).cxlPoi = s.cxlPoi := rfl
@[simp] theorem setCore_gathers (s : State) (c : Nat) (k : Core) : (setCore s c k).gathers = s.gathers := rfl
@[simp] theorem setCore_yports (s : State) (c : Nat) (k : Core) : (setCore s c k).yports = s.yports := rfl
@[simp] theorem setCore_team0 (s : State) (c : Nat) (k : Core) : (setCore s c k).team0 = s.team0 := rfl
@[simp] theorem setCore_team1 (s : State) (c : Nat) (k : Core) : (setCore s c k).team1 = s.team1 := rfl
@[simp] theorem setCore_teamTime (s : State) (c : Nat) (k : Core) : (setCore s c k).teamTime = s.teamTime := rfl
@[simp] theorem setCore_pairTab (s : State) (c : Nat) (k : Core) : (setCore s c k).pairTab = s.pairTab := rfl
@[simp] theorem setCore_filter (s : State) (c : Nat) (k : Core) : (setCore s c k).filter = s.filter := rfl
@[simp] theorem setCore_inbound (s : State) (c : Nat) (k : Core) : (setCore s c k).inbound = s.inbound := rfl
@[simp] theorem setCore_muster (s : State) (c : Nat) (k : Core) : (setCore s c k).muster = s.muster := rfl
@[simp] theorem setCore_outs (s : State) (c : Nat) (k : Core) : (setCore s c k).outs = s.outs := rfl
@[simp] theorem setCore_ingress (s : State) (c : Nat) (k : Core) : (setCore s c k).ingress = s.ingress := rfl
@[simp] theorem setCore_tcs (s : State) (c : Nat) (k : Core) : (setCore s c k).tcs = s.tcs := rfl
@[simp] theorem setCore_hostPaused (s : State) (c : Nat) (k : Core) : (setCore s c k).hostPaused = s.hostPaused := rfl
@[simp] theorem setCore_pauseSent (s : State) (c : Nat) (k : Core) : (setCore s c k).pauseSent = s.pauseSent := rfl
@[simp] theorem setCore_hostHeld (s : State) (c : Nat) (k : Core) : (setCore s c k).hostHeld = s.hostHeld := rfl
@[simp] theorem setCore_funs (s : State) (c : Nat) (k : Core) : (setCore s c k).funs = s.funs := rfl
@[simp] theorem setCore_nextSer (s : State) (c : Nat) (k : Core) : (setCore s c k).nextSer = s.nextSer := rfl
@[simp] theorem setCore_ctxIds (s : State) (c : Nat) (k : Core) : (setCore s c k).ctxIds = s.ctxIds := rfl
@[simp] theorem setCore_digs (s : State) (c : Nat) (k : Core) : (setCore s c k).digs = s.digs := rfl
@[simp] theorem setCore_plotResets (s : State) (c : Nat) (k : Core) : (setCore s c k).plotResets = s.plotResets := rfl
@[simp] theorem setCore_blockDone (s : State) (c : Nat) (k : Core) : (setCore s c k).blockDone = s.blockDone := rfl
@[simp] theorem setCore_seams (s : State) (c : Nat) (k : Core) : (setCore s c k).seams = s.seams := rfl
@[simp] theorem setCore_seamCal (s : State) (c : Nat) (k : Core) : (setCore s c k).seamCal = s.seamCal := rfl
@[simp] theorem setCore_copies (s : State) (c : Nat) (k : Core) : (setCore s c k).copies = s.copies := rfl
@[simp] theorem setCore_stw (s : State) (c : Nat) (k : Core) : (setCore s c k).stw = s.stw := rfl
@[simp] theorem setCore_pins (s : State) (c : Nat) (k : Core) : (setCore s c k).pins = s.pins := rfl
@[simp] theorem setCore_sec (s : State) (c : Nat) (k : Core) : (setCore s c k).sec = s.sec := rfl

/-! `setPlot` -/

@[simp] theorem setPlot_pending (s : State) (j : Nat) (p : Plot) : (setPlot s j p).pending = s.pending := rfl
@[simp] theorem setPlot_free (s : State) (j : Nat) (p : Plot) : (setPlot s j p).free = s.free := rfl
@[simp] theorem setPlot_code (s : State) (j : Nat) (p : Plot) : (setPlot s j p).code = s.code := rfl
@[simp] theorem setPlot_now (s : State) (j : Nat) (p : Plot) : (setPlot s j p).now = s.now := rfl
@[simp] theorem setPlot_qcyc (s : State) (j : Nat) (p : Plot) : (setPlot s j p).qcyc = s.qcyc := rfl
@[simp] theorem setPlot_cores (s : State) (j : Nat) (p : Plot) : (setPlot s j p).cores = s.cores := rfl
@[simp] theorem setPlot_plots (s : State) (j : Nat) (p : Plot) : (setPlot s j p).plots = fset plot0 s.plots j p := rfl
@[simp] theorem setPlot_csr (s : State) (j : Nat) (p : Plot) : (setPlot s j p).csr = s.csr := rfl
@[simp] theorem setPlot_net (s : State) (j : Nat) (p : Plot) : (setPlot s j p).net = s.net := rfl
@[simp] theorem setPlot_nextId (s : State) (j : Nat) (p : Plot) : (setPlot s j p).nextId = s.nextId := rfl
@[simp] theorem setPlot_arb (s : State) (j : Nat) (p : Plot) : (setPlot s j p).arb = s.arb := rfl
@[simp] theorem setPlot_place (s : State) (j : Nat) (p : Plot) : (setPlot s j p).place = s.place := rfl
@[simp] theorem setPlot_lost (s : State) (j : Nat) (p : Plot) : (setPlot s j p).lost = s.lost := rfl
@[simp] theorem setPlot_notes (s : State) (j : Nat) (p : Plot) : (setPlot s j p).notes = s.notes := rfl
@[simp] theorem setPlot_swathNow (s : State) (j : Nat) (p : Plot) : (setPlot s j p).swathNow = s.swathNow := rfl
@[simp] theorem setPlot_swA (s : State) (j : Nat) (p : Plot) : (setPlot s j p).swA = s.swA := rfl
@[simp] theorem setPlot_swT (s : State) (j : Nat) (p : Plot) : (setPlot s j p).swT = s.swT := rfl
@[simp] theorem setPlot_pairQ (s : State) (j : Nat) (p : Plot) : (setPlot s j p).pairQ = s.pairQ := rfl
@[simp] theorem setPlot_pairTags (s : State) (j : Nat) (p : Plot) : (setPlot s j p).pairTags = s.pairTags := rfl
@[simp] theorem setPlot_edgeEpoch (s : State) (j : Nat) (p : Plot) : (setPlot s j p).edgeEpoch = s.edgeEpoch := rfl
@[simp] theorem setPlot_ver0 (s : State) (j : Nat) (p : Plot) : (setPlot s j p).ver0 = s.ver0 := rfl
@[simp] theorem setPlot_ver1 (s : State) (j : Nat) (p : Plot) : (setPlot s j p).ver1 = s.ver1 := rfl
@[simp] theorem setPlot_chg (s : State) (j : Nat) (p : Plot) : (setPlot s j p).chg = s.chg := rfl
@[simp] theorem setPlot_drains (s : State) (j : Nat) (p : Plot) : (setPlot s j p).drains = s.drains := rfl
@[simp] theorem setPlot_slices (s : State) (j : Nat) (p : Plot) : (setPlot s j p).slices = s.slices := rfl
@[simp] theorem setPlot_hbmQ (s : State) (j : Nat) (p : Plot) : (setPlot s j p).hbmQ = s.hbmQ := rfl
@[simp] theorem setPlot_cxlQ (s : State) (j : Nat) (p : Plot) : (setPlot s j p).cxlQ = s.cxlQ := rfl
@[simp] theorem setPlot_hbm (s : State) (j : Nat) (p : Plot) : (setPlot s j p).hbm = s.hbm := rfl
@[simp] theorem setPlot_hbmPoi (s : State) (j : Nat) (p : Plot) : (setPlot s j p).hbmPoi = s.hbmPoi := rfl
@[simp] theorem setPlot_hbmErr (s : State) (j : Nat) (p : Plot) : (setPlot s j p).hbmErr = s.hbmErr := rfl
@[simp] theorem setPlot_hbmRepair (s : State) (j : Nat) (p : Plot) : (setPlot s j p).hbmRepair = s.hbmRepair := rfl
@[simp] theorem setPlot_scrubPos (s : State) (j : Nat) (p : Plot) : (setPlot s j p).scrubPos = s.scrubPos := rfl
@[simp] theorem setPlot_scrubT (s : State) (j : Nat) (p : Plot) : (setPlot s j p).scrubT = s.scrubT := rfl
@[simp] theorem setPlot_cxl (s : State) (j : Nat) (p : Plot) : (setPlot s j p).cxl = s.cxl := rfl
@[simp] theorem setPlot_cxlPoi (s : State) (j : Nat) (p : Plot) : (setPlot s j p).cxlPoi = s.cxlPoi := rfl
@[simp] theorem setPlot_gathers (s : State) (j : Nat) (p : Plot) : (setPlot s j p).gathers = s.gathers := rfl
@[simp] theorem setPlot_yports (s : State) (j : Nat) (p : Plot) : (setPlot s j p).yports = s.yports := rfl
@[simp] theorem setPlot_team0 (s : State) (j : Nat) (p : Plot) : (setPlot s j p).team0 = s.team0 := rfl
@[simp] theorem setPlot_team1 (s : State) (j : Nat) (p : Plot) : (setPlot s j p).team1 = s.team1 := rfl
@[simp] theorem setPlot_teamTime (s : State) (j : Nat) (p : Plot) : (setPlot s j p).teamTime = s.teamTime := rfl
@[simp] theorem setPlot_pairTab (s : State) (j : Nat) (p : Plot) : (setPlot s j p).pairTab = s.pairTab := rfl
@[simp] theorem setPlot_filter (s : State) (j : Nat) (p : Plot) : (setPlot s j p).filter = s.filter := rfl
@[simp] theorem setPlot_inbound (s : State) (j : Nat) (p : Plot) : (setPlot s j p).inbound = s.inbound := rfl
@[simp] theorem setPlot_muster (s : State) (j : Nat) (p : Plot) : (setPlot s j p).muster = s.muster := rfl
@[simp] theorem setPlot_outs (s : State) (j : Nat) (p : Plot) : (setPlot s j p).outs = s.outs := rfl
@[simp] theorem setPlot_ingress (s : State) (j : Nat) (p : Plot) : (setPlot s j p).ingress = s.ingress := rfl
@[simp] theorem setPlot_tcs (s : State) (j : Nat) (p : Plot) : (setPlot s j p).tcs = s.tcs := rfl
@[simp] theorem setPlot_hostPaused (s : State) (j : Nat) (p : Plot) : (setPlot s j p).hostPaused = s.hostPaused := rfl
@[simp] theorem setPlot_pauseSent (s : State) (j : Nat) (p : Plot) : (setPlot s j p).pauseSent = s.pauseSent := rfl
@[simp] theorem setPlot_hostHeld (s : State) (j : Nat) (p : Plot) : (setPlot s j p).hostHeld = s.hostHeld := rfl
@[simp] theorem setPlot_funs (s : State) (j : Nat) (p : Plot) : (setPlot s j p).funs = s.funs := rfl
@[simp] theorem setPlot_nextSer (s : State) (j : Nat) (p : Plot) : (setPlot s j p).nextSer = s.nextSer := rfl
@[simp] theorem setPlot_ctxIds (s : State) (j : Nat) (p : Plot) : (setPlot s j p).ctxIds = s.ctxIds := rfl
@[simp] theorem setPlot_digs (s : State) (j : Nat) (p : Plot) : (setPlot s j p).digs = s.digs := rfl
@[simp] theorem setPlot_plotResets (s : State) (j : Nat) (p : Plot) : (setPlot s j p).plotResets = s.plotResets := rfl
@[simp] theorem setPlot_blockDone (s : State) (j : Nat) (p : Plot) : (setPlot s j p).blockDone = s.blockDone := rfl
@[simp] theorem setPlot_seams (s : State) (j : Nat) (p : Plot) : (setPlot s j p).seams = s.seams := rfl
@[simp] theorem setPlot_seamCal (s : State) (j : Nat) (p : Plot) : (setPlot s j p).seamCal = s.seamCal := rfl
@[simp] theorem setPlot_copies (s : State) (j : Nat) (p : Plot) : (setPlot s j p).copies = s.copies := rfl
@[simp] theorem setPlot_stw (s : State) (j : Nat) (p : Plot) : (setPlot s j p).stw = s.stw := rfl
@[simp] theorem setPlot_pins (s : State) (j : Nat) (p : Plot) : (setPlot s j p).pins = s.pins := rfl
@[simp] theorem setPlot_sec (s : State) (j : Nat) (p : Plot) : (setPlot s j p).sec = s.sec := rfl

/-! `csrSet` -/

@[simp] theorem csrSet_pending (s : State) (a : Nat) (v : Word) : (csrSet s a v).pending = s.pending := rfl
@[simp] theorem csrSet_free (s : State) (a : Nat) (v : Word) : (csrSet s a v).free = s.free := rfl
@[simp] theorem csrSet_code (s : State) (a : Nat) (v : Word) : (csrSet s a v).code = s.code := rfl
@[simp] theorem csrSet_now (s : State) (a : Nat) (v : Word) : (csrSet s a v).now = s.now := rfl
@[simp] theorem csrSet_qcyc (s : State) (a : Nat) (v : Word) : (csrSet s a v).qcyc = s.qcyc := rfl
@[simp] theorem csrSet_cores (s : State) (a : Nat) (v : Word) : (csrSet s a v).cores = s.cores := rfl
@[simp] theorem csrSet_plots (s : State) (a : Nat) (v : Word) : (csrSet s a v).plots = s.plots := rfl
@[simp] theorem csrSet_csr (s : State) (a : Nat) (v : Word) : (csrSet s a v).csr = fset csrReset s.csr a v := rfl
@[simp] theorem csrSet_net (s : State) (a : Nat) (v : Word) : (csrSet s a v).net = s.net := rfl
@[simp] theorem csrSet_nextId (s : State) (a : Nat) (v : Word) : (csrSet s a v).nextId = s.nextId := rfl
@[simp] theorem csrSet_arb (s : State) (a : Nat) (v : Word) : (csrSet s a v).arb = s.arb := rfl
@[simp] theorem csrSet_place (s : State) (a : Nat) (v : Word) : (csrSet s a v).place = s.place := rfl
@[simp] theorem csrSet_lost (s : State) (a : Nat) (v : Word) : (csrSet s a v).lost = s.lost := rfl
@[simp] theorem csrSet_notes (s : State) (a : Nat) (v : Word) : (csrSet s a v).notes = s.notes := rfl
@[simp] theorem csrSet_swathNow (s : State) (a : Nat) (v : Word) : (csrSet s a v).swathNow = s.swathNow := rfl
@[simp] theorem csrSet_swA (s : State) (a : Nat) (v : Word) : (csrSet s a v).swA = s.swA := rfl
@[simp] theorem csrSet_swT (s : State) (a : Nat) (v : Word) : (csrSet s a v).swT = s.swT := rfl
@[simp] theorem csrSet_pairQ (s : State) (a : Nat) (v : Word) : (csrSet s a v).pairQ = s.pairQ := rfl
@[simp] theorem csrSet_pairTags (s : State) (a : Nat) (v : Word) : (csrSet s a v).pairTags = s.pairTags := rfl
@[simp] theorem csrSet_edgeEpoch (s : State) (a : Nat) (v : Word) : (csrSet s a v).edgeEpoch = s.edgeEpoch := rfl
@[simp] theorem csrSet_ver0 (s : State) (a : Nat) (v : Word) : (csrSet s a v).ver0 = s.ver0 := rfl
@[simp] theorem csrSet_ver1 (s : State) (a : Nat) (v : Word) : (csrSet s a v).ver1 = s.ver1 := rfl
@[simp] theorem csrSet_chg (s : State) (a : Nat) (v : Word) : (csrSet s a v).chg = s.chg := rfl
@[simp] theorem csrSet_drains (s : State) (a : Nat) (v : Word) : (csrSet s a v).drains = s.drains := rfl
@[simp] theorem csrSet_slices (s : State) (a : Nat) (v : Word) : (csrSet s a v).slices = s.slices := rfl
@[simp] theorem csrSet_hbmQ (s : State) (a : Nat) (v : Word) : (csrSet s a v).hbmQ = s.hbmQ := rfl
@[simp] theorem csrSet_cxlQ (s : State) (a : Nat) (v : Word) : (csrSet s a v).cxlQ = s.cxlQ := rfl
@[simp] theorem csrSet_hbm (s : State) (a : Nat) (v : Word) : (csrSet s a v).hbm = s.hbm := rfl
@[simp] theorem csrSet_hbmPoi (s : State) (a : Nat) (v : Word) : (csrSet s a v).hbmPoi = s.hbmPoi := rfl
@[simp] theorem csrSet_hbmErr (s : State) (a : Nat) (v : Word) : (csrSet s a v).hbmErr = s.hbmErr := rfl
@[simp] theorem csrSet_hbmRepair (s : State) (a : Nat) (v : Word) : (csrSet s a v).hbmRepair = s.hbmRepair := rfl
@[simp] theorem csrSet_scrubPos (s : State) (a : Nat) (v : Word) : (csrSet s a v).scrubPos = s.scrubPos := rfl
@[simp] theorem csrSet_scrubT (s : State) (a : Nat) (v : Word) : (csrSet s a v).scrubT = s.scrubT := rfl
@[simp] theorem csrSet_cxl (s : State) (a : Nat) (v : Word) : (csrSet s a v).cxl = s.cxl := rfl
@[simp] theorem csrSet_cxlPoi (s : State) (a : Nat) (v : Word) : (csrSet s a v).cxlPoi = s.cxlPoi := rfl
@[simp] theorem csrSet_gathers (s : State) (a : Nat) (v : Word) : (csrSet s a v).gathers = s.gathers := rfl
@[simp] theorem csrSet_yports (s : State) (a : Nat) (v : Word) : (csrSet s a v).yports = s.yports := rfl
@[simp] theorem csrSet_team0 (s : State) (a : Nat) (v : Word) : (csrSet s a v).team0 = s.team0 := rfl
@[simp] theorem csrSet_team1 (s : State) (a : Nat) (v : Word) : (csrSet s a v).team1 = s.team1 := rfl
@[simp] theorem csrSet_teamTime (s : State) (a : Nat) (v : Word) : (csrSet s a v).teamTime = s.teamTime := rfl
@[simp] theorem csrSet_pairTab (s : State) (a : Nat) (v : Word) : (csrSet s a v).pairTab = s.pairTab := rfl
@[simp] theorem csrSet_filter (s : State) (a : Nat) (v : Word) : (csrSet s a v).filter = s.filter := rfl
@[simp] theorem csrSet_inbound (s : State) (a : Nat) (v : Word) : (csrSet s a v).inbound = s.inbound := rfl
@[simp] theorem csrSet_muster (s : State) (a : Nat) (v : Word) : (csrSet s a v).muster = s.muster := rfl
@[simp] theorem csrSet_outs (s : State) (a : Nat) (v : Word) : (csrSet s a v).outs = s.outs := rfl
@[simp] theorem csrSet_ingress (s : State) (a : Nat) (v : Word) : (csrSet s a v).ingress = s.ingress := rfl
@[simp] theorem csrSet_tcs (s : State) (a : Nat) (v : Word) : (csrSet s a v).tcs = s.tcs := rfl
@[simp] theorem csrSet_hostPaused (s : State) (a : Nat) (v : Word) : (csrSet s a v).hostPaused = s.hostPaused := rfl
@[simp] theorem csrSet_pauseSent (s : State) (a : Nat) (v : Word) : (csrSet s a v).pauseSent = s.pauseSent := rfl
@[simp] theorem csrSet_hostHeld (s : State) (a : Nat) (v : Word) : (csrSet s a v).hostHeld = s.hostHeld := rfl
@[simp] theorem csrSet_funs (s : State) (a : Nat) (v : Word) : (csrSet s a v).funs = s.funs := rfl
@[simp] theorem csrSet_nextSer (s : State) (a : Nat) (v : Word) : (csrSet s a v).nextSer = s.nextSer := rfl
@[simp] theorem csrSet_ctxIds (s : State) (a : Nat) (v : Word) : (csrSet s a v).ctxIds = s.ctxIds := rfl
@[simp] theorem csrSet_digs (s : State) (a : Nat) (v : Word) : (csrSet s a v).digs = s.digs := rfl
@[simp] theorem csrSet_plotResets (s : State) (a : Nat) (v : Word) : (csrSet s a v).plotResets = s.plotResets := rfl
@[simp] theorem csrSet_blockDone (s : State) (a : Nat) (v : Word) : (csrSet s a v).blockDone = s.blockDone := rfl
@[simp] theorem csrSet_seams (s : State) (a : Nat) (v : Word) : (csrSet s a v).seams = s.seams := rfl
@[simp] theorem csrSet_seamCal (s : State) (a : Nat) (v : Word) : (csrSet s a v).seamCal = s.seamCal := rfl
@[simp] theorem csrSet_copies (s : State) (a : Nat) (v : Word) : (csrSet s a v).copies = s.copies := rfl
@[simp] theorem csrSet_stw (s : State) (a : Nat) (v : Word) : (csrSet s a v).stw = s.stw := rfl
@[simp] theorem csrSet_pins (s : State) (a : Nat) (v : Word) : (csrSet s a v).pins = s.pins := rfl
@[simp] theorem csrSet_sec (s : State) (a : Nat) (v : Word) : (csrSet s a v).sec = s.sec := rfl

/-! `note` -/

@[simp] theorem note_pending (s : State) (n : Note) : (note s n).pending = s.pending := rfl
@[simp] theorem note_free (s : State) (n : Note) : (note s n).free = s.free := rfl
@[simp] theorem note_code (s : State) (n : Note) : (note s n).code = s.code := rfl
@[simp] theorem note_now (s : State) (n : Note) : (note s n).now = s.now := rfl
@[simp] theorem note_qcyc (s : State) (n : Note) : (note s n).qcyc = s.qcyc := rfl
@[simp] theorem note_cores (s : State) (n : Note) : (note s n).cores = s.cores := rfl
@[simp] theorem note_plots (s : State) (n : Note) : (note s n).plots = s.plots := rfl
@[simp] theorem note_csr (s : State) (n : Note) : (note s n).csr = s.csr := rfl
@[simp] theorem note_net (s : State) (n : Note) : (note s n).net = s.net := rfl
@[simp] theorem note_nextId (s : State) (n : Note) : (note s n).nextId = s.nextId := rfl
@[simp] theorem note_arb (s : State) (n : Note) : (note s n).arb = s.arb := rfl
@[simp] theorem note_place (s : State) (n : Note) : (note s n).place = s.place := rfl
@[simp] theorem note_lost (s : State) (n : Note) : (note s n).lost = s.lost := rfl
@[simp] theorem note_notes (s : State) (n : Note) : (note s n).notes = n :: s.notes := rfl
@[simp] theorem note_swathNow (s : State) (n : Note) : (note s n).swathNow = s.swathNow := rfl
@[simp] theorem note_swA (s : State) (n : Note) : (note s n).swA = s.swA := rfl
@[simp] theorem note_swT (s : State) (n : Note) : (note s n).swT = s.swT := rfl
@[simp] theorem note_pairQ (s : State) (n : Note) : (note s n).pairQ = s.pairQ := rfl
@[simp] theorem note_pairTags (s : State) (n : Note) : (note s n).pairTags = s.pairTags := rfl
@[simp] theorem note_edgeEpoch (s : State) (n : Note) : (note s n).edgeEpoch = s.edgeEpoch := rfl
@[simp] theorem note_ver0 (s : State) (n : Note) : (note s n).ver0 = s.ver0 := rfl
@[simp] theorem note_ver1 (s : State) (n : Note) : (note s n).ver1 = s.ver1 := rfl
@[simp] theorem note_chg (s : State) (n : Note) : (note s n).chg = s.chg := rfl
@[simp] theorem note_drains (s : State) (n : Note) : (note s n).drains = s.drains := rfl
@[simp] theorem note_slices (s : State) (n : Note) : (note s n).slices = s.slices := rfl
@[simp] theorem note_hbmQ (s : State) (n : Note) : (note s n).hbmQ = s.hbmQ := rfl
@[simp] theorem note_cxlQ (s : State) (n : Note) : (note s n).cxlQ = s.cxlQ := rfl
@[simp] theorem note_hbm (s : State) (n : Note) : (note s n).hbm = s.hbm := rfl
@[simp] theorem note_hbmPoi (s : State) (n : Note) : (note s n).hbmPoi = s.hbmPoi := rfl
@[simp] theorem note_hbmErr (s : State) (n : Note) : (note s n).hbmErr = s.hbmErr := rfl
@[simp] theorem note_hbmRepair (s : State) (n : Note) : (note s n).hbmRepair = s.hbmRepair := rfl
@[simp] theorem note_scrubPos (s : State) (n : Note) : (note s n).scrubPos = s.scrubPos := rfl
@[simp] theorem note_scrubT (s : State) (n : Note) : (note s n).scrubT = s.scrubT := rfl
@[simp] theorem note_cxl (s : State) (n : Note) : (note s n).cxl = s.cxl := rfl
@[simp] theorem note_cxlPoi (s : State) (n : Note) : (note s n).cxlPoi = s.cxlPoi := rfl
@[simp] theorem note_gathers (s : State) (n : Note) : (note s n).gathers = s.gathers := rfl
@[simp] theorem note_yports (s : State) (n : Note) : (note s n).yports = s.yports := rfl
@[simp] theorem note_team0 (s : State) (n : Note) : (note s n).team0 = s.team0 := rfl
@[simp] theorem note_team1 (s : State) (n : Note) : (note s n).team1 = s.team1 := rfl
@[simp] theorem note_teamTime (s : State) (n : Note) : (note s n).teamTime = s.teamTime := rfl
@[simp] theorem note_pairTab (s : State) (n : Note) : (note s n).pairTab = s.pairTab := rfl
@[simp] theorem note_filter (s : State) (n : Note) : (note s n).filter = s.filter := rfl
@[simp] theorem note_inbound (s : State) (n : Note) : (note s n).inbound = s.inbound := rfl
@[simp] theorem note_muster (s : State) (n : Note) : (note s n).muster = s.muster := rfl
@[simp] theorem note_outs (s : State) (n : Note) : (note s n).outs = s.outs := rfl
@[simp] theorem note_ingress (s : State) (n : Note) : (note s n).ingress = s.ingress := rfl
@[simp] theorem note_tcs (s : State) (n : Note) : (note s n).tcs = s.tcs := rfl
@[simp] theorem note_hostPaused (s : State) (n : Note) : (note s n).hostPaused = s.hostPaused := rfl
@[simp] theorem note_pauseSent (s : State) (n : Note) : (note s n).pauseSent = s.pauseSent := rfl
@[simp] theorem note_hostHeld (s : State) (n : Note) : (note s n).hostHeld = s.hostHeld := rfl
@[simp] theorem note_funs (s : State) (n : Note) : (note s n).funs = s.funs := rfl
@[simp] theorem note_nextSer (s : State) (n : Note) : (note s n).nextSer = s.nextSer := rfl
@[simp] theorem note_ctxIds (s : State) (n : Note) : (note s n).ctxIds = s.ctxIds := rfl
@[simp] theorem note_digs (s : State) (n : Note) : (note s n).digs = s.digs := rfl
@[simp] theorem note_plotResets (s : State) (n : Note) : (note s n).plotResets = s.plotResets := rfl
@[simp] theorem note_blockDone (s : State) (n : Note) : (note s n).blockDone = s.blockDone := rfl
@[simp] theorem note_seams (s : State) (n : Note) : (note s n).seams = s.seams := rfl
@[simp] theorem note_seamCal (s : State) (n : Note) : (note s n).seamCal = s.seamCal := rfl
@[simp] theorem note_copies (s : State) (n : Note) : (note s n).copies = s.copies := rfl
@[simp] theorem note_stw (s : State) (n : Note) : (note s n).stw = s.stw := rfl
@[simp] theorem note_pins (s : State) (n : Note) : (note s n).pins = s.pins := rfl
@[simp] theorem note_sec (s : State) (n : Note) : (note s n).sec = s.sec := rfl

/-! `setStw` -/

@[simp] theorem setStw_pending (s : State) (g : Steward → Steward) : (setStw s g).pending = s.pending := rfl
@[simp] theorem setStw_free (s : State) (g : Steward → Steward) : (setStw s g).free = s.free := rfl
@[simp] theorem setStw_code (s : State) (g : Steward → Steward) : (setStw s g).code = s.code := rfl
@[simp] theorem setStw_now (s : State) (g : Steward → Steward) : (setStw s g).now = s.now := rfl
@[simp] theorem setStw_qcyc (s : State) (g : Steward → Steward) : (setStw s g).qcyc = s.qcyc := rfl
@[simp] theorem setStw_cores (s : State) (g : Steward → Steward) : (setStw s g).cores = s.cores := rfl
@[simp] theorem setStw_plots (s : State) (g : Steward → Steward) : (setStw s g).plots = s.plots := rfl
@[simp] theorem setStw_csr (s : State) (g : Steward → Steward) : (setStw s g).csr = s.csr := rfl
@[simp] theorem setStw_net (s : State) (g : Steward → Steward) : (setStw s g).net = s.net := rfl
@[simp] theorem setStw_nextId (s : State) (g : Steward → Steward) : (setStw s g).nextId = s.nextId := rfl
@[simp] theorem setStw_arb (s : State) (g : Steward → Steward) : (setStw s g).arb = s.arb := rfl
@[simp] theorem setStw_place (s : State) (g : Steward → Steward) : (setStw s g).place = s.place := rfl
@[simp] theorem setStw_lost (s : State) (g : Steward → Steward) : (setStw s g).lost = s.lost := rfl
@[simp] theorem setStw_notes (s : State) (g : Steward → Steward) : (setStw s g).notes = s.notes := rfl
@[simp] theorem setStw_swathNow (s : State) (g : Steward → Steward) : (setStw s g).swathNow = s.swathNow := rfl
@[simp] theorem setStw_swA (s : State) (g : Steward → Steward) : (setStw s g).swA = s.swA := rfl
@[simp] theorem setStw_swT (s : State) (g : Steward → Steward) : (setStw s g).swT = s.swT := rfl
@[simp] theorem setStw_pairQ (s : State) (g : Steward → Steward) : (setStw s g).pairQ = s.pairQ := rfl
@[simp] theorem setStw_pairTags (s : State) (g : Steward → Steward) : (setStw s g).pairTags = s.pairTags := rfl
@[simp] theorem setStw_edgeEpoch (s : State) (g : Steward → Steward) : (setStw s g).edgeEpoch = s.edgeEpoch := rfl
@[simp] theorem setStw_ver0 (s : State) (g : Steward → Steward) : (setStw s g).ver0 = s.ver0 := rfl
@[simp] theorem setStw_ver1 (s : State) (g : Steward → Steward) : (setStw s g).ver1 = s.ver1 := rfl
@[simp] theorem setStw_chg (s : State) (g : Steward → Steward) : (setStw s g).chg = s.chg := rfl
@[simp] theorem setStw_drains (s : State) (g : Steward → Steward) : (setStw s g).drains = s.drains := rfl
@[simp] theorem setStw_slices (s : State) (g : Steward → Steward) : (setStw s g).slices = s.slices := rfl
@[simp] theorem setStw_hbmQ (s : State) (g : Steward → Steward) : (setStw s g).hbmQ = s.hbmQ := rfl
@[simp] theorem setStw_cxlQ (s : State) (g : Steward → Steward) : (setStw s g).cxlQ = s.cxlQ := rfl
@[simp] theorem setStw_hbm (s : State) (g : Steward → Steward) : (setStw s g).hbm = s.hbm := rfl
@[simp] theorem setStw_hbmPoi (s : State) (g : Steward → Steward) : (setStw s g).hbmPoi = s.hbmPoi := rfl
@[simp] theorem setStw_hbmErr (s : State) (g : Steward → Steward) : (setStw s g).hbmErr = s.hbmErr := rfl
@[simp] theorem setStw_hbmRepair (s : State) (g : Steward → Steward) : (setStw s g).hbmRepair = s.hbmRepair := rfl
@[simp] theorem setStw_scrubPos (s : State) (g : Steward → Steward) : (setStw s g).scrubPos = s.scrubPos := rfl
@[simp] theorem setStw_scrubT (s : State) (g : Steward → Steward) : (setStw s g).scrubT = s.scrubT := rfl
@[simp] theorem setStw_cxl (s : State) (g : Steward → Steward) : (setStw s g).cxl = s.cxl := rfl
@[simp] theorem setStw_cxlPoi (s : State) (g : Steward → Steward) : (setStw s g).cxlPoi = s.cxlPoi := rfl
@[simp] theorem setStw_gathers (s : State) (g : Steward → Steward) : (setStw s g).gathers = s.gathers := rfl
@[simp] theorem setStw_yports (s : State) (g : Steward → Steward) : (setStw s g).yports = s.yports := rfl
@[simp] theorem setStw_team0 (s : State) (g : Steward → Steward) : (setStw s g).team0 = s.team0 := rfl
@[simp] theorem setStw_team1 (s : State) (g : Steward → Steward) : (setStw s g).team1 = s.team1 := rfl
@[simp] theorem setStw_teamTime (s : State) (g : Steward → Steward) : (setStw s g).teamTime = s.teamTime := rfl
@[simp] theorem setStw_pairTab (s : State) (g : Steward → Steward) : (setStw s g).pairTab = s.pairTab := rfl
@[simp] theorem setStw_filter (s : State) (g : Steward → Steward) : (setStw s g).filter = s.filter := rfl
@[simp] theorem setStw_inbound (s : State) (g : Steward → Steward) : (setStw s g).inbound = s.inbound := rfl
@[simp] theorem setStw_muster (s : State) (g : Steward → Steward) : (setStw s g).muster = s.muster := rfl
@[simp] theorem setStw_outs (s : State) (g : Steward → Steward) : (setStw s g).outs = s.outs := rfl
@[simp] theorem setStw_ingress (s : State) (g : Steward → Steward) : (setStw s g).ingress = s.ingress := rfl
@[simp] theorem setStw_tcs (s : State) (g : Steward → Steward) : (setStw s g).tcs = s.tcs := rfl
@[simp] theorem setStw_hostPaused (s : State) (g : Steward → Steward) : (setStw s g).hostPaused = s.hostPaused := rfl
@[simp] theorem setStw_pauseSent (s : State) (g : Steward → Steward) : (setStw s g).pauseSent = s.pauseSent := rfl
@[simp] theorem setStw_hostHeld (s : State) (g : Steward → Steward) : (setStw s g).hostHeld = s.hostHeld := rfl
@[simp] theorem setStw_funs (s : State) (g : Steward → Steward) : (setStw s g).funs = s.funs := rfl
@[simp] theorem setStw_nextSer (s : State) (g : Steward → Steward) : (setStw s g).nextSer = s.nextSer := rfl
@[simp] theorem setStw_ctxIds (s : State) (g : Steward → Steward) : (setStw s g).ctxIds = s.ctxIds := rfl
@[simp] theorem setStw_digs (s : State) (g : Steward → Steward) : (setStw s g).digs = s.digs := rfl
@[simp] theorem setStw_plotResets (s : State) (g : Steward → Steward) : (setStw s g).plotResets = s.plotResets := rfl
@[simp] theorem setStw_blockDone (s : State) (g : Steward → Steward) : (setStw s g).blockDone = s.blockDone := rfl
@[simp] theorem setStw_seams (s : State) (g : Steward → Steward) : (setStw s g).seams = s.seams := rfl
@[simp] theorem setStw_seamCal (s : State) (g : Steward → Steward) : (setStw s g).seamCal = s.seamCal := rfl
@[simp] theorem setStw_copies (s : State) (g : Steward → Steward) : (setStw s g).copies = s.copies := rfl
@[simp] theorem setStw_stw (s : State) (g : Steward → Steward) : (setStw s g).stw = g s.stw := rfl
@[simp] theorem setStw_pins (s : State) (g : Steward → Steward) : (setStw s g).pins = s.pins := rfl
@[simp] theorem setStw_sec (s : State) (g : Steward → Steward) : (setStw s g).sec = s.sec := rfl

/-! `setPins` -/

@[simp] theorem setPins_pending (s : State) (g : Pins → Pins) : (setPins s g).pending = s.pending := rfl
@[simp] theorem setPins_free (s : State) (g : Pins → Pins) : (setPins s g).free = s.free := rfl
@[simp] theorem setPins_code (s : State) (g : Pins → Pins) : (setPins s g).code = s.code := rfl
@[simp] theorem setPins_now (s : State) (g : Pins → Pins) : (setPins s g).now = s.now := rfl
@[simp] theorem setPins_qcyc (s : State) (g : Pins → Pins) : (setPins s g).qcyc = s.qcyc := rfl
@[simp] theorem setPins_cores (s : State) (g : Pins → Pins) : (setPins s g).cores = s.cores := rfl
@[simp] theorem setPins_plots (s : State) (g : Pins → Pins) : (setPins s g).plots = s.plots := rfl
@[simp] theorem setPins_csr (s : State) (g : Pins → Pins) : (setPins s g).csr = s.csr := rfl
@[simp] theorem setPins_net (s : State) (g : Pins → Pins) : (setPins s g).net = s.net := rfl
@[simp] theorem setPins_nextId (s : State) (g : Pins → Pins) : (setPins s g).nextId = s.nextId := rfl
@[simp] theorem setPins_arb (s : State) (g : Pins → Pins) : (setPins s g).arb = s.arb := rfl
@[simp] theorem setPins_place (s : State) (g : Pins → Pins) : (setPins s g).place = s.place := rfl
@[simp] theorem setPins_lost (s : State) (g : Pins → Pins) : (setPins s g).lost = s.lost := rfl
@[simp] theorem setPins_notes (s : State) (g : Pins → Pins) : (setPins s g).notes = s.notes := rfl
@[simp] theorem setPins_swathNow (s : State) (g : Pins → Pins) : (setPins s g).swathNow = s.swathNow := rfl
@[simp] theorem setPins_swA (s : State) (g : Pins → Pins) : (setPins s g).swA = s.swA := rfl
@[simp] theorem setPins_swT (s : State) (g : Pins → Pins) : (setPins s g).swT = s.swT := rfl
@[simp] theorem setPins_pairQ (s : State) (g : Pins → Pins) : (setPins s g).pairQ = s.pairQ := rfl
@[simp] theorem setPins_pairTags (s : State) (g : Pins → Pins) : (setPins s g).pairTags = s.pairTags := rfl
@[simp] theorem setPins_edgeEpoch (s : State) (g : Pins → Pins) : (setPins s g).edgeEpoch = s.edgeEpoch := rfl
@[simp] theorem setPins_ver0 (s : State) (g : Pins → Pins) : (setPins s g).ver0 = s.ver0 := rfl
@[simp] theorem setPins_ver1 (s : State) (g : Pins → Pins) : (setPins s g).ver1 = s.ver1 := rfl
@[simp] theorem setPins_chg (s : State) (g : Pins → Pins) : (setPins s g).chg = s.chg := rfl
@[simp] theorem setPins_drains (s : State) (g : Pins → Pins) : (setPins s g).drains = s.drains := rfl
@[simp] theorem setPins_slices (s : State) (g : Pins → Pins) : (setPins s g).slices = s.slices := rfl
@[simp] theorem setPins_hbmQ (s : State) (g : Pins → Pins) : (setPins s g).hbmQ = s.hbmQ := rfl
@[simp] theorem setPins_cxlQ (s : State) (g : Pins → Pins) : (setPins s g).cxlQ = s.cxlQ := rfl
@[simp] theorem setPins_hbm (s : State) (g : Pins → Pins) : (setPins s g).hbm = s.hbm := rfl
@[simp] theorem setPins_hbmPoi (s : State) (g : Pins → Pins) : (setPins s g).hbmPoi = s.hbmPoi := rfl
@[simp] theorem setPins_hbmErr (s : State) (g : Pins → Pins) : (setPins s g).hbmErr = s.hbmErr := rfl
@[simp] theorem setPins_hbmRepair (s : State) (g : Pins → Pins) : (setPins s g).hbmRepair = s.hbmRepair := rfl
@[simp] theorem setPins_scrubPos (s : State) (g : Pins → Pins) : (setPins s g).scrubPos = s.scrubPos := rfl
@[simp] theorem setPins_scrubT (s : State) (g : Pins → Pins) : (setPins s g).scrubT = s.scrubT := rfl
@[simp] theorem setPins_cxl (s : State) (g : Pins → Pins) : (setPins s g).cxl = s.cxl := rfl
@[simp] theorem setPins_cxlPoi (s : State) (g : Pins → Pins) : (setPins s g).cxlPoi = s.cxlPoi := rfl
@[simp] theorem setPins_gathers (s : State) (g : Pins → Pins) : (setPins s g).gathers = s.gathers := rfl
@[simp] theorem setPins_yports (s : State) (g : Pins → Pins) : (setPins s g).yports = s.yports := rfl
@[simp] theorem setPins_team0 (s : State) (g : Pins → Pins) : (setPins s g).team0 = s.team0 := rfl
@[simp] theorem setPins_team1 (s : State) (g : Pins → Pins) : (setPins s g).team1 = s.team1 := rfl
@[simp] theorem setPins_teamTime (s : State) (g : Pins → Pins) : (setPins s g).teamTime = s.teamTime := rfl
@[simp] theorem setPins_pairTab (s : State) (g : Pins → Pins) : (setPins s g).pairTab = s.pairTab := rfl
@[simp] theorem setPins_filter (s : State) (g : Pins → Pins) : (setPins s g).filter = s.filter := rfl
@[simp] theorem setPins_inbound (s : State) (g : Pins → Pins) : (setPins s g).inbound = s.inbound := rfl
@[simp] theorem setPins_muster (s : State) (g : Pins → Pins) : (setPins s g).muster = s.muster := rfl
@[simp] theorem setPins_outs (s : State) (g : Pins → Pins) : (setPins s g).outs = s.outs := rfl
@[simp] theorem setPins_ingress (s : State) (g : Pins → Pins) : (setPins s g).ingress = s.ingress := rfl
@[simp] theorem setPins_tcs (s : State) (g : Pins → Pins) : (setPins s g).tcs = s.tcs := rfl
@[simp] theorem setPins_hostPaused (s : State) (g : Pins → Pins) : (setPins s g).hostPaused = s.hostPaused := rfl
@[simp] theorem setPins_pauseSent (s : State) (g : Pins → Pins) : (setPins s g).pauseSent = s.pauseSent := rfl
@[simp] theorem setPins_hostHeld (s : State) (g : Pins → Pins) : (setPins s g).hostHeld = s.hostHeld := rfl
@[simp] theorem setPins_funs (s : State) (g : Pins → Pins) : (setPins s g).funs = s.funs := rfl
@[simp] theorem setPins_nextSer (s : State) (g : Pins → Pins) : (setPins s g).nextSer = s.nextSer := rfl
@[simp] theorem setPins_ctxIds (s : State) (g : Pins → Pins) : (setPins s g).ctxIds = s.ctxIds := rfl
@[simp] theorem setPins_digs (s : State) (g : Pins → Pins) : (setPins s g).digs = s.digs := rfl
@[simp] theorem setPins_plotResets (s : State) (g : Pins → Pins) : (setPins s g).plotResets = s.plotResets := rfl
@[simp] theorem setPins_blockDone (s : State) (g : Pins → Pins) : (setPins s g).blockDone = s.blockDone := rfl
@[simp] theorem setPins_seams (s : State) (g : Pins → Pins) : (setPins s g).seams = s.seams := rfl
@[simp] theorem setPins_seamCal (s : State) (g : Pins → Pins) : (setPins s g).seamCal = s.seamCal := rfl
@[simp] theorem setPins_copies (s : State) (g : Pins → Pins) : (setPins s g).copies = s.copies := rfl
@[simp] theorem setPins_stw (s : State) (g : Pins → Pins) : (setPins s g).stw = s.stw := rfl
@[simp] theorem setPins_pins (s : State) (g : Pins → Pins) : (setPins s g).pins = g s.pins := rfl
@[simp] theorem setPins_sec (s : State) (g : Pins → Pins) : (setPins s g).sec = s.sec := rfl

/-! `setFun` -/

@[simp] theorem setFun_pending (s : State) (n : Nat) (v : Fun) : (setFun s n v).pending = s.pending := rfl
@[simp] theorem setFun_free (s : State) (n : Nat) (v : Fun) : (setFun s n v).free = s.free := rfl
@[simp] theorem setFun_code (s : State) (n : Nat) (v : Fun) : (setFun s n v).code = s.code := rfl
@[simp] theorem setFun_now (s : State) (n : Nat) (v : Fun) : (setFun s n v).now = s.now := rfl
@[simp] theorem setFun_qcyc (s : State) (n : Nat) (v : Fun) : (setFun s n v).qcyc = s.qcyc := rfl
@[simp] theorem setFun_cores (s : State) (n : Nat) (v : Fun) : (setFun s n v).cores = s.cores := rfl
@[simp] theorem setFun_plots (s : State) (n : Nat) (v : Fun) : (setFun s n v).plots = s.plots := rfl
@[simp] theorem setFun_csr (s : State) (n : Nat) (v : Fun) : (setFun s n v).csr = s.csr := rfl
@[simp] theorem setFun_net (s : State) (n : Nat) (v : Fun) : (setFun s n v).net = s.net := rfl
@[simp] theorem setFun_nextId (s : State) (n : Nat) (v : Fun) : (setFun s n v).nextId = s.nextId := rfl
@[simp] theorem setFun_arb (s : State) (n : Nat) (v : Fun) : (setFun s n v).arb = s.arb := rfl
@[simp] theorem setFun_place (s : State) (n : Nat) (v : Fun) : (setFun s n v).place = s.place := rfl
@[simp] theorem setFun_lost (s : State) (n : Nat) (v : Fun) : (setFun s n v).lost = s.lost := rfl
@[simp] theorem setFun_notes (s : State) (n : Nat) (v : Fun) : (setFun s n v).notes = s.notes := rfl
@[simp] theorem setFun_swathNow (s : State) (n : Nat) (v : Fun) : (setFun s n v).swathNow = s.swathNow := rfl
@[simp] theorem setFun_swA (s : State) (n : Nat) (v : Fun) : (setFun s n v).swA = s.swA := rfl
@[simp] theorem setFun_swT (s : State) (n : Nat) (v : Fun) : (setFun s n v).swT = s.swT := rfl
@[simp] theorem setFun_pairQ (s : State) (n : Nat) (v : Fun) : (setFun s n v).pairQ = s.pairQ := rfl
@[simp] theorem setFun_pairTags (s : State) (n : Nat) (v : Fun) : (setFun s n v).pairTags = s.pairTags := rfl
@[simp] theorem setFun_edgeEpoch (s : State) (n : Nat) (v : Fun) : (setFun s n v).edgeEpoch = s.edgeEpoch := rfl
@[simp] theorem setFun_ver0 (s : State) (n : Nat) (v : Fun) : (setFun s n v).ver0 = s.ver0 := rfl
@[simp] theorem setFun_ver1 (s : State) (n : Nat) (v : Fun) : (setFun s n v).ver1 = s.ver1 := rfl
@[simp] theorem setFun_chg (s : State) (n : Nat) (v : Fun) : (setFun s n v).chg = s.chg := rfl
@[simp] theorem setFun_drains (s : State) (n : Nat) (v : Fun) : (setFun s n v).drains = s.drains := rfl
@[simp] theorem setFun_slices (s : State) (n : Nat) (v : Fun) : (setFun s n v).slices = s.slices := rfl
@[simp] theorem setFun_hbmQ (s : State) (n : Nat) (v : Fun) : (setFun s n v).hbmQ = s.hbmQ := rfl
@[simp] theorem setFun_cxlQ (s : State) (n : Nat) (v : Fun) : (setFun s n v).cxlQ = s.cxlQ := rfl
@[simp] theorem setFun_hbm (s : State) (n : Nat) (v : Fun) : (setFun s n v).hbm = s.hbm := rfl
@[simp] theorem setFun_hbmPoi (s : State) (n : Nat) (v : Fun) : (setFun s n v).hbmPoi = s.hbmPoi := rfl
@[simp] theorem setFun_hbmErr (s : State) (n : Nat) (v : Fun) : (setFun s n v).hbmErr = s.hbmErr := rfl
@[simp] theorem setFun_hbmRepair (s : State) (n : Nat) (v : Fun) : (setFun s n v).hbmRepair = s.hbmRepair := rfl
@[simp] theorem setFun_scrubPos (s : State) (n : Nat) (v : Fun) : (setFun s n v).scrubPos = s.scrubPos := rfl
@[simp] theorem setFun_scrubT (s : State) (n : Nat) (v : Fun) : (setFun s n v).scrubT = s.scrubT := rfl
@[simp] theorem setFun_cxl (s : State) (n : Nat) (v : Fun) : (setFun s n v).cxl = s.cxl := rfl
@[simp] theorem setFun_cxlPoi (s : State) (n : Nat) (v : Fun) : (setFun s n v).cxlPoi = s.cxlPoi := rfl
@[simp] theorem setFun_gathers (s : State) (n : Nat) (v : Fun) : (setFun s n v).gathers = s.gathers := rfl
@[simp] theorem setFun_yports (s : State) (n : Nat) (v : Fun) : (setFun s n v).yports = s.yports := rfl
@[simp] theorem setFun_team0 (s : State) (n : Nat) (v : Fun) : (setFun s n v).team0 = s.team0 := rfl
@[simp] theorem setFun_team1 (s : State) (n : Nat) (v : Fun) : (setFun s n v).team1 = s.team1 := rfl
@[simp] theorem setFun_teamTime (s : State) (n : Nat) (v : Fun) : (setFun s n v).teamTime = s.teamTime := rfl
@[simp] theorem setFun_pairTab (s : State) (n : Nat) (v : Fun) : (setFun s n v).pairTab = s.pairTab := rfl
@[simp] theorem setFun_filter (s : State) (n : Nat) (v : Fun) : (setFun s n v).filter = s.filter := rfl
@[simp] theorem setFun_inbound (s : State) (n : Nat) (v : Fun) : (setFun s n v).inbound = s.inbound := rfl
@[simp] theorem setFun_muster (s : State) (n : Nat) (v : Fun) : (setFun s n v).muster = s.muster := rfl
@[simp] theorem setFun_outs (s : State) (n : Nat) (v : Fun) : (setFun s n v).outs = s.outs := rfl
@[simp] theorem setFun_ingress (s : State) (n : Nat) (v : Fun) : (setFun s n v).ingress = s.ingress := rfl
@[simp] theorem setFun_tcs (s : State) (n : Nat) (v : Fun) : (setFun s n v).tcs = s.tcs := rfl
@[simp] theorem setFun_hostPaused (s : State) (n : Nat) (v : Fun) : (setFun s n v).hostPaused = s.hostPaused := rfl
@[simp] theorem setFun_pauseSent (s : State) (n : Nat) (v : Fun) : (setFun s n v).pauseSent = s.pauseSent := rfl
@[simp] theorem setFun_hostHeld (s : State) (n : Nat) (v : Fun) : (setFun s n v).hostHeld = s.hostHeld := rfl
@[simp] theorem setFun_funs (s : State) (n : Nat) (v : Fun) : (setFun s n v).funs = fset fun0 s.funs n v := rfl
@[simp] theorem setFun_nextSer (s : State) (n : Nat) (v : Fun) : (setFun s n v).nextSer = s.nextSer := rfl
@[simp] theorem setFun_ctxIds (s : State) (n : Nat) (v : Fun) : (setFun s n v).ctxIds = s.ctxIds := rfl
@[simp] theorem setFun_digs (s : State) (n : Nat) (v : Fun) : (setFun s n v).digs = s.digs := rfl
@[simp] theorem setFun_plotResets (s : State) (n : Nat) (v : Fun) : (setFun s n v).plotResets = s.plotResets := rfl
@[simp] theorem setFun_blockDone (s : State) (n : Nat) (v : Fun) : (setFun s n v).blockDone = s.blockDone := rfl
@[simp] theorem setFun_seams (s : State) (n : Nat) (v : Fun) : (setFun s n v).seams = s.seams := rfl
@[simp] theorem setFun_seamCal (s : State) (n : Nat) (v : Fun) : (setFun s n v).seamCal = s.seamCal := rfl
@[simp] theorem setFun_copies (s : State) (n : Nat) (v : Fun) : (setFun s n v).copies = s.copies := rfl
@[simp] theorem setFun_stw (s : State) (n : Nat) (v : Fun) : (setFun s n v).stw = s.stw := rfl
@[simp] theorem setFun_pins (s : State) (n : Nat) (v : Fun) : (setFun s n v).pins = s.pins := rfl
@[simp] theorem setFun_sec (s : State) (n : Nat) (v : Fun) : (setFun s n v).sec = s.sec := rfl

/-! `setCreg` -/

@[simp] theorem setCreg_imem (k : Core) (o : Nat) (v : Word) : (setCreg k o v).imem = k.imem := rfl
@[simp] theorem setCreg_threads (k : Core) (o : Nat) (v : Word) : (setCreg k o v).threads = k.threads := rfl
@[simp] theorem setCreg_regs (k : Core) (o : Nat) (v : Word) : (setCreg k o v).regs = fset coreReset k.regs o v := rfl
@[simp] theorem setCreg_queues (k : Core) (o : Nat) (v : Word) : (setCreg k o v).queues = k.queues := rfl
@[simp] theorem setCreg_lastIssue (k : Core) (o : Nat) (v : Word) : (setCreg k o v).lastIssue = k.lastIssue := rfl
@[simp] theorem setCreg_lastFired (k : Core) (o : Nat) (v : Word) : (setCreg k o v).lastFired = k.lastFired := rfl
@[simp] theorem setCreg_stopped (k : Core) (o : Nat) (v : Word) : (setCreg k o v).stopped = k.stopped := rfl
@[simp] theorem setCreg_reqs (k : Core) (o : Nat) (v : Word) : (setCreg k o v).reqs = k.reqs := rfl
@[simp] theorem setCreg_sends (k : Core) (o : Nat) (v : Word) : (setCreg k o v).sends = k.sends := rfl
@[simp] theorem setCreg_orders (k : Core) (o : Nat) (v : Word) : (setCreg k o v).orders = k.orders := rfl
@[simp] theorem setCreg_ends (k : Core) (o : Nat) (v : Word) : (setCreg k o v).ends = k.ends := rfl
@[simp] theorem setCreg_sheafs (k : Core) (o : Nat) (v : Word) : (setCreg k o v).sheafs = k.sheafs := rfl
@[simp] theorem setCreg_spd (k : Core) (o : Nat) (v : Word) : (setCreg k o v).spd = k.spd := rfl
@[simp] theorem setCreg_spdPoi (k : Core) (o : Nat) (v : Word) : (setCreg k o v).spdPoi = k.spdPoi := rfl
@[simp] theorem setCreg_spdFlip (k : Core) (o : Nat) (v : Word) : (setCreg k o v).spdFlip = k.spdFlip := rfl
@[simp] theorem setCreg_rings (k : Core) (o : Nat) (v : Word) : (setCreg k o v).rings = k.rings := rfl
@[simp] theorem setCreg_land (k : Core) (o : Nat) (v : Word) : (setCreg k o v).land = k.land := rfl
@[simp] theorem setCreg_bounces (k : Core) (o : Nat) (v : Word) : (setCreg k o v).bounces = k.bounces := rfl
@[simp] theorem setCreg_landBuf (k : Core) (o : Nat) (v : Word) : (setCreg k o v).landBuf = k.landBuf := rfl
@[simp] theorem setCreg_links (k : Core) (o : Nat) (v : Word) : (setCreg k o v).links = k.links := rfl
@[simp] theorem setCreg_pass (k : Core) (o : Nat) (v : Word) : (setCreg k o v).pass = k.pass := rfl
@[simp] theorem setCreg_fedBy (k : Core) (o : Nat) (v : Word) : (setCreg k o v).fedBy = k.fedBy := rfl
@[simp] theorem setCreg_probes (k : Core) (o : Nat) (v : Word) : (setCreg k o v).probes = k.probes := rfl
@[simp] theorem setCreg_taskProbes (k : Core) (o : Nat) (v : Word) : (setCreg k o v).taskProbes = k.taskProbes := rfl
@[simp] theorem setCreg_moverLast (k : Core) (o : Nat) (v : Word) : (setCreg k o v).moverLast = k.moverLast := rfl
@[simp] theorem setCreg_mq (k : Core) (o : Nat) (v : Word) : (setCreg k o v).mq = k.mq := rfl
@[simp] theorem setCreg_mma (k : Core) (o : Nat) (v : Word) : (setCreg k o v).mma = k.mma := rfl
@[simp] theorem setCreg_mmaTail (k : Core) (o : Nat) (v : Word) : (setCreg k o v).mmaTail = k.mmaTail := rfl
@[simp] theorem setCreg_drain (k : Core) (o : Nat) (v : Word) : (setCreg k o v).drain = k.drain := rfl
@[simp] theorem setCreg_tileA (k : Core) (o : Nat) (v : Word) : (setCreg k o v).tileA = k.tileA := rfl
@[simp] theorem setCreg_tileB (k : Core) (o : Nat) (v : Word) : (setCreg k o v).tileB = k.tileB := rfl
@[simp] theorem setCreg_waiting (k : Core) (o : Nat) (v : Word) : (setCreg k o v).waiting = k.waiting := rfl
@[simp] theorem setCreg_promoted (k : Core) (o : Nat) (v : Word) : (setCreg k o v).promoted = k.promoted := rfl
@[simp] theorem setCreg_portFree (k : Core) (o : Nat) (v : Word) : (setCreg k o v).portFree = k.portFree := rfl
@[simp] theorem setCreg_stallBase (k : Core) (o : Nat) (v : Word) : (setCreg k o v).stallBase = k.stallBase := rfl
@[simp] theorem setCreg_imemCE (k : Core) (o : Nat) (v : Word) : (setCreg k o v).imemCE = k.imemCE := rfl
@[simp] theorem setCreg_seeding (k : Core) (o : Nat) (v : Word) : (setCreg k o v).seeding = k.seeding := rfl
@[simp] theorem setCreg_seedRings (k : Core) (o : Nat) (v : Word) : (setCreg k o v).seedRings = k.seedRings := rfl
@[simp] theorem setCreg_latch (k : Core) (o : Nat) (v : Word) : (setCreg k o v).latch = k.latch := rfl
@[simp] theorem setCreg_scrubAt (k : Core) (o : Nat) (v : Word) : (setCreg k o v).scrubAt = k.scrubAt := rfl

/-! `setThread` -/

@[simp] theorem setThread_imem (k : Core) (t : Nat) (th : Thread) : (setThread k t th).imem = k.imem := rfl
@[simp] theorem setThread_threads (k : Core) (t : Nat) (th : Thread) : (setThread k t th).threads = fset thread0 k.threads t th := rfl
@[simp] theorem setThread_regs (k : Core) (t : Nat) (th : Thread) : (setThread k t th).regs = k.regs := rfl
@[simp] theorem setThread_queues (k : Core) (t : Nat) (th : Thread) : (setThread k t th).queues = k.queues := rfl
@[simp] theorem setThread_lastIssue (k : Core) (t : Nat) (th : Thread) : (setThread k t th).lastIssue = k.lastIssue := rfl
@[simp] theorem setThread_lastFired (k : Core) (t : Nat) (th : Thread) : (setThread k t th).lastFired = k.lastFired := rfl
@[simp] theorem setThread_stopped (k : Core) (t : Nat) (th : Thread) : (setThread k t th).stopped = k.stopped := rfl
@[simp] theorem setThread_reqs (k : Core) (t : Nat) (th : Thread) : (setThread k t th).reqs = k.reqs := rfl
@[simp] theorem setThread_sends (k : Core) (t : Nat) (th : Thread) : (setThread k t th).sends = k.sends := rfl
@[simp] theorem setThread_orders (k : Core) (t : Nat) (th : Thread) : (setThread k t th).orders = k.orders := rfl
@[simp] theorem setThread_ends (k : Core) (t : Nat) (th : Thread) : (setThread k t th).ends = k.ends := rfl
@[simp] theorem setThread_sheafs (k : Core) (t : Nat) (th : Thread) : (setThread k t th).sheafs = k.sheafs := rfl
@[simp] theorem setThread_spd (k : Core) (t : Nat) (th : Thread) : (setThread k t th).spd = k.spd := rfl
@[simp] theorem setThread_spdPoi (k : Core) (t : Nat) (th : Thread) : (setThread k t th).spdPoi = k.spdPoi := rfl
@[simp] theorem setThread_spdFlip (k : Core) (t : Nat) (th : Thread) : (setThread k t th).spdFlip = k.spdFlip := rfl
@[simp] theorem setThread_rings (k : Core) (t : Nat) (th : Thread) : (setThread k t th).rings = k.rings := rfl
@[simp] theorem setThread_land (k : Core) (t : Nat) (th : Thread) : (setThread k t th).land = k.land := rfl
@[simp] theorem setThread_bounces (k : Core) (t : Nat) (th : Thread) : (setThread k t th).bounces = k.bounces := rfl
@[simp] theorem setThread_landBuf (k : Core) (t : Nat) (th : Thread) : (setThread k t th).landBuf = k.landBuf := rfl
@[simp] theorem setThread_links (k : Core) (t : Nat) (th : Thread) : (setThread k t th).links = k.links := rfl
@[simp] theorem setThread_pass (k : Core) (t : Nat) (th : Thread) : (setThread k t th).pass = k.pass := rfl
@[simp] theorem setThread_fedBy (k : Core) (t : Nat) (th : Thread) : (setThread k t th).fedBy = k.fedBy := rfl
@[simp] theorem setThread_probes (k : Core) (t : Nat) (th : Thread) : (setThread k t th).probes = k.probes := rfl
@[simp] theorem setThread_taskProbes (k : Core) (t : Nat) (th : Thread) : (setThread k t th).taskProbes = k.taskProbes := rfl
@[simp] theorem setThread_moverLast (k : Core) (t : Nat) (th : Thread) : (setThread k t th).moverLast = k.moverLast := rfl
@[simp] theorem setThread_mq (k : Core) (t : Nat) (th : Thread) : (setThread k t th).mq = k.mq := rfl
@[simp] theorem setThread_mma (k : Core) (t : Nat) (th : Thread) : (setThread k t th).mma = k.mma := rfl
@[simp] theorem setThread_mmaTail (k : Core) (t : Nat) (th : Thread) : (setThread k t th).mmaTail = k.mmaTail := rfl
@[simp] theorem setThread_drain (k : Core) (t : Nat) (th : Thread) : (setThread k t th).drain = k.drain := rfl
@[simp] theorem setThread_tileA (k : Core) (t : Nat) (th : Thread) : (setThread k t th).tileA = k.tileA := rfl
@[simp] theorem setThread_tileB (k : Core) (t : Nat) (th : Thread) : (setThread k t th).tileB = k.tileB := rfl
@[simp] theorem setThread_waiting (k : Core) (t : Nat) (th : Thread) : (setThread k t th).waiting = k.waiting := rfl
@[simp] theorem setThread_promoted (k : Core) (t : Nat) (th : Thread) : (setThread k t th).promoted = k.promoted := rfl
@[simp] theorem setThread_portFree (k : Core) (t : Nat) (th : Thread) : (setThread k t th).portFree = k.portFree := rfl
@[simp] theorem setThread_stallBase (k : Core) (t : Nat) (th : Thread) : (setThread k t th).stallBase = k.stallBase := rfl
@[simp] theorem setThread_imemCE (k : Core) (t : Nat) (th : Thread) : (setThread k t th).imemCE = k.imemCE := rfl
@[simp] theorem setThread_seeding (k : Core) (t : Nat) (th : Thread) : (setThread k t th).seeding = k.seeding := rfl
@[simp] theorem setThread_seedRings (k : Core) (t : Nat) (th : Thread) : (setThread k t th).seedRings = k.seedRings := rfl
@[simp] theorem setThread_latch (k : Core) (t : Nat) (th : Thread) : (setThread k t th).latch = k.latch := rfl
@[simp] theorem setThread_scrubAt (k : Core) (t : Nat) (th : Thread) : (setThread k t th).scrubAt = k.scrubAt := rfl

/-! `setQueue` -/

@[simp] theorem setQueue_imem (k : Core) (q : Nat) (v : Queue) : (setQueue k q v).imem = k.imem := rfl
@[simp] theorem setQueue_threads (k : Core) (q : Nat) (v : Queue) : (setQueue k q v).threads = k.threads := rfl
@[simp] theorem setQueue_regs (k : Core) (q : Nat) (v : Queue) : (setQueue k q v).regs = k.regs := rfl
@[simp] theorem setQueue_queues (k : Core) (q : Nat) (v : Queue) : (setQueue k q v).queues = fset queue0 k.queues q v := rfl
@[simp] theorem setQueue_lastIssue (k : Core) (q : Nat) (v : Queue) : (setQueue k q v).lastIssue = k.lastIssue := rfl
@[simp] theorem setQueue_lastFired (k : Core) (q : Nat) (v : Queue) : (setQueue k q v).lastFired = k.lastFired := rfl
@[simp] theorem setQueue_stopped (k : Core) (q : Nat) (v : Queue) : (setQueue k q v).stopped = k.stopped := rfl
@[simp] theorem setQueue_reqs (k : Core) (q : Nat) (v : Queue) : (setQueue k q v).reqs = k.reqs := rfl
@[simp] theorem setQueue_sends (k : Core) (q : Nat) (v : Queue) : (setQueue k q v).sends = k.sends := rfl
@[simp] theorem setQueue_orders (k : Core) (q : Nat) (v : Queue) : (setQueue k q v).orders = k.orders := rfl
@[simp] theorem setQueue_ends (k : Core) (q : Nat) (v : Queue) : (setQueue k q v).ends = k.ends := rfl
@[simp] theorem setQueue_sheafs (k : Core) (q : Nat) (v : Queue) : (setQueue k q v).sheafs = k.sheafs := rfl
@[simp] theorem setQueue_spd (k : Core) (q : Nat) (v : Queue) : (setQueue k q v).spd = k.spd := rfl
@[simp] theorem setQueue_spdPoi (k : Core) (q : Nat) (v : Queue) : (setQueue k q v).spdPoi = k.spdPoi := rfl
@[simp] theorem setQueue_spdFlip (k : Core) (q : Nat) (v : Queue) : (setQueue k q v).spdFlip = k.spdFlip := rfl
@[simp] theorem setQueue_rings (k : Core) (q : Nat) (v : Queue) : (setQueue k q v).rings = k.rings := rfl
@[simp] theorem setQueue_land (k : Core) (q : Nat) (v : Queue) : (setQueue k q v).land = k.land := rfl
@[simp] theorem setQueue_bounces (k : Core) (q : Nat) (v : Queue) : (setQueue k q v).bounces = k.bounces := rfl
@[simp] theorem setQueue_landBuf (k : Core) (q : Nat) (v : Queue) : (setQueue k q v).landBuf = k.landBuf := rfl
@[simp] theorem setQueue_links (k : Core) (q : Nat) (v : Queue) : (setQueue k q v).links = k.links := rfl
@[simp] theorem setQueue_pass (k : Core) (q : Nat) (v : Queue) : (setQueue k q v).pass = k.pass := rfl
@[simp] theorem setQueue_fedBy (k : Core) (q : Nat) (v : Queue) : (setQueue k q v).fedBy = k.fedBy := rfl
@[simp] theorem setQueue_probes (k : Core) (q : Nat) (v : Queue) : (setQueue k q v).probes = k.probes := rfl
@[simp] theorem setQueue_taskProbes (k : Core) (q : Nat) (v : Queue) : (setQueue k q v).taskProbes = k.taskProbes := rfl
@[simp] theorem setQueue_moverLast (k : Core) (q : Nat) (v : Queue) : (setQueue k q v).moverLast = k.moverLast := rfl
@[simp] theorem setQueue_mq (k : Core) (q : Nat) (v : Queue) : (setQueue k q v).mq = k.mq := rfl
@[simp] theorem setQueue_mma (k : Core) (q : Nat) (v : Queue) : (setQueue k q v).mma = k.mma := rfl
@[simp] theorem setQueue_mmaTail (k : Core) (q : Nat) (v : Queue) : (setQueue k q v).mmaTail = k.mmaTail := rfl
@[simp] theorem setQueue_drain (k : Core) (q : Nat) (v : Queue) : (setQueue k q v).drain = k.drain := rfl
@[simp] theorem setQueue_tileA (k : Core) (q : Nat) (v : Queue) : (setQueue k q v).tileA = k.tileA := rfl
@[simp] theorem setQueue_tileB (k : Core) (q : Nat) (v : Queue) : (setQueue k q v).tileB = k.tileB := rfl
@[simp] theorem setQueue_waiting (k : Core) (q : Nat) (v : Queue) : (setQueue k q v).waiting = k.waiting := rfl
@[simp] theorem setQueue_promoted (k : Core) (q : Nat) (v : Queue) : (setQueue k q v).promoted = k.promoted := rfl
@[simp] theorem setQueue_portFree (k : Core) (q : Nat) (v : Queue) : (setQueue k q v).portFree = k.portFree := rfl
@[simp] theorem setQueue_stallBase (k : Core) (q : Nat) (v : Queue) : (setQueue k q v).stallBase = k.stallBase := rfl
@[simp] theorem setQueue_imemCE (k : Core) (q : Nat) (v : Queue) : (setQueue k q v).imemCE = k.imemCE := rfl
@[simp] theorem setQueue_seeding (k : Core) (q : Nat) (v : Queue) : (setQueue k q v).seeding = k.seeding := rfl
@[simp] theorem setQueue_seedRings (k : Core) (q : Nat) (v : Queue) : (setQueue k q v).seedRings = k.seedRings := rfl
@[simp] theorem setQueue_latch (k : Core) (q : Nat) (v : Queue) : (setQueue k q v).latch = k.latch := rfl
@[simp] theorem setQueue_scrubAt (k : Core) (q : Nat) (v : Queue) : (setQueue k q v).scrubAt = k.scrubAt := rfl

/-! `setRing` -/

@[simp] theorem setRing_imem (k : Core) (n : Nat) (l : List RMsg) : (setRing k n l).imem = k.imem := rfl
@[simp] theorem setRing_threads (k : Core) (n : Nat) (l : List RMsg) : (setRing k n l).threads = k.threads := rfl
@[simp] theorem setRing_regs (k : Core) (n : Nat) (l : List RMsg) : (setRing k n l).regs = k.regs := rfl
@[simp] theorem setRing_queues (k : Core) (n : Nat) (l : List RMsg) : (setRing k n l).queues = k.queues := rfl
@[simp] theorem setRing_lastIssue (k : Core) (n : Nat) (l : List RMsg) : (setRing k n l).lastIssue = k.lastIssue := rfl
@[simp] theorem setRing_lastFired (k : Core) (n : Nat) (l : List RMsg) : (setRing k n l).lastFired = k.lastFired := rfl
@[simp] theorem setRing_stopped (k : Core) (n : Nat) (l : List RMsg) : (setRing k n l).stopped = k.stopped := rfl
@[simp] theorem setRing_reqs (k : Core) (n : Nat) (l : List RMsg) : (setRing k n l).reqs = k.reqs := rfl
@[simp] theorem setRing_sends (k : Core) (n : Nat) (l : List RMsg) : (setRing k n l).sends = k.sends := rfl
@[simp] theorem setRing_orders (k : Core) (n : Nat) (l : List RMsg) : (setRing k n l).orders = k.orders := rfl
@[simp] theorem setRing_ends (k : Core) (n : Nat) (l : List RMsg) : (setRing k n l).ends = k.ends := rfl
@[simp] theorem setRing_sheafs (k : Core) (n : Nat) (l : List RMsg) : (setRing k n l).sheafs = k.sheafs := rfl
@[simp] theorem setRing_spd (k : Core) (n : Nat) (l : List RMsg) : (setRing k n l).spd = k.spd := rfl
@[simp] theorem setRing_spdPoi (k : Core) (n : Nat) (l : List RMsg) : (setRing k n l).spdPoi = k.spdPoi := rfl
@[simp] theorem setRing_spdFlip (k : Core) (n : Nat) (l : List RMsg) : (setRing k n l).spdFlip = k.spdFlip := rfl
@[simp] theorem setRing_rings (k : Core) (n : Nat) (l : List RMsg) : (setRing k n l).rings = fset noRing k.rings n l := rfl
@[simp] theorem setRing_land (k : Core) (n : Nat) (l : List RMsg) : (setRing k n l).land = k.land := rfl
@[simp] theorem setRing_bounces (k : Core) (n : Nat) (l : List RMsg) : (setRing k n l).bounces = k.bounces := rfl
@[simp] theorem setRing_landBuf (k : Core) (n : Nat) (l : List RMsg) : (setRing k n l).landBuf = k.landBuf := rfl
@[simp] theorem setRing_links (k : Core) (n : Nat) (l : List RMsg) : (setRing k n l).links = k.links := rfl
@[simp] theorem setRing_pass (k : Core) (n : Nat) (l : List RMsg) : (setRing k n l).pass = k.pass := rfl
@[simp] theorem setRing_fedBy (k : Core) (n : Nat) (l : List RMsg) : (setRing k n l).fedBy = k.fedBy := rfl
@[simp] theorem setRing_probes (k : Core) (n : Nat) (l : List RMsg) : (setRing k n l).probes = k.probes := rfl
@[simp] theorem setRing_taskProbes (k : Core) (n : Nat) (l : List RMsg) : (setRing k n l).taskProbes = k.taskProbes := rfl
@[simp] theorem setRing_moverLast (k : Core) (n : Nat) (l : List RMsg) : (setRing k n l).moverLast = k.moverLast := rfl
@[simp] theorem setRing_mq (k : Core) (n : Nat) (l : List RMsg) : (setRing k n l).mq = k.mq := rfl
@[simp] theorem setRing_mma (k : Core) (n : Nat) (l : List RMsg) : (setRing k n l).mma = k.mma := rfl
@[simp] theorem setRing_mmaTail (k : Core) (n : Nat) (l : List RMsg) : (setRing k n l).mmaTail = k.mmaTail := rfl
@[simp] theorem setRing_drain (k : Core) (n : Nat) (l : List RMsg) : (setRing k n l).drain = k.drain := rfl
@[simp] theorem setRing_tileA (k : Core) (n : Nat) (l : List RMsg) : (setRing k n l).tileA = k.tileA := rfl
@[simp] theorem setRing_tileB (k : Core) (n : Nat) (l : List RMsg) : (setRing k n l).tileB = k.tileB := rfl
@[simp] theorem setRing_waiting (k : Core) (n : Nat) (l : List RMsg) : (setRing k n l).waiting = k.waiting := rfl
@[simp] theorem setRing_promoted (k : Core) (n : Nat) (l : List RMsg) : (setRing k n l).promoted = k.promoted := rfl
@[simp] theorem setRing_portFree (k : Core) (n : Nat) (l : List RMsg) : (setRing k n l).portFree = k.portFree := rfl
@[simp] theorem setRing_stallBase (k : Core) (n : Nat) (l : List RMsg) : (setRing k n l).stallBase = k.stallBase := rfl
@[simp] theorem setRing_imemCE (k : Core) (n : Nat) (l : List RMsg) : (setRing k n l).imemCE = k.imemCE := rfl
@[simp] theorem setRing_seeding (k : Core) (n : Nat) (l : List RMsg) : (setRing k n l).seeding = k.seeding := rfl
@[simp] theorem setRing_seedRings (k : Core) (n : Nat) (l : List RMsg) : (setRing k n l).seedRings = k.seedRings := rfl
@[simp] theorem setRing_latch (k : Core) (n : Nat) (l : List RMsg) : (setRing k n l).latch = k.latch := rfl
@[simp] theorem setRing_scrubAt (k : Core) (n : Nat) (l : List RMsg) : (setRing k n l).scrubAt = k.scrubAt := rfl

end Sys2Proof.Machine
end

