-- ==== Sys2Proof/Laws/Vector.lean ====
section
/-! SUPPORT. What a write of vector lanes leaves in each lane, in each poison bit, and in the other registers. -/

namespace Sys2Proof.Machine

theorem getLsbD_lane (v : Vec) (k i : Nat) : (lane v k).getLsbD i = (decide (i < 32) && v.getLsbD (32 * k + i)) := by
  unfold lane
  rw [BitVec.getLsbD_ofNat, Nat.testBit_shiftRight]
  rfl

theorem lane_setLane (v : Vec) (k j : Nat) (x : BitVec 32) (hj : j < 16) :
    lane (setLane v j x) k = if k = j then x else lane v k := by
  apply BitVec.eq_of_getLsbD_eq
  intro i hi
  rw [getLsbD_lane]
  unfold setLane
  rw [getLsbD_setBits]
  by_cases h : k = j
  · subst h
    have h1 : 32 * k ≤ 32 * k + i ∧ 32 * k + i - 32 * k < 32 * k + 31 - 32 * k + 1 := by omega
    have h2 : 32 * k + i - 32 * k = i := by omega
    have h3 : 32 * k + i < 512 := by omega
    rw [if_pos h1, h2, if_pos rfl]
    simp [hi, h3, BitVec.getLsbD]
  · have h1 : ¬ (32 * j ≤ 32 * k + i ∧ 32 * k + i - 32 * j < 32 * j + 31 - 32 * j + 1) := by omega
    rw [if_neg h1, if_neg h, getLsbD_lane]

theorem lane_fold (l : List Nat) (hl : ∀ j ∈ l, j < 16) (hn : l.Nodup) (on : Nat → Bool) (val : Nat → BitVec 32) (v : Vec)
    (k : Nat) : lane (l.foldl (fun a j => if on j then setLane a j (val j) else a) v) k =
      if k ∈ l ∧ on k = true then val k else lane v k := by
  induction l generalizing v with
  | nil => simp
  | cons j l ih =>
    rw [List.nodup_cons] at hn
    rw [List.foldl_cons, ih (fun x hx => hl x (List.mem_cons_of_mem _ hx)) hn.2]
    have hj := hl j (List.mem_cons_self ..)
    by_cases hkj : k = j
    · subst hkj
      by_cases ho : on k = true
      · simp [hn.1, ho, lane_setLane _ _ _ _ hj]
      · simp [hn.1, ho]
    · by_cases ho : on j = true
      · simp [ho, lane_setLane _ _ _ _ hj, hkj]
      · simp [ho, hkj]

theorem bit_setBit {n : Nat} (p : BitVec n) (j i : Nat) (b : Bool) (hi : i < n) :
    bit (setBit p j b) i = if i = j then b else bit p i := by
  unfold bit setBit
  by_cases h : i = j
  · subst h
    rw [getLsbD_setBits]
    have h1 : i ≤ i ∧ i - i < i - i + 1 := by omega
    rw [if_pos h1, if_pos rfl]
    cases b <;> simp [hi]
  · rw [getLsbD_setBits]
    have h1 : ¬ (j ≤ i ∧ i - j < j - j + 1) := by omega
    rw [if_neg h1, if_neg h]

theorem bit_fold (l : List Nat) (hn : l.Nodup) (val : Byte → Nat → Bool) (p : Byte) (i : Nat) (hi : i < 8) :
    bit (l.foldl (fun a j => setBit a j (val p j)) p) i = if i ∈ l then val p i else bit p i := by
  suffices h : ∀ (g : Nat → Bool) (q : Byte), bit (l.foldl (fun a j => setBit a j (g j)) q) i = if i ∈ l then g i else bit q i from
    h (val p) p
  intro g
  induction l with
  | nil => simp
  | cons j l ih =>
    intro q
    rw [List.nodup_cons] at hn
    rw [List.foldl_cons, ih hn.2, bit_setBit _ _ _ _ hi]
    by_cases hij : i = j
    · subst hij; simp [hn.1]
    · simp [hij]

theorem rdV_wrV (th : Thread) (r x : Nat) (v : Vec) (p : Byte) : rdV (wrV th r v p) x = if r = x then v else rdV th x :=
  fget_fset ..

theorem rdVp_wrV (th : Thread) (r x : Nat) (v : Vec) (p : Byte) : rdVp (wrV th r v p) x = if r = x then p else rdVp th x :=
  fget_fset ..

/-- Writing lanes changes nothing of a thread but its vector registers. -/
theorem putLanes_thread (th : Thread) (r : Nat) (m : BitVec 16) (val : Nat → BitVec 32) (poi : Nat → Bool) :
    putLanes th r m val poi = { th with v := (putLanes th r m val poi).v, vp := (putLanes th r m val poi).vp } := rfl

/-- The enabled lanes of the register hold the values, the others what they held. -/
theorem putLanes_lane (th : Thread) (r : Nat) (m : BitVec 16) (val : Nat → BitVec 32) (poi : Nat → Bool) (k : Nat)
    (hk : k < 16) : lane (rdV (putLanes th r m val poi) r) k = if m.getLsbD k then val k else lane (rdV th r) k := by
  unfold putLanes
  rw [rdV_wrV, if_pos rfl]
  rw [lane_fold (List.range 16) (fun j hj => List.mem_range.mp hj) List.nodup_range (laneOn m) val]
  simp [hk, laneOn]

/-- The poison of each 64-bit word of the register. -/
theorem putLanes_poi (th : Thread) (r : Nat) (m : BitVec 16) (val : Nat → BitVec 32) (poi : Nat → Bool) (j : Nat)
    (hj : j < 8) : bit (rdVp (putLanes th r m val poi) r) j =
      ((if m.getLsbD (2 * j) then poi (2 * j) else bit (rdVp th r) j)
        || (if m.getLsbD (2 * j + 1) then poi (2 * j + 1) else bit (rdVp th r) j)) := by
  unfold putLanes
  rw [rdVp_wrV, if_pos rfl]
  have := bit_fold (List.range 8) List.nodup_range (fun q j => (if laneOn m (2 * j) = true then poi (2 * j) else bit q j) ||
    (if laneOn m (2 * j + 1) = true then poi (2 * j + 1) else bit q j)) (rdVp th r) j hj
  simp only [List.mem_range, hj, if_true] at this
  exact this

/-- The other vector registers stay. -/
theorem putLanes_other (th : Thread) (r : Nat) (m : BitVec 16) (val : Nat → BitVec 32) (poi : Nat → Bool) (x : Nat)
    (hx : x ≠ r) : rdV (putLanes th r m val poi) x = rdV th x ∧ rdVp (putLanes th r m val poi) x = rdVp th x := by
  unfold putLanes
  rw [rdV_wrV, rdVp_wrV]
  have : ¬ r = x := fun e => hx e.symm
  simp [this]

end Sys2Proof.Machine
end

