-- ==== Sys2Proof/WellFormed.lean ====
section
/-! DEFINITION. Well-formed commands: every unit that a command names exists on the largest ordering code, and a number
that a register or a message carries fits its field. -/

namespace Sys2Proof

namespace WF

/-- Cores of the largest code (R1, R3), threads of a core (R21), tasks and regions (R31, R128). -/
def coreNo (c : Nat) : Bool := decide (c < 25600)
def coreThread (c t : Nat) : Bool := coreNo c && decide (t < 4)
def task (n : Nat) : Bool := decide (n < 16)

/-- Logical plots, fields, quadrants (R1, R421). -/
def plot_ (j : Nat) : Bool := decide (j < 1600)
def field (f : Nat) : Bool := decide (f < 6)
def quad (d : Nat) : Bool := decide (d < 24)

/-- Functions, their command rings, the ports (R240, R267, R314, R330). -/
def func (n : Nat) : Bool := decide (n < 64)
def ring (r : Nat) : Bool := decide (r < 8)
def yokePort (p : Nat) : Bool := decide (p < 12)
def cxlPort (p : Nat) : Bool := decide (p < 4)

/-- Team coordinates (R273), sideband sequence numbers (R538). -/
def coord_ (c : Nat) : Bool := decide (c < 65536)
def seqNo (q : Nat) : Bool := decide (q < 256)

end WF

open WF in
/-- The command is well formed. -/
def Instr.wf (i : Instr) : Bool :=
  match i with
  | .nop c t _ | .br c t _ | .jr c t _ | .dbnz c t _ | .end_ c t _ | .trap c t _ | .add c t _ | .sub c t _ 
  | .mul c t _ | .mulhu c t _ | .and c t _ | .or c t _ | .xor c t _ | .shl c t _ | .shr c t _ | .sar c t _ 
  | .min c t _ | .max c t _ | .addi c t _ | .andi c t _ | .ori c t _ | .xori c t _ | .shli c t _ | .shri c t _ 
  | .sari c t _ | .li c t _ | .lsi c t _ | .ld c t _ | .st c t _ | .vadd c t _ | .vsub c t _ | .vmul c t _ 
  | .vfma c t _ | .vmax c t _ | .vmin c t _ | .vexp2 c t _ | .vrcp c t _ | .vcvt c t _ | .vbc c t _ | .vmovs c t _ 
  | .vins c t _ | .vredadd c t _ | .vredmax c t _ | .vmov c t _ | .vld c t _ | .vst c t _ | .cmp c t _ | .vcmp c t _ 
  | .pand c t _ | .por c t _ | .pxor c t _ | .pnot c t _ | .pmov c t _ | .pget c t _ | .take c t _ | .put c t _ 
  | .qcnt c t _ | .choose c t _ | .send c t _ | .select c t _ | .retire c t _ | .sheaf c t _ | .ropen c t _ 
  | .rclose c t _ | .tld c t _ | .tst c t _ | .tadd c t _ | .tatom c t _ | .twait c t _ | .tstat c t _ | .fence c t _ 
  | .mma c t _ | .mdrain c t _ | .mwait c t _ | .mcfg c t _ | .csrr c t _ | .csrw c t _ | .rdtime c t _ | .swath c t _ 
  | .transferRequestInject c t | .longFiring c t => coreThread c t
  | .taskFiring c | .faultClear c | .stallClear c _ | .mmaStart c | .mmaComplete c | .drainStart c | .drainComplete c 
  | .scrubStep c _ | .messageLanding c | .bounceLanding c | .moverStep c | .switchRunStart c | .intakeStop c 
  | .discardDrain c | .probe c _ | .landWaitExpire c | .trackTimeout c _ | .seedStopTimeout c | .chunkCheck c _ _ 
  | .pairCompare c _ | .pairTimeout c _ | .seedClearComplete c => coreNo c
  | .taskEnableCheck c n _ | .regionCfgWrite c n _ => coreNo c && task n
  | .requestComplete c tag => coreNo c && decide (tag < 64)
  | .scratchpadAccessPromote c prec _ => coreNo c && decide (2 ≤ prec) && decide (prec < 8)
  | .linkMove c d | .flitArrival c d _ _ | .creditReturn c d _ => coreNo c && decide (d < 4)
  | .scheduleWrite c e _ => coreNo c && decide (e < 256)
  | .quiescentDrain n | .quiescentDrainTimeout n | .khtRetransmitTimeout n _ _ | .khtAckTimer n _ | .tcQuietExpire n _ 
  | .dispatchRetry n _ | .fnComplete n _ _ | .functionDisable n | .drainLimitExpire n | .functionEnable n 
  | .switchStart n | .fnSwitch n _ _ | .seedTimeout n | .contextFail n | .noProgress n | .overdueRequest n _ 
  | .gleanRelease n | .suspectReplay n _ | .suspectReplayVerdict n | .imageAdmitted n => func n
  | .probeSend c task => coreNo c && decide (task < 16)
  | .seamRecalibration g _ => decide (g < 126)
  | .packetHop _ _ _ | .escapeTimeout _ | .load _ | .store _ | .addPacket _ | .swap _ | .fetchAdd _ | .cas _ 
  | .message _ | .loadData _ | .completion _ | .msgAck _ | .bounce _ | .orderEnd _ | .sheafPacket _ | .sheafDone _ 
  | .epochSwitch _ | .routingChangePlanned _ | .epochDrainTimeout | .routingChangeAbrupt _ | .granaryAccept _ _ 
  | .heartbeatSend | .teamEpochFree | .remoteSheafContribution _ | .frameReceive _ _ | .connect _ _ | .close _ _ 
  | .closeAck _ _ | .khtAck _ _ | .khtWrite _ _ | .khtRead _ _ | .submit _ _ | .khtReset _ _ | .roceSend _ _ 
  | .rdmaWrite _ _ | .rdmaReadRequest _ _ | .roceAck _ _ | .ptpSync _ _ _ _ _ _ _ | .ppsEdge | .timeHoldover _ 
  | .timeSet _ | .swathBoundary | .swathApply _ | .swathSync _ | .clean _ | .member _ | .seedStart _ | .seeded _ 
  | .start _ | .thermalTrip _ | .coolingTimeout | .powerSample _ _ | .rotationStep _ _ _ | .idleCheckFlit _ _ 
  | .rePlacement _ _ | .plotMove | .moveDrainTimeout | .sweep | .privilegedMismatch _ | .powerUp _ | .modEnLow 
  | .resetN _ _ | .startSequence _ | .startStepTimeout | .undervoltageTrip _ | .overvoltageOff _ | .alertReassert 
  | .deviceWarmReset _ _ | .plannedWarmReset _ | .powerCycle | .sharedBlockHang _ | .freeze _ | .frozen _ 
  | .coreReset _ | .plotReset _ | .resetDone _ _ _ | .glean _ | .gleaned _ | .bootFetch | .fetchData _ _ _ _ 
  | .fetchError _ _ _ | .fetchResend _ | .fetchAttemptTimeout | .bootService _ | .firmwareUpdate _ | .commitSvn _ 
  | .lmsReserve _ | .vinLoss _ | .debugNonceExpire | .nextBottomTreeReady | .profileRecordReplace _ | .jtagAccess _ 
  | .ptpDelayResp _ _ _ _ _ _ => true
  | .windowHoldTimeout plot _ | .orderEntryExpire plot _ => plot_ plot
  | .combineWaitExpire plot node round => plot_ plot && decide (node < 32) && decide (round < 256)
  | .granaryFill f _ | .rowBusBeat f _ | .grnInv f _ | .grnInvAll f _ | .timeCopyCorrect f | .nReqWrite f _ 
  | .throttleStep f _ | .fieldRailShort f _ => field f
  | .hbmLineDone g _ _ => decide (g < 48)
  | .hbmPatrolScrub k _ => decide (k < 12)
  | .cxlResponse p _ _ | .cxlTimeout p _ => cxlPort p
  | .cxlLinkDown p h | .cxlLinkRetrain p h => cxlPort p && decide (h < 2)
  | .dataFrame p _ ws | .idleFrame p ws | .retry p ws | .heartbeat p ws _ | .trainId p ws => yokePort p && decide (ws.length = 34)
  | .retryRepeat p | .linkDown p _ 
  | .linkRetrain p | .remoteTransaction p _ | .remoteResponse p _ | .trackerTimeout p _ | .busyResend p _ 
  | .releaseSend p | .linkEvent p _ | .suspect p _ | .query p _ | .alive p _ | .lost p _ | .commit p _ 
  | .shadowReport p _ | .admitRequest p _ | .missingCommitRequest p _ => yokePort p
  | .filterEntryExpire src _ => coord_ src
  | .heartbeatMiss target | .suspectRepeat target | .confirmTimeout target => coord_ target
  | .pfcPause port prio _ => decide (port < 8) && decide (prio < 8)
  | .commandLand n r _ entry _ => func n && ring r && decide (entry.length = 32)
  | .commandNop n r | .commandAck n r | .run n r | .seed n r | .seedAdmitOnly n r | .seedEvict n r | .teardown n r 
  | .commandReserved n r => func n && ring r
  | .contextIdQuiet b => decide (b < 256)
  | .frequencyChange fs _ _ => fs.all field
  | .thermalSample die hbm => decide (die.length = 24) && decide (hbm.length = 12)
  | .quadrantOff d _ | .quadrantReturn d _ _ => quad d
  | .cooling seq _ | .coldStartRequest seq | .getVersion _ seq | .getCapabilities _ seq | .negotiateAlgorithms _ seq 
  | .getDigests _ seq | .getCertificate _ seq | .challenge _ seq | .getMeasurements _ seq _ | .hssHalfRequest _ seq 
  | .certHssRequest _ seq | .teamRecord seq _ | .functionRecord seq _ | .status seq | .logRead seq _ _ 
  | .retiredPages seq _ => seqNo seq
  | .dormantEnter sb | .wake sb _ _ _ _ _ _ | .warmResetColdStart sb | .debugChallenge sb | .debugToken sb _ 
  | .decommission sb _ => sb.all seqNo
  | .plotFailed j u => plot_ j && u.all (fun x => decide (1 ≤ x ∧ x ≤ 9))
  | .digestStart n r | .digestComplete n r => func n && decide (r < 8)
  | .wearMeasure q _ _ _ _ => quad q
  | .freezeTimeout n c => func n && coreNo c
  | .i3cAddressAssign addr => decide (addr < 128)
  | .rcRead _ a _ | .registerWrite _ a _ _ => decide (a < 2 ^ 46)
  | .hostLinkChange port _ => decide (port < 8)
  | .tseqRetire dst _ => coord_ dst

end Sys2Proof
end

