-- ==== Sys2Proof/Tests/Slice0.lean ====
section
/-! SUPPORT. Tests on small states: for each statement a state that meets its premises, or one command at a boundary value of
a rule; the checks of Instr.wf at their bounds. The expected values come from the rules named. -/

namespace Sys2Proof.Tests

open Sys2Proof.Machine Sys2Proof.Claim

set_option maxRecDepth 4000

/-- A word of a core instruction: opcode, D, A, B, SUB, guarded by p0. -/
def word (op d a b sub : Nat) : BitVec 32 :=
  BitVec.ofNat 32 (op * 2 ^ 24 + d * 2 ^ 19 + a * 2 ^ 14 + b * 2 ^ 9 + sub * 2 ^ 4)

/-- A firing of task 0 that has taken and put nothing. -/
def fire : Firing := { task := 0, start := 0, takes := [0, 0, 0, 0], puts := [0, 0, 0, 0], chosen := none }

/-- Core 0 alone. -/
def coreState (k : Core) : State := { State.reset with cores := [(0, k)] }

/-- Thread 0 runs a firing with some scalar registers, and word w stands at its program counter. -/
def runCore (w : BitVec 32) (regs : FMap Word) : Core :=
  { core0 0 with imem := [(0, w)], threads := [(0, { thread0 0 with firing := some fire, s := regs })] }

/-- That core alone. -/
def running (w : BitVec 32) (regs : FMap Word) : State := coreState (runCore w regs)

/-- That core with registers of its window as listed. -/
def runningWith (w : BitVec 32) (regs : FMap Word) (l : List (Nat × Word)) : State :=
  coreState (l.foldl (fun k p => setCreg k p.1 p.2) (runCore w regs))

/-- The state that exec answers satisfies p. -/
def gives (e : Instr) (s : State) (p : State → Bool) : Bool :=
  match exec e s with
  | .next u => p u
  | _ => false

/-! ## Witnesses: the core instructions -/

theorem test_at_running (w : BitVec 32) (regs : FMap Word) : At (running w regs) 0 0 .clean fire w :=
  ⟨by decide, rfl, by simp [issueTurn, running, runCore, coreState, getCore, fget, core0, List.range_succ], rfl, rfl, by decide⟩

theorem test_at_running_with : At (runningWith (word 0x70 1 0 0 0) [] [(oTaskIn 0, 0x8100#64)]) 0 0 .clean fire
    (word 0x70 1 0 0 0) := ⟨by decide, by decide, by decide, by decide, by decide, by decide⟩

/-- ScalarResult: every row meets its premises, with D 31 and a clean s[A], s[B]. -/
theorem test_scalar_premises : (∀ e ∈ rrTable, fOp (word e.1 31 1 2 0) = e.1 ∧ fSub (word e.1 31 1 2 0) = 0)
    ∧ (∀ e ∈ riTable, fOp (word e.1 31 1 2 0) = e.1)
    ∧ (∀ e ∈ shTable, fOp (word e.1 31 1 1 31) = e.1 ∧ bits (word e.1 31 1 1 31) 13 10 = 0)
    ∧ guarded (thr (running (word 0x10 31 1 2 0) []) 0 0) (word 0x10 31 1 2 0)
    ∧ (rdS (thr (running (word 0x28 31 0 0 0) []) 0 0) 31).poi = false := by
  unfold guarded
  decide

/-- R48: add wraps at 2^64. -/
theorem test_add_wraps : gives (.add 0 0 .clean) (running (word 0x10 31 1 2 0) [(1, 0xFFFFFFFFFFFFFFFF#64), (2, 2#64)])
    (fun u => decide (rdS (thr u 0 0) 31 = ⟨1#64, false⟩)) = true := by decide

/-- R48: sar by 63 of the most negative number gives -1. -/
theorem test_sar_sign : gives (.sar 0 0 .clean) (running (word 0x19 31 1 2 0) [(1, 0x8000000000000000#64), (2, 63#64)])
    (fun u => decide (rdS (thr u 0 0) 31 = ⟨0xFFFFFFFFFFFFFFFF#64, false⟩)) = true := by decide

/-- R21: a write to s0 is discarded. -/
theorem test_s0_discards : gives (.add 0 0 .clean) (running (word 0x10 0 1 2 0) [(1, 1#64), (2, 2#64)])
    (fun u => decide (rdS (thr u 0 0) 0 = ⟨0#64, false⟩ ∧ (thr u 0 0).pc = 1#12)) = true := by decide

/-- ScalarLoadStoreResult: the port is free, and it is busy. -/
theorem test_port_premises : portFree (running (word 0x30 1 2 0 0) []) 0 .clean
    ∧ ¬ portFree (coreState { runCore (word 0x30 1 2 0 0) [] with portFree := 1 }) 0 .clean := by
  unfold portFree
  decide

/-- ScratchpadWordOutcomes: no, one, two and three flipped bits. -/
theorem test_flip_premises : ∀ x ∈ [(0#72, 0), (1#72, 1), (3#72, 2), (7#72, 3)],
    popcount (fget noFlip (getCore (coreState { core0 0 with spdFlip := [(32767, x.1)] }) 0).spdFlip 32767) = x.2 := by decide

/-- ControlFlowResult and R48: br goes back by one, modulo 4,096. -/
theorem test_br_wraps : gives (.br 0 0 .clean) (running (BitVec.ofNat 32 (0x01 * 2 ^ 24 + 0x7FFF * 2 ^ 4)) [])
    (fun u => decide ((thr u 0 0).pc = 4095#12)) = true := by decide

theorem test_control_premises : ∀ x ∈ [(word 0 0 0 0 0, 0), (word 1 0 31 31 31, 1), (word 2 0 31 0 0, 2), (word 3 31 0 0 0, 3)],
    fOp x.1 = x.2 ∧ (x.2 ≤ 2 → fD x.1 = 0) ∧ (x.2 = 2 → bits x.1 13 4 = 0) := by decide

/-- EndOfFiring: the counts agree, and they do not. -/
theorem test_counts : countsMatch (getCore (running (word 4 0 0 0 0) []) 0) fire = true
    ∧ countsMatch (getCore (runningWith (word 4 0 0 0 0) [] [(oTaskIn 0, 0x8100#64)]) 0) fire = false := by decide

/-- FiringFaults: a word that no row lists, and a poisoned operand. -/
theorem test_fault_premises : opListed (fOp (word 0xFF 0 0 0 0)) = false ∧ opListed (fOp (word 0x06 0 0 0 0)) = false
    ∧ (rdS { thread0 0 with sp := 2#32 } 1).poi = true := by decide

/-- R75: trap records its code and its IMM15. -/
theorem test_trap : gives (.trap 0 0 .clean) (running (BitVec.ofNat 32 (0x05 * 2 ^ 24 + 0x7FFF * 2 ^ 4)) [])
    (fun u => decide (cfld (getCore u 0) oFault 55 48 = 0x0B ∧ cfld (getCore u 0) oFault 14 0 = 0x7FFF
      ∧ (getCore u 0).stopped = true)) = true := by decide

/-- VectorArithmeticResult, VectorMoveAndReduceResult: clean and poisoned words under the guard. -/
theorem test_vector_premises : anyPoi (guardBits (thread0 0) (word 0x40 1 2 3 0)) 0#8 = false
    ∧ anyPoi (guardBits (thread0 0) (word 0x40 1 2 3 0)) 0x80#8 = true
    ∧ (∀ e ∈ vrrTable, fOp (word e.1 31 31 31 0) = e.1 ∧ fSub (word e.1 31 31 31 0) = 0)
    ∧ (∀ e ∈ vrTable, fOp (word e.1 31 31 0 0) = e.1 ∧ bits (word e.1 31 31 0 0) 13 4 = 0) := by decide

/-- VectorConvertResult: the first and the last format, both ways. -/
theorem test_vcvt_premises : ∀ x ∈ [(1, false), (11, false), (17, true), (27, true)],
    fOp (word 0x48 1 2 3 x.1) = 0x48 ∧ 1 ≤ bits (word 0x48 1 2 3 x.1) 7 4 ∧ bits (word 0x48 1 2 3 x.1) 7 4 ≤ 11
      ∧ bit (word 0x48 1 2 3 x.1) 8 = x.2 := by decide

/-- VectorLoadResult, VectorStoreResult: the forms of R119, B named only by the strided one. -/
theorem test_vld_premises : ∀ x ∈ [(0, 0), (3, 31), (4, 0)],
    fSub (word 0x50 1 2 x.2 x.1) ≤ 4 ∧ (fSub (word 0x50 1 2 x.2 x.1) = 3 ∨ fB (word 0x50 1 2 x.2 x.1) = 0) := by decide

theorem test_clean_pad : cleanPad (running (word 0x50 1 2 0 0) []) 0 := ⟨fun _ => rfl, fun _ => rfl⟩

/-- R548: a nonzero B is illegal in a form without a stride. -/
theorem test_vld_b_reserved : gives (.vld 0 0 .clean) (running (word 0x50 1 2 3 0) [])
    (fun u => decide (cfld (getCore u 0) oFault 55 48 = 0x01)) = true := by decide

/-- CompareAndPredicateResult: SUB 5 of cmp and SUB 6 of vcmp, p7. -/
theorem test_compare_premises : fSub (word 0x60 7 1 2 5) ≤ 5 ∧ fD (word 0x60 7 1 2 5) < 8
    ∧ fSub (word 0x61 7 1 2 6) ≤ 6 ∧ bits (word 0x67 1 7 0 0) 13 4 = 0 ∧ fA (word 0x67 1 7 0 0) < 8 := by decide

/-- FalseGuardOnlyAdvances: every row has a legal word guarded by the complement of p0. -/
theorem test_false_guard_premises : ∀ e ∈ guardTable, fOp (word e.1 0 0 0 0 ||| 8#32) = e.1
    ∧ e.2.2 (word e.1 0 0 0 0 ||| 8#32) = true
    ∧ (guardBits (thread0 0) (word e.1 0 0 0 0 ||| 8#32)).getLsbD 0 = false := by decide

/-! ## Witnesses: queues, rings, transfers, the matrix unit -/

/-- An entry with one word. -/
def entryOf (n : Nat) : QEntry := { data := BitVec.ofNat 256 n, poi := 0#4 }

/-- Queue q of a core holds l. -/
def withQueue (k : Core) (q : Nat) (l : List QEntry) : Core :=
  { k with queues := fset queue0 k.queues q { queue0 q with buf := l } }

/-- QueueInstructionResult: take of the last entry that IN slot 0 reserves, of queue 15 of kind 1, mode 4. -/
theorem test_take_premises :
    let w := BitVec.ofNat 32 (0x70 * 2 ^ 24 + 15 * 2 ^ 15 + 4 * 2 ^ 12)
    let k := withQueue (setCreg (setCreg (runCore w []) (oTaskIn 0) 0x810F#64) (oQ 15) 0x2000000000000000#64) 15 [entryOf 7]
    bits w 11 4 = 0 ∧ fOp w = 0x70 ∧ fMode w = 4 ∧ fD w = 0 ∧ slotOf k (oTaskIn 0) (fQn w) = some (0, 1)
      ∧ qKind k (fQn w) = 1 ∧ bufferHead k (fQn w) (entryOf 7) [] := by
  unfold bufferHead
  decide

/-- A put into a queue with one place left, mode 2. -/
theorem test_put_premises :
    let w := BitVec.ofNat 32 (0x71 * 2 ^ 24 + 1 * 2 ^ 19 + 3 * 2 ^ 15 + 2 * 2 ^ 12)
    let k := withQueue (setCreg (runCore w []) (oTaskOut 0) 0x8103#64) 3 (List.replicate 15 (entryOf 0))
    fOp w = 0x71 ∧ fMode w ≤ 3 ∧ slotOf k (oTaskOut 0) (fQn w) = some (0, 1) ∧ (getQueue k (fQn w)).buf.length < 16 := by
  decide

/-- A take on a queue that no slot names, and one beyond the slot's count. -/
theorem test_take_faults :
    gives (.take 0 0 .clean) (running (BitVec.ofNat 32 (0x70 * 2 ^ 24 + 4 * 2 ^ 12)) [])
      (fun u => decide (cfld (getCore u 0) oFault 55 48 = 0x03)) = true
    ∧ gives (.take 0 0 .clean) (runningWith (BitVec.ofNat 32 (0x70 * 2 ^ 24 + 4 * 2 ^ 12)) [] [(oTaskIn 0, 0x8000#64),
        (oQ 0, 0x2000000000000000#64)]) (fun u => decide (cfld (getCore u 0) oFault 55 48 = 0x02)) = true := by decide

/-- A choose task: token queue 1, data queues 2 and 3, output queue 4, one entry of each. -/
def chooseCore : Core :=
  let w := BitVec.ofNat 32 (0x80 * 2 ^ 24 + 4 * 2 ^ 20 + 1 * 2 ^ 16 + 2 * 2 ^ 12 + 3 * 2 ^ 8)
  withQueue (withQueue (withQueue ([(oTaskIn 0, 0x0000810381028101#64), (oTaskOut 0, 0x8104#64),
    (oTaskCfg 0, 0x2000000000000000#64), (oQ 1, 0x2000000000000000#64), (oQ 2, 0x2000000000000000#64),
    (oQ 3, 0x2000000000000000#64), (oQ 4, 0x4000000000000000#64)].foldl (fun k p => setCreg k p.1 p.2) (runCore w []))
    1 [entryOf 1]) 2 [entryOf 20]) 3 [entryOf 30]

/-- ChooseResult: its premises hold, and token 1 moves the entry of the second data queue. -/
theorem test_choose : chooseNamed chooseCore 0 (fget (fun _ => 0#32) chooseCore.imem 0) = true
    ∧ (slot chooseCore (oTaskIn 0) 1).2.1 = 1 ∧ bufferHead chooseCore 1 (entryOf 1) []
    ∧ gives (.choose 0 0 .clean) (coreState chooseCore) (fun u => decide ((getQueue (getCore u 0) 4).buf = [entryOf 30]
      ∧ (getQueue (getCore u 0) 2).buf = [] ∧ (getQueue (getCore u 0) 3).buf = [])) = true := by
  unfold bufferHead
  decide

/-- Core 0 with ring 2, open, holding one message. -/
def ringCore (w : BitVec 32) (regs : FMap Word) (m : RMsg) : Core :=
  { setCreg (setCreg (runCore w regs) (oRegion 2) 0x8000000700000000#64) (oRegionPtr 2) 0x8000000000000000#64 with
    rings := [(2, [m])] }

def message (sel : Bool) : RMsg :=
  { off := 0, n := 2, len := 1, tag := 0, selected := sel, retired := false, resv := none }

/-- RingInstructionResult: a candidate for select, a message to retire, a ring to open and close, a ring that is not there. -/
theorem test_ring_premises : ringCand (ringCore 0#32 [] (message false)) 2 0 = some 0
    ∧ ringSlot (ringCore 0#32 [] (message false)) 0 2 = none ∧ ringExists (ringCore 0#32 [] (message true)) 2 = true
    ∧ ringOpen (ringCore 0#32 [] (message true)) 2 = true ∧ ringExists (ringCore 0#32 [] (message true)) 3 = false
    ∧ resRRA (word 0x92 0 1 0 0) = true ∧ bit 4#64 2 = true := by decide

theorem test_retire : gives (.retire 0 0 .clean) (coreState (ringCore (word 0x92 0 1 0 0) [(1, 2#64)] (message true)))
    (fun u => decide (ringMsgs (getCore u 0) 2 = [])) = true := by decide

/-- SendAndSheafResult: a destination that is well formed, and one with LEN 0. -/
theorem test_send_premises : sendOk State.reset 0xFFFF000000000000#64 64#64 = true
    ∧ sendOk State.reset 0xFFFF000000000000#64 0#64 = false
    ∧ findOrder (core0 0) 0xFFFF 0 0 = none ∧ (ordersInUse (core0 0)).length < 16 ∧ pairRole State.reset 0 = none
    ∧ roomFor State.reset 0 9 ∧ sheafOk 0xFFFF000000000000#64 8#64 = true := by
  refine ⟨by decide, by decide, by decide, by decide, by decide, ?_, by decide⟩
  rintro c (rfl | rfl) <;> decide

/-- TransferInstructionResult: 4,096 bytes from an aligned address. -/
theorem test_transfer_premises :
    let a := 0xFFFF400000000000#64
    a.toNat % 8 = 0 ∧ bits 4096#64 63 13 = 0 ∧ 8 ≤ bits 4096#64 12 0 ∧ bits 4096#64 12 0 ≤ 4096
      ∧ a.toNat % 4096 + bits 4096#64 12 0 ≤ 4096 ∧ xFlags (word 0xA0 1 2 3 0) = 0 ∧ twaitLegal (word 0xA4 0 0 0 0) = true
      ∧ fenceLegal (word 0xB0 0 0 0 0) = true ∧ tstatLegal (word 0xA5 1 0 0 0) = true := by decide

/-- R65: a tld of 4,096 bytes forms eight parts of 512 bytes and waits for the port. -/
theorem test_tld_parts : gives (.tld 0 0 .clean) (running (word 0xA0 1 2 3 0)
    [(1, 0xFFFF400000000000#64), (2, 0#64), (3, 4096#64)]) (fun u => decide ((thr u 0 0).parts.length = 8
      ∧ (thr u 0 0).cause = 6 ∧ (thr u 0 0).pc = 0#12)) = true := by decide

/-- MatrixResult: operands of BF16, K 1, with Z = 1; a tile that another thread owns; a drain by the owner. -/
theorem test_matrix_premises : mmaLegal (word 0xC0 1 2 3 1) = true ∧ bit (word 0xC0 1 2 3 1) 4 = true
    ∧ mdrainLegal (word 0xC1 1 2 3 0) = true ∧ mwaitLegal (word 0xC2 0 0 0 0) = true ∧ resRRA (word 0xC3 0 1 0 0) = true
    ∧ (getTile (core0 0) false).owner = none ∧ (core0 0).mq.length < 2 := by decide

theorem test_mcfg_reserved : gives (.mcfg 0 0 .clean) (running (word 0xC3 0 1 0 0) [(1, 4#64)])
    (fun u => decide (cfld (getCore u 0) oFault 55 48 = 0x07)) = true := by decide

/-- SystemInstructionResult: csrw of CORE_TQ_LIMIT, and of an offset that it may not write. -/
theorem test_csrw : gives (.csrw 0 0 .clean) (running (word 0xD1 2 1 0 0) [(1, BitVec.ofNat 64 oTqLimit), (2, 0xFFFFFFFFFFFF#64)])
      (fun u => decide (tqLimit (getCore u 0) 0 = 32 ∧ tqLimit (getCore u 0) 7 = 32)) = true
    ∧ gives (.csrw 0 0 .clean) (running (word 0xD1 2 1 0 0) [(1, BitVec.ofNat 64 oFault)])
      (fun u => decide (cfld (getCore u 0) oFault 55 48 = 0x0A)) = true := by decide

/-- TransferInjection: a part, a free tag, a limit above the requests, room in the L buffer; no window permits it. -/
def partState : State :=
  coreState { core0 0 with threads := [(0, { thread0 0 with firing := some fire, parts :=
    [{ kind := 0, tq := 7, addr := 0xFFFF400000000000#64, spad := 0, len := 512, whole := 512, op := 0 }] })] }

theorem test_injection : freeTag (getCore partState 0) = some 0 ∧ outstanding (getCore partState 0) 7 < tqLimit (getCore partState 0) 7
    ∧ (∀ p ∈ (thr partState 0 0).parts, windowFor partState (getCore partState 0) p.addr p.len p.kind = none
        ∧ partRoom partState 0 0 0 p = true)
    ∧ gives (.transferRequestInject 0 0) partState (fun u => decide (((getCore u 0).reqs.map (·.status)) = [some 1]
      ∧ (thr u 0 0).pc = 1#12)) = true := by decide

/-- TransferCompletion: a request answered "denied" at its core. -/
theorem test_completion : gives (.requestComplete 0 0) (match exec (.transferRequestInject 0 0) partState with
      | .next u => u
      | _ => partState)
    (fun u => decide ((getCore u 0).reqs = [] ∧ bits (creg (getCore u 0) (oTqStat 7)) 63 48 ≠ 0xFFFF)) = true := by decide

/-! ## Witnesses: tasks, scratchpad, messages, furrow -/

/-- TaskEvents: task 15 is the candidate; it takes one entry of queue 1. -/
def taskCore : Core :=
  withQueue ([(oTaskIn 15, 0x8101#64), (oTaskCfg 15, 0x8780000000000000#64), (oQ 1, 0x2000000000000000#64),
    (oState, 0x0000800000000000#64)].foldl (fun k p => setCreg k p.1 p.2) (core0 0)) 1 [entryOf 1]

theorem test_task_fires : chooseTask taskCore = some 15 ∧ cfld taskCore oState 47 47 = 1
    ∧ gives (.taskFiring 0) (coreState taskCore) (fun u => decide ((thr u 0 0).firing.map (·.task) = some 15
      ∧ rdS (thr u 0 0) 31 = ⟨0x10000000F#64, false⟩)) = true := by decide

/-- R31: a task without slots is left disabled. -/
theorem test_bad_task : taskOk (setCreg (core0 0) (oTaskCfg 0) 0x8000000000000000#64) 0 = false := by decide

/-- ScratchpadEvents: scrubbing that is due at cycle 0 never; an access that waits; a region that fits to the last word. -/
theorem test_region_premises : bits 0x80007FFE00000000#64 14 0 + bits 0x80007FFE00000000#64 46 32 + 1 ≤ 32768
    ∧ bits 0xA0007FFF00000000#64 62 61 = 1
    ∧ gives (.regionCfgWrite 0 15 0xE000000000000000#64) State.reset (fun u => decide (cfld (getCore u 0) oSpdStat 63 63 = 1
      ∧ cfld (getCore u 0) (oRegion 15) 63 63 = 0)) = true := by decide

/-- Every packet for a core or plot of this device has a router that is up in the state after reset. -/
theorem test_routed : routed State.reset 0xFFFF := by
  intro p h k
  have d : isLocalDev State.reset (pDstDev p) = true := by rw [h]; rfl
  have up : ∀ x, routerUp (verOf State.reset (pEpoch p)) x = true := by
    intro x
    unfold verOf
    split <;> rfl
  rcases k with k | k <;> simp [destLost, destRouter, d, k, up]

/-- A packet at its destination: for core 0, which stands at router 0. -/
def packetFor (kind id typ nfl : Nat) (w2 w3 : Word) (body : List PWord) : Packet :=
  mkPacket (mkW0 0xFFFF kind id 2 0 nfl typ 0) (mkW1 0xFFFF 1 0 0) w2 w3 body 0

def withPacket (p : Packet) : State := { State.reset with net := [p] }

/-- MessageArrival: a MESSAGE that starts a stream lands at the router's stage. -/
def startMessage : Packet := packetFor 0 0 tMESSAGE 0 0#64 (mkMsgW3 255 true 1 0 false 0) [⟨5#64, false⟩]

theorem test_message : findPkt (withPacket startMessage) 0 = some startMessage
    ∧ isLocalDev (withPacket startMessage) (pDstDev startMessage) = true ∧ arrived (withPacket startMessage) startMessage = true
    ∧ pOstart startMessage = true ∧ streamOf (getPlot (withPacket startMessage) 0).rcv startMessage = none
    ∧ gives (.message 0) (withPacket startMessage) (fun u => decide ((getCore u 0).land.length = 1 ∧ u.net = []
      ∧ ((getPlot u 0).rcv.map (·.expect)) = [255])) = true := by decide

/-- OrderTimers: a held packet whose time is out. -/
def heldState : State :=
  { State.reset with
    now := 200000#64
    plots := [(0, { plot0 0 with
      window := [{ pkt := startMessage, time := 0 }]
      rcv := [{ dev := 0xFFFF, src := 1, core := 0, ring := 2, expect := 250, active := 1, last := 0 }] })] }

theorem test_window_hold : trackTo heldState 0 = 200000
    ∧ gives (.windowHoldTimeout 0 0) heldState (fun u => decide ((getPlot u 0).window = [] ∧ (getCore u 0).land.length = 1
      ∧ ((getPlot u 0).rcv.map (·.expect)) = [0] ∧ pfld (getPlot u 0) oPlotOrder 15 0 = 5)) = true := by decide

/-- MessageEndResult: the message at the head may not land and bounces. -/
def landState : State :=
  coreState { core0 0 with land := [{ pkt := startMessage, since := 0, serial := false, waited := false }] }

theorem test_bounce_back : landChecks landState 0 startMessage ≠ none
    ∧ gives (.messageLanding 0) landState (fun u => decide ((getCore u 0).land = []
      ∧ (u.net.map pType) = [tBOUNCE] ∧ cfld (getCore u 0) oMsgErr 47 32 = 1)) = true := by decide

/-- A bounce without a bounce ring is discarded and counted. -/
theorem test_bounce_discarded : gives (.bounceLanding 0)
    (coreState { core0 0 with bounces := [{ pkt := startMessage, since := 0, serial := false, waited := false }] })
    (fun u => decide ((getCore u 0).bounces = [] ∧ cfld (getCore u 0) oSpdStat 15 0 = 1)) = true := by decide

/-- SheafCombining: a contribution of round 5 comes to a node whose oldest round is 0, and is not accepted; one of round 1 is. -/
theorem test_round_window : roundOk (shNode0 0) 5 = false ∧ roundOk (shNode0 0) 1 = true ∧ roundOk (shNode0 0) 2 = false := by
  decide

theorem test_sheaf_done : gives (.sheafDone 0)
    { withPacket (packetFor 0 0 tSHEAFDONE 0 (BitVec.ofNat 64 (7 * 2 ^ 54 + 3 * 2 ^ 46)) 0#64 []) with
      cores := [(0, { core0 0 with sheafs := [{ dev := 0xFFFF, sheaf := 7, round := 3, thread := 0, time := 0 }] })] }
    (fun u => decide ((getCore u 0).sheafs = [])) = true := by decide

/-- FurrowResult: link 1 of core 0 holds a flit for queue 3 of core 1, of kind 1, which runs. -/
def flitState : State :=
  { State.reset with cores := [
      (0, { core0 0 with links := [(1, { getLink (core0 0) 1 with flit := some ⟨entryOf 9, 3⟩ })] }),
      (1, setCreg (setCreg (core0 0) oFurCtl 0x9000008000000000#64) (oQ 3) 0x2000000000000000#64)] }

theorem test_flit : neighbour flitState 0 1 = some 1 ∧ cfld (getCore flitState 1) oFurCtl 63 63 = 1
    ∧ gives (.flitArrival 0 1 2#4 .clean) flitState (fun u => decide ((getQueue (getCore u 1) 3).buf
        = [{ entryOf 9 with poi := 2#4 }] ∧ (getLink (getCore u 0) 1).flit = none)) = true
    ∧ gives (.flitArrival 0 1 0#4 .uncorrectable) flitState (fun u => decide ((getQueue (getCore u 1) 3).buf = []
        ∧ cfld (getCore u 1) oFurStat 61 61 = 1)) = true := by decide

theorem test_switch_start : cfld (core0 0) oFurCtl 63 63 = 0 ∧ schedOk State.reset 0 = true
    ∧ gives (.switchRunStart 0) State.reset (fun u => decide (cfld (getCore u 0) oFurCtl 63 63 = 1)) = true := by decide

/-- No drain is under way after reset; INTAKE_STOP sets its bit. -/
theorem test_intake_stop : (fget drain0 State.reset.drains 0).active = false ∧ (getFun State.reset 0).teardown = none
    ∧ gives (.intakeStop 3) State.reset (fun u => decide (cfld (getCore u 3) oFurCtl 62 62 = 1)) = true := by decide

/-- DroveResult: a message for core 4, one router to the east, has its turn and moves. -/
def movingPacket : Packet := packetFor 0 4 tMESSAGE 0 0#64 (mkMsgW3 0 true 1 0 false 0) [⟨5#64, false⟩]

theorem test_hop : destRouter (withPacket movingPacket) movingPacket = some 1
    ∧ nextRouter (withPacket movingPacket) movingPacket 1 = some 1 ∧ arbPick (withPacket movingPacket) 0 1 = some 0
    ∧ headerOk movingPacket = true
    ∧ gives (.packetHop 0 [] []) (withPacket movingPacket) (fun u => decide (u.net.map (fun p => (p.at_, p.port)) = [(1, 3)]))
      = true := by decide

/-- A planned routing change, from no change under way. -/
theorem test_routing_change : State.reset.chg.step = 0 ∧ fget zeroNat State.reset.edgeEpoch 17 = State.reset.chg.epoch
    ∧ (edgeRouter (verOf State.reset 0) 17).isSome = true := by decide

/-- RequestsAndMemory: a fetch-and-add at the scratchpad of core 0 answers with the old word. -/
theorem test_fetch_add : gives (.fetchAdd 0)
    { withPacket (packetFor 0 0 tFADD 0 8#64 0#64 [⟨2#64, false⟩]) with
      cores := [(0, spdStore (core0 0) 1 ⟨40#64, false⟩)] }
    (fun u => decide (spdRaw (getCore u 0) 1 = 42#64 ∧ u.net.map (·.body) = [[⟨40#64, false⟩]])) = true := by decide

/-! ## Witnesses: CXL, yoke, muster -/

/-- A state with fields of block registers as listed: address, high bit, low bit, value. -/
def withRegs (l : List (Nat × Nat × Nat × Nat)) : State := l.foldl (fun s x => setCsrFld s x.1 x.2.1 x.2.2.1 x.2.2.2) State.reset

/-- CxlAccesses: a fetch of the first CXL line, for fill 5 of slice 0, on port 0. -/
def cxlState : State :=
  let s := withRegs [(aCxlStat 0, 63, 63, 1), (aCxlStat 0, 61, 60, 0), (aCxlStat 0, 9, 0, 4)]
  let j : MemJob := { addr := lineKey s 0xFFFF800000000000#64, slice := 0, fill := some 5, op := .load startMessage 0 32 none,
                      pkt := startMessage, resp := false, old := [], time := 0 }
  { setCxlJobs s 0 [j] with now := 100000#64 }

theorem test_cxl_timeout : ((cxlJobs cxlState 0).map (fun j => cxlUp cxlState (keyOff j.addr))) = [true]
    ∧ gives (.cxlTimeout 0 0) cxlState (fun u => decide (csrFld u (aCxlErr 0) 47 32 = 1 ∧ cxlJobs u 0 = [])) = true
    ∧ gives (.cxlLinkDown 0 0) cxlState (fun u => decide (csrFld u (aCxlStat 0) 63 63 = 0)) = true := by decide

/-- YokeLinkResult: port 0 is up. -/
def upPort : State := withRegs [(aYokeStat 0, 63, 62, 2)]

def hdr7 : FrameHdr := { ack := 7, credit := [0, 0, 0, 0, 0, 0] }

/-- Frames that fit their CRC, and one whose CRC fails. -/
theorem test_frames_read : readFrame (idleWords hdr7) = .idle hdr7 ∧ readFrame (controlWords hdr7 1 5 []) = .retry hdr7 5
    ∧ readFrame (dataWords { fseq := 9, hdr := hdr7, slots := [] }) = .data { fseq := 9, hdr := hdr7, slots := [] }
    ∧ readFrame ((idleWords hdr7).set 33 noWord) = .bad := by decide +kernel

/-- A data frame with an FSEQ that is not expected is answered with RETRY. -/
theorem test_retry_sent : portUp upPort 0 = true ∧ (getPort upPort 0).txq = []
    ∧ gives (.dataFrame 0 0 (dataWords { fseq := 9, hdr := hdr7, slots := [] })) upPort (fun u =>
        decide (u.outs.length = 1 ∧ (getPort u 0).rxNext = 0 ∧ (getPort u 0).retryAt = some 0)) = true := by decide +kernel

/-- YokeTrafficResult: an entry of the duplicate filter expires after its time. -/
theorem test_filter_expires :
    let e : Filter := { src := 3, tseq := 4, ctx := 0, first := 0, hold := false, outcome := none }
    gives (.filterEntryExpire 3 4) { State.reset with now := 2100001#64, filter := [e] } (fun u => decide (u.filter = [])) = true
    ∧ gives (.filterEntryExpire 3 4) { State.reset with now := 2100000#64, filter := [e] } (fun u => decide (u.filter = [e]))
      = true := by decide

/-- A transaction for this device that has crossed 63 links is aged. -/
theorem test_aged :
    let t : Txn := { txn0 upPort 0xFFFF 0 with hops := 63 }
    let s : State := { upPort with yports := [(0, { yport0 0 with rx := [t] })] }
    rxAt s 0 0 = some t ∧ aged s t = true ∧ aged s { t with hops := 62 } = false
      ∧ gives (.remoteTransaction 0 0) s (fun u => decide (csrFld u aYokeDup 15 0 = 1 ∧ (getPort u 0).rx = [])) = true := by
  decide

/-- MusterProtocol: a link event that comes for the first time. -/
def musterState (m : MusterMsg) : State :=
  { upPort with yports := [(0, { yport0 0 with rx := [{ txn0 upPort 0xFFFF 4 with muster := some m }] })] }

theorem test_link_event : gives (.linkEvent 0 0) (musterState (.linkEvent 2 3 2 1 false)) (fun u =>
    decide ((2, 3) ∈ u.muster.seen ∧ (2, 1) ∈ u.muster.linksDown ∧ (getPort u 0).rx = [])) = true := by decide

/-! ## Witnesses: host port and functions -/

/-- A frame for function 0 with a body. -/
def khtFrame (b : HBody) : HFrame :=
  { id := 5, fn := 0, port := 0, prio := 0, dmac := 0, vlan := none, ip := none, odd := false, len := 64, ipLen := 64, ect := false,
    ce := false, time := 0, body := b }

/-- HostConnections: a frame with a FEC error is counted; a pause is kept. -/
theorem test_fec_and_pause :
    gives (.frameReceive 1 (khtFrame .other)) (withRegs [(aHostPortStat, 56, 56, 1)]) (fun u =>
      decide (csrFld u aHostPortStat 47 32 = 1 ∧ u.ingress = [])) = true
    ∧ gives (.pfcPause 7 7 true) State.reset (fun u => decide (fget zeroNat u.hostPaused 63 = 1)) = true := by decide

/-- The connection of function 0 with number 3, open. -/
def tcOpen : Tc :=
  { fn := 0, num := 3, hostTc := 9, startPsn := 0, state := 0, qp := false, ring := 0, pmtu := 0, hostQpn := 0, engine := 0,
    rxNext := 0, held := [], fresh := 0, freshAt := 0, ece := false, reads := [], closing := false, txNext := 0, unacked := [],
    txq := [], peerWin := 8, cwnd := 8, roundEnd := 0, quietAt := 0, partWords := [], partPsn := 0, partAddr := 0#64,
    partRkey := 0, partLeft := 0, cnpAt := none }

/-- That frame waits, and function 0 has one connection. -/
def khtState (b : HBody) (v : Tc) : State := { State.reset with ingress := [khtFrame b], tcs := [v] }

theorem test_kht_premises :
    let h : KhtHdr := { ver := 1, op := 6, ece := false, ar := true, dtc := 3, psn := 0, ackpsn := 0, window := 8, sack := 0#64,
                        addr := 0#64, length := 8, status := 0 }
    let b := HBody.kht 4791 (khtHdrWords h ++ [7#64])
    readKht b = some (h, [7#64]) ∧ khtFor (khtState b tcOpen) 5 (khtFrame b) h [7#64] tcOpen ∧ spdAt (khtState b tcOpen) h.addr 0 0
      ∧ 0 < khtWindow (khtState b tcOpen) ∧ 8 ≤ payLimit (khtState b tcOpen) := by
  unfold khtFor spdAt
  decide

/-- A quiet connection is closed once its time has passed. -/
theorem test_quiet_expires : gives (.tcQuietExpire 0 3) { khtState .other { tcOpen with state := 1 } with now := 30000000#64 }
    (fun u => decide (u.tcs = [])) = true := by decide

/-- RoceOperations: an ACK for a queue pair changes nothing but the buffer. -/
theorem test_roce :
    let r : Roce := { op := .ack, qpn := 0x010003, psn := 0, ackReq := false, icrcOk := true, va := 0#64, rkey := 0, len := 0, data := [] }
    let s := khtState (.roce r) { tcOpen with qp := true }
    roceFor s 5 (khtFrame (.roce r)) r { tcOpen with qp := true }
      ∧ gives (.roceAck 5 false) s (fun u => decide (u.ingress = [] ∧ u.tcs = s.tcs)) = true := by
  unfold roceFor
  decide

/-- HostCommands: a NOP heads ring 0 of function 0, which came by connection 3. -/
def nopState : State :=
  { withRegs [(aFn 0 fnStat, 63, 61, 1), (aFn 0 (fnCringCtl 0), 63, 63, 1)] with
    hbm := [(4, 0xFF#8), (5, 0xFF#8), (6, 1#8), (8, 7#8)]
    tcs := [tcOpen]
    funs := [(0, { fun0 0 with landed := [(0, [{ idx := 0, tc := some 3, time := 0 }])] })] }

/-- The entry that the ring offers. -/
def nopEntry : List PWord := (memReadWords nopState (hbmAddr 0) 32).2

theorem test_nop_premises : offered nopState nopState 0 0 { idx := 0, tc := some 3, time := 0 } nopEntry
    ∧ ecOp nopEntry = 1 ∧ ackList nopEntry = [] ∧ ringSize nopState 0 0 = 64 := by
  unfold offered
  decide +kernel

theorem test_notice_premises : noticeTo nopState 0 3 := ⟨by decide, by decide, by decide, tcOpen, by decide⟩

theorem test_nop_completes : gives (.commandNop 0 0) nopState (fun u => decide (ringHead u 0 0 = 1 ∧ u.outs.length = 1
    ∧ csrFld u (aFn 0 fnCmds) 31 0 = 1)) = true := by decide +kernel

/-- FunctionLife: functions are off after reset, and enabling starts one. -/
theorem test_function_enable : fnState State.reset 63 = 0
    ∧ gives (.functionEnable 63) State.reset (fun u => decide (fnState u 63 = 1 ∧ ringHead u 63 7 = 0)) = true
    ∧ gives (.functionDisable 63) (withRegs [(aFn 63 fnStat, 63, 61, 1)]) (fun u => decide (fnState u 63 = 2)) = true := by decide +kernel

/-! ## Witnesses: time, contexts, recovery -/

/-- TimeAndSwaths: a step of device time; a holdover after 3 s without a source. -/
theorem test_time_set : gives (.timeSet 5000#64) State.reset (fun u => decide (u.now = 5000#64 ∧ fget zeroNat u.copies 5 = 5000
    ∧ csrFld u aTimeStat 63 63 = 1)) = true := by decide +kernel

/-- A SYNC packet of code `code` for unit `dst` has come to router 0. -/
def syncState (kind dst code arg : Nat) (s : State) : State := { s with net := [syncPkt kind dst code arg] }

theorem test_sync : (syncIn (syncState 0 0 scCORERESET 0 State.reset) 0 scCORERESET).isSome = true
    ∧ gives (.coreReset 0) (syncState 0 0 scCORERESET 0 State.reset) (fun u => decide ((getCore u 0).lastFired = 15
        ∧ (getCore u 0).threads = [])) = true
    ∧ gives (.seedStart 0) (syncState 0 0 scSEEDSTART (2 * 2 ^ 48 + 3 * 2 ^ 40) State.reset) (fun u =>
        decide (coreCtx (getCore u 0) = 3 ∧ coreGen (getCore u 0) = 2)) = true := by decide +kernel

/-- SwitchesAndSeeding: a retired context ID returns when nothing bears it. -/
theorem test_id_quiet : gives (.contextIdQuiet 5) { State.reset with ctxIds := [(5, 2)] } (fun u =>
    decide (fget zeroNat u.ctxIds 5 = 0)) = true
    ∧ gives (.contextIdQuiet 5) { State.reset with ctxIds := [(5, 2)], filter := [{ src := 3, tseq := 4, ctx := 5, first := 0, hold := false, outcome := none }] }
      (fun u => decide (fget zeroNat u.ctxIds 5 = 2)) = true := by decide

/-- RecoveryOfContexts: the release of a gleaning record; a firing past its limit in a context that runs. -/
theorem test_glean_release : gives (.gleanRelease 0) (withRegs [(aFn 0 fnGleanStat, 63, 63, 1)])
    (fun u => decide (csrFld u (aFn 0 fnGleanStat) 63 63 = 0)) = true := by decide

/-! ## Witnesses: clocks, power, tests, starts -/

/-- ClocksAndHeat: a cooling declaration of a lower class; a power sample; a sample at 115 °C trips the module. -/
theorem test_cooling : gives (.cooling 9 1) (withRegs [(aPwrProfile, 47, 44, 3)]) (fun u => decide (csrFld u aPwrProfile 47 44 = 1)) = true
    ∧ gives (.cooling 9 5) State.reset (fun u => decide (u.outs.length = 1 ∧ u.csr = [])) = true := by decide

theorem test_power_sample : gives (.powerSample 300 []) State.reset (fun u => decide (csrFld u aPwrProfile 15 0 = 300)) = true := by
  decide

theorem test_trip : gives (.thermalSample (List.replicate 23 20 ++ [115]) (List.replicate 12 20)) State.reset
    (fun u => decide (u.stw.trip = true ∧ u.pins.thermtrip = true ∧ csrFld u aPwrStat 7 0 = 1)) = true := by decide

/-- QuadrantsAndSleep: the dormant state is refused before the module is ready, and entered then. -/
theorem test_dormant : dormantOk State.reset = false
    ∧ gives (.dormantEnter none) State.reset (fun u => decide (csrFld u aPwrDormant 47 32 = 1)) = true
    ∧ dormantOk (withRegs [(aStwBoot, 63, 61, 1)]) = true
    ∧ gives (.dormantEnter none) (withRegs [(aStwBoot, 63, 61, 1)]) (fun u => decide (csrFld u aPwrDormant 61 59 = 2)) = true := by
  decide

/-- StartsAndPower: a start begins; MOD_EN low holds the regulators off for 30 s. -/
theorem test_start : gives (.startSequence .begin_) State.reset (fun u => decide (u.stw.start.map (·.step) = some 2)) = true
    ∧ gives .modEnLow State.reset (fun u => decide (u.pins.pwrgd = false ∧ u.pins.holdoff = 30000000000)) = true
    ∧ gives (.powerUp 60001) State.reset (fun u => decide (u.pins = { State.reset.pins with vin := 60001 })) = true := by decide

/-- TestsAndMoves: the sweep; a failed plot with a failed test. -/
theorem test_sweep : gives .sweep State.reset (fun u => decide (u.stw.sweep = 83)) = true := by decide

/-- BootFetch: without an image that verifies the start asks for the boot service record. -/
def bootState : State :=
  { State.reset with
    sec := { sec0 with fwValid := false }
    stw := { steward0 with start := some { kind := 0, step := 2, began := 0, stepAt := 0 } } }

theorem test_boot_fetch : fetchWanted bootState = true ∧ gives .bootFetch bootState (fun u => decide (u.pins.request = true
    ∧ u.sec.boot.map (·.step) = some 1)) = true := by decide

/-- FirmwareAndLeaves: the steward starts an update; no second one starts while it runs. -/
theorem test_update : isAdmin State.reset .steward = true
    ∧ gives (.firmwareUpdate (.go .steward 0x1000)) State.reset (fun u => decide (csrFld u aSecFwupd 61 59 = 1
        ∧ u.sec.updBase = 0x1000)) = true := by decide

/-- Attestation, DebugUnlock, SidebandRequests: a plain request; a challenge; STATUS. -/
theorem test_version : spdmServed State.reset .sideband = true
    ∧ gives (.getVersion .sideband 4) State.reset (fun u => decide (u.outs = [.spdm .sideband .version])) = true := by decide

theorem test_challenge : gives (.debugChallenge none) State.reset (fun u => decide (u.sec.nonce = some (0, 0))) = true
    ∧ gives .debugNonceExpire { State.reset with sec := { sec0 with nonce := some (0, 0) }, stw := { steward0 with upNs := 600000000000 } }
      (fun u => decide (u.sec.nonce = none)) = true := by decide

theorem test_status : gives (.status 7) { State.reset with pins := { pins0 with alert := true, event := true } } (fun u =>
    decide (u.pins.alert = false ∧ u.pins.event = false ∧ u.outs.length = 1)) = true := by decide

/-- RegisterReads, RegisterWrites, BadAndDeniedAccess: an access of 4 bytes is bad, one beyond the map unmapped, a host's read of a
steward register denied. -/
theorem test_access :
    accessStatus State.reset (.host 0) (aFn 0 fnCtl) 4 false = 3
    ∧ accessStatus State.reset .steward (9 * 2 ^ 32) 8 false = 2 ∧ accessStatus State.reset (.host 0) aStwStartCfg 8 false = 1
    ∧ accessStatus State.reset .steward aStwBoot 8 true = 0
    ∧ gives (.registerWrite .steward aStwStartCfg 7#64 8) State.reset (fun u => decide (csrFld u aStwStartCfg 15 0 = 7)) = true := by
  decide

/-- FrontCommand, IdleCycle: the command at the front runs; an idle cycle passes 10 ns. -/
theorem test_step : (match step { State.reset with pending := [.sweep, .ppsEdge] } with
      | .next u => decide (u.pending = [.ppsEdge] ∧ u.stw.sweep = 83)
      | _ => false) = true
    ∧ (match step State.reset with
      | .next u => decide (u.now = 10#64 ∧ u.stw.upNs = 10)
      | _ => false) = true := by decide

/-- StepKeepsCanonicalForm: the state after reset has the form. -/
theorem test_reset_wf : State.reset.wf := by
  constructor <;> decide

/-! ## Well-formed commands -/

/-- One term for each check of Instr.wf, a step beyond its bound: all are refused. -/
theorem test_ill_formed_refused : ∀ i ∈ [Instr.nop 25600 0 .clean, .swath 0 4 .clean, .taskFiring 25600, .taskEnableCheck 0 16 0#64, .regionCfgWrite 0 16 0#64,
   .requestComplete 0 64, .scratchpadAccessPromote 0 1 0, .scratchpadAccessPromote 0 8 0, .linkMove 0 4,
   .scheduleWrite 0 256 0#64, .quiescentDrain 64, .probeSend 0 16, .seamRecalibration 126 (.monitor 0 0),
   .windowHoldTimeout 1600 0, .combineWaitExpire 0 32 0, .combineWaitExpire 0 0 256, .granaryFill 6 0,
   .hbmLineDone 48 0 [], .hbmPatrolScrub 12 [], .cxlTimeout 4 0, .cxlLinkDown 0 2, .idleFrame 0 [], .retryRepeat 12,
   .filterEntryExpire 65536 0, .heartbeatMiss 65536, .pfcPause 8 0 true, .pfcPause 0 8 true, .commandLand 0 0 0 [] none,
   .run 0 8, .run 64 0, .contextIdQuiet 256, .frequencyChange [0, 6] 64 [], .thermalSample [] (List.replicate 12 20),
   .thermalSample (List.replicate 24 20) [], .quadrantReturn 24 true routeVer0, .status 256, .dormantEnter (some 256),
   .plotFailed 1600 none, .plotFailed 0 (some 0), .plotFailed 0 (some 10), .digestStart 0 8,
   .wearMeasure 24 0#16 0#16 0#16 routeVer0, .freezeTimeout 0 25600, .i3cAddressAssign 128, .rcRead .steward (2 ^ 46) 8,
   .hostLinkChange 8 true, .tseqRetire 65536 0], i.wf = false := by decide

/-- The same commands at the last value within the bound. -/
theorem test_well_formed : ∀ i ∈ [Instr.nop 25599 3 .clean, .taskEnableCheck 0 15 0#64, .requestComplete 0 63,
    .scratchpadAccessPromote 0 2 0, .scratchpadAccessPromote 0 7 0, .linkMove 0 3, .scheduleWrite 0 255 0#64, .quiescentDrain 63,
    .probeSend 0 15, .seamRecalibration 125 (.monitor 0 0), .windowHoldTimeout 1599 0, .combineWaitExpire 0 31 255,
    .granaryFill 5 0, .hbmLineDone 47 0 [], .cxlLinkDown 3 1, .idleFrame 11 (idleWords hdr7), .filterEntryExpire 65535 0,
    .pfcPause 7 7 true, .run 63 7, .contextIdQuiet 255, .quadrantOff 23 routeVer0, .status 255, .plotFailed 1599 (some 9),
    .i3cAddressAssign 127, .rcRead .steward (2 ^ 46 - 1) 8], i.wf = true := by decide +kernel

end Sys2Proof.Tests
end

section
/-! PROOF. What stops a register access before it is performed (R11, R14), and what a denied access leaves: one lemma for each
status of a read and of a write, the right of a host function at a steward-only register, and the count of denied accesses. -/

namespace Sys2Proof.Machine

/-! ## The state of a function -/

@[simp] theorem getFun_updFun (s : State) (n : Nat) (f : Fun → Fun) : getFun (updFun s n f) n = f (getFun s n) :=
  fget_fset_self ..

theorem getFun_updFun_ne (s : State) (n m : Nat) (f : Fun → Fun) (h : m ≠ n) : getFun (updFun s n f) m = getFun s m :=
  fget_fset_ne _ _ _ _ _ (Ne.symm h)

/-! ## The status of an access -/

theorem accessStatus_of_bad {a size : Nat} (s : State) (who : Who) (write : Bool) (h : size ≠ 8 ∨ a % 8 ≠ 0) :
    accessStatus s who a size write = 3 := if_pos h

theorem accessStatus_block {a size x : Nat} (s : State) (who : Who) (write : Bool) (hsize : size = 8) (halign : a % 8 = 0)
    (hx : placeOf a = .block x) : accessStatus s who a size write = if mayAccess s who a write then 0 else 1 := by
  simp only [accessStatus, hsize, halign, hx]
  cases mayAccess s who a write <;> rfl

/-! ## Reads and writes that are not performed -/

theorem exec_rcRead (s : State) (who : Who) (a size : Nat) : exec (.rcRead who a size) s = .next (rcRead who a size s) := rfl

theorem exec_registerWrite (s : State) (who : Who) (a size : Nat) (v : Word) :
    exec (.registerWrite who a v size) s = .next (registerWrite who a v size s) := rfl

theorem rcRead_of_denied {s : State} {who : Who} {a size : Nat} (h : accessStatus s who a size false = 1) :
    rcRead who a size s = emit (countDenied s who) (.access a 0#64 1) := by
  simp only [rcRead, readReg, h, if_true]

theorem rcRead_of_stopped {s : State} {who : Who} {a size st : Nat} (h : accessStatus s who a size false = st) (h0 : st ≠ 0)
    (h1 : st ≠ 1) : rcRead who a size s = emit s (.access a 0#64 st) := by
  simp only [rcRead, readReg, h, if_neg h1, if_pos h0]

theorem registerWrite_of_denied {s : State} {who : Who} {a size : Nat} (v : Word) (h : accessStatus s who a size true = 1) :
    registerWrite who a v size s = emit (countDenied s who) (.access a v 1) := by
  simp only [registerWrite, writeReg, h, if_true]

theorem registerWrite_of_stopped {s : State} {who : Who} {a size st : Nat} (v : Word)
    (h : accessStatus s who a size true = st) (h0 : st ≠ 0) (h1 : st ≠ 1) :
    registerWrite who a v size s = emit s (.access a v st) := by
  simp only [registerWrite, writeReg, h, if_neg h1, if_pos h0]

theorem countDenied_host (s : State) (n : Nat) :
    countDenied s (.host n) = updFun s n (fun f => { f with denied := f.denied + 1 }) := rfl

theorem getFun_emit (s : State) (e : Emit) (n : Nat) : getFun (emit s e) n = getFun s n := rfl

/-- R14: an access that is denied to a host function changes the count of that function and nothing else. -/
theorem emit_countDenied_host (s : State) (n : Nat) (e : Emit) :
    let u := emit (countDenied s (.host n)) e
    u.outs = e :: s.outs ∧ u.csr = s.csr ∧ u.cores = s.cores ∧ u.plots = s.plots ∧ u.stw = s.stw
      ∧ (getFun u n).denied = (getFun s n).denied + 1 ∧ ∀ m, m ≠ n → getFun u m = getFun s m :=
  ⟨rfl, rfl, rfl, rfl, rfl, by rw [getFun_emit, countDenied_host, getFun_updFun],
    fun m hm => by rw [getFun_emit, countDenied_host, getFun_updFun_ne s n m _ hm]⟩

/-! ## A host function at a steward-only register -/

theorem placeOf_block_eq {a x : Nat} (h : placeOf a = .block x) : x = a := by
  simp only [placeOf] at h
  split at h
  · cases h
  · split at h
    · cases h
    · split at h
      · exact (Place.block.inj h).symm
      · cases h

/-- The service state apart, no host function may access a steward-only register (R463, R512). -/
theorem hostMay_of_stw {a x : Nat} (s : State) (n : Nat) (write : Bool) (hx : placeOf a = .block x) (hpol : polBlock x = .stw) :
    hostMay s n a write = (decide (csrFld s aStwBoot 63 61 = 3) && serviceMay a (isAdmin s (.host n)) write) := by
  obtain rfl := placeOf_block_eq hx
  by_cases hserv : csrFld s aStwBoot 63 61 = 3
  · simp [hostMay, hserv]
  · simp only [hostMay, hserv, hx, hpol, polOk]
    cases fnOf x <;> simp

/-- What is served in the service state is a read of the admin function (R463). -/
theorem serviceMay_eq_false {a : Nat} {admin write : Bool} (h : admin = false ∨ write = true) :
    serviceMay a admin write = false := by
  rcases h with rfl | rfl <;> simp [serviceMay]

theorem accessStatus_host_of_stw {s : State} {n a size x : Nat} {write : Bool} (hsize : size = 8) (halign : a % 8 = 0)
    (hx : placeOf a = .block x) (hpol : polBlock x = .stw)
    (h : csrFld s aStwBoot 63 61 ≠ 3 ∨ isAdmin s (.host n) = false ∨ write = true) :
    accessStatus s (.host n) a size write = 1 := by
  have hmay : mayAccess s (.host n) a write = false := by
    rw [mayAccess, hostMay_of_stw s n write hx hpol]
    rcases h with hserv | hread
    · simp [hserv]
    · simp [serviceMay_eq_false hread]
  simp [accessStatus_block s _ write hsize halign hx, hmay]

/-! ## The obligation -/

/-- Settles O55: the status decides, 3 for a bad access and 1 for a host function at a steward-only register; an access that a
status stops leaves the state as it is, but for the count of the function it was denied to. -/
theorem badAndDeniedAccess : Obligations.BadAndDeniedAccess := by
  unfold Obligations.BadAndDeniedAccess
  intro s a g v
  refine ⟨fun who hbad => ?_, fun n x hx hpol hg halign => ⟨fun hread => ?_, ?_⟩⟩
  · have hst : ∀ write, accessStatus s who a g write = 3 := fun write =>
      accessStatus_of_bad s who write (hbad.imp_left Nat.ne_of_lt)
    rw [exec_rcRead, exec_registerWrite, rcRead_of_stopped (hst false) (by decide) (by decide),
      registerWrite_of_stopped v (hst true) (by decide) (by decide)]
    exact ⟨rfl, rfl⟩
  · have hst : accessStatus s (.host n) a g false = 1 :=
      accessStatus_host_of_stw hg halign hx hpol (hread.imp_right .inl)
    rw [exec_rcRead, rcRead_of_denied hst]
    exact ⟨_, rfl, emit_countDenied_host s n _⟩
  · have hst : accessStatus s (.host n) a g true = 1 :=
      accessStatus_host_of_stw hg halign hx hpol (.inr (.inr rfl))
    rw [exec_registerWrite, registerWrite_of_denied v hst]
    exact ⟨_, rfl, emit_countDenied_host s n _⟩

end Sys2Proof.Machine
end

section
/-! PROOF. The end of a firing (R38, R549): one lemma for what each part of it changes, as an equation of the whole core, then
what end makes of a core, of its threads, registers and rings, and the two outcomes of its issue. -/

namespace Sys2Proof.Machine

open Claim (At thr seen faulted)

/-! ## The state once the word is fetched -/

/-- A fetch changes at most the count of corrected fetches (R26). -/
theorem getCore_seen (s : State) (c : Nat) (f : Fetch) : ∃ n, getCore (seen s c f) c = { getCore s c with imemCE := n } := by
  by_cases hf : f = .corrected
  · exact ⟨(getCore s c).imemCE + 1, by rw [seen, if_pos hf, getCore_updCore]⟩
  · exact ⟨(getCore s c).imemCE, by rw [seen, if_neg hf]⟩

theorem getCore_seen_ne {c d : Nat} (s : State) (f : Fetch) (h : d ≠ c) : getCore (seen s c f) d = getCore s d := by
  by_cases hf : f = .corrected
  · rw [seen, if_pos hf, getCore_updCore_ne _ _ _ _ h]
  · rw [seen, if_neg hf]

@[simp] theorem thr_seen (s : State) (c x : Nat) (f : Fetch) : thr (seen s c f) c x = thr s c x := by
  obtain ⟨n, hn⟩ := getCore_seen s c f
  rw [thr, hn]
  rfl

@[simp] theorem countsMatch_seen (s : State) (c : Nat) (f : Fetch) (fi : Firing) :
    countsMatch (getCore (seen s c f) c) fi = countsMatch (getCore s c) fi := by
  obtain ⟨n, hn⟩ := getCore_seen s c f
  rw [hn]
  rfl

/-! ## Threads and registers of a core -/

theorem getThread_updThread_ne {t x : Nat} (k : Core) (f : Thread → Thread) (h : x ≠ t) :
    getThread (updThread k t f) x = getThread k x := fget_fset_ne _ _ _ _ _ (Ne.symm h)

theorem cfld_setCfld_same {hi lo : Nat} (k : Core) (o v : Nat) (h : hi < 64) (hl : lo ≤ hi) :
    cfld (setCfld k o hi lo v) o hi lo = v % 2 ^ (hi - lo + 1) := by
  rw [cfld, setCfld, creg_setCreg, bits_setBits_same _ _ _ _ h hl]

theorem getThread_markIssued (k : Core) (t : Nat) : getThread (markIssued k t) t =
    { getThread k t with cause := 0, issued := (getThread k t).issued + 1 } := fget_fset_self ..

theorem getThread_markIssued_ne {t x : Nat} (k : Core) (h : x ≠ t) : getThread (markIssued k t) x = getThread k x :=
  fget_fset_ne _ _ _ _ _ (Ne.symm h)

/-! ## The release of reserved messages (R549) -/

/-- A message as it stands once thread t holds no reservation. -/
def released (t : Nat) (m : RMsg) : RMsg := if m.resv = some t then { m with resv := none } else m

theorem released_of_ne {t : Nat} {m : RMsg} (h : m.resv ≠ some t) : released t m = m := if_neg h

theorem resv_released_ne (t : Nat) (m : RMsg) : (released t m).resv ≠ some t := by
  by_cases h : m.resv = some t
  · simp [released, h]
  · rwa [released_of_ne h]

@[simp] theorem released_released (t : Nat) (m : RMsg) : released t (released t m) = released t m :=
  released_of_ne (resv_released_ne t m)

/-- Release what thread t reserved in ring r. -/
def releaseRing (t : Nat) (k : Core) (r : Nat) : Core :=
  if (ringMsgs k r).any (fun m => decide (m.resv = some t)) then setRing k r ((ringMsgs k r).map (released t)) else k

theorem releaseRings_eq_foldl (k : Core) (t : Nat) : releaseRings k t = (List.range 16).foldl (releaseRing t) k := rfl

theorem ringMsgs_releaseRing (t : Nat) (k : Core) (r n : Nat) :
    ringMsgs (releaseRing t k r) n = if n = r then (ringMsgs k n).map (released t) else ringMsgs k n := by
  by_cases hany : (ringMsgs k r).any (fun m => decide (m.resv = some t)) = true
  · rw [releaseRing, if_pos hany]
    by_cases hn : n = r
    · rw [hn, ringMsgs_setRing, if_pos rfl]
    · rw [ringMsgs_setRing_ne _ _ _ _ hn, if_neg hn]
  · rw [releaseRing, if_neg hany]
    have hkept : (ringMsgs k r).map (released t) = ringMsgs k r :=
      (List.map_congr_left fun m hm => released_of_ne fun h =>
        hany (List.any_eq_true.mpr ⟨m, hm, decide_eq_true h⟩)).trans (List.map_id' _)
    by_cases hn : n = r
    · rw [hn, if_pos rfl, hkept]
    · rw [if_neg hn]

theorem ringMsgs_foldl_releaseRing (t n : Nat) (l : List Nat) (k : Core) :
    ringMsgs (l.foldl (releaseRing t) k) n = if n ∈ l then (ringMsgs k n).map (released t) else ringMsgs k n := by
  induction l generalizing k with
  | nil => simp
  | cons r l ih =>
    rw [List.foldl_cons, ih, ringMsgs_releaseRing]
    by_cases hr : n = r
    · subst hr
      by_cases hl : n ∈ l <;> simp [hl]
    · simp [hr]

theorem ringMsgs_releaseRings {r : Nat} (k : Core) (t : Nat) (h : r < 16) :
    ringMsgs (releaseRings k t) r = (ringMsgs k r).map (released t) := by
  rw [releaseRings_eq_foldl, ringMsgs_foldl_releaseRing, if_pos (List.mem_range.mpr h)]

/-- The release of reservations changes the rings' messages and nothing else of the core. -/
theorem releaseRings_frame (k : Core) (t : Nat) : ∃ rs, releaseRings k t = { k with rings := rs } := by
  rw [releaseRings_eq_foldl]
  refine List.foldlRecOn (motive := fun k' : Core => ∃ rs, k' = { k with rings := rs }) _ _ ⟨k.rings, rfl⟩ ?_
  rintro _ ⟨rs, rfl⟩ r -
  rw [releaseRing]
  split
  · exact ⟨_, rfl⟩
  · exact ⟨rs, rfl⟩

/-! ## The spill state of queues (R180) -/

/-- Leaving spill state changes queues and nothing else of the core. -/
theorem unspill_frame (k : Core) (q : Nat) : ∃ qs, unspill k q = { k with queues := qs } := by
  simp only [unspill]
  split
  · exact ⟨_, rfl⟩
  · exact ⟨k.queues, rfl⟩

theorem foldl_unspill_frame {β : Type} (g : β → Nat) (l : List β) (k : Core) :
    ∃ qs, l.foldl (fun k v => unspill k (g v)) k = { k with queues := qs } := by
  refine List.foldlRecOn (motive := fun k' : Core => ∃ qs, k' = { k with queues := qs }) _ _ ⟨k.queues, rfl⟩ ?_
  rintro _ ⟨qs, rfl⟩ v -
  exact unspill_frame { k with queues := qs } (g v)

/-! ## The end of a firing -/

/-- A thread whose firing has ended. -/
def Thread.idle (th : Thread) : Thread := { th with firing := none, parts := [], cause := 0, counted := false }

/-- The core once its thread is free and the firing's task idle. -/
def taskIdle (k : Core) (t : Nat) (fi : Firing) : Core := setCfld (updThread k t Thread.idle) (oTaskStat fi.task) 31 30 0

theorem ringMsgs_taskIdle (k : Core) (t r : Nat) (fi : Firing) : ringMsgs (taskIdle k t fi) r = ringMsgs k r := rfl

theorem ringMsgs_with_queues (k : Core) (qs : FMap Queue) (r : Nat) : ringMsgs { k with queues := qs } r = ringMsgs k r := rfl

/-- Once the thread is free and the task idle, the reservations are released and queues may leave spill state. -/
theorem endFiring_eq_releaseRings (k : Core) (t : Nat) (fi : Firing) :
    ∃ qs, endFiring k t fi = { releaseRings (taskIdle k t fi) t with queues := qs } :=
  foldl_unspill_frame (fun v : Nat × Nat × Nat => v.2.2)
    (slots (releaseRings (taskIdle k t fi) t) (oTaskOut fi.task)) (releaseRings (taskIdle k t fi) t)

/-- Beside the thread and the task's state, the end of a firing changes rings and queues and nothing else of the core. -/
theorem endFiring_frame (k : Core) (t : Nat) (fi : Firing) :
    ∃ qs rs, endFiring k t fi = { taskIdle k t fi with queues := qs, rings := rs } := by
  obtain ⟨qs, hq⟩ := endFiring_eq_releaseRings k t fi
  obtain ⟨rs, hr⟩ := releaseRings_frame (taskIdle k t fi) t
  exact ⟨qs, rs, by rw [hq, hr]⟩

theorem getThread_endFiring (k : Core) (t x : Nat) (fi : Firing) :
    getThread (endFiring k t fi) x = getThread (updThread k t Thread.idle) x := by
  obtain ⟨qs, rs, h⟩ := endFiring_frame k t fi
  rw [h]
  rfl

theorem creg_endFiring (k : Core) (t o : Nat) (fi : Firing) :
    creg (endFiring k t fi) o = creg (setCfld k (oTaskStat fi.task) 31 30 0) o := by
  obtain ⟨qs, rs, h⟩ := endFiring_frame k t fi
  rw [h]
  rfl

theorem spd_endFiring (k : Core) (t : Nat) (fi : Firing) : (endFiring k t fi).spd = k.spd := by
  obtain ⟨qs, rs, h⟩ := endFiring_frame k t fi
  rw [h]
  rfl

theorem ringMsgs_endFiring {r : Nat} (k : Core) (t : Nat) (fi : Firing) (h : r < 16) :
    ringMsgs (endFiring k t fi) r = (ringMsgs k r).map (released t) := by
  obtain ⟨qs, hq⟩ := endFiring_eq_releaseRings k t fi
  rw [hq, ringMsgs_with_queues, ringMsgs_releaseRings _ _ h, ringMsgs_taskIdle]

theorem taskState_endFiring (k : Core) (t : Nat) (fi : Firing) : cfld (endFiring k t fi) (oTaskStat fi.task) 31 30 = 0 := by
  rw [cfld, creg_endFiring]
  exact cfld_setCfld_same k _ 0 (by decide) (by decide)

/-! ## The issue of end -/

/-- The state once end of thread t has ended firing fi. -/
def firingEnded (s : State) (c t : Nat) (fi : Firing) : State :=
  updCore (progressMark (updCore s c (fun k => endFiring k t fi)) (plotOf c)) c (fun k => markIssued k t)

theorem getCore_progressMark (s : State) (j c : Nat) : getCore (progressMark s j) c = getCore s c := rfl

theorem getCore_firingEnded (s : State) (c t : Nat) (fi : Firing) :
    getCore (firingEnded s c t fi) c = markIssued (endFiring (getCore s c) t fi) t := by
  rw [firingEnded, getCore_updCore, getCore_progressMark, getCore_updCore]

theorem getCore_firingEnded_ne {c d : Nat} (s : State) (t : Nat) (fi : Firing) (h : d ≠ c) :
    getCore (firingEnded s c t fi) d = getCore s d := by
  rw [firingEnded, getCore_updCore_ne _ _ _ _ h, getCore_progressMark, getCore_updCore_ne _ _ _ _ h]

theorem thr_firingEnded (s : State) (c t : Nat) (fi : Firing) : thr (firingEnded s c t fi) c t =
    { (thr s c t).idle with issued := (thr s c t).issued + 1 } := by
  rw [thr, getCore_firingEnded, getThread_markIssued, getThread_endFiring, getThread_updThread]
  rfl

theorem thr_firingEnded_ne {t x : Nat} (s : State) (c : Nat) (fi : Firing) (h : x ≠ t) :
    thr (firingEnded s c t fi) c x = thr s c x := by
  rw [thr, getCore_firingEnded, getThread_markIssued_ne _ h, getThread_endFiring, getThread_updThread_ne _ _ h]
  rfl

/-- A legal word of end issues whatever its guard (R47). -/
theorem exec_end_eq_finish {s : State} {c t : Nat} {f : Fetch} {fi : Firing} {w : BitVec 32} (h : At s c t f fi w)
    (hop : fOp w = 0x04) (hres : bits w 23 4 = 0) : exec (.end_ c t f) s =
      .next (finish c t fi.task (thr s c t).pc.toNat (endEffect w (thr s c t) (seen s c f) c t)) := by
  obtain ⟨ht, hgo, hturn, hfi, hw, hf⟩ := h
  exact congrArg Host.Outcome.next
    (issue_effect ht hgo hturn hfi hw hf hop (by decide) (decide_eq_true hres) (fun hg => nomatch hg))

theorem exec_end_of_countsMatch {s : State} {c t : Nat} {f : Fetch} {fi : Firing} {w : BitVec 32} (h : At s c t f fi w)
    (hop : fOp w = 0x04) (hres : bits w 23 4 = 0) (hm : countsMatch (getCore s c) fi = true) :
    exec (.end_ c t f) s = .next (firingEnded (seen s c f) c t fi) := by
  rw [exec_end_eq_finish h hop hres]
  obtain ⟨-, -, -, hfi, -, -⟩ := h
  simp only [endEffect, hfi, countsMatch_seen, hm, if_true]
  rfl

theorem exec_end_of_not_countsMatch {s : State} {c t : Nat} {f : Fetch} {fi : Firing} {w : BitVec 32} (h : At s c t f fi w)
    (hop : fOp w = 0x04) (hres : bits w 23 4 = 0) (hm : countsMatch (getCore s c) fi = false) :
    exec (.end_ c t f) s = .next (faulted (seen s c f) c t fi RATE 0) := by
  rw [exec_end_eq_finish h hop hres, faulted, thr_seen]
  obtain ⟨-, -, -, hfi, -, -⟩ := h
  simp only [endEffect, hfi, countsMatch_seen, hm, Bool.false_eq_true, if_false]
  rfl

/-! ## The obligation -/

/-- Settles O5: where the counts agree, the core after end is the one that endFiring leaves, marked as issued, and each clause
is one of its fields; where they differ, the effect is a rate fault. -/
theorem endOfFiring : Obligations.EndOfFiring := by
  unfold Obligations.EndOfFiring
  intro s c t f fi w hat hop hres
  refine ⟨fun hm => ⟨_, exec_end_of_countsMatch hat hop hres hm, ?_⟩, exec_end_of_not_countsMatch hat hop hres⟩
  obtain ⟨n, hn⟩ := getCore_seen s c f
  have hcore := getCore_firingEnded (seen s c f) c t fi
  rw [hn] at hcore
  refine ⟨?thread, ?taskState, fun r hr => ?rings, fun x hx => ?others, ?scratchpad, fun o ho => ?registers, fun d hd => ?cores⟩
  case thread => rw [thr_firingEnded, thr_seen]; rfl
  case taskState => rw [hcore]; exact taskState_endFiring _ t fi
  case rings => rw [hcore]; exact ringMsgs_endFiring _ t fi hr
  case others => rw [thr_firingEnded_ne _ _ _ hx, thr_seen]
  case scratchpad => rw [hcore]; exact spd_endFiring _ t fi
  case registers => rw [hcore]; exact (creg_endFiring _ t o fi).trans (creg_setCreg_ne _ _ _ _ ho)
  case cores => rw [getCore_firingEnded_ne _ _ _ hd, getCore_seen_ne _ _ hd]

end Sys2Proof.Machine
end
